-- ==== Sys2Proof/Word.lean ====
section
/-! DEFINITION. The machine's words and the plain finite map that its register files and tables are kept in. -/

namespace Sys2Proof

abbrev Byte := BitVec 8
abbrev Half := BitVec 16
abbrev Word := BitVec 32
abbrev DWord := BitVec 64
abbrev QWord := BitVec 128

/-- A finite map kept as a list of pairs with rising keys. A key that is not listed has no value. -/
abbrev AMap (α : Type) := List (Nat × α)

namespace AMap

/-- The value of key `k`, if it is listed. -/
def find {α : Type} : AMap α → Nat → Option α
  | [], _ => none
  | (j, x) :: r, k => if j = k then some x else find r k

/-- The value of key `k`, or `d` where none is listed. -/
def get {α : Type} (d : α) (m : AMap α) (k : Nat) : α := (find m k).getD d

/-- `m` with key `k` given the value `x`; keys stay in rising order. -/
def set {α : Type} : AMap α → Nat → α → AMap α
  | [], k, x => [(k, x)]
  | (j, y) :: r, k, x =>
    if k < j then (k, x) :: (j, y) :: r
    else if k = j then (k, x) :: r
    else (j, y) :: set r k x

/-- `m` without key `k`. -/
def del {α : Type} : AMap α → Nat → AMap α
  | [], _ => []
  | (j, y) :: r, k => if j = k then del r k else (j, y) :: del r k

end AMap

end Sys2Proof
end

