-- ==== Sys2Proof/Config.lean ====
section
/-! DEFINITION. What the spec leaves open: constants without a body, so that nothing can be proved of their values. -/

namespace Sys2Proof.Config

/-- A 32-bit value the spec leaves undefined (R33: t registers at a guest boundary; R78, R432: state a save does not hold),
indexed by the plain counter State.free. Log 5. -/
opaque freeWord : Nat → BitVec 32

/-- The register row of a core that holds a thread's registers (R454 names rows and gives no assignment of them). Log 5. -/
opaque regRow : Nat → Nat → BitVec 32

/-- The near-slot buffer's slot, by core, that holds a slot of a thread's window (R454 numbers the slots and does not say which window a
thread has). Log 5. -/
opaque nearSlot : Nat → Nat → BitVec 32

/-- The approximate value a unit of R150 returns within the bound of that rule, by operation (0 FEXP2, 1 FLOG2, 2 FSIN,
3 FCOS, 4 FTANH, 5 FSIGM) and operand: R150 makes it a fixed function of its input and FTZ setting and does not state it.
Log 8. -/
opaque approx : Nat → Bool → BitVec 32 → BitVec 32

/-- The SHA3-512 digest of a list of bytes (R380), which the spec names and does not define. Log 11. -/
opaque sha3_512 : List (BitVec 8) → BitVec 512

/-- Whether an ML-DSA-87 signature verifies over a digest under a key (R380). Log 11. -/
opaque mldsaVerify : Nat → BitVec 512 → List (BitVec 8) → Bool

/-- The ML-DSA-87 signature of the device identity key over a digest (R485). Log 11. -/
opaque mldsaSign : BitVec 512 → BitVec 8 → Nat → BitVec 8

/-- The digests of the running firmware and of the key manifest (R485), which the spec does not state. Log 11. -/
opaque firmwareDigest : BitVec 512
opaque manifestDigest : List (Nat × Nat) → BitVec 512

end Sys2Proof.Config
end

