-- ==== Sys2Proof/Syntax.lean ====
section
/-! DEFINITION. The syntax of the machine: one constructor of Instr per row of the opcode table. The encoded instructions carry
the fields of R66 and R72 to R78 with their operand selectors read; the events carry what they name. -/

namespace Sys2Proof

/-- Who executes a step: a thread of a team, or the team's uniform stream (R12, R223). Teams are named by the model's key. -/
inductive Agent where
  | thread (team tid : Nat)
  | stream (team : Nat)
  deriving DecidableEq, Repr

/-- The special registers of R29 (not the e registers). -/
inductive Special where
  | tid | teamid | gangrank | gangsize | nthreads | slot | part | mode | pix | prio | fflags
  | gpc | growth | egw0 | egw1 | epc | elen | grid | nteams
  deriving DecidableEq, Repr

/-- An operand. Native selectors of R69 and R71; an operand supplied by an extension word (R73); and, in templates only, the
classes of R375: t registers, a v register beyond 255, an extracted value. -/
inductive Sel where
  /-- The position is not used (R70). -/
  | none
  | v (j : BitVec 8)
  | n (i : BitVec 4)
  | k (j : BitVec 6)
  /-- A special; `hi` names the odd half of a 64-bit one. -/
  | sp (s : Special) (hi : Bool)
  | e (j : BitVec 3)
  /-- Immediate selector: 7 bits, sign-extended (R69). -/
  | imm (i : BitVec 7)
  /-- Supplied by an extension word: 48 bits, sign-extended (R73). -/
  | ext (w : BitVec 48)
  /-- A number under R96. -/
  | num (x : Nat)
  /-- t register of a template (R375). -/
  | t (j : BitVec 3)
  /-- A class-2 selector of a template whose sum is 256 or more: it names no register (R375). -/
  | big (x : Word)
  /-- An extractor's value in a template, with its SX (R368, R375). -/
  | val (x : Word) (sx : Bool)
  deriving DecidableEq, Repr

/-- The guard of R23: unguarded, or p(j) (q(j) in class 10), negated or not. -/
inductive Guard where
  | always
  | on (j : BitVec 4) (neg : Bool)
  deriving DecidableEq, Repr

/-- A live record (R77). -/
structure LiveRec where
  lc1 : Bool
  lc0 : Bool
  pmask : BitVec 16
  vmask : BitVec 32
  deriving DecidableEq, Repr

/-- A clause header (R74). -/
structure Header where
  wait : BitVec 12
  aflag : Option (BitVec 4)
  bflag : Option (BitVec 4)
  count : BitVec 3
  prio : BitVec 8
  deriving DecidableEq, Repr

/-- The fields of an encoded instruction: MOD, guard, live record of a safe point, operands, auxiliary value (R66, R73, R78). -/
structure Args where
  mod : BitVec 10
  guard : Guard
  live : Option LiveRec
  dst : Sel
  sa : Sel
  sb : Sel
  sc : Sel
  aux : Option DWord
  deriving DecidableEq, Repr

/-- Where a byte lies: device physical memory (R418), or a core's scratchpad (R167). -/
inductive Loc where
  | phys (a : Nat)
  | scr (core off : Nat)
  deriving DecidableEq, Repr

/-- The two queues of posted commands of a team (R229, R246). -/
inductive QueueKind where
  | bulk | matrix
  deriving DecidableEq, Repr

/-- The units that reservation-table entries are granted to (R262). -/
inductive UnitKind where
  | array | drain
  deriving DecidableEq, Repr

/-- The tiers of R424. -/
inductive Tier where
  | t0 | t1 | t2
  deriving DecidableEq, Repr

/-- The units that count corrected errors (R457). -/
inductive ErrUnit where
  | cluster (c : Nat) | l2 (slice : Nat) | mem (slice : Nat)
  deriving DecidableEq, Repr

/-- What a host access through BAR4 carries: the bytes of a write, none for a read, and whether they are poisoned (R455, R477). -/
structure PortData where
  bytes : List Byte
  poison : Bool := false
  deriving DecidableEq, Repr

/-- Where an uncorrectable error strikes (R453). -/
inductive ErrSite where
  /-- Register v(j) of a thread: its understory row, or its near slot. -/
  | reg (ag : Agent) (j : BitVec 8) (near : Bool)
  /-- A scratchpad, L2, memory-side or HBM sector; `line` poisons both sectors of the line (HBM). -/
  | sector (loc : Loc) (line : Bool)
  /-- A sector of a core's L1 data. -/
  | l1 (core : Nat) (loc : Loc)
  | canopy (team slot : Nat)
  | tile (team acc : Nat)
  /-- K registers, q, control registers, glade directory, barriers, tags or copy queues of a team; `ix` the entry. -/
  | team (team ix : Nat)
  /-- Reservation table, arbiter, network interface or coalescer: structure code 4 or 5, entry `ix`; `core` the core within the cluster
  whose coalescer it is (R454). -/
  | shared (cluster core code ix : Nat)
  /-- A structure under parity: the entry is refilled. -/
  | refill (cluster : Nat)
  /-- A mesh link of a sending cluster. -/
  | mesh (cluster ix : Nat)
  /-- A bridge, 0 to 3 for Q0-Q1, Q0-Q2, Q1-Q3, Q2-Q3, of a sending cluster. -/
  | bridge (b cluster ix : Nat)
  deriving DecidableEq, Repr

/-- A peer's request over a Lyano link (R478). -/
inductive PeerReq where
  | read (pa n : Nat)
  | write (pa : Nat) (data : List Byte) (poison : Bool)
  /-- An operation of R183 (OP and type codes) or a CAS (op 16, comparing with `c`). -/
  | atom (pa op ty : Nat) (b c : DWord)
  | fence
  deriving DecidableEq, Repr

/-- A management command entry (R480): the port, the entry's physical address, its bytes. -/
structure Cmd where
  port : Nat
  entry : Nat
  bytes : List Byte
  deriving DecidableEq, Repr

/-- The instructions and events of the opcode table. -/
inductive Instr where
  /-- IADD (R97), class 0 opcode 0x00: Integer add of a and b, wrapped or saturated to the type -/
  | iadd (a : Args)
  /-- ISUM (R97), class 0 opcode 0x01: Integer sum of a, b and c, wrapped or saturated to the type -/
  | isum (a : Args)
  /-- IADDC (R98), class 0 opcode 0x02: Add with carry through a predicate, which receives the carry out -/
  | iaddc (a : Args)
  /-- ISUB (R97), class 0 opcode 0x03: Integer subtract, wrapped or saturated -/
  | isub (a : Args)
  /-- IMUL (R97), class 0 opcode 0x04: Integer multiply, low bits, wrapped or saturated -/
  | imul (a : Args)
  /-- IMULH (R97), class 0 opcode 0x05: High w bits of the 2w-bit product -/
  | imulh (a : Args)
  /-- IMAD (R97), class 0 opcode 0x06: Integer multiply-add, wrapped or saturated -/
  | imad (a : Args)
  /-- IMADW (R99), class 0 opcode 0x07: 64-bit multiply-add of 32-bit factors and a 64-bit addend -/
  | imadw (a : Args)
  /-- IDIV (R100), class 0 opcode 0x08: Truncating integer divide with defined results for zero and overflow -/
  | idiv (a : Args)
  /-- IREM (R100), class 0 opcode 0x09: Integer remainder taking the dividend's sign -/
  | irem (a : Args)
  /-- IMIN (R97), class 0 opcode 0x0A: Integer minimum under the type -/
  | imin (a : Args)
  /-- IMAX (R97), class 0 opcode 0x0B: Integer maximum under the type -/
  | imax (a : Args)
  /-- IABS (R97), class 0 opcode 0x0C: Integer absolute value -/
  | iabs (a : Args)
  /-- INEG (R97), class 0 opcode 0x0D: Integer negate -/
  | ineg (a : Args)
  /-- ICMP (R102), class 0 opcode 0x0E: Writes all ones or zero to a register from a comparison -/
  | icmp (a : Args)
  /-- ISEL (R103), class 0 opcode 0x0F: Selects a or b by a predicate test -/
  | isel (a : Args)
  /-- LEA (R104), class 0 opcode 0x10: Forms a 64-bit address a plus b shifted -/
  | lea (a : Args)
  /-- AND (R105), class 0 opcode 0x11: Bitwise AND -/
  | andB (a : Args)
  /-- OR (R105), class 0 opcode 0x12: Bitwise OR -/
  | orB (a : Args)
  /-- XOR (R105), class 0 opcode 0x13: Bitwise XOR -/
  | xorB (a : Args)
  /-- ANDN (R105), class 0 opcode 0x14: a AND NOT b -/
  | andn (a : Args)
  /-- LUT (R106), class 0 opcode 0x15: Bitwise function of three registers from an 8-entry truth table -/
  | lut (a : Args)
  /-- SHL (R107), class 0 opcode 0x16: Shift left, zero when the count reaches the width -/
  | shl (a : Args)
  /-- SHR (R107), class 0 opcode 0x17: Logical shift right -/
  | shr (a : Args)
  /-- SAR (R107), class 0 opcode 0x18: Arithmetic shift right -/
  | sar (a : Args)
  /-- ROTL (R107), class 0 opcode 0x19: Rotate left by the count modulo the width -/
  | rotl (a : Args)
  /-- FUNL (R108), class 0 opcode 0x1A: 32-bit funnel shift left -/
  | funl (a : Args)
  /-- FUNR (R108), class 0 opcode 0x1B: 32-bit funnel shift right -/
  | funr (a : Args)
  /-- MIXH (R112), class 0 opcode 0x1C: Counter-based mixing generator of 1 to 4 rounds -/
  | mixh (a : Args)
  /-- BEXT (R109), class 0 opcode 0x20: Extracts a bit field, sign-extended for signed types -/
  | bext (a : Args)
  /-- BINS (R109), class 0 opcode 0x21: Inserts a bit field -/
  | bins (a : Args)
  /-- BREV (R110), class 0 opcode 0x22: Reverses the bits of a -/
  | brev (a : Args)
  /-- POPC (R110), class 0 opcode 0x23: Counts one bits -/
  | popc (a : Args)
  /-- CLZ (R110), class 0 opcode 0x24: Counts leading zero bits -/
  | clz (a : Args)
  /-- CTZ (R110), class 0 opcode 0x25: Counts trailing zero bits -/
  | ctz (a : Args)
  /-- BPERM (R111), class 0 opcode 0x26: Selects or sign-fills result bytes from eight source bytes -/
  | bperm (a : Args)
  /-- PSET (R113), class 0 opcode 0x28: Sets a predicate from a comparison combined with another predicate -/
  | pset (a : Args)
  /-- PLUT (R106), class 0 opcode 0x29: Sets a predicate from three predicates through a truth table -/
  | plut (a : Args)
  /-- P2V (R114), class 0 opcode 0x2A: Writes the predicates, masked, into a register -/
  | p2v (a : Args)
  /-- V2P (R114), class 0 opcode 0x2B: Writes selected predicates from register bits -/
  | v2p (a : Args)
  /-- IXSET (R115), class 0 opcode 0x2C: Sets an index register's base and bound -/
  | ixset (a : Args)
  /-- LDIX (R116), class 0 opcode 0x2D: Reads a register through an index register -/
  | ldix (a : Args)
  /-- STIX (R116), class 0 opcode 0x2E: Writes a register through an index register -/
  | stix (a : Args)
  /-- RGN (R117), class 0 opcode 0x30: Sets or releases the register window and stages it -/
  | rgn (a : Args)
  /-- RGNW (R118), class 0 opcode 0x31: Writes dirty window slots back to the understory -/
  | rgnw (a : Args)
  /-- BRA (R120), class 0 opcode 0x40: Branches to a relative target -/
  | bra (a : Args)
  /-- BRX (R120), class 0 opcode 0x41: Branches to a register address -/
  | brx (a : Args)
  /-- CALL (R120), class 0 opcode 0x42: Writes the return address and branches to a relative target -/
  | call (a : Args)
  /-- CALLX (R120), class 0 opcode 0x43: Writes the return address and branches to a register address -/
  | callx (a : Args)
  /-- RET (R120), class 0 opcode 0x44: Returns to a register address -/
  | ret (a : Args)
  /-- LOOP (R122), class 0 opcode 0x45: Starts a counted loop, branching to its end when the count is 0 -/
  | loopL (a : Args)
  /-- LEND (R123), class 0 opcode 0x46: Closes a counted loop, decrementing and branching back -/
  | lend (a : Args)
  /-- REP (R126), class 0 opcode 0x47: Runs an interruptible fill or copy string operation element by element -/
  | rep (a : Args)
  /-- EXIT (R129), class 0 opcode 0x48: Ends the thread after its outstanding accesses complete -/
  | exitT (a : Args)
  /-- YIELD (R130), class 0 opcode 0x49: Gives up the window and issue eligibility for 16 cycles -/
  | yield (a : Args)
  /-- NAP (R131), class 0 opcode 0x4A: Sleeps until sr.growth reaches a deadline -/
  | nap (a : Args)
  /-- SPAWN (R133), class 0 opcode 0x4B: Places a request for a new thread of the team in a spawn bin -/
  | spawn (a : Args)
  /-- WAITF (R132), class 0 opcode 0x4C: Waits until a completion flag is at most n -/
  | waitf (a : Args)
  /-- SETF (R132), class 0 opcode 0x4D: Sets a predicate from a completion flag test without waiting -/
  | setf (a : Args)
  /-- PXCALL (R134), class 0 opcode 0x4E: Calls code of another personality -/
  | pxcall (a : Args)
  /-- PXRET (R135), class 0 opcode 0x4F: Returns across personalities -/
  | pxret (a : Args)
  /-- FADD (R142), class 0 opcode 0x80: f32 add rounded once -/
  | fadd (a : Args)
  /-- FSUB (R142), class 0 opcode 0x81: f32 subtract rounded once -/
  | fsub (a : Args)
  /-- FMUL (R142), class 0 opcode 0x82: f32 multiply rounded once -/
  | fmul (a : Args)
  /-- FFMA (R142), class 0 opcode 0x83: f32 fused multiply-add rounded once -/
  | ffma (a : Args)
  /-- FMIN (R145), class 0 opcode 0x84: f32 minimum with −0 below +0 -/
  | fmin (a : Args)
  /-- FMAX (R145), class 0 opcode 0x85: f32 maximum with −0 below +0 -/
  | fmax (a : Args)
  /-- FCMP (R146), class 0 opcode 0x86: f32 comparison into a register or predicate -/
  | fcmp (a : Args)
  /-- FSEL (R147), class 0 opcode 0x87: Selects a or b by a condition of c against +0 -/
  | fsel (a : Args)
  /-- FCLASS (R148), class 0 opcode 0x88: Writes the class bit of an f32 value -/
  | fclass (a : Args)
  /-- FRND (R144), class 0 opcode 0x89: Rounds an f32 to an integral value -/
  | frnd (a : Args)
  /-- FSCALE (R143), class 0 opcode 0x8A: Multiplies an f32 by a power of two -/
  | fscale (a : Args)
  /-- FRCP (R149), class 0 opcode 0x90: Correctly rounded reciprocal -/
  | frcp (a : Args)
  /-- FRSQ (R149), class 0 opcode 0x91: Correctly rounded reciprocal square root -/
  | frsq (a : Args)
  /-- FSQRT (R149), class 0 opcode 0x92: Correctly rounded square root -/
  | fsqrt (a : Args)
  /-- FDIV (R149), class 0 opcode 0x93: Correctly rounded divide -/
  | fdiv (a : Args)
  /-- FEXP2 (R150), class 0 opcode 0x94: Base-2 exponential within 2 ulp -/
  | fexp2 (a : Args)
  /-- FLOG2 (R150), class 0 opcode 0x95: Base-2 logarithm within its bound -/
  | flog2 (a : Args)
  /-- FSIN (R150), class 0 opcode 0x96: Sine within its bound -/
  | fsin (a : Args)
  /-- FCOS (R150), class 0 opcode 0x97: Cosine within its bound -/
  | fcos (a : Args)
  /-- FTANH (R150), class 0 opcode 0x98: Hyperbolic tangent within 2 ulp -/
  | ftanh (a : Args)
  /-- FSIGM (R150), class 0 opcode 0x99: Logistic sigmoid within 2 ulp -/
  | fsigm (a : Args)
  /-- PKADD (R152), class 0 opcode 0xA0: Packed 16-bit float add -/
  | pkadd (a : Args)
  /-- PKMUL (R152), class 0 opcode 0xA1: Packed 16-bit float multiply -/
  | pkmul (a : Args)
  /-- PKFMA (R152), class 0 opcode 0xA2: Packed 16-bit float fused multiply-add -/
  | pkfma (a : Args)
  /-- PKMIN (R152), class 0 opcode 0xA3: Packed 16-bit float minimum -/
  | pkmin (a : Args)
  /-- PKMAX (R152), class 0 opcode 0xA4: Packed 16-bit float maximum -/
  | pkmax (a : Args)
  /-- CVT (R154), class 0 opcode 0xA8: Float or E8M0 to float or E8M0 conversion -/
  | cvt (a : Args)
  /-- CVTI (R154), class 0 opcode 0xA9: Float or integer to integer conversion -/
  | cvti (a : Args)
  /-- CVTF (R154), class 0 opcode 0xAA: Integer to float conversion -/
  | cvtf (a : Args)
  /-- QNT (R162), class 0 opcode 0xAB: Quantises a value into one element, or computes a block scale with .sc -/
  | qnt (a : Args)
  /-- DQNT (R163), class 0 opcode 0xAC: Dequantises one element to f32 with its block scale -/
  | dqnt (a : Args)
  /-- PACK2 (R158), class 0 opcode 0xAD: Converts two f32 values into two narrow elements -/
  | pack2 (a : Args)
  /-- UNPK (R159), class 0 opcode 0xAE: Widens two narrow elements into f32 -/
  | unpk (a : Args)
  /-- FFLAG (R164), class 0 opcode 0xAF: Reads and changes sr.fflags as one step -/
  | fflag (a : Args)
  /-- LD (R181), class 1 opcode 0x00: Loads from a generic address -/
  | ld (a : Args)
  /-- ST (R181), class 1 opcode 0x01: Stores to a generic address -/
  | st (a : Args)
  /-- LDS (R181), class 1 opcode 0x02: Loads from the team's scratchpad window -/
  | lds (a : Args)
  /-- STS (R181), class 1 opcode 0x03: Stores to the team's scratchpad window -/
  | sts (a : Args)
  /-- ATOM (R184), class 1 opcode 0x04: Indivisible read-modify-write returning the old value -/
  | atom (a : Args)
  /-- CAS (R185), class 1 opcode 0x05: Indivisible compare and swap -/
  | cas (a : Args)
  /-- RED (R184), class 1 opcode 0x06: Indivisible read-modify-write with no result -/
  | red (a : Args)
  /-- PREF (R187), class 1 opcode 0x07: Prefetch hint for a line, dropped when it cannot be served -/
  | pref (a : Args)
  /-- SYNCH (R191), class 1 opcode 0x08: System-scope fence draining system accesses and waiting for the next tick -/
  | synch (a : Args)
  /-- CP (R196), class 1 opcode 0x10: Issues an asynchronous copy of 4, 8 or 16 bytes with optional tag and glade -/
  | cp (a : Args)
  /-- CPW (R202), class 1 opcode 0x11: Waits until the selected copy tags are idle -/
  | cpw (a : Args)
  /-- CPA (R203), class 1 opcode 0x12: Registers a deferred glade arrival behind tagged copies -/
  | cpa (a : Args)
  /-- CPF (R202), class 1 opcode 0x13: Reads and clears tag fault bits -/
  | cpf (a : Args)
  /-- CPT (R202), class 1 opcode 0x14: Reads tag busy bits -/
  | cpt (a : Args)
  /-- CFENCE (R200), class 1 opcode 0x15: Orders later copies' reads after earlier copies' writes -/
  | cfence (a : Args)
  /-- GINIT (R208), class 1 opcode 0x18: Makes a glade live, or releases it with .rel -/
  | ginit (a : Args)
  /-- GEXP (R209), class 1 opcode 0x19: Registers expected sectors at a glade -/
  | gexp (a : Args)
  /-- GARV (R210), class 1 opcode 0x1A: Arrives at an own glade, returning its phase -/
  | garv (a : Args)
  /-- GARVR (R211), class 1 opcode 0x1B: Arrives at a gang peer's glade -/
  | garvr (a : Args)
  /-- GWAIT (R212), class 1 opcode 0x1C: Waits for a glade phase to complete -/
  | gwait (a : Args)
  /-- GTEST (R212), class 1 opcode 0x1D: Tests whether a glade phase has completed -/
  | gtest (a : Args)
  /-- BARA (R216), class 1 opcode 0x20: Arrives at a team barrier and returns a token -/
  | bara (a : Args)
  /-- BARW (R216), class 1 opcode 0x21: Waits on a team barrier token -/
  | barw (a : Args)
  /-- BARS (R216), class 1 opcode 0x22: Arrives at a team barrier and waits for its release -/
  | bars (a : Args)
  /-- RVX (R218), class 1 opcode 0x23: Arrives at a glade and returns a value combined over all participants -/
  | rvx (a : Args)
  /-- CSRR (R275), class 1 opcode 0xE0: Reads a control register -/
  | csrr (a : Args)
  /-- CSRW (R275), class 1 opcode 0xE1: Writes a control register -/
  | csrw (a : Args)
  /-- TRAP (R277), class 1 opcode 0xE2: Delivers a trap with a number and datum -/
  | trap (a : Args)
  /-- ERET (R276), class 1 opcode 0xE3: Returns from S mode restoring mode, personality and clause state -/
  | eret (a : Args)
  /-- EMRET (R298), class 1 opcode 0xE4: Returns from the emulation routine to guest code -/
  | emret (a : Args)
  /-- TLBINV (R278), class 1 opcode 0xE5: Starts removal of translations of the virtual device -/
  | tlbinv (a : Args)
  /-- TLBSYNC (R278), class 1 opcode 0xE6: Waits until earlier TLBINVs complete package-wide -/
  | tlbsync (a : Args)
  /-- PERFR (R280), class 1 opcode 0xE7: Reads a performance counter -/
  | perfr (a : Args)
  /-- BRKPT (R281), class 1 opcode 0xE8: Stops the team for a debugger when one is attached -/
  | brkpt (a : Args)
  /-- HALTT (R279), class 1 opcode 0xE9: Stops the threads of a team, gang or core scope -/
  | haltt (a : Args)
  /-- HALTT_GO (R279), class 1 opcode 0xE9: Ends the issuer's HALTTs and restarts the threads they stopped -/
  | halttGo (a : Args)
  /-- KADD (R226), class 2 opcode 0x00: 64-bit K register add -/
  | kadd (a : Args)
  /-- KSUB (R226), class 2 opcode 0x01: 64-bit K register subtract -/
  | ksub (a : Args)
  /-- KMUL (R226), class 2 opcode 0x02: 64-bit K register multiply -/
  | kmul (a : Args)
  /-- KAND (R226), class 2 opcode 0x03: K register AND -/
  | kand (a : Args)
  /-- KOR (R226), class 2 opcode 0x04: K register OR -/
  | kor (a : Args)
  /-- KXOR (R226), class 2 opcode 0x05: K register XOR -/
  | kxor (a : Args)
  /-- KSHL (R226), class 2 opcode 0x06: K register shift left -/
  | kshl (a : Args)
  /-- KSHR (R226), class 2 opcode 0x07: K register logical or arithmetic shift right -/
  | kshr (a : Args)
  /-- KMOV (R226), class 2 opcode 0x08: K register move -/
  | kmov (a : Args)
  /-- KLI (R226), class 2 opcode 0x09: Loads a constant, or its high half with .hi, into a K register -/
  | kli (a : Args)
  /-- KLD (R230), class 2 opcode 0x0A: Loads a K register from memory -/
  | kld (a : Args)
  /-- KST (R230), class 2 opcode 0x0B: Stores a K register to memory -/
  | kst (a : Args)
  /-- KCMP (R227), class 2 opcode 0x0C: Sets a uniform predicate from a 64-bit comparison -/
  | kcmp (a : Args)
  /-- KBR (R231), class 2 opcode 0x10: Uniform stream branch -/
  | kbr (a : Args)
  /-- KCALL (R231), class 2 opcode 0x11: Uniform stream call -/
  | kcall (a : Args)
  /-- KRET (R231), class 2 opcode 0x12: Uniform stream return -/
  | kret (a : Args)
  /-- KBAR (R233), class 2 opcode 0x13: Uniform stream arrival at a team barrier, waiting with .w -/
  | kbar (a : Args)
  /-- KWAIT (R232), class 2 opcode 0x14: Waits until a uniform completion flag is at most n -/
  | kwait (a : Args)
  /-- KCP (R235), class 2 opcode 0x15: Posts a bulk tensor copy of a box of rows -/
  | kcp (a : Args)
  /-- KEXIT (R234), class 2 opcode 0x16: Ends the uniform stream after its arrivals and queues drain -/
  | kexit (a : Args)
  /-- MACQ (R256), class 2 opcode 0x20: Posts acquisition of accumulator tiles -/
  | macq (a : Args)
  /-- MREL (R257), class 2 opcode 0x21: Posts release of accumulator tiles -/
  | mrel (a : Args)
  /-- MZERO (R258), class 2 opcode 0x22: Posts zeroing of a tile, optionally clearing its status -/
  | mzero (a : Args)
  /-- MLDB (R249), class 2 opcode 0x23: Posts a load of a B tile into canopy slots -/
  | mldb (a : Args)
  /-- MFREEB (R250), class 2 opcode 0x24: Posts marking of a canopy tile empty -/
  | mfreeb (a : Args)
  /-- MMA (R252), class 2 opcode 0x25: Posts a scaled matrix multiply-accumulate into a tile -/
  | mma (a : Args)
  /-- MSCL (R254), class 2 opcode 0x26: Posts setting of a block-scale base and shift -/
  | mscl (a : Args)
  /-- MDRAIN (R259), class 2 opcode 0x27: Posts conversion and writing out of a tile -/
  | mdrain (a : Args)
  /-- MSWAP (R260), class 2 opcode 0x28: Posts a raw tile store, load or exchange with a tile image -/
  | mswap (a : Args)
  /-- MSTAT (R258), class 2 opcode 0x29: Posts a read of a tile's status word into a K register -/
  | mstat (a : Args)
  /-- CLAUSE_HEADER (R76): A thread reaches a clause header, setting priority and flag sets and waiting on WAIT flags -/
  | clauseHeader (h : Header)
  /-- BUFFERED_STORE_PERFORMED (R292): A buffered store of an expansion is performed after the commit point -/
  | bufferedStorePerformed (ag : Agent)
  /-- ASYNC_NOTICE_DELIVERY (R444): A pending rank 2 to 5 event is delivered at a guest boundary -/
  | asyncNoticeDelivery (ag : Agent)
  /-- UNIFORM_FAULT_DELIVERY (R273): A uniform stream fault is delivered to the lowest-tid thread with LIVE 0 -/
  | uniformFaultDelivery (team : Nat)
  /-- LOAD_DATA_RETURN (R180): A load, ATOM or CAS result returns, writing its destination and decrementing its flag -/
  | loadDataReturn (ag : Agent)
  /-- STORE_PERFORMED (R25): A store or RED is performed, decrementing its flag set B count -/
  | storePerformed (ag : Agent)
  /-- COPY_WRITE_PERFORMED (R197): A copy's write is performed, decrementing flag and tag and reporting sectors to its glade -/
  | copyWritePerformed (team copy : Nat)
  /-- CPA_ARRIVAL (R203): A deferred CPA arrival is applied once its copies are performed -/
  | cpaArrival (team arrival : Nat)
  /-- COALESCER_MERGE (R198): The coalescer issues merged line operations for held copies within 8 cycles -/
  | coalescerMerge (core : Nat)
  /-- WINDOW_GRANT (R18): A window becomes free and is granted to a waiting thread, which starts staging -/
  | windowGrant (ag : Agent)
  /-- WINDOW_STAGED (R18): Staging of a window completes 9 cycles after its grant -/
  | windowStaged (ag : Agent)
  /-- WINDOW_LOSS (R19): A thread in a wait beyond 256 cycles loses its window, writing back dirty slots -/
  | windowLoss (ag : Agent)
  /-- NAP_DEADLINE (R131): sr.growth reaches a napping thread's deadline -/
  | napDeadline (ag : Agent)
  /-- EXIT_DRAIN_COMPLETE (R129): An exiting thread's accesses complete and its slot and rows are freed -/
  | exitDrainComplete (ag : Agent)
  /-- SYNCH_DRAIN_COMPLETE (R191): A SYNCH's drained accesses are acknowledged and it waits for the next tick -/
  | synchDrainComplete (ag : Agent)
  /-- YIELD_EXPIRY (R130): A yielded thread becomes eligible 16 cycles after its YIELD -/
  | yieldExpiry (ag : Agent)
  /-- SPAWN_TIMER_EXPIRY (R312): A spawn bin's timer reaches SPAWNTMR and the bin is flushed -/
  | spawnTimerExpiry (core bin : Nat)
  /-- SPAWN_TEAM_WAITING (R312): Every live thread of the team waits or is stopped, and its bins are flushed -/
  | spawnTeamWaiting (team : Nat)
  /-- POSTED_COMMAND_HEAD (R229): A posted command at its queue head, with its guard known, is discarded or checked and performed -/
  | postedCommandHead (team : Nat) (q : QueueKind)
  /-- MACQ_GRANT (R256): Free tiles allow a waiting MACQ to be granted in arrival order -/
  | macqGrant (cluster : Nat)
  /-- SCALE_LINES_PRESENT (R255): An MMA's scale lines arrive in the scale cache and it enters the reservation table -/
  | scaleLinesPresent (team : Nat)
  /-- RESERVATION_GRANT (R261): The arbiter grants a reservation-table entry to a free array or drain unit -/
  | reservationGrant (cluster : Nat) (u : UnitKind)
  /-- RESERVATION_AGING (R261): An entry that has waited 4096 cycles is treated as priority 8 -/
  | reservationAging (team : Nat)
  /-- MMA_COMPLETE (R263): An MMA's last pass updates the tile and its kf count falls -/
  | mmaComplete (cluster : Nat)
  /-- DRAIN_UNIT_COMPLETE (R259): An MDRAIN or MSWAP's last access is performed and its kf count falls -/
  | drainUnitComplete (cluster : Nat)
  /-- CANOPY_LOAD_COMPLETE (R249): An MLDB completes, marking its slot full -/
  | canopyLoadComplete (cluster : Nat)
  /-- MSTAT_WRITE (R248): MSTAT writes kd 4 cycles after reaching the head -/
  | mstatWrite (team : Nat)
  /-- KCP_COMPLETE (R236): A KCP's last write is performed and its kf count falls -/
  | kcpComplete (team : Nat)
  /-- DOC_FILL_COMPLETE (R388): A decoded-operation cache fill writes and broadcasts its line -/
  | docFillComplete (cluster fill : Nat)
  /-- FETCH_RETURN (R388): Guest bytes for a fill arrive from the instruction path -/
  | fetchReturn (cluster fill : Nat)
  /-- MARKER_ACK (R342): A port acknowledges a SYNCH fence marker after all lower-numbered writes -/
  | markerAck (ag : Agent)
  /-- SYSTEM_WRITE_ACK (R342): A destination acknowledges a system write -/
  | systemWriteAck (ag : Agent)
  /-- SYSTEM_REPLY_ARRIVAL (R429): A system ATOM or CAS reply arrives, possibly into a replay entry -/
  | systemReplyArrival (ag : Agent)
  /-- GRANULE_MOVE_COMPLETE (R425): A coppice engine completes a granule move and its location changes -/
  | granuleMoveComplete (granule : Nat) (tier : Tier)
  /-- RESIDENCY_THRESHOLD (R427): A virtual device's resident fraction reaches its threshold and the node enters PLACING -/
  | residencyThreshold (launch node : Nat)
  /-- PLACEMENT_STEP (R402): The scheduler places a gang on a block, applying GLINIT glades -/
  | placementStep (launch node : Nat)
  /-- PLACEMENT_AGING (R401): A gang that has waited 4096 cycles blocks later gangs of its virtual device -/
  | placementAging (launch node : Nat)
  /-- IMAGE_SLOT_COPY_DONE (R383): Copying an image body into a cluster's decode-table slot completes -/
  | imageSlotCopyDone (cluster slot : Nat)
  /-- TEAM_RETIRE (R310): A team retires once its threads, stream, bins, copies and queue are done -/
  | teamRetire (team : Nat)
  /-- COMPLETION_ENTRY_WRITE (R404): A done launch's writes drain, ring space is found, and its completion entry is written -/
  | completionEntryWrite (launch : Nat)
  /-- PREEMPT_STOP_TIMEOUT (R428): 1024 cycles after a stop request a thread stops at its next guest boundary -/
  | preemptStopTimeout (ag : Agent)
  /-- DRAIN_BOUND_EXPIRY (R428): The 20 µs drain bound passes and outstanding system accesses become replay entries -/
  | drainBoundExpiry (gang : Nat)
  /-- GANG_RESTORE (R433): A saved gang is placed, its state written back and its replay entries run -/
  | gangRestore (gang : Nat)
  /-- ERROR_CORRECTED (R453): A corrected error is written back and counted -/
  | errorCorrected (u : ErrUnit)
  /-- UNCORRECTABLE_ERROR (R453): An uncorrectable error poisons, faults, terminates or resets by structure -/
  | uncorrectableError (e : ErrSite)
  /-- PATROL_SCRUB (R456): Patrol scrub reads, corrects or poisons a line -/
  | patrolScrub (e : ErrSite) (bad : Bool)
  /-- FLIT_CRC_FAILURE (R478): A flit fails its CRC and is retried -/
  | flitCrcFailure (link : Nat)
  /-- LINK_REQUEST (R478): A peer request arrives over a Lyano link and is performed at the home -/
  | linkRequest (link : Nat) (r : PeerReq)
  /-- HOST_WRITE (R343): A host write to device memory is performed at its home -/
  | hostWrite (port pa : Nat) (data : List Byte) (poison : Bool)
  /-- HOST_READ (R343): A host read of device memory returns values under the total order -/
  | hostRead (port pa n : Nat)
  /-- BAR4_ACCESS (R477): A host access through the BAR4 window, refused outside the port's quadrants -/
  | bar4Access (port off : Nat) (data : PortData) (n : Nat)
  /-- DOORBELL (R394): A launch word written to a queue's DOORBELL is accepted or discarded -/
  | doorbell (port queue size : Nat) (w : DWord)
  /-- CHEAD (R404): The host writes its consumed count to CHEAD -/
  | chead (port queue : Nat) (x : Word)
  /-- QSTAT_OVF_CLEAR (R395): A write of 1 clears QSTAT.OVF -/
  | qstatOvfClear (port queue : Nat) (x : DWord)
  /-- CMDTAIL (R480): The host advances CMDTAIL, and the controller takes commands in ring order -/
  | cmdtail (port : Nat) (x : Word)
  /-- EVHEAD (R479): The host advances EVHEAD, freeing event ring entries -/
  | evhead (port : Nat) (x : Word)
  /-- MANAGEMENT_REGISTER_WRITE (R479): A write to a BAR0 register with no row of its own -/
  | managementRegisterWrite (port off : Nat) (x : DWord)
  /-- IMG_LOAD (R381): Checks, verifies and keeps a personality image -/
  | imgLoad (c : Cmd)
  /-- IMG_BIND (R381): Binds an image to an index of a virtual device -/
  | imgBind (c : Cmd)
  /-- IMG_UNBIND (R381): Removes an index binding -/
  | imgUnbind (c : Cmd)
  /-- IMG_DROP (R381): Discards an image's master copy -/
  | imgDrop (c : Cmd)
  /-- QUEUE_ASSIGN (R393): Assigns a work queue to a virtual device and port -/
  | queueAssign (c : Cmd)
  /-- QUEUE_RELEASE (R393): Returns a queue to the unassigned state -/
  | queueRelease (c : Cmd)
  /-- QUEUE_DRAIN (R396): Cancels a queue's pending launches, optionally killing resident gangs -/
  | queueDrain (c : Cmd)
  /-- GRAPH_REGISTER (R398): Checks and copies a task graph, returning a handle -/
  | graphRegister (c : Cmd)
  /-- GRAPH_DROP (R398): Removes a registered graph -/
  | graphDrop (c : Cmd)
  /-- PART_SET (R412): Repartitions the package and sets bridge gates -/
  | partSet (c : Cmd)
  /-- VD_CONFIG (R415): Creates or changes a virtual device -/
  | vdConfig (c : Cmd)
  /-- VD_GRANT (R419): Grants device memory extents to a virtual device -/
  | vdGrant (c : Cmd)
  /-- VD_STATUS (R483): Returns a virtual device's status word, VT and residency -/
  | vdStatus (c : Cmd)
  /-- TIER_ADD (R424): Gives a coppice engine a host memory extent as T2 -/
  | tierAdd (c : Cmd)
  /-- TLB_INVAL (R422): Invalidates translations for a non-resident virtual device -/
  | tlbInval (c : Cmd)
  /-- TEAM_TERM (R448): Terminates a named team or every gang of a grid -/
  | teamTerm (c : Cmd)
  /-- CLUSTER_RESET (R458): Containment reset of a cluster -/
  | clusterReset (c : Cmd)
  /-- CLUSTER_RETIRE (R461): Retires a cluster from service -/
  | clusterRetire (c : Cmd)
  /-- PORT_BIND (R477): Gives a PCI Express port partitions and a role -/
  | portBind (c : Cmd)
  /-- LINK_UP (R478): Brings a Lyano link up -/
  | linkUp (c : Cmd)
  /-- LINK_DOWN (R478): Takes a Lyano link down, poisoning and discarding its outstanding traffic -/
  | linkDown (c : Cmd)
  /-- PWR_LIMIT (R486): Sets the package power limit -/
  | pwrLimit (c : Cmd)
  /-- ATTEST (R485): Writes a signed attestation report for a nonce -/
  | attest (c : Cmd)
  /-- CONTEXT_SAVE_COMPLETE (R428): The context image of a pre-empted gang has been written, and its slots, rows, windows, tags, canopy slots and tiles return to the cores and clusters -/
  | contextSaveComplete (gang : Nat)
  /-- DEBUGGER_ATTACH (R269): The host interface sets or clears CR.DBGCTL.EN of a virtual device, enabling or disabling BRKPT -/
  | debuggerAttach (vd : Nat) (en : Bool)
  /-- DEBUGGER_RESUME (R281): The host interface resumes a team stopped by BRKPT -/
  | debuggerResume (team : Nat)
  /-- GUEST_INSTRUCTION_DECODE (R286): A thread reaches a guest instruction, which is matched and checked before its expansion issues -/
  | guestInstructionDecode
  /-- COMMIT_POINT (R289): An expansion's buffered results take effect once earlier operations complete and the last operation's checks pass -/
  | commitPoint
  /-- GROWTH_RING_TICK (R9): The growth-ring counter ticks every 10 ns -/
  | growthRingTick
  /-- CT_DRIFT (R330): Each core's CT rises by 1 every 8 cycles -/
  | ctDrift
  /-- RENDEZVOUS_DEADLOCK (R323): A gang blocked for 4096 cycles delivers RENDEZVOUS_DEADLOCK to every waiting thread; the first gang that is deadlocked -/
  | rendezvousDeadlock
  /-- WATCHDOG (R452): A team's watchdog count reaches CR.WDLIM and WATCHDOG is delivered or the team terminated; the first team of which it is due -/
  | watchdog
  /-- QUANTUM_EXPIRY (R417): A resident virtual device's quantum ends and the controller decides; the first virtual device whose quantum is over -/
  | quantumExpiry
  /-- SCHEDULER_DECIDE (R417): A virtual device becomes or stops being runnable and the controller decides; the first virtual device of which it is due -/
  | schedulerDecide
  /-- LINK_FAILURE (R478): Sixteen failed retries take a Lyano link down; the first link of which it is due -/
  | linkFailure
  /-- NOTICE_DROP (R480): A notice that waited 1 s for ring space is dropped and EVLOST incremented; the first port of which it is due -/
  | noticeDrop
  /-- POWER_LIMIT_EXCEEDED (R486): Average power above the limit lowers the core clock -/
  | powerLimitExceeded
  /-- CORE_RAIL_OVERCURRENT (R486): Core-rail current above 7500 A is cut by skipping issue cycles -/
  | coreRailOvercurrent
  /-- PACKAGE_RESET (R484): Boot runs through its signed stages to READY -/
  | packageReset
  deriving DecidableEq, Repr

/-- The class and opcode of an encoded instruction (R81 to R83). An event has none. -/
def Instr.code : Instr → Option (Nat × Nat)
  | .iadd _ => some (0, 0x00)
  | .isum _ => some (0, 0x01)
  | .iaddc _ => some (0, 0x02)
  | .isub _ => some (0, 0x03)
  | .imul _ => some (0, 0x04)
  | .imulh _ => some (0, 0x05)
  | .imad _ => some (0, 0x06)
  | .imadw _ => some (0, 0x07)
  | .idiv _ => some (0, 0x08)
  | .irem _ => some (0, 0x09)
  | .imin _ => some (0, 0x0A)
  | .imax _ => some (0, 0x0B)
  | .iabs _ => some (0, 0x0C)
  | .ineg _ => some (0, 0x0D)
  | .icmp _ => some (0, 0x0E)
  | .isel _ => some (0, 0x0F)
  | .lea _ => some (0, 0x10)
  | .andB _ => some (0, 0x11)
  | .orB _ => some (0, 0x12)
  | .xorB _ => some (0, 0x13)
  | .andn _ => some (0, 0x14)
  | .lut _ => some (0, 0x15)
  | .shl _ => some (0, 0x16)
  | .shr _ => some (0, 0x17)
  | .sar _ => some (0, 0x18)
  | .rotl _ => some (0, 0x19)
  | .funl _ => some (0, 0x1A)
  | .funr _ => some (0, 0x1B)
  | .mixh _ => some (0, 0x1C)
  | .bext _ => some (0, 0x20)
  | .bins _ => some (0, 0x21)
  | .brev _ => some (0, 0x22)
  | .popc _ => some (0, 0x23)
  | .clz _ => some (0, 0x24)
  | .ctz _ => some (0, 0x25)
  | .bperm _ => some (0, 0x26)
  | .pset _ => some (0, 0x28)
  | .plut _ => some (0, 0x29)
  | .p2v _ => some (0, 0x2A)
  | .v2p _ => some (0, 0x2B)
  | .ixset _ => some (0, 0x2C)
  | .ldix _ => some (0, 0x2D)
  | .stix _ => some (0, 0x2E)
  | .rgn _ => some (0, 0x30)
  | .rgnw _ => some (0, 0x31)
  | .bra _ => some (0, 0x40)
  | .brx _ => some (0, 0x41)
  | .call _ => some (0, 0x42)
  | .callx _ => some (0, 0x43)
  | .ret _ => some (0, 0x44)
  | .loopL _ => some (0, 0x45)
  | .lend _ => some (0, 0x46)
  | .rep _ => some (0, 0x47)
  | .exitT _ => some (0, 0x48)
  | .yield _ => some (0, 0x49)
  | .nap _ => some (0, 0x4A)
  | .spawn _ => some (0, 0x4B)
  | .waitf _ => some (0, 0x4C)
  | .setf _ => some (0, 0x4D)
  | .pxcall _ => some (0, 0x4E)
  | .pxret _ => some (0, 0x4F)
  | .fadd _ => some (0, 0x80)
  | .fsub _ => some (0, 0x81)
  | .fmul _ => some (0, 0x82)
  | .ffma _ => some (0, 0x83)
  | .fmin _ => some (0, 0x84)
  | .fmax _ => some (0, 0x85)
  | .fcmp _ => some (0, 0x86)
  | .fsel _ => some (0, 0x87)
  | .fclass _ => some (0, 0x88)
  | .frnd _ => some (0, 0x89)
  | .fscale _ => some (0, 0x8A)
  | .frcp _ => some (0, 0x90)
  | .frsq _ => some (0, 0x91)
  | .fsqrt _ => some (0, 0x92)
  | .fdiv _ => some (0, 0x93)
  | .fexp2 _ => some (0, 0x94)
  | .flog2 _ => some (0, 0x95)
  | .fsin _ => some (0, 0x96)
  | .fcos _ => some (0, 0x97)
  | .ftanh _ => some (0, 0x98)
  | .fsigm _ => some (0, 0x99)
  | .pkadd _ => some (0, 0xA0)
  | .pkmul _ => some (0, 0xA1)
  | .pkfma _ => some (0, 0xA2)
  | .pkmin _ => some (0, 0xA3)
  | .pkmax _ => some (0, 0xA4)
  | .cvt _ => some (0, 0xA8)
  | .cvti _ => some (0, 0xA9)
  | .cvtf _ => some (0, 0xAA)
  | .qnt _ => some (0, 0xAB)
  | .dqnt _ => some (0, 0xAC)
  | .pack2 _ => some (0, 0xAD)
  | .unpk _ => some (0, 0xAE)
  | .fflag _ => some (0, 0xAF)
  | .ld _ => some (1, 0x00)
  | .st _ => some (1, 0x01)
  | .lds _ => some (1, 0x02)
  | .sts _ => some (1, 0x03)
  | .atom _ => some (1, 0x04)
  | .cas _ => some (1, 0x05)
  | .red _ => some (1, 0x06)
  | .pref _ => some (1, 0x07)
  | .synch _ => some (1, 0x08)
  | .cp _ => some (1, 0x10)
  | .cpw _ => some (1, 0x11)
  | .cpa _ => some (1, 0x12)
  | .cpf _ => some (1, 0x13)
  | .cpt _ => some (1, 0x14)
  | .cfence _ => some (1, 0x15)
  | .ginit _ => some (1, 0x18)
  | .gexp _ => some (1, 0x19)
  | .garv _ => some (1, 0x1A)
  | .garvr _ => some (1, 0x1B)
  | .gwait _ => some (1, 0x1C)
  | .gtest _ => some (1, 0x1D)
  | .bara _ => some (1, 0x20)
  | .barw _ => some (1, 0x21)
  | .bars _ => some (1, 0x22)
  | .rvx _ => some (1, 0x23)
  | .csrr _ => some (1, 0xE0)
  | .csrw _ => some (1, 0xE1)
  | .trap _ => some (1, 0xE2)
  | .eret _ => some (1, 0xE3)
  | .emret _ => some (1, 0xE4)
  | .tlbinv _ => some (1, 0xE5)
  | .tlbsync _ => some (1, 0xE6)
  | .perfr _ => some (1, 0xE7)
  | .brkpt _ => some (1, 0xE8)
  | .haltt _ => some (1, 0xE9)
  | .halttGo _ => some (1, 0xE9)
  | .kadd _ => some (2, 0x00)
  | .ksub _ => some (2, 0x01)
  | .kmul _ => some (2, 0x02)
  | .kand _ => some (2, 0x03)
  | .kor _ => some (2, 0x04)
  | .kxor _ => some (2, 0x05)
  | .kshl _ => some (2, 0x06)
  | .kshr _ => some (2, 0x07)
  | .kmov _ => some (2, 0x08)
  | .kli _ => some (2, 0x09)
  | .kld _ => some (2, 0x0A)
  | .kst _ => some (2, 0x0B)
  | .kcmp _ => some (2, 0x0C)
  | .kbr _ => some (2, 0x10)
  | .kcall _ => some (2, 0x11)
  | .kret _ => some (2, 0x12)
  | .kbar _ => some (2, 0x13)
  | .kwait _ => some (2, 0x14)
  | .kcp _ => some (2, 0x15)
  | .kexit _ => some (2, 0x16)
  | .macq _ => some (2, 0x20)
  | .mrel _ => some (2, 0x21)
  | .mzero _ => some (2, 0x22)
  | .mldb _ => some (2, 0x23)
  | .mfreeb _ => some (2, 0x24)
  | .mma _ => some (2, 0x25)
  | .mscl _ => some (2, 0x26)
  | .mdrain _ => some (2, 0x27)
  | .mswap _ => some (2, 0x28)
  | .mstat _ => some (2, 0x29)
  | _ => none

/-- The fields of an encoded instruction. -/
def Instr.args : Instr → Option Args
  | .iadd a => some a
  | .isum a => some a
  | .iaddc a => some a
  | .isub a => some a
  | .imul a => some a
  | .imulh a => some a
  | .imad a => some a
  | .imadw a => some a
  | .idiv a => some a
  | .irem a => some a
  | .imin a => some a
  | .imax a => some a
  | .iabs a => some a
  | .ineg a => some a
  | .icmp a => some a
  | .isel a => some a
  | .lea a => some a
  | .andB a => some a
  | .orB a => some a
  | .xorB a => some a
  | .andn a => some a
  | .lut a => some a
  | .shl a => some a
  | .shr a => some a
  | .sar a => some a
  | .rotl a => some a
  | .funl a => some a
  | .funr a => some a
  | .mixh a => some a
  | .bext a => some a
  | .bins a => some a
  | .brev a => some a
  | .popc a => some a
  | .clz a => some a
  | .ctz a => some a
  | .bperm a => some a
  | .pset a => some a
  | .plut a => some a
  | .p2v a => some a
  | .v2p a => some a
  | .ixset a => some a
  | .ldix a => some a
  | .stix a => some a
  | .rgn a => some a
  | .rgnw a => some a
  | .bra a => some a
  | .brx a => some a
  | .call a => some a
  | .callx a => some a
  | .ret a => some a
  | .loopL a => some a
  | .lend a => some a
  | .rep a => some a
  | .exitT a => some a
  | .yield a => some a
  | .nap a => some a
  | .spawn a => some a
  | .waitf a => some a
  | .setf a => some a
  | .pxcall a => some a
  | .pxret a => some a
  | .fadd a => some a
  | .fsub a => some a
  | .fmul a => some a
  | .ffma a => some a
  | .fmin a => some a
  | .fmax a => some a
  | .fcmp a => some a
  | .fsel a => some a
  | .fclass a => some a
  | .frnd a => some a
  | .fscale a => some a
  | .frcp a => some a
  | .frsq a => some a
  | .fsqrt a => some a
  | .fdiv a => some a
  | .fexp2 a => some a
  | .flog2 a => some a
  | .fsin a => some a
  | .fcos a => some a
  | .ftanh a => some a
  | .fsigm a => some a
  | .pkadd a => some a
  | .pkmul a => some a
  | .pkfma a => some a
  | .pkmin a => some a
  | .pkmax a => some a
  | .cvt a => some a
  | .cvti a => some a
  | .cvtf a => some a
  | .qnt a => some a
  | .dqnt a => some a
  | .pack2 a => some a
  | .unpk a => some a
  | .fflag a => some a
  | .ld a => some a
  | .st a => some a
  | .lds a => some a
  | .sts a => some a
  | .atom a => some a
  | .cas a => some a
  | .red a => some a
  | .pref a => some a
  | .synch a => some a
  | .cp a => some a
  | .cpw a => some a
  | .cpa a => some a
  | .cpf a => some a
  | .cpt a => some a
  | .cfence a => some a
  | .ginit a => some a
  | .gexp a => some a
  | .garv a => some a
  | .garvr a => some a
  | .gwait a => some a
  | .gtest a => some a
  | .bara a => some a
  | .barw a => some a
  | .bars a => some a
  | .rvx a => some a
  | .csrr a => some a
  | .csrw a => some a
  | .trap a => some a
  | .eret a => some a
  | .emret a => some a
  | .tlbinv a => some a
  | .tlbsync a => some a
  | .perfr a => some a
  | .brkpt a => some a
  | .haltt a => some a
  | .halttGo a => some a
  | .kadd a => some a
  | .ksub a => some a
  | .kmul a => some a
  | .kand a => some a
  | .kor a => some a
  | .kxor a => some a
  | .kshl a => some a
  | .kshr a => some a
  | .kmov a => some a
  | .kli a => some a
  | .kld a => some a
  | .kst a => some a
  | .kcmp a => some a
  | .kbr a => some a
  | .kcall a => some a
  | .kret a => some a
  | .kbar a => some a
  | .kwait a => some a
  | .kcp a => some a
  | .kexit a => some a
  | .macq a => some a
  | .mrel a => some a
  | .mzero a => some a
  | .mldb a => some a
  | .mfreeb a => some a
  | .mma a => some a
  | .mscl a => some a
  | .mdrain a => some a
  | .mswap a => some a
  | .mstat a => some a
  | _ => none

/-- The instruction of a class and opcode (R81 to R83): an empty cell of the map has none (R85).
HALTT.go (MOD bits 45:44 = 3, R274) is a constructor of its own. -/
def Instr.ofCode (cls opc : Nat) (a : Args) : Option Instr :=
  match cls, opc with
  | 0, 0x00 => some (.iadd a)
  | 0, 0x01 => some (.isum a)
  | 0, 0x02 => some (.iaddc a)
  | 0, 0x03 => some (.isub a)
  | 0, 0x04 => some (.imul a)
  | 0, 0x05 => some (.imulh a)
  | 0, 0x06 => some (.imad a)
  | 0, 0x07 => some (.imadw a)
  | 0, 0x08 => some (.idiv a)
  | 0, 0x09 => some (.irem a)
  | 0, 0x0A => some (.imin a)
  | 0, 0x0B => some (.imax a)
  | 0, 0x0C => some (.iabs a)
  | 0, 0x0D => some (.ineg a)
  | 0, 0x0E => some (.icmp a)
  | 0, 0x0F => some (.isel a)
  | 0, 0x10 => some (.lea a)
  | 0, 0x11 => some (.andB a)
  | 0, 0x12 => some (.orB a)
  | 0, 0x13 => some (.xorB a)
  | 0, 0x14 => some (.andn a)
  | 0, 0x15 => some (.lut a)
  | 0, 0x16 => some (.shl a)
  | 0, 0x17 => some (.shr a)
  | 0, 0x18 => some (.sar a)
  | 0, 0x19 => some (.rotl a)
  | 0, 0x1A => some (.funl a)
  | 0, 0x1B => some (.funr a)
  | 0, 0x1C => some (.mixh a)
  | 0, 0x20 => some (.bext a)
  | 0, 0x21 => some (.bins a)
  | 0, 0x22 => some (.brev a)
  | 0, 0x23 => some (.popc a)
  | 0, 0x24 => some (.clz a)
  | 0, 0x25 => some (.ctz a)
  | 0, 0x26 => some (.bperm a)
  | 0, 0x28 => some (.pset a)
  | 0, 0x29 => some (.plut a)
  | 0, 0x2A => some (.p2v a)
  | 0, 0x2B => some (.v2p a)
  | 0, 0x2C => some (.ixset a)
  | 0, 0x2D => some (.ldix a)
  | 0, 0x2E => some (.stix a)
  | 0, 0x30 => some (.rgn a)
  | 0, 0x31 => some (.rgnw a)
  | 0, 0x40 => some (.bra a)
  | 0, 0x41 => some (.brx a)
  | 0, 0x42 => some (.call a)
  | 0, 0x43 => some (.callx a)
  | 0, 0x44 => some (.ret a)
  | 0, 0x45 => some (.loopL a)
  | 0, 0x46 => some (.lend a)
  | 0, 0x47 => some (.rep a)
  | 0, 0x48 => some (.exitT a)
  | 0, 0x49 => some (.yield a)
  | 0, 0x4A => some (.nap a)
  | 0, 0x4B => some (.spawn a)
  | 0, 0x4C => some (.waitf a)
  | 0, 0x4D => some (.setf a)
  | 0, 0x4E => some (.pxcall a)
  | 0, 0x4F => some (.pxret a)
  | 0, 0x80 => some (.fadd a)
  | 0, 0x81 => some (.fsub a)
  | 0, 0x82 => some (.fmul a)
  | 0, 0x83 => some (.ffma a)
  | 0, 0x84 => some (.fmin a)
  | 0, 0x85 => some (.fmax a)
  | 0, 0x86 => some (.fcmp a)
  | 0, 0x87 => some (.fsel a)
  | 0, 0x88 => some (.fclass a)
  | 0, 0x89 => some (.frnd a)
  | 0, 0x8A => some (.fscale a)
  | 0, 0x90 => some (.frcp a)
  | 0, 0x91 => some (.frsq a)
  | 0, 0x92 => some (.fsqrt a)
  | 0, 0x93 => some (.fdiv a)
  | 0, 0x94 => some (.fexp2 a)
  | 0, 0x95 => some (.flog2 a)
  | 0, 0x96 => some (.fsin a)
  | 0, 0x97 => some (.fcos a)
  | 0, 0x98 => some (.ftanh a)
  | 0, 0x99 => some (.fsigm a)
  | 0, 0xA0 => some (.pkadd a)
  | 0, 0xA1 => some (.pkmul a)
  | 0, 0xA2 => some (.pkfma a)
  | 0, 0xA3 => some (.pkmin a)
  | 0, 0xA4 => some (.pkmax a)
  | 0, 0xA8 => some (.cvt a)
  | 0, 0xA9 => some (.cvti a)
  | 0, 0xAA => some (.cvtf a)
  | 0, 0xAB => some (.qnt a)
  | 0, 0xAC => some (.dqnt a)
  | 0, 0xAD => some (.pack2 a)
  | 0, 0xAE => some (.unpk a)
  | 0, 0xAF => some (.fflag a)
  | 1, 0x00 => some (.ld a)
  | 1, 0x01 => some (.st a)
  | 1, 0x02 => some (.lds a)
  | 1, 0x03 => some (.sts a)
  | 1, 0x04 => some (.atom a)
  | 1, 0x05 => some (.cas a)
  | 1, 0x06 => some (.red a)
  | 1, 0x07 => some (.pref a)
  | 1, 0x08 => some (.synch a)
  | 1, 0x10 => some (.cp a)
  | 1, 0x11 => some (.cpw a)
  | 1, 0x12 => some (.cpa a)
  | 1, 0x13 => some (.cpf a)
  | 1, 0x14 => some (.cpt a)
  | 1, 0x15 => some (.cfence a)
  | 1, 0x18 => some (.ginit a)
  | 1, 0x19 => some (.gexp a)
  | 1, 0x1A => some (.garv a)
  | 1, 0x1B => some (.garvr a)
  | 1, 0x1C => some (.gwait a)
  | 1, 0x1D => some (.gtest a)
  | 1, 0x20 => some (.bara a)
  | 1, 0x21 => some (.barw a)
  | 1, 0x22 => some (.bars a)
  | 1, 0x23 => some (.rvx a)
  | 1, 0xE0 => some (.csrr a)
  | 1, 0xE1 => some (.csrw a)
  | 1, 0xE2 => some (.trap a)
  | 1, 0xE3 => some (.eret a)
  | 1, 0xE4 => some (.emret a)
  | 1, 0xE5 => some (.tlbinv a)
  | 1, 0xE6 => some (.tlbsync a)
  | 1, 0xE7 => some (.perfr a)
  | 1, 0xE8 => some (.brkpt a)
  | 1, 0xE9 => if a.mod = 3 then some (.halttGo a) else some (.haltt a)
  | 2, 0x00 => some (.kadd a)
  | 2, 0x01 => some (.ksub a)
  | 2, 0x02 => some (.kmul a)
  | 2, 0x03 => some (.kand a)
  | 2, 0x04 => some (.kor a)
  | 2, 0x05 => some (.kxor a)
  | 2, 0x06 => some (.kshl a)
  | 2, 0x07 => some (.kshr a)
  | 2, 0x08 => some (.kmov a)
  | 2, 0x09 => some (.kli a)
  | 2, 0x0A => some (.kld a)
  | 2, 0x0B => some (.kst a)
  | 2, 0x0C => some (.kcmp a)
  | 2, 0x10 => some (.kbr a)
  | 2, 0x11 => some (.kcall a)
  | 2, 0x12 => some (.kret a)
  | 2, 0x13 => some (.kbar a)
  | 2, 0x14 => some (.kwait a)
  | 2, 0x15 => some (.kcp a)
  | 2, 0x16 => some (.kexit a)
  | 2, 0x20 => some (.macq a)
  | 2, 0x21 => some (.mrel a)
  | 2, 0x22 => some (.mzero a)
  | 2, 0x23 => some (.mldb a)
  | 2, 0x24 => some (.mfreeb a)
  | 2, 0x25 => some (.mma a)
  | 2, 0x26 => some (.mscl a)
  | 2, 0x27 => some (.mdrain a)
  | 2, 0x28 => some (.mswap a)
  | 2, 0x29 => some (.mstat a)
  | _, _ => none

end Sys2Proof
end

