-- ==== Sys2Proof/WellFormed.lean ====
section
/-! DEFINITION. Which encoded instructions are allocated: what each selector position of each opcode holds (R70, R96), which
MOD values its entry allocates (R68), where an extension word may stand (R73). This is the decode check ILLEGAL_OP of R79 so far as
the word alone decides it. -/

namespace Sys2Proof

/-- The type codes of R68. -/
inductive ElTy where
  | i8 | i16 | i32 | i64 | n8 | n16 | n32 | n64 | b32 | f32 | f16 | bf16 | e4m3 | e5m2 | tap8 | tap6
  deriving DecidableEq, Repr

def ElTy.ofCode : Nat → ElTy
  | 0 => .i8 | 1 => .i16 | 2 => .i32 | 3 => .i64 | 4 => .n8 | 5 => .n16 | 6 => .n32 | 7 => .n64
  | 8 => .b32 | 9 => .f32 | 10 => .f16 | 11 => .bf16 | 12 => .e4m3 | 13 => .e5m2 | 14 => .tap8 | _ => .tap6

/-- The width in bits of R38. -/
def ElTy.width : ElTy → Nat
  | .i8 | .n8 | .e4m3 | .e5m2 | .tap8 => 8
  | .i16 | .n16 | .f16 | .bf16 => 16
  | .i64 | .n64 => 64
  | .tap6 => 6
  | _ => 32

def ElTy.signed : ElTy → Bool
  | .i8 | .i16 | .i32 | .i64 => true
  | _ => false

def ElTy.isInt : ElTy → Bool
  | .i8 | .i16 | .i32 | .i64 | .n8 | .n16 | .n32 | .n64 => true
  | _ => false

def ElTy.isFloat : ElTy → Bool
  | .f32 | .f16 | .bf16 | .e4m3 | .e5m2 | .tap8 | .tap6 => true
  | _ => false

/-- What a selector position holds (R70). -/
inductive PosKind where
  | unused
  /-- Unused, and required to be 0 (R226). -/
  | zero
  /-- A 32-bit source, a 64-bit source, a packed source. -/
  | r32 | r64 | pk
  /-- A 32-bit or a 64-bit destination. -/
  | w32 | w64
  /-- A load's destination of 4 and of 8 bytes (R176), and a quad of 16. -/
  | ld32 | ld64 | quad
  /-- A quad as a store's source (R176). -/
  | quadSrc
  /-- A number below a bound (R96). -/
  | num (bound : Nat)
  /-- An immediate selector 384 to 447 (R132, R232). -/
  | immU
  /-- A class-10 source and destination (R71), and KLI's immediate (R226). -/
  | ks | kd | kli
  deriving DecidableEq, Repr

/-- Whether an auxiliary value is absent, optional or required (R73, R119). -/
inductive AuxKind where
  | never | may | must
  deriving DecidableEq, Repr

structure Shape where
  dst : PosKind
  sa : PosKind
  sb : PosKind
  sc : PosKind
  aux : AuxKind
  deriving DecidableEq, Repr

/-- Bits hi..lo of a MOD field, counted from MOD's own bit 0 (word bit 44). -/
def modBits (m : BitVec 10) (hi lo : Nat) : Nat := m.toNat / 2 ^ lo % 2 ^ (hi + 1 - lo)

/-- One row of R95. -/
structure IntRow where
  dflt : ElTy
  types : List ElTy
  sat : Bool
  subs : Nat

def allInt : List ElTy := [.i8, .i16, .i32, .i64, .n8, .n16, .n32, .n64]
def wideTy : List ElTy := [.b32, .i64, .n64]
def addcTy : List ElTy := [.i32, .n32, .i64, .n64]

/-- The rows of R95, and of REP (R125). -/
def intRow : Nat → Option IntRow
  | 0x00 | 0x01 | 0x03 | 0x04 | 0x06 | 0x0C | 0x0D => some ⟨.i32, allInt, true, 1⟩
  | 0x05 | 0x08 | 0x09 | 0x0A | 0x0B => some ⟨.i32, allInt, false, 1⟩
  | 0x02 => some ⟨.n32, addcTy, false, 1⟩
  | 0x07 => some ⟨.i32, [.i32, .n32], false, 1⟩
  | 0x0E | 0x28 => some ⟨.i32, allInt, false, 8⟩
  | 0x0F | 0x11 | 0x12 | 0x13 | 0x14 | 0x16 | 0x17 | 0x18 | 0x19 | 0x21 | 0x22 | 0x23 | 0x24 | 0x25 =>
    some ⟨.b32, wideTy, false, 1⟩
  | 0x10 => some ⟨.n32, [.i32, .n32], false, 16⟩
  | 0x1A | 0x1B | 0x26 | 0x2A | 0x2B | 0x2C | 0x2D | 0x2E => some ⟨.b32, [.b32], false, 1⟩
  | 0x20 => some ⟨.n32, addcTy, false, 1⟩
  | 0x47 => some ⟨.i32, allInt, false, 2⟩
  | _ => none

/-- The type that a MOD of R94 names for a row: the default where TY = 0. -/
def intTy (dflt : ElTy) (m : BitVec 10) : ElTy :=
  if modBits m 9 9 = 1 then ElTy.ofCode (modBits m 8 5) else dflt

/-- Whether MOD is allocated under R94 for a row. -/
def intModOk (r : IntRow) (m : BitVec 10) : Bool :=
  (if modBits m 9 9 = 1 then r.types.contains (ElTy.ofCode (modBits m 8 5)) else modBits m 8 5 == 0) &&
  (modBits m 4 4 == 0 || r.sat) && decide (modBits m 3 0 < r.subs)

/-- A source and a destination of the width of an integer type (R95). -/
def srcOf (t : ElTy) : PosKind := if t.width = 64 then .r64 else .r32
def dstOf (t : ElTy) : PosKind := if t.width = 64 then .w64 else .w32

/-- The positions of the rows of R95, and of REP. -/
def intShape (opc : Nat) (m : BitVec 10) : Option Shape := do
  let r ← intRow opc
  if intModOk r m = false then failure
  let t := intTy r.dflt m
  let s := srcOf t
  let d := dstOf t
  match opc with
  | 0x01 | 0x06 | 0x21 => some ⟨d, s, s, s, .never⟩
  | 0x02 => some ⟨d, s, s, .num 16, .never⟩
  | 0x07 => some ⟨.w64, .r32, .r32, .r64, .never⟩
  | 0x0C | 0x0D | 0x22 => some ⟨d, s, .unused, .unused, .never⟩
  | 0x0F => some ⟨d, s, s, .num 32, .never⟩
  | 0x10 => some ⟨.w64, .r64, .r32, .unused, .never⟩
  | 0x16 | 0x17 | 0x18 | 0x19 => some ⟨d, s, .r32, .unused, .never⟩
  | 0x1A | 0x1B | 0x26 => some ⟨.w32, .r32, .r32, .r32, .never⟩
  | 0x23 | 0x24 | 0x25 => some ⟨.w32, s, .unused, .unused, .never⟩
  | 0x28 => some ⟨.num 16, s, s, .num 128, .never⟩
  | 0x2A => some ⟨.w32, .r32, .unused, .unused, .never⟩
  | 0x2B => some ⟨.unused, .r32, .r32, .unused, .never⟩
  | 0x2C => some ⟨.num 4, .r32, .r32, .unused, .never⟩
  | 0x2D => some ⟨.w32, .num 4, .r32, .unused, .never⟩
  | 0x2E => some ⟨.unused, .num 4, .r32, .r32, .never⟩
  | 0x47 => some ⟨.r64, if modBits m 3 0 = 1 then .r64 else s, .r32, .unused, .never⟩
  | _ => some ⟨d, s, s, .unused, .never⟩

/-- The control registers of R269: number, width is 64, the U column shows R, CSRW is allocated. -/
def crTable : List (Nat × Bool × Bool × Bool) :=
  [(0x000, true, true, false), (0x001, false, true, false), (0x002, true, false, true), (0x003, true, true, true),
   (0x004, true, false, true), (0x010, false, false, true), (0x011, true, false, true), (0x012, true, false, true),
   (0x013, true, false, true), (0x014, false, false, true), (0x020, true, false, false), (0x021, true, false, false),
   (0x022, true, false, true), (0x030, true, false, false), (0x031, true, false, false), (0x032, false, false, true),
   (0x033, false, false, false), (0x040, false, true, true), (0x041, false, true, false)]

def crRow (n : Nat) : Option (Bool × Bool × Bool) := AMap.find crTable n

/-- The positions of class 00 (R81), by opcode and MOD; none where the opcode or the MOD value is unallocated. -/
def shape0 (opc : Nat) (m : BitVec 10) : Option Shape :=
  let z : Bool := m = 0
  let rnd := modBits m 9 8
  let ftz := modBits m 7 7
  let xb := modBits m 6 6
  let sub := modBits m 3 0
  let fl (rndOk ftzOk xbOk : Bool) (subs : Nat) (s : Shape) : Option Shape :=
    if modBits m 5 4 = 0 ∧ (rnd = 0 ∨ rndOk) ∧ (ftz = 0 ∨ ftzOk) ∧ (xb = 0 ∨ xbOk) ∧ sub < subs then some s else none
  let d1 : Shape := ⟨.w32, .r32, .unused, .unused, .never⟩
  let d2 : Shape := ⟨.w32, .r32, .r32, .unused, .never⟩
  let d3 : Shape := ⟨.w32, .r32, .r32, .r32, .never⟩
  let p2 : Shape := ⟨.w32, .pk, .pk, .unused, .never⟩
  let keep (b : Bool) (s : Shape) : Option Shape := if b then some s else none
  match opc with
  | 0x15 => if modBits m 8 8 ≠ 0 then none
            else if modBits m 9 9 = 1 then some ⟨.w64, .r64, .r64, .r64, .never⟩ else some d3
  | 0x1C => keep (modBits m 9 2 == 0) d2
  | 0x29 => keep (modBits m 9 8 == 0) ⟨.num 16, .num 16, .num 16, .num 16, .never⟩
  | 0x30 => keep (modBits m 8 5 == 0 && (modBits m 9 9 == 0 || modBits m 4 0 == 0))
              ⟨.unused, .unused, .unused, .unused, .never⟩
  | 0x31 => keep z ⟨.unused, .unused, .unused, .unused, .never⟩
  | 0x40 => keep z ⟨.unused, .unused, .unused, .unused, .must⟩
  | 0x41 | 0x44 => keep z ⟨.unused, .r64, .unused, .unused, .never⟩
  | 0x42 => keep z ⟨.w64, .unused, .unused, .unused, .must⟩
  | 0x43 => keep z ⟨.w64, .r64, .unused, .unused, .never⟩
  | 0x45 => keep z ⟨.num 2, .r32, .unused, .unused, .must⟩
  | 0x46 => keep z ⟨.num 2, .unused, .unused, .unused, .never⟩
  | 0x48 | 0x49 => keep z ⟨.unused, .unused, .unused, .unused, .never⟩
  | 0x4A => keep z ⟨.unused, .r32, .unused, .unused, .never⟩
  | 0x4B => keep z ⟨.unused, .r32, .r32, .unused, .must⟩
  | 0x4C => keep z ⟨.unused, .num 12, .immU, .unused, .never⟩
  | 0x4D => keep z ⟨.num 16, .num 12, .immU, .unused, .never⟩
  | 0x4E => keep z ⟨.w64, .r64, .r32, .unused, .never⟩
  | 0x4F => keep z ⟨.unused, .r64, .unused, .unused, .never⟩
  | 0x80 | 0x81 | 0x82 => fl true true false 1 d2
  | 0x83 => fl true true false 1 d3
  | 0x84 | 0x85 => fl false true false 2 d2
  | 0x86 => fl false true true 14 (if xb = 1 then ⟨.num 16, .r32, .r32, .unused, .never⟩ else d2)
  | 0x87 => fl false true false 14 d3
  | 0x88 => fl false true false 1 d1
  | 0x89 => fl true true false 1 d1
  | 0x8A => fl true true false 1 d2
  | 0x90 | 0x91 | 0x92 => fl true true false 1 d1
  | 0x93 => fl true true false 1 d2
  | 0x94 | 0x95 | 0x96 | 0x97 | 0x98 | 0x99 => fl false true false 1 d1
  | 0xA0 | 0xA1 => fl true false true 1 p2
  | 0xA2 => fl true false true 1 ⟨.w32, .pk, .pk, .pk, .never⟩
  | 0xA3 | 0xA4 => fl false false true 2 p2
  | 0xA8 => some ⟨.w32, .r32, .unused, .num 128, .never⟩
  | 0xA9 => some ⟨dstOf (ElTy.ofCode (modBits m 9 6)), srcOf (ElTy.ofCode (modBits m 5 2)), .unused, .num 64, .never⟩
  | 0xAA => some ⟨.w32, srcOf (ElTy.ofCode (modBits m 5 2)), .unused, .num 32, .never⟩
  | 0xAB => if modBits m 3 0 ≠ 0 then none
            else if modBits m 6 6 = 1 then keep (modBits m 5 4 == 0) d1 else some d3
  | 0xAC => keep (modBits m 3 0 == 0 && modBits m 6 6 == 0) d2
  | 0xAD => let ty := modBits m 9 6
            let wide := ty = 0xA ∨ ty = 0xB
            if ty = 0 then some d3
            else if ty < 0xA ∨ modBits m 2 0 ≠ 0 ∨ (wide ∧ modBits m 3 3 = 1) then none
            else some (if wide then d2 else d3)
  | 0xAE => let ty := modBits m 9 6
            if ty < 0xA ∨ modBits m 5 1 ≠ 0 ∨ ((ty = 0xA ∨ ty = 0xB) ∧ modBits m 0 0 = 1) then none
            else some ⟨.w64, .r32, .unused, .unused, .never⟩
  | 0xAF => if modBits m 9 4 ≠ 0 ∨ sub > 3 then none
            else some (if sub = 0 then ⟨.w32, .unused, .unused, .unused, .never⟩ else d1)
  | _ => intShape opc m

/-- The types that each operation of R183 accepts. -/
def atomTypes : Nat → List ElTy
  | 0 => [.i32, .n32, .i64, .n64, .f32]
  | 1 | 2 => [.i32, .n32, .i64, .n64]
  | 3 | 4 | 5 | 6 => [.i32, .n32, .i64, .n64, .b32]
  | 7 | 8 => [.n32]
  | _ => []

/-- The positions of class 01 (R82). -/
def shape1 (opc : Nat) (m : BitVec 10) : Option Shape :=
  let z : Bool := m = 0
  let keep (b : Bool) (s : Shape) : Option Shape := if b then some s else none
  let none4 : Shape := ⟨.unused, .unused, .unused, .unused, .never⟩
  let wid := modBits m 9 7
  let ldD : PosKind := if wid = 5 then .ld64 else if wid = 6 then .quad else .ld32
  let stS : PosKind := if wid = 5 then .r64 else if wid = 6 then .quadSrc else .r32
  let ty := if modBits m 9 9 = 1 then ElTy.ofCode (modBits m 8 5) else .i32
  let atomOk : Bool := (modBits m 9 9 == 1 || modBits m 8 5 == 0) && modBits m 0 0 == 0 &&
    (atomTypes (modBits m 4 1)).contains ty
  match opc with
  | 0x00 => keep (wid != 7 && modBits m 4 0 == 0) ⟨ldD, .r64, .unused, .unused, .may⟩
  | 0x01 => keep (wid != 7 && wid != 2 && wid != 4 && modBits m 4 0 == 0) ⟨.unused, .r64, stS, .unused, .may⟩
  | 0x02 => keep (wid != 7 && modBits m 6 0 == 0) ⟨ldD, .r32, .unused, .unused, .may⟩
  | 0x03 => keep (wid != 7 && wid != 2 && wid != 4 && modBits m 6 0 == 0) ⟨.unused, .r32, stS, .unused, .may⟩
  | 0x04 => keep atomOk ⟨dstOf ty, .r64, srcOf ty, .unused, .may⟩
  | 0x05 => if modBits m 8 0 ≠ 0 then none
            else if modBits m 9 9 = 1 then some ⟨.w64, .r64, .r64, .r64, .may⟩ else some ⟨.w32, .r64, .r32, .r32, .may⟩
  | 0x06 => keep atomOk ⟨.unused, .r64, srcOf ty, .unused, .may⟩
  | 0x07 => keep (modBits m 9 2 == 0 && modBits m 1 0 != 3) ⟨.unused, .r64, .unused, .unused, .may⟩
  | 0x08 | 0x15 => keep z none4
  | 0x10 => keep (modBits m 9 8 != 3 && modBits m 5 0 == 0)
              ⟨if modBits m 7 7 = 1 then .num 64 else .unused, .r64, .r64,
               if modBits m 6 6 = 1 then .r64 else .unused, .never⟩
  | 0x11 => keep z ⟨.unused, .r64, .unused, .unused, .never⟩
  | 0x12 => keep z ⟨.unused, .r64, .r64, .unused, .never⟩
  | 0x13 | 0x14 => keep z ⟨.w64, .r64, .unused, .unused, .never⟩
  | 0x18 => keep (modBits m 7 0 == 0 && modBits m 9 8 != 3)
              ⟨.unused, .r64, if modBits m 8 8 = 1 then .unused else .r32, .unused, .never⟩
  | 0x19 => keep z ⟨.unused, .r64, .r32, .unused, .never⟩
  | 0x1A => keep (modBits m 8 0 == 0)
              ⟨.w32, .r64, .r32, if modBits m 9 9 = 1 then .r32 else .unused, .never⟩
  | 0x1B => keep (modBits m 8 0 == 0) ⟨.unused, .r64, .r32, .unused, .never⟩
  | 0x1C => keep z ⟨.unused, .r64, .r32, .unused, .never⟩
  | 0x1D => keep z ⟨.num 16, .r64, .r32, .unused, .never⟩
  | 0x20 => keep (modBits m 8 0 == 0) ⟨.w32, .num 16, .r32, .unused, .never⟩
  | 0x21 => keep z ⟨.unused, .num 16, .r32, .unused, .never⟩
  | 0x22 => keep (modBits m 8 0 == 0) ⟨.unused, .num 16, .r32, .unused, .never⟩
  | 0x23 => let op := modBits m 9 6
            let t := modBits m 5 4
            if modBits m 3 0 ≠ 0 ∨ op > 8 ∨ t = 3 ∨ (t ≠ 0 ∧ (op = 0 ∨ op > 3)) then none
            else some ⟨.w32, .r32, .r64, if op = 0 ∨ op = 7 ∨ op = 8 then .r32 else .unused, .never⟩
  | 0xE0 => (crRow m.toNat).map fun r => ⟨if r.1 then .w64 else .w32, .unused, .unused, .unused, .never⟩
  | 0xE1 => match crRow m.toNat with
            | some (w, _, true) => some ⟨.unused, if w then .r64 else .r32, .unused, .unused, .never⟩
            | _ => none
  | 0xE2 => keep (modBits m 9 8 == 0) ⟨.unused, .r64, .unused, .unused, .never⟩
  | 0xE3 | 0xE6 => keep z none4
  | 0xE4 => keep (modBits m 9 1 == 0) none4
  | 0xE5 => keep (modBits m 9 2 == 0) ⟨.unused, if modBits m 1 0 = 3 then .unused else .r64, .unused, .unused, .never⟩
  | 0xE7 => keep z ⟨.w64, .r32, .unused, .unused, .never⟩
  | 0xE8 => keep (modBits m 9 8 == 0) none4
  | 0xE9 => keep (modBits m 9 2 == 0) none4
  | _ => none

/-- The positions of class 10 (R83). -/
def shape2 (opc : Nat) (m : BitVec 10) : Option Shape :=
  let z : Bool := m = 0
  let keep (b : Bool) (s : Shape) : Option Shape := if b then some s else none
  match opc with
  | 0x00 | 0x01 | 0x02 | 0x03 | 0x04 | 0x05 | 0x06 => keep z ⟨.kd, .ks, .ks, .zero, .never⟩
  | 0x07 => keep (modBits m 8 0 == 0) ⟨.kd, .ks, .ks, .zero, .never⟩
  | 0x08 => keep z ⟨.kd, .ks, .zero, .zero, .never⟩
  | 0x09 => keep (modBits m 8 0 == 0) ⟨.kd, .kli, .zero, .zero, .never⟩
  | 0x0A => keep (modBits m 6 0 == 0 && modBits m 9 7 < 3) ⟨.kd, .ks, .unused, .unused, .may⟩
  | 0x0B => keep (modBits m 6 0 == 0 && modBits m 9 7 < 2) ⟨.unused, .ks, .ks, .unused, .may⟩
  | 0x0C => keep (modBits m 9 5 == 0 && modBits m 3 0 < 8) ⟨.num 8, .ks, .ks, .unused, .never⟩
  | 0x10 => keep z ⟨.unused, .unused, .unused, .unused, .must⟩
  | 0x11 => keep z ⟨.kd, .unused, .unused, .unused, .must⟩
  | 0x12 => keep z ⟨.unused, .ks, .unused, .unused, .never⟩
  | 0x13 => keep (modBits m 8 0 == 0) ⟨.unused, .num 16, .unused, .unused, .never⟩
  | 0x14 => keep z ⟨.unused, .num 12, .immU, .unused, .never⟩
  | 0x15 => keep (modBits m 8 0 == 0) ⟨.ks, .ks, .ks, if modBits m 9 9 = 1 then .ks else .unused, .never⟩
  | 0x16 => keep z ⟨.unused, .unused, .unused, .unused, .never⟩
  | 0x20 | 0x21 => keep (modBits m 1 0 == 0 && modBits m 9 6 + modBits m 5 2 < 16)
                     ⟨.unused, .unused, .unused, .unused, .never⟩
  | 0x22 => keep (modBits m 4 0 == 0) ⟨.unused, .unused, .unused, .unused, .never⟩
  | 0x23 => keep (modBits m 6 0 == 0) ⟨.unused, .ks, .ks, .unused, .never⟩
  | 0x24 => keep z ⟨.unused, .ks, .unused, .unused, .never⟩
  | 0x25 => some ⟨.unused, .ks, .ks, .unused, .never⟩
  | 0x26 => keep (modBits m 8 0 == 0) ⟨.unused, .ks, .ks, .unused, .never⟩
  | 0x27 => keep (modBits m 1 0 == 0) ⟨.unused, .ks, .ks, .unused, .never⟩
  | 0x28 => keep (modBits m 3 0 == 0 && modBits m 5 4 != 3)
              ⟨.unused, .ks, if modBits m 5 4 = 2 then .ks else .unused, .unused, .never⟩
  | 0x29 => keep (modBits m 4 0 == 0) ⟨.kd, .unused, .unused, .unused, .never⟩
  | _ => none

/-- The positions of an opcode of a class (R81 to R83). -/
def shapeOf (cls opc : Nat) (m : BitVec 10) : Option Shape :=
  match cls with
  | 0 => shape0 opc m
  | 1 => shape1 opc m
  | 2 => shape2 opc m
  | _ => none

def Special.is64 : Special → Bool
  | .gpc | .growth | .egw0 | .egw1 | .epc => true
  | _ => false

/-- The specials that class 10 names (R71). -/
def Special.uniform : Special → Bool
  | .teamid | .gangrank | .gangsize | .nthreads | .grid | .nteams | .growth => true
  | _ => false

/-- Whether a selector may stand in a position of a kind (R14, R29, R30, R35, R69, R71, R96, R176, R226). -/
def Sel.okFor : PosKind → Sel → Bool
  | .unused, .none | .zero, .none => true
  | .r32, s | .pk, s =>
    match s with
    | .none | .num _ => false
    | .sp p hi => !hi || p.is64
    | _ => true
  | .r64, s =>
    match s with
    | .v j | .big j => j.getLsbD 0 == false
    | .n i => i.getLsbD 0 == false
    | .t j => j.getLsbD 0 == false
    | .sp p hi => p.is64 && !hi
    | .k _ | .imm _ | .ext _ | .val _ _ => true
    | _ => false
  | .w32, s =>
    match s with
    | .v _ | .n _ | .e _ | .t _ | .big _ => true
    | .sp p hi => p == .fflags && !hi
    | _ => false
  | .w64, s | .ld64, s =>
    match s with
    | .v j | .big j => j.getLsbD 0 == false
    | .n i => i.getLsbD 0 == false
    | .t j => j.getLsbD 0 == false
    | _ => false
  | .ld32, s =>
    match s with
    | .v _ | .n _ | .t _ | .big _ => true
    | _ => false
  | .quad, s | .quadSrc, s =>
    match s with
    | .v j | .big j => j.getLsbD 0 == false && j.getLsbD 1 == false
    | .n i => i.getLsbD 0 == false && i.getLsbD 1 == false
    | _ => false
  | .num b, s =>
    match s with
    | .num x => decide (x < b)
    | _ => false
  | .immU, s =>
    match s with
    | .imm i => i.getLsbD 6 == false
    | _ => false
  | .ks, s =>
    match s with
    | .k _ | .imm _ | .ext _ => true
    | .sp p hi => p.uniform && !hi
    | _ => false
  | .kd, s =>
    match s with
    | .k _ => true
    | _ => false
  | .kli, s =>
    match s with
    | .imm _ | .ext _ => true
    | _ => false
  | _, _ => false

/-- A selector of the native word: no t register, no template value (R33, R69). -/
def Sel.native : Sel → Bool
  | .t _ | .big _ | .val _ _ => false
  | .num x => decide (x < 512)
  | _ => true

def Sel.isExt : Sel → Bool
  | .ext _ => true
  | _ => false

/-- The number a position holds. -/
def Sel.toNum : Sel → Nat
  | .num x => x
  | _ => 0

/-- The conversions of R57: the letter of source and destination, over the type codes of R68; E8M0 is 16. -/
inductive ConvKind where
  | same | widen | narrow | toScale | fromScale | toInt | ofInt | intInt | noConv
  deriving DecidableEq, Repr

def convKind (src dst : ElTy) : ConvKind :=
  if src = .b32 ∨ dst = .b32 then .noConv
  else if src.isInt then (if dst.isInt then .intInt else .ofInt)
  else if dst.isInt then .toInt
  else if src = dst then .same
  else match src, dst with
    | .f16, .f32 | .bf16, .f32 => .widen
    | .e4m3, .f32 | .e4m3, .f16 | .e4m3, .bf16 => .widen
    | .e5m2, .f32 | .e5m2, .f16 | .e5m2, .bf16 => .widen
    | .tap8, .f32 | .tap8, .f16 | .tap8, .bf16 => .widen
    | .tap6, .f32 | .tap6, .f16 | .tap6, .bf16 | .tap6, .e4m3 | .tap6, .tap8 => .widen
    | _, _ => .narrow

/-- The decode rules of CVT, CVTI and CVTF that MOD and SC decide together (R153 to R157). -/
def cvtOk (opc : Nat) (a : Args) : Bool :=
  let dt := modBits a.mod 9 6
  let st := modBits a.mod 5 2
  let rnd := modBits a.mod 1 0
  let sc := a.sc.toNum
  let ed := sc / 64 % 2 == 1
  let xs := sc / 32 % 2 == 1
  let ftz := sc / 16 % 2 == 1
  let fsv := sc / 8 % 2 == 1
  let fs := sc % 8
  let d := ElTy.ofCode dt
  let t := ElTy.ofCode st
  (fsv || fs == 0) && (!ftz || fsv || dt == 9 || st == 9) &&
  match opc with
  | 0xA8 =>
    if fsv then !ed && !xs && ((dt == 0 && t.isFloat) || (st == 0 && d.isFloat))
    else
      (!ed || dt == 0) && (!xs || st == 0) && (ed || d.isFloat) && (xs || t.isFloat) &&
      (!xs || ed || d == .f32)
  | 0xA9 =>
    d.isInt && !ed &&
    (if fsv then st == 0 else t.isFloat || (t.isInt && rnd == 0 && !ftz))
  | _ => !ed && !xs && t.isInt && (if fsv then dt == 0 else d.isFloat)

/-- Extra decode rules of one entry. -/
def extraOk (cls opc : Nat) (a : Args) : Bool :=
  match cls, opc with
  | 0, 0xA8 | 0, 0xA9 | 0, 0xAA => cvtOk opc a
  | _, _ => true

/-- The bits 2:0 of a native branch offset are 0 (R119). -/
def branchOk (cls opc : Nat) (a : Args) : Bool :=
  if (cls = 0 ∧ (opc = 0x40 ∨ opc = 0x42 ∨ opc = 0x45 ∨ opc = 0x4B)) ∨ (cls = 2 ∧ (opc = 0x10 ∨ opc = 0x11)) then
    match a.aux with
    | some x => x.toNat % 8 == 0
    | none => false
  else true

def auxOk : AuxKind → Option DWord → Bool
  | .never, none | .may, _ | .must, some _ => true
  | _, _ => false

/-- Every position holds a selector of its kind. -/
def shapeFits (s : Shape) (a : Args) : Bool :=
  Sel.okFor s.dst a.dst && Sel.okFor s.sa a.sa && Sel.okFor s.sb a.sb && Sel.okFor s.sc a.sc && auxOk s.aux a.aux

/-- The operation is allocated: MOD, positions and entry rules hold (R68, R70, R85). Template operations pass it too (R378). -/
def opOk (cls opc : Nat) (a : Args) : Bool :=
  match shapeOf cls opc a.mod with
  | some s => shapeFits s a && extraOk cls opc a
  | none => false

/-- What the native word adds: native selectors, one extension word at most, none on DST, a 48-bit auxiliary value, class-10
guards q0 to q7 and no safe point there (R71 to R73, R119). -/
def nativeOk (cls opc : Nat) (a : Args) : Bool :=
  a.dst.native && a.sa.native && a.sb.native && a.sc.native && !a.dst.isExt &&
  decide ((if a.sa.isExt then 1 else 0) + (if a.sb.isExt then 1 else 0) + (if a.sc.isExt then 1 else 0) +
    (if a.aux.isSome then 1 else 0) ≤ 1) &&
  (match a.aux with
   | some x => (x.truncate 48).signExtend 64 == x
   | none => true) &&
  branchOk cls opc a &&
  (decide (cls ≠ 2) ||
    (a.live.isNone && (match a.guard with
                       | .always => true
                       | .on j _ => decide (j.toNat < 8))))

/-- A class of thread words names no uniform-only form, and class 10 no other (R67): the opcode decides it. -/
def Header.ok (h : Header) : Bool :=
  decide (h.count ≠ 0) && (match h.aflag with | some j => decide (j.toNat < 12) | none => true) &&
  (match h.bflag with | some j => decide (j.toNat < 12) | none => true)

/-- HALTT names no scope 3, which is HALTT.go's (R274, R279). -/
def Instr.scopeOk : Instr → Bool
  | .haltt a => modBits a.mod 1 0 != 3
  | .halttGo a => modBits a.mod 1 0 == 3
  | _ => true

/-- A well-formed native instruction or clause header: one that some words of the stream encode. Events are not encoded. -/
def Instr.wf (i : Instr) : Bool :=
  match i with
  | .clauseHeader h => h.ok
  | _ =>
    match i.code, i.args with
    | some (cls, opc), some a => opOk cls opc a && nativeOk cls opc a && i.scopeOk
    | _, _ => false

/-- Number of 8-byte words of a native instruction (R73, R78). -/
def Args.words (a : Args) : Nat :=
  1 + (if a.sa.isExt || a.sb.isExt || a.sc.isExt || a.aux.isSome then 1 else 0) + (if a.live.isSome then 1 else 0)

end Sys2Proof
end

