-- ==== Sys2Proof/Decode.lean ====
section
/-! DEFINITION. The decoder of the native stream, total on any words and bytes and rejecting by name, and after it the encoder
(R66 to R85). Both are written from the layouts of R66, R72, R74 and R77 and the selector tables of R69 and R71. -/

namespace Sys2Proof

/-- Why words do not decode: each is the ILLEGAL_OP of the rule named. -/
inductive DecodeErr where
  /-- The stream ends inside the instruction. -/
  | short
  /-- A class-11 word of a reserved subtype (R84). -/
  | reservedSubtype
  /-- A header with COUNT 0 or a flag number above 11 (R75). -/
  | badHeader
  /-- A live record or an extension word where an instruction is due (R73, R78). -/
  | strayWord
  /-- An empty cell of the opcode map (R85), or an unallocated MOD value (R68). -/
  | unallocated
  /-- A selector that its position does not admit (R69 to R71, R96), or an entry's own decode rule. -/
  | badOperand
  /-- X = 1 without an extension word after it (R73). -/
  | noExtension
  /-- SEL names a position, or an auxiliary value, that the instruction does not take (R73). -/
  | badExtension
  /-- S = 1 without a live record after it (R78), or in class 10 (R71). -/
  | noLiveRecord
  deriving DecidableEq, Repr

/-- Bits hi..lo of a word as a number (R4). -/
def bitsOf (w : DWord) (hi lo : Nat) : Nat := w.toNat / 2 ^ lo % 2 ^ (hi + 1 - lo)

/-- The selectors 336 to 383 (R29). -/
def specialOf : Nat → Option Sel
  | 336 => some (.sp .tid false) | 337 => some (.sp .teamid false) | 338 => some (.sp .gangrank false)
  | 339 => some (.sp .gangsize false) | 340 => some (.sp .nthreads false) | 341 => some (.sp .slot false)
  | 342 => some (.sp .part false) | 343 => some (.sp .mode false) | 344 => some (.sp .pix false)
  | 345 => some (.sp .prio false) | 346 => some (.sp .fflags false)
  | 348 => some (.sp .gpc false) | 349 => some (.sp .gpc true)
  | 350 => some (.sp .growth false) | 351 => some (.sp .growth true)
  | 352 => some (.sp .egw0 false) | 353 => some (.sp .egw0 true)
  | 354 => some (.sp .egw1 false) | 355 => some (.sp .egw1 true)
  | 356 => some (.sp .epc false) | 357 => some (.sp .epc true)
  | 358 => some (.sp .elen false)
  | 360 => some (.e 0) | 361 => some (.e 1) | 362 => some (.e 2) | 363 => some (.e 3)
  | 364 => some (.e 4) | 365 => some (.e 5) | 366 => some (.e 6) | 367 => some (.e 7)
  | 368 => some (.sp .grid false) | 369 => some (.sp .nteams false)
  | _ => none

/-- A 9-bit operand selector (R69; R71 for class 10). -/
def operandOf (cls x : Nat) : Option Sel :=
  if x < 272 then
    if cls = 2 then none
    else if x < 256 then some (.v (BitVec.ofNat 8 x)) else some (.n (BitVec.ofNat 4 (x - 256)))
  else if x < 336 then some (.k (BitVec.ofNat 6 (x - 272)))
  else if x < 384 then specialOf x
  else some (.imm (BitVec.ofNat 7 (x - 384)))

/-- What a selector position of a kind holds. -/
def parseSel (cls : Nat) (k : PosKind) (x : Nat) : Option Sel :=
  match k with
  | .unused => some .none
  | .zero => if x = 0 then some .none else none
  | .num _ => some (.num x)
  | _ => operandOf cls x

/-- A position that an extension word may supply: a source operand (R73). DESIGN CHOICE (log 55): one that holds a number (R96) is none. -/
def PosKind.admitsExt : PosKind → Bool
  | .r32 | .r64 | .pk | .ks | .kli => true
  | _ => false

/-- The guard of bits 43:38 (R23; R71 for class 10). -/
def guardOf (cls : Nat) (w : DWord) : Option Guard :=
  if bitsOf w 43 43 = 0 then some .always
  else if cls = 2 ∧ bitsOf w 41 41 = 1 then none
  else some (.on (BitVec.ofNat 4 (bitsOf w 41 38)) (bitsOf w 42 42 == 1))

def liveOf (w : DWord) : LiveRec :=
  { lc1 := bitsOf w 57 57 == 1, lc0 := bitsOf w 56 56 == 1,
    pmask := BitVec.ofNat 16 (bitsOf w 47 32), vmask := BitVec.ofNat 32 (bitsOf w 31 0) }

/-- A clause header word (R74, R75). -/
def decodeHeader (w : DWord) : Except DecodeErr Header :=
  let h : Header :=
    { wait := BitVec.ofNat 12 (bitsOf w 57 46),
      aflag := if bitsOf w 45 45 = 1 then some (BitVec.ofNat 4 (bitsOf w 44 41)) else none,
      bflag := if bitsOf w 40 40 = 1 then some (BitVec.ofNat 4 (bitsOf w 39 36)) else none,
      count := BitVec.ofNat 3 (bitsOf w 35 33), prio := BitVec.ofNat 8 (bitsOf w 31 24) }
  if h.ok then .ok h else .error .badHeader

/-- Fills the position that an extension word names (R72, R73). -/
def applyExt (s : Shape) (a : Args) (x : DWord) : Except DecodeErr Args :=
  let imm : BitVec 48 := BitVec.ofNat 48 (bitsOf x 47 0)
  match bitsOf x 51 50 with
  | 0 => if s.sa.admitsExt then .ok { a with sa := .ext imm } else .error .badExtension
  | 1 => if s.sb.admitsExt then .ok { a with sb := .ext imm } else .error .badExtension
  | 2 => if s.sc.admitsExt then .ok { a with sc := .ext imm } else .error .badExtension
  | _ => if s.aux = .never then .error .badExtension else .ok { a with aux := some (imm.signExtend 64) }

/-- A position as read, where the extension word does not replace it: the selector there is ignored (R73). -/
def parsePos (cls : Nat) (k : PosKind) (x : Nat) (extended : Bool) : Except DecodeErr Sel :=
  if extended then .ok .none
  else match parseSel cls k x with
    | some s => .ok s
    | none => .error .badOperand

/-- The position that the extension word of an instruction names, if it has one. -/
def extSel (x : Option DWord) : Option Nat := x.map fun w => bitsOf w 51 50

/-- An instruction word with its extension word and live record (R66 to R85). -/
def decodeOp (w : DWord) (ext : Option DWord) (live : Option LiveRec) : Except DecodeErr Instr := do
  let cls := bitsOf w 63 62
  let opc := bitsOf w 61 54
  let m : BitVec 10 := BitVec.ofNat 10 (bitsOf w 53 44)
  match shapeOf cls opc m, guardOf cls w with
  | none, _ => .error .unallocated
  | _, none => .error .badOperand
  | some s, some g =>
    let at' := extSel ext
    let d ← parsePos cls s.dst (bitsOf w 35 27) false
    let a ← parsePos cls s.sa (bitsOf w 26 18) (at' == some 0)
    let b ← parsePos cls s.sb (bitsOf w 17 9) (at' == some 1)
    let c ← parsePos cls s.sc (bitsOf w 8 0) (at' == some 2)
    let args : Args := { mod := m, guard := g, live := live, dst := d, sa := a, sb := b, sc := c, aux := none }
    let args ← match ext with
      | some x => applyExt s args x
      | none => .ok args
    match Instr.ofCode cls opc args with
    | some i => if i.wf then .ok i else .error .badOperand
    | none => .error .unallocated

/-- The words at a place of the stream: an instruction or a clause header, and how many words it takes. -/
def decodeWords : List DWord → Except DecodeErr (Instr × Nat)
  | [] => .error .short
  | w :: rest =>
    if bitsOf w 63 62 = 3 then
      match bitsOf w 61 58 with
      | 0 => (decodeHeader w).map fun h => (.clauseHeader h, 1)
      | 1 | 2 => .error .strayWord
      | _ => .error .reservedSubtype
    else do
      let hasX := bitsOf w 36 36 == 1
      let hasS := bitsOf w 37 37 == 1
      if hasS && bitsOf w 63 62 == 2 then .error .noLiveRecord
      let (ext, rest) ←
        if hasX then
          match rest with
          | [] => .error .short
          | x :: r => if bitsOf x 63 62 = 3 ∧ bitsOf x 61 58 = 2 then .ok (some x, r) else .error .noExtension
        else .ok (none, rest)
      let live ←
        if hasS then
          match rest with
          | [] => .error .short
          | x :: _ => if bitsOf x 63 62 = 3 ∧ bitsOf x 61 58 = 1 then .ok (some (liveOf x)) else .error .noLiveRecord
        else .ok none
      let i ← decodeOp w ext live
      .ok (i, 1 + (if hasX then 1 else 0) + (if hasS then 1 else 0))

/-- The opcodes of R81 to R83. -/
def opAllocated (cls opc : Nat) : Bool :=
  let among (rs : List (Nat × Nat)) : Bool := rs.any fun r => decide (r.1 ≤ opc) && decide (opc ≤ r.2)
  match cls with
  | 0 => among [(0x00, 0x1C), (0x20, 0x26), (0x28, 0x2E), (0x30, 0x31), (0x40, 0x4F), (0x80, 0x8A), (0x90, 0x99), (0xA0, 0xA4), (0xA8, 0xAF)]
  | 1 => among [(0x00, 0x08), (0x10, 0x15), (0x18, 0x1D), (0x20, 0x23), (0xE0, 0xE9)]
  | 2 => among [(0x00, 0x0C), (0x10, 0x16), (0x20, 0x29)]
  | _ => false

/-- A word that has no length as an instruction where it stands: one where a header is due (R75), one of the other stream's classes (R67), one with
a live record in class 10 (R71), or an opcode that is not allocated, which the first plane makes illegal (R68, R379). Its fault is taken before the
words that its X and S bits announce are fetched (log 38). -/
def ownBad (w : DWord) (due stream : Bool) : Bool :=
  let cls := bitsOf w 63 62
  cls != 3 && (due || (cls == 2) != stream || (cls == 2 && bitsOf w 37 37 == 1) ||
    !opAllocated cls (bitsOf w 61 54))

/-- The little-endian value of bytes (R4). -/
def leNat : List Byte → Nat
  | [] => 0
  | b :: r => b.toNat + 256 * leNat r

/-- The `n` low bytes of a number, little-endian (R4). -/
def leBytes : Nat → Nat → List Byte
  | 0, _ => []
  | n + 1, x => BitVec.ofNat 8 x :: leBytes n (x / 256)

/-- Whole 8-byte words of a list of bytes, at most `n`. -/
def wordsOfBytes : Nat → List Byte → List DWord
  | 0, _ => []
  | n + 1, bs => if bs.length < 8 then [] else BitVec.ofNat 64 (leNat (bs.take 8)) :: wordsOfBytes n (bs.drop 8)

/-- The native instruction or clause header that a list of bytes begins with: at most three words are read (R73, R78). -/
def decode (bs : List Byte) : Except DecodeErr (Instr × Nat) := decodeWords (wordsOfBytes 3 bs)

/-- The instruction read from bits numbered as the opcode table numbers them; the bits above `nbits` are 0. -/
def decodeTableWord (nbits w : Nat) : Option Instr :=
  match decode (leBytes 24 (w % 2 ^ nbits)) with
  | .ok (i, _) => some i
  | .error _ => none

/-! ## The encoder -/

def specialNum : Special → Nat
  | .tid => 336 | .teamid => 337 | .gangrank => 338 | .gangsize => 339 | .nthreads => 340 | .slot => 341 | .part => 342
  | .mode => 343 | .pix => 344 | .prio => 345 | .fflags => 346 | .gpc => 348 | .growth => 350 | .egw0 => 352
  | .egw1 => 354 | .epc => 356 | .elen => 358 | .grid => 368 | .nteams => 369

/-- The 9 bits of a selector position (R69, R71, R96). -/
def selNum : Sel → Nat
  | .v j => j.toNat
  | .n i => 256 + i.toNat
  | .k j => 272 + j.toNat
  | .sp p hi => specialNum p + (if hi then 1 else 0)
  | .e j => 360 + j.toNat
  | .imm i => 384 + i.toNat
  | .num x => x % 512
  | _ => 0

def guardNum : Guard → Nat
  | .always => 0
  | .on j neg => 32 + (if neg then 16 else 0) + j.toNat

def bitNat (b : Bool) : Nat := if b then 1 else 0

/-- The extension word of an instruction, if it has one (R72). -/
def extWord (a : Args) : Option DWord :=
  let mk (sel : Nat) (x : BitVec 48) : DWord :=
    BitVec.ofNat 64 (3 * 2 ^ 62 + 2 * 2 ^ 58 + sel * 2 ^ 50 + x.toNat)
  match a.sa, a.sb, a.sc, a.aux with
  | .ext x, _, _, _ => some (mk 0 x)
  | _, .ext x, _, _ => some (mk 1 x)
  | _, _, .ext x, _ => some (mk 2 x)
  | _, _, _, some x => some (mk 3 (x.truncate 48))
  | _, _, _, _ => none

/-- The live record word (R77). -/
def liveWord (l : LiveRec) : DWord :=
  BitVec.ofNat 64 (3 * 2 ^ 62 + 2 ^ 58 + bitNat l.lc1 * 2 ^ 57 + bitNat l.lc0 * 2 ^ 56 + l.pmask.toNat * 2 ^ 32 +
    l.vmask.toNat)

/-- The clause header word (R74). -/
def headerWord (h : Header) : DWord :=
  BitVec.ofNat 64 (3 * 2 ^ 62 + h.wait.toNat * 2 ^ 46 +
    (match h.aflag with | some j => 2 ^ 45 + j.toNat * 2 ^ 41 | none => 0) +
    (match h.bflag with | some j => 2 ^ 40 + j.toNat * 2 ^ 36 | none => 0) +
    h.count.toNat * 2 ^ 33 + h.prio.toNat * 2 ^ 24)

/-- The instruction word (R66). -/
def opWord (cls opc : Nat) (a : Args) : DWord :=
  BitVec.ofNat 64 (cls * 2 ^ 62 + opc * 2 ^ 54 + a.mod.toNat * 2 ^ 44 + guardNum a.guard * 2 ^ 38 +
    bitNat a.live.isSome * 2 ^ 37 + bitNat (extWord a).isSome * 2 ^ 36 + selNum a.dst * 2 ^ 27 +
    selNum a.sa * 2 ^ 18 + selNum a.sb * 2 ^ 9 + selNum a.sc)

/-- The words of a well-formed instruction or clause header, with 0 in every ignored bit; an event has none. -/
def encode (i : Instr) : List DWord :=
  match i with
  | .clauseHeader h => [headerWord h]
  | _ =>
    match i.code, i.args with
    | some (cls, opc), some a =>
      opWord cls opc a :: ((extWord a).toList ++ (a.live.map liveWord).toList)
    | _, _ => []

end Sys2Proof
end

