-- ==== Sys2Proof/Machine/State.lean ====
section
/-! DEFINITION. The machine's state as plain data, the reasons a step can stop, and the state after reset (R12, R34, R484). -/

namespace Sys2Proof.Machine

/-! ## The thread -/

/-- lc0, lc1 (R27). -/
structure Loop where
  count : Word := 0
  start : DWord := 0
  stop : DWord := 0
  deriving DecidableEq, Repr

/-- x0 to x3 (R22). -/
structure Index where
  base : BitVec 8 := 0
  bound : BitVec 9 := 0
  deriving DecidableEq, Repr

/-- The clause an agent stands in (R75, R76): `due` when the next word must be a header; `start` the address of its header and `stop`
the address after its last word; the flag sets A and B. `loose` after an ERET into a clause whose extent no record holds: a
header or an instruction may follow (R276, log 14). -/
structure Clause where
  due : Bool := true
  loose : Bool := false
  start : DWord := 0
  stop : DWord := 0
  aflag : Option (BitVec 4) := none
  bflag : Option (BitVec 4) := none
  deriving DecidableEq, Repr

/-- The architected registers of a thread that a guest expansion holds back until its commit point (R12, R288). -/
structure Arch where
  v : AMap Word := []
  x : AMap Index := []
  p : BitVec 16 := 0
  lc0 : Loop := {}
  lc1 : Loop := {}
  rc : Word := 0
  rnext : DWord := 0
  e : AMap Word := []
  /-- t0 to t7 of a template (R33). -/
  t : AMap Word := []
  fflags : BitVec 5 := 0
  wbase : BitVec 8 := 0
  wvalid : Bool := false
  prio : BitVec 8 := 0
  pix : BitVec 3 := 0
  /-- sr.mode: true is S mode. -/
  mode : Bool := false
  pc : DWord := 0
  egw0 : DWord := 0
  egw1 : DWord := 0
  epc : DWord := 0
  elen : Word := 0
  clause : Clause := {}
  deriving DecidableEq, Repr

/-- The control registers of thread scope (R269). -/
structure FaultRegs where
  fstat : Word := 0
  fpc : DWord := 0
  faddr : DWord := 0
  fscr : DWord := 0
  fcls : Word := 0
  hsel : Word := 0
  deriving DecidableEq, Repr

/-- Where a delivery interrupted a clause: the resume address and the clause (log 14). -/
structure Cut where
  pc : DWord
  clause : Clause
  deriving DecidableEq, Repr

/-- What an outstanding access does when it is performed (R181, R184, R185, R230). -/
inductive AccOp where
  /-- A load of MOD width code `wid` (R174) into a destination. -/
  | load (dst : Sel) (wid : Nat)
  | store (data : List Byte)
  /-- ATOM or RED: operation and type of R183; the destination is `none` for RED. -/
  | atom (dst : Sel) (op : Nat) (ty : ElTy) (b : DWord)
  | cas (dst : Sel) (wide : Bool) (b c : DWord)
  /-- A KLD of WID code `wid` (R230). -/
  | kload (k : BitVec 6) (wid : Nat)
  deriving DecidableEq, Repr

/-- An access that has issued and is not yet performed (R180, R333). `port` is the system port of R341, if it leads to one; `pc` the
address of a uniform stream's instruction, which a fault of its data names (R225). -/
structure Access where
  op : AccOp
  loc : Loc
  size : Nat
  va : DWord
  flag : Option (BitVec 4)
  port : Option Nat
  /-- A buffered store of an expansion (R292). -/
  buffered : Bool := false
  pc : DWord := 0
  /-- What a load of a system page has read before its turn, whether it is poisoned, and the line's WTS then (R190, R333, R341). -/
  early : Option (List Byte × Bool × DWord) := none
  /-- Its number in the issue order of its team's replayable operations (R430), if it leads to a system page. -/
  no : Nat := 0
  /-- The HINT of a load asks for its home's data and no copy in the L1 (R174). -/
  nol1 : Bool := false
  deriving DecidableEq, Repr

/-- A system write that its destination has not acknowledged (R342): its core, port and number, and the bytes it replaced, which a link
that goes down puts back (R478). -/
structure SysWrite where
  core : Nat
  port : Nat
  seq : Nat
  va : DWord
  pa : Nat
  old : List Byte := []
  /-- It has arrived at its destination: the host or the peer sees it (R190, R342, R343). -/
  arrived : Bool := false
  no : Nat := 0
  /-- Its access time (R332): overlapping writes are ordered by it. -/
  time : DWord := 0
  deriving DecidableEq, Repr

/-- What a waiting thread waits for (R318, R219). `len` is the length in bytes by which it goes on when its wait ends. -/
inductive Wait where
  | clause (mask : BitVec 12)
  | flag (j : BitVec 4) (n : Nat) (len : Nat)
  /-- The flag wait of an instruction whose increment would pass 63 (R26): it issues again when its wait ends. -/
  | room (j : BitVec 4)
  | glade (addr : DWord) (team off : Nat) (token : BitVec 4) (len : Nat)
  | barrier (b : Nat) (token : BitVec 4) (arrived : Bool) (len : Nat)
  | exchange (addr : DWord) (off : Nat) (token : BitVec 4) (dst : Sel) (len : Nat)
  | tags (mask : DWord) (len : Nat)
  | nap (deadline : DWord) (len : Nat)
  /-- SYNCH: the drain, and then the tick after g (R191). -/
  | drain (len : Nat)
  | tick (g : DWord) (len : Nat)
  /-- RGN's wait for a window, with its base (R18, R117), and a window's staging. -/
  | region (base : BitVec 8) (len : Nat)
  | staging
  | exit
  deriving DecidableEq, Repr

/-- A notice waiting for a thread (R444): its rank, code and datum; `held` where a delivery of better rank has left it to wait for the
handler's dismissal (R444, R463). -/
structure Pending where
  rank : Nat
  code : BitVec 8
  datum : DWord
  held : Bool := false
  deriving DecidableEq, Repr

/-- A guest expansion in progress (R285 to R294): the operations still to run, the guest length, the state at the guest boundary,
and its registers that hold an error then, the stores buffered so far, whether the last operation's checks passed, whether the commit
point has been passed. -/
structure Expansion where
  ops : List Instr
  len : Nat
  saved : Arch
  bad : AMap Nat := []
  stores : List Access
  checked : Bool
  committed : Bool
  deriving DecidableEq, Repr

/-- The tail record of R294. -/
structure Tail where
  addr : DWord
  pix : BitVec 3
  deriving DecidableEq, Repr

/-- A REP from its issue to its last store or its interruption (R126): the instruction, its element value or source address, and its
destination address, as read at its issue (R32, R36). -/
structure Rep where
  op : Instr
  a : DWord
  d : DWord
  deriving DecidableEq, Repr

/-- A thread's position in a line of the decoded-operation cache (R387): the line, and the number of its next instruction in it. -/
structure Spot where
  line : Nat
  ix : Nat
  deriving DecidableEq, Repr

/-- How a kept wait has ended (R213, R219): its phase has completed, with the value of an RVX, or its glade has become FAULTED. -/
inductive KeptEnd where
  | value (w : Word)
  | faulted
  deriving DecidableEq, Repr

/-- A pending-wait record of R219: the instruction's address, its wait, and how that has ended, once it has. -/
structure Kept where
  pc : DWord
  wait : Wait
  result : Option KeptEnd
  deriving DecidableEq, Repr

/-- A spawn request (R133), with its cycle and the slot of its spawner (R312). -/
structure Request where
  a : Word
  b : Word
  by' : Word
  cycle : Nat := 0
  slot : Nat := 0
  deriving DecidableEq, Repr

/-- A SPAWN that waits because no bin is free (R311): its request as it issued, its entry address, and the length by which its thread goes on once
the request has a bin. -/
structure SpawnWait where
  req : Request
  entry : DWord
  len : Nat
  deriving DecidableEq, Repr

structure Thread where
  slot : Nat
  arch : Arch := {}
  cr : FaultRegs := {}
  cut : Option Cut := none
  /-- f0 to f11 (R25). -/
  f : AMap Nat := []
  /-- A window of the partition is held, being staged, and which of its slots are dirty (R16 to R19). -/
  held : Bool := false
  dirty : BitVec 16 := 0
  out : List Access := []
  unacked : List SysWrite := []
  /-- Fence markers of a SYNCH not yet acknowledged: port and sequence number (R191, R342). -/
  markers : List (Nat × Nat) := []
  /-- CFENCE epoch of later copies (R200). -/
  epoch : Nat := 0
  wait : Option Wait := none
  /-- Cycle at which the wait began; deadline of a yield (R19, R130). -/
  waitFrom : Nat := 0
  yielded : Option Nat := none
  /-- The SPAWN that waits because no bin is free (R311). -/
  spawn : Option SpawnWait := none
  /-- Live record of the latest instruction, if it had S = 1 and none has issued since (R78). -/
  safe : Option LiveRec := none
  expansion : Option Expansion := none
  tail : Option Tail := none
  /-- A REP that runs, and the flag on which one in progress is counted (R126). -/
  rep : Option Rep := none
  repFlag : Option (BitVec 4) := none
  spot : Option Spot := none
  /-- The waits that deliveries have interrupted, one for an instruction, the latest first (R219). -/
  kept : List Kept := []
  pending : List Pending := []
  /-- Registers that hold an uncorrectable error until they are written (R453): 0 for one of the understory row, k + 1 for one of the dirty
  near slot k of the thread's window. -/
  bad : AMap Nat := []
  /-- Live record of the instruction that waits: it holds when the wait ends (R78). -/
  after : Option LiveRec := none
  /-- Stopped by a double fault (R447), and by a pre-emption (R428). -/
  dead : Bool := false
  preempted : Bool := false
  deriving DecidableEq, Repr

/-! ## The team -/

/-- The launch record of R304. -/
structure LaunchRec where
  tentry : DWord := 0
  uentry : DWord := 0
  evec : DWord := 0
  pix : Nat := 0
  imgtag : Nat := 0
  nteams : Nat := 1
  nthreads : Nat := 1
  regs8 : Nat := 2
  shape : Nat := 0
  gsize : Nat := 1
  scratch : Nat := 0
  canopy : Nat := 0
  tags : Nat := 0
  gprio : Nat := 0
  noprog : Bool := false
  fairwin : Nat := 64
  spawntmr : Nat := 512
  wdlim : DWord := 0
  fsl : List Word := []
  kinit : List DWord := []
  glinit : List Word := []
  deriving DecidableEq, Repr

/-- A KBAR in the order of its team's KBARs, and the K registers as it left them (R36). -/
structure KMark where
  no : Nat
  k : AMap DWord
  deriving DecidableEq, Repr

/-- A team barrier (R215). -/
structure Barrier where
  phase : BitVec 4 := 0
  opened : Bool := false
  n : Nat := 0
  u : Bool := false
  arr : Nat := 0
  uarr : Bool := false
  /-- The access time of its latest operation (R332), and the threads that have arrived in its phase (R36). -/
  time : DWord := 0
  who : List Nat := []
  /-- By phase token, the KBAR that arrived in that phase (R36). -/
  marks : AMap KMark := []
  deriving DecidableEq, Repr

/-- A participant of an open RVX: its thread, contribution, and own c (R218). -/
structure Share where
  tid : Nat
  a : Word
  c : Word
  deriving DecidableEq, Repr

/-- The directory entry of a live glade (R205): RESID, and the settings and contributions of an open RVX (R218). -/
structure Glade where
  resid : Nat := 0
  op : Nat := 0
  ty : Nat := 0
  c : Word := 0
  shares : List Share := []
  deriving DecidableEq, Repr

/-- A copy tag (R201). -/
structure Tag where
  count : Nat := 0
  fault : Bool := false
  deriving DecidableEq, Repr

/-- A copy that has issued and whose write is not yet performed (R197 to R200). `whole` is set for a kind-1 replay entry. -/
structure Copy where
  tid : Option Nat
  src : Loc
  dst : Loc
  srcVa : DWord
  dstVa : DWord
  size : Nat
  tag : Option Nat
  glade : Option DWord
  flag : Option (BitVec 4)
  epoch : Nat
  port : Option Nat
  /-- The data read, and whether it was poisoned, once the read is performed. -/
  data : Option (List Byte × Bool)
  deriving DecidableEq, Repr

/-- A deferred arrival (R203): the glade, the copies it waits for, its mask, its thread, its number in issue order (R430). -/
structure Arrival where
  glade : DWord
  copies : List Nat
  mask : DWord := 0
  tid : Nat := 0
  no : Nat := 0
  deriving DecidableEq, Repr

/-- A translation (R420, R421): virtual device, page base and log2 size, frame, permissions, homing. -/
structure Trans where
  vd : Nat
  va : Nat
  lg : Nat
  frame : Nat
  r : Bool
  w : Bool
  x : Bool
  home : Nat
  pin : Nat
  deriving DecidableEq, Repr

/-- The scale settings of R254. -/
structure Scales where
  sba : DWord := 0
  sbb : DWord := 0
  spa : DWord := 0
  spb : DWord := 0
  deriving DecidableEq, Repr

/-- A posted command (R229): its instruction, operand values, guard value, and the flag it counts on. `checked` is set for a command
whose checks have passed and that still waits at the head (R248, R255, R256). -/
structure PCmd where
  op : Instr
  addr : DWord
  d : DWord
  a : DWord
  b : DWord
  c : DWord
  guard : Bool
  flag : Option (BitVec 4)
  checked : Bool := false
  /-- Cycle at which a MACQ reached the head, or at which the canopy loader took the command (R256, R262). -/
  since : Nat := 0
  /-- Translations held from its checks at the head (R196, R423). -/
  held : List Trans := []
  /-- The scale settings that an MMA uses: those in force as it first leaves the head (R247, R254). -/
  scales : Option Scales := none
  /-- Its number in the issue order of its team's copies and posted commands (R430). -/
  no : Nat := 0
  /-- Of a command that its unit runs: the rows done, the rows read that wait for the last, and the first poisoned address read (R249,
  R253, R259, R260). -/
  prog : Nat := 0
  buf : List (List Byte) := []
  hot : Option DWord := none
  deriving DecidableEq, Repr

/-- A KCP that has started (R235): the command and its next row and unit. -/
structure Bulk where
  cmd : PCmd
  row : Nat
  unit : Nat
  deriving DecidableEq, Repr

/-- A canopy slot that is not empty (R244): the first slot of a tile with its 128 rows, or a second half. -/
inductive Canopy where
  | tile (elem : Nat) (poison : Bool) (rows : List (List Byte))
  | second
  deriving DecidableEq, Repr

/-- An accumulator tile (R243): elements not listed are +0. -/
structure Tile where
  el : AMap Word := []
  status : BitVec 4 := 0
  poison : Bool := false
  deriving DecidableEq, Repr

/-- What a uniform stream waits for. -/
inductive KWait where
  | clause (mask : BitVec 12)
  | flag (j : BitVec 4) (n : Nat) (len : Nat)
  | barrier (b : Nat) (token : BitVec 4) (len : Nat)
  deriving DecidableEq, Repr

/-- The uniform stream of a team (R223 to R234). -/
structure Stream where
  pc : DWord := 0
  clause : Clause := {}
  retired : Bool := true
  /-- Stopped by a fault (R225). -/
  stopped : Bool := false
  wait : Option KWait := none
  out : List Access := []
  unacked : List SysWrite := []
  deriving DecidableEq, Repr

/-- A command in the reservation table (R261): the cycle at which it entered, and whether it has aged. -/
structure Entry where
  cmd : PCmd
  since : Nat
  aged : Bool := false
  deriving DecidableEq, Repr

/-- A fault of the uniform stream that is not yet delivered (R273). -/
structure UFault where
  code : BitVec 8
  datum : DWord
  deriving DecidableEq, Repr

/-- The logical times of a home line (R331). -/
structure Times where
  wts : DWord := 0
  rts : DWord := 0
  deriving DecidableEq, Repr

/-- A spawn bin (R311): entry address, personality, requests in arrival order, the cycle from which its timer counts (R312). -/
structure Bin where
  entry : DWord
  pix : BitVec 3
  reqs : List Request
  since : Nat
  deriving DecidableEq, Repr

/-- Replay entries of R430 that are not copies, KCP remainders or arrivals: a system reply or acknowledgment awaited. -/
structure Replay where
  kind : Nat
  tid : Nat
  access : Option Access
  write : Option SysWrite
  reply : Option (List Byte × Bool)
  acked : Bool
  deriving DecidableEq, Repr

/-- The K registers as the threads that have not yet arrived on a barrier see them after a KBAR on it (R36): the KBAR, and, by thread, the
latest KBAR after it whose phase the thread has waited for: that thread sees what this one left. -/
structure KView where
  b : Nat
  mark : KMark
  seen : AMap KMark := []
  deriving DecidableEq, Repr

structure Team where
  gang : Nat
  rank : Nat
  teamid : Nat
  grid : Nat
  vd : Nat
  core : Nat
  launch : Nat
  node : Nat
  /-- Launch record of the grid. -/
  lrec : LaunchRec := {}
  resident : Bool := true
  retired : Bool := false
  /-- P0 and the slot runs of its groups (R309). -/
  p0 : Nat := 0
  runs : AMap Nat := []
  /-- Order of its placement or restore on the core (R223, R256). -/
  order : Nat := 0
  threads : AMap Thread := []
  stream : Stream := {}
  k : AMap DWord := []
  kold : List KView := []
  /-- How many KBARs have arrived (R36). -/
  kbars : Nat := 0
  q : BitVec 8 := 0
  kf : AMap Nat := []
  barriers : AMap Barrier := []
  winBase : Nat := 0
  /-- ROWBASE of its quota when its register rows were taken (R414). -/
  rowBase : Nat := 0
  glades : AMap Glade := []
  tagBase : Nat := 0
  tags : AMap Tag := []
  copies : AMap Copy := []
  /-- The next number in the issue order of its copies and other replayable operations (R430). -/
  nextCopy : Nat := 0
  arrivals : AMap Arrival := []
  nextArrival : Nat := 0
  bulk : List PCmd := []
  running : Option Bulk := none
  matrix : List PCmd := []
  entry : Option Entry := none
  /-- The commands granted to the array and to the drain unit (R261). -/
  granted : List (UnitKind × PCmd) := []
  loads : List PCmd := []
  canopy : AMap Canopy := []
  tiles : AMap Tile := []
  scales : Scales := {}
  bins : List Bin := []
  ufpc : DWord := 0
  ufcmd : DWord := 0
  wdlim : DWord := 0
  wdcnt : DWord := 0
  /-- A watchdog that has expired and not yet been delivered: growth at the tick of its expiry (R452). -/
  wdDue : Option DWord := none
  ufault : List UFault := []
  dbgStop : Bool := false
  /-- Window bytes, poisoned sectors and core time of a save (R431). -/
  savedWindow : List Byte := []
  savedPoison : List Nat := []
  /-- The times of its window's lines (R331, R340), by place in the window. -/
  savedTimes : AMap Times := []
  savedCt : DWord := 0
  replays : List Replay := []
  deriving DecidableEq, Repr

/-- A HALTT in force (R279): who performed it, where and with which scope, and the threads (some tid) and streams (none) it stopped. -/
structure Halt where
  team : Nat
  tid : Nat
  pc : DWord := 0
  scope : Nat := 0
  targets : List (Nat × Option Nat)
  /-- Every target has stopped. -/
  complete : Bool := false
  deriving DecidableEq, Repr

structure Gang where
  vd : Nat
  launch : Nat
  node : Nat
  number : Nat
  /-- Keys of its teams, in rank order. -/
  teams : List Nat
  /-- First cluster of its block. -/
  block : Nat
  /-- Placed: its first placement step, or that of its restore, has come (R403, R433). Until then its cores, slots and window are held for
  it while images are copied, and nothing of it runs; `fresh` before its first one. -/
  placed : Bool := true
  fresh : Bool := false
  /-- Since when it is blocked (R323), the stop request of a pre-emption (R428), whether it is saved. -/
  blocked : Option Nat := none
  stopAt : Option Nat := none
  saved : Bool := false
  /-- Where its context image stands (R431): physical address and length. -/
  image : Option (Nat × Nat) := none
  deriving DecidableEq, Repr

/-! ## Virtual devices, queues, images, ports -/

structure VDev where
  part : Nat := 0
  slotBase : Nat := 0
  slotRuns : Nat := 128
  rowBase : Nat := 0
  rowUnits : Nat := 256
  scrBase : Nat := 0
  scrUnits : Nat := 128
  weight : Nat := 0
  quantum : Nat := 0
  thresh : Nat := 255
  recMax : Nat := 1
  feat : BitVec 8 := 255
  root : Nat := 0
  ctxBase : Nat := 0
  ctxLen : Nat := 0
  /-- FEAT and ROOT of a VD_CONFIG that wait for the next switch-in (R415). -/
  nextFeat : Option (BitVec 8) := none
  nextRoot : Option Nat := none
  /-- Those of a switch-in that wait until the context of before has left the cores (R268). -/
  dueFeat : Option (BitVec 8) := none
  dueRoot : Option Nat := none
  extents : List (Nat × Nat) := []
  vt : Nat := 0
  resident : Bool := false
  quantumFrom : Nat := 0
  /-- Found runnable at the last decision (R417); switched in, its restores not all placed yet. -/
  runnable : Bool := false
  entering : Bool := false
  halted : Bool := false
  /-- Residency record, in order of first access (R426), and the one it was switched in with, whose granules are brought up and pinned. -/
  record : List Nat := []
  incoming : List Nat := []
  fvec : DWord := 0
  dumpbase : DWord := 0
  perfctl : Bool := false
  dbgctl : Bool := false
  /-- Images bound to indices 1 to 7, by handle (R381). -/
  bind : AMap Nat := []
  deriving DecidableEq, Repr

/-- A shootdown in flight (R390, R391, R422): the translation removed and the thread whose TLBSYNC ends it. -/
structure Shoot where
  team : Nat
  tid : Nat
  old : Trans
  deriving DecidableEq, Repr

inductive NodeState where
  | waitDep | waitRes | placing | draining | done
  deriving DecidableEq, Repr

structure Node where
  state : NodeState := .waitDep
  status : Nat := 0
  /-- Next gang number, and whether placement has ended with a status (R399). -/
  next : Nat := 0
  ending : Option Nat := none
  since : Nat := 0
  /-- Its next gang has waited 4096 cycles (R401). -/
  aged : Bool := false
  /-- Digest of the image bound at index PIX when the record was checked (R305, R399). -/
  image : Option (BitVec 512) := none
  lrec : LaunchRec := {}
  deps : List Nat := []
  /-- Largest CT at the retirement of its gangs (R400). -/
  ct : DWord := 0
  deriving DecidableEq, Repr

structure Launch where
  queue : Nat
  vd : Nat
  grid : Nat
  tag : Nat
  graph : Nat
  nodes : AMap Node := []
  /-- Entered WAITDEP (SERIAL, R407), done, status and node at acceptance, completion written. -/
  started : Bool := false
  early : Option Nat := none
  written : Bool := false
  killed : Bool := false
  /-- The largest CT of the host ports when its launch word was accepted (R407, R409). -/
  ct : DWord := 0
  /-- System writes of its retired teams that await acknowledgment (R404). -/
  unacked : List SysWrite := []
  deriving DecidableEq, Repr

structure Queue where
  vd : Nat
  port : Nat
  ring : Nat
  entries : Nat
  msix : Option Nat
  serial : Bool
  accepted : Nat := 0
  ovf : Bool := false
  stall : Bool := false
  draining : Option Cmd := none
  cancelled : Nat := 0
  chead : Nat := 0
  w : Nat := 0
  /-- Launches done whose completion entries are still to be written, in the order in which they became done (R404). -/
  doneOrder : List Nat := []
  deriving DecidableEq, Repr

/-- A registered graph: its virtual device and nodes with launch record, dependences and bound handle (R397, R398). -/
structure Graph where
  vd : Nat
  nodes : List Node
  deriving DecidableEq, Repr

/-- A loaded image: its body and digest (R381). -/
structure Image where
  body : List Byte
  digest : BitVec 512
  deriving DecidableEq, Repr

/-- A decode-table slot of a cluster (R383). -/
structure ImgSlot where
  handle : Nat
  copying : Bool
  used : Nat
  deriving DecidableEq, Repr

/-- One instruction of a line (R386): its length in bytes and its operations (one for a native instruction or header); or the marker of
a MISS, with its guest bytes, or of an ILLEGAL. -/
inductive Decoded where
  | run (len : Nat) (ops : List Instr)
  | miss (len window : Nat)
  | illegal
  deriving DecidableEq, Repr

/-- A line of the decoded-operation cache (R385): a number that names it, its slot and physical entry address, the stamp of its latest
use, its instructions in order. -/
structure Line where
  id : Nat
  psel : Nat
  pa : Nat
  used : Nat
  code : List Decoded
  deriving DecidableEq, Repr

/-- A fill of the decoded-operation cache (R388): the slot, physical and virtual entry address, virtual device and personality index it is
for, the cores that wait, bytes returned. -/
structure Fill where
  psel : Nat
  pa : Nat
  va : Nat
  vd : Nat
  pix : Nat
  cores : List Nat
  returned : Bool
  deriving DecidableEq, Repr

/-- The registers of one PCI Express port (R477, R479). Their reset values are the model's choice, WINBASE's with them (log 6). -/
structure Port where
  owner : Bool := false
  parts : BitVec 4 := 0
  winbase : DWord := 0
  cmdbase : DWord := 0
  cmdsize : Word := 0
  cmdtail : Word := 0
  cmdhead : Word := 0
  evbase : DWord := 0
  evsize : Word := 0
  evhead : Word := 0
  evtail : Word := 0
  evlost : Word := 0
  /-- Notices waiting for ring space, with the tick at which each was posted (R480). -/
  notices : List (List Byte × Nat) := []
  /-- AtomicOp requests and the Relaxed Ordering attribute enabled on the port (R186, R343). -/
  atomicOp : Bool := false
  relaxed : Bool := false
  deriving DecidableEq, Repr

/-- A Lyano link (R478): `failed` flits in a row have failed their CRC, a first one and then its retries. -/
structure Link where
  up : Bool := true
  failed : Nat := 0
  deriving DecidableEq, Repr

/-- A leased copy of a 64-byte line in an L1 or a scale cache (R331, R338): its data, which of its two sectors are poisoned, its times. -/
structure Lease where
  data : List Byte
  bad : List Bool
  wts : DWord
  rts : DWord
  deriving DecidableEq, Repr

/-- Of a poisoned sector, which of its bytes the pieces of one command have written good data to, as a mask (R455): the command, by its team and
its number, and the mask. -/
structure Mend where
  op : Nat × Nat
  mask : Nat
  deriving DecidableEq, Repr

/-- What moves next: an event of the world outside the agents, or an agent; and what the spec lets happen without an event of the opcode
table. -/
inductive Input where
  | event (i : Instr)
  | turn (a : Agent)
  /-- System software sets a port's PCI Express attributes: AtomicOp and Relaxed Ordering (R186, R343). -/
  | portEnables (port : Nat) (atomicOp relaxed : Bool)
  /-- A system write of an agent, the `i`th that awaits acknowledgment, arrives at its destination (R190, R342, R343). -/
  | arrive (a : Agent) (i : Nat)
  /-- The host or a peer writes memory of its own, and reads it (R347). -/
  | hostMem (pa : Nat) (data : List Byte)
  | hostLook (pa n : Nat)
  /-- A load of an agent, its `i`th outstanding access, reads before its turn (R333). -/
  | readEarly (a : Agent) (i : Nat)
  /-- The package is reset, and boot fails at a stage before READY (R484). -/
  | bootFails (stage : Nat)
  /-- The signed key manifest in flash gives these slots, of 1 to 15, these keys, for the package's next boot (R484). -/
  | keyManifest (keys : List (Nat × Nat))
  deriving DecidableEq, Repr

/-- The whole package. -/
structure State where
  /-- Physical memory (R418) and scratchpads (key: core × 2^19 + offset); an unlisted byte reads 0x00 (log 4). -/
  mem : List Host.Cell := []
  scratch : List Host.Cell := []
  /-- Poisoned 32-byte sectors: even keys physical, odd keys scratchpad (R455). -/
  poison : List Nat := []
  /-- By poisoned sector, what the latest bulk copy, drain or swap over it has covered so far (R455). -/
  mended : AMap Mend := []
  growth : DWord := 0
  cycle : Nat := 0
  /-- The cycle of the latest tick of the growth ring (R9). -/
  ticked : Nat := 0
  teams : AMap Team := []
  gangs : AMap Gang := []
  halts : List Halt := []
  nextKey : Nat := 0
  /-- Each core's CT as its lead over the drift, cycle / 8 (R330). -/
  ct : AMap DWord := []
  /-- Access times of the latest CSRW of the registers of team and virtual-device scope (R275), by `crKey`. -/
  crTimes : AMap DWord := []
  /-- Sequence counters, keyed by core × 18 + port (R342). -/
  seqs : AMap Nat := []
  /-- Times of home lines (R331), by line key; of device memory, those of the lines that the L2 slices hold. FLOOR by slice. -/
  times : AMap Times := []
  floor : AMap DWord := []
  /-- Leased copies: by cache, core or 1000 + cluster for a scale cache, and line (R327, R334, R338). -/
  l1 : AMap (AMap Lease) := []
  /-- The core that holds a line exclusive, by line (R331); its data and times stand at the home key. -/
  holder : AMap Nat := []
  /-- The slice that home-pinned granules are homed in (R172), by granule. -/
  pins : AMap Nat := []
  /-- Code lines of the L1 instruction caches: by core and line (R327, R336). -/
  icode : AMap (AMap (List Byte)) := []
  config : Nat := 0
  /-- A PART_SET whose pre-emptions are not complete (R412). -/
  partSet : Option Cmd := none
  gates : List Bool := [true, true, true, true]
  vds : AMap VDev := []
  /-- Translation caches: by core the L1 TLB, by 1000 + cluster the L2 TLB, newest first (R421). -/
  tlb : AMap (List Trans) := []
  /-- Translations that walks have found, or that the write of an entry has taken from a page, and no completed shootdown has covered since
  (R389 to R391, R423). -/
  walked : List Trans := []
  shoot : List Shoot := []
  /-- Granules in T0 and T2 (all others in T1), pinned granules, dirty granules, T2 extents by memory slice (R424). -/
  t0 : List Nat := []
  t2 : List Nat := []
  pinned : List Nat := []
  dirtyGran : List Nat := []
  tier2 : AMap (List (Nat × Nat)) := []
  /-- The cycle of the latest access at a granule's homes (R426). -/
  granUse : AMap Nat := []
  queues : AMap Queue := []
  graphs : AMap Graph := []
  launches : AMap Launch := []
  images : AMap Image := []
  slots : AMap (AMap ImgSlot) := []
  fills : AMap (List Fill) := []
  /-- Valid lines of the decoded-operation cache, by cluster (R385). -/
  lines : AMap (List Line) := []
  ports : AMap Port := []
  links : AMap Link := []
  /-- Cluster state: retired (nonvolatile), retired and not yet cleared, the ticks of a unit's corrections of the last hour, newest first,
  and of its resets (R457, R461). -/
  retiredSet : List Nat := []
  retiring : List Nat := []
  corrections : AMap (List Nat) := []
  resets : AMap (List Nat) := []
  autoRetire : Bool := false
  signedOnly : Bool := false
  /-- The key store: by slot, the key it holds; slot 0 the root key. What the signed key manifest in flash gives slots 1 to 15 (R380, R484). -/
  keys : AMap Nat := [(0, 0)]
  manifest : AMap Nat := []
  stage : Nat := 6
  ready : Bool := true
  power : Nat := 3600
  clock : Nat := 2700
  skipping : Bool := false
  perf : AMap DWord := []
  /-- Outputs, newest first: MSI-X vectors raised (port, vector); answers to the host and to peers, with the poison bit (R455), none for
  an Unsupported Request (R477); BRKPTs notified (team, n, address). -/
  msix : List (Nat × Nat) := []
  reads : List (Option (List Byte × Bool)) := []
  breaks : List (Nat × Nat × DWord) := []
  /-- The model's own fields: what moves next, whether the last agent waited, the counter of free values. -/
  inputs : List Input := []
  turn : Agent := .thread 0 0
  stalled : Bool := false
  free : Nat := 0
  deriving DecidableEq, Repr

/-- Reasons a step stops with a fault. -/
inductive Fault where
  /-- The meaning of an encoded instruction was asked of an agent that does not exist, has exited, or is not of the class that
  executes it (a thread for classes 00 and 01, a stream for class 10). Raised by exec alone; step never asks it. Safe. -/
  | noAgent
  deriving DecidableEq, Repr

/-- Reasons a step is refused. -/
inductive Refusal where
  /-- No meaning yet for the instruction of this mnemonic. Raised by Dispatch only. Safe. -/
  | notModelled (mnemonic : String)
  deriving DecidableEq, Repr

abbrev Out := Host.Outcome State Fault Refusal

/-- The port registers at boot: port 0 is OWNER of every partition of CONFIG 0, port 1 is unbound (R477, R484). -/
def bootPorts : AMap Port := [(0, { owner := true, parts := 1 }), (1, {})]

def bootLinks : Nat → AMap Link
  | 0 => []
  | n + 1 => AMap.set (bootLinks n) n {}

/-- The package right after reset (R484 stage 6); values the spec does not state are those of logs 4, 6, 11 and 12. -/
def State.reset : State := { ports := bootPorts, links := bootLinks 16 }

end Sys2Proof.Machine
end

