-- ==== Sys2Proof/Machine/Flags.lean ====
section
/-! DEFINITION. Arithmetic: integer values under a type (R41, R97 to R112), the number formats bit by bit, exact values, rounding
and the sticky flags each result raises (R43 to R61, R142 to R163). Pure functions of bits. -/

namespace Sys2Proof.Machine

/-! ## Integers -/

/-- The value that a w-bit pattern represents (R41). -/
def toVal (signed : Bool) (w x : Nat) : Int :=
  let y := x % 2 ^ w
  if signed && decide (2 ^ (w - 1) ≤ y) then (y : Int) - 2 ^ w else y

/-- wrap(x, w) (R5). -/
def wrapZ (w : Nat) (x : Int) : Nat := (x % (2 ^ w : Int)).toNat

/-- The clamp of R41. -/
def clampZ (signed : Bool) (w : Nat) (x : Int) : Int :=
  let lo : Int := if signed then -(2 ^ (w - 1) : Int) else 0
  let hi : Int := if signed then (2 ^ (w - 1) : Int) - 1 else 2 ^ w - 1
  if x < lo then lo else if hi < x then hi else x

/-- A w-bit result as written to its destination: an 8-bit or 16-bit result fills the register (R39). -/
def extendTo (signed : Bool) (w x : Nat) : Nat := if w < 32 then wrapZ 32 (toVal signed w x) else x

/-- The result of R97 and R41: clamped under .sat, wrapped otherwise, extended per R39. -/
def intResult (t : ElTy) (sat : Bool) (x : Int) : Nat :=
  extendTo t.signed t.width (if sat then wrapZ t.width (clampZ t.signed t.width x) else wrapZ t.width x)

/-- The condition of R101 over values and bit patterns. -/
def intCond (sub : Nat) (x y : Int) (bx bz : Nat) : Bool :=
  match sub with
  | 0 => x == y | 1 => x != y | 2 => decide (x < y) | 3 => decide (x ≤ y)
  | 4 => decide (y < x) | 5 => decide (y ≤ x) | 6 => Nat.land bx bz != 0 | _ => Nat.land bx bz == 0

/-- IDIV and IREM (R100). -/
def intDiv (t : ElTy) (x y : Int) : Int :=
  if y = 0 then (if t.signed then -1 else 2 ^ t.width - 1)
  else if t.signed && x == -(2 ^ (t.width - 1) : Int) && y == -1 then x
  else Int.tdiv x y

def intRem (t : ElTy) (x y : Int) : Int :=
  if y = 0 then x
  else if t.signed && x == -(2 ^ (t.width - 1) : Int) && y == -1 then 0
  else x - Int.tdiv x y * y

def shiftL (w a n : Nat) : Nat := if n < w then a * 2 ^ n % 2 ^ w else 0
def shiftR (w a n : Nat) : Nat := if n < w then a / 2 ^ n else 0
/-- SAR (R107): beyond the width, every bit is the sign bit. -/
def shiftA (w a n : Nat) : Nat := wrapZ w (toVal true w a / (2 ^ (if n < w then n else w - 1) : Int))
def rotL (w a n : Nat) : Nat := let k := n % w; (a * 2 ^ k + a / 2 ^ (w - k)) % 2 ^ w

/-- BEXT (R109). -/
def bitExtract (signed : Bool) (w a ctl : Nat) : Nat :=
  let pos := ctl % 256
  let len := min (ctl / 256 % 256) w
  let f := a / 2 ^ pos % 2 ^ len
  if len = 0 then 0 else wrapZ w (toVal signed len f)

/-- BINS (R109). -/
def bitInsert (w a b ctl : Nat) : Nat :=
  let pos := ctl % 256
  let len := min (ctl / 256 % 256) w
  let m := (2 ^ len - 1) * 2 ^ pos % 2 ^ w
  a - Nat.land a m + Nat.land (b * 2 ^ pos % 2 ^ w) m

/-- Bits of x from the lowest, `w` of them. -/
def bitList : Nat → Nat → List Bool
  | 0, _ => []
  | w + 1, x => (x % 2 == 1) :: bitList w (x / 2)

def ofBits : List Bool → Nat
  | [] => 0
  | b :: r => (if b then 1 else 0) + 2 * ofBits r

def bitReverse (w x : Nat) : Nat := ofBits (bitList w x).reverse
def popCount (w x : Nat) : Nat := (bitList w x).count true
def trailingZeros (w x : Nat) : Nat := ((bitList w x).takeWhile (· == false)).length
def leadingZeros (w x : Nat) : Nat := ((bitList w x).reverse.takeWhile (· == false)).length

/-- LUT (R106): bit (4x + 2y + z) of the truth table. -/
def tableBit (tt : Nat) (x y z : Bool) : Bool :=
  tt / 2 ^ ((if x then 4 else 0) + (if y then 2 else 0) + (if z then 1 else 0)) % 2 == 1

def tableFn (tt w a b c : Nat) : Nat :=
  ofBits (((bitList w a).zip ((bitList w b).zip (bitList w c))).map fun t => tableBit tt t.1 t.2.1 t.2.2)

/-- BPERM (R111). -/
def bytePerm (a b c : Nat) : Nat :=
  let src (k : Nat) : Nat := (if k < 4 then a / 2 ^ (8 * k) else b / 2 ^ (8 * (k - 4))) % 256
  let one (i : Nat) : Nat :=
    let g := c / 2 ^ (4 * i) % 16
    let k := g % 8
    if g < 8 then src k else if 128 ≤ src k then 255 else 0
  one 0 + 256 * one 1 + 65536 * one 2 + 16777216 * one 3

/-- MIXH (R112). -/
def mixRounds : Nat → Nat → Nat → Nat
  | 0, x, _ => x
  | n + 1, x, b =>
    let y := Nat.xor x b * 0x9E3779B1 % 2 ^ 32
    mixRounds n (Nat.xor y (y / 65536)) b

/-! ## Floating values -/

/-- An exact value of a float format: a finite nonzero one is (−1)^neg × m × 2^e. -/
inductive FV where
  | nan (signalling : Bool)
  | inf (neg : Bool)
  | zero (neg : Bool)
  | fin (neg : Bool) (m : Nat) (e : Int)
  deriving DecidableEq, Repr

/-- Exponent bits, fraction bits and bias (R43). -/
def ieee : ElTy → Nat × Nat × Int
  | .f16 => (5, 10, 15)
  | .bf16 => (8, 7, 127)
  | .e4m3 => (4, 3, 7)
  | .e5m2 => (5, 2, 15)
  | _ => (8, 23, 127)

def isTapered : ElTy → Bool
  | .tap8 | .tap6 => true
  | _ => false

/-- The formats with an infinity (R43). -/
def hasInfinity : ElTy → Bool
  | .f32 | .f16 | .bf16 | .e5m2 => true
  | _ => false

/-- The canonical NaN (R43, R48, R50). -/
def canonNan : ElTy → Nat
  | .f16 => 0x7E00 | .bf16 => 0x7FC0 | .e4m3 => 0x7F | .e5m2 => 0x7E | .tap8 => 0x80 | .tap6 => 0x20
  | _ => 0x7FC00000

/-- Length of the run of bits equal to the first (R48). -/
def runLen : List Bool → Nat
  | [] => 0
  | [_] => 1
  | a :: b :: r => if a == b then 1 + runLen (b :: r) else 1

/-- The magnitude of a tapered code, in units of 2^−12 for taper8 and 2^−4 for taper6 (R48 to R50). -/
def taperMag (t : ElTy) (mag : Nat) : Nat :=
  if mag = 0 then 0
  else
    let n := if t = .tap8 then 7 else 5
    let bits := (bitList n mag).reverse
    let run := runLen bits
    let k : Int := if bits.head? == some true then (run : Int) - 1 else -(run : Int)
    let nb := n - run - 1
    let tail := mag % 2 ^ nb
    if t = .tap8 then
      let e := if nb = 0 then 0 else tail / 2 ^ (nb - 1) % 2
      let fb := nb - 1
      let f := tail % 2 ^ fb
      (2 ^ fb + f) * 2 ^ (2 * k + e + 12 - fb).toNat
    else (2 ^ nb + tail) * 2 ^ (k + 4 - nb).toNat

/-- The exact value of a code (R43 to R51). -/
def decodeF (t : ElTy) (x : Nat) : FV :=
  if isTapered t then
    let n := if t = .tap8 then 7 else 5
    let neg := x / 2 ^ n % 2 == 1
    let mag := x % 2 ^ n
    if mag = 0 then (if neg then .nan false else .zero false)
    else .fin neg (taperMag t mag) (if t = .tap8 then -12 else -4)
  else
    let (eb, fb, bias) := ieee t
    let neg := x / 2 ^ (eb + fb) % 2 == 1
    let ex := x / 2 ^ fb % 2 ^ eb
    let fr := x % 2 ^ fb
    if ex = 2 ^ eb - 1 ∧ t ≠ .e4m3 then
      if fr = 0 then .inf neg else .nan (decide (t ≠ .e5m2) && decide (fr < 2 ^ (fb - 1)))
    else if t = .e4m3 ∧ ex = 15 ∧ fr = 7 then .nan false
    else if ex = 0 then (if fr = 0 then .zero neg else .fin neg fr (1 - bias - fb))
    else .fin neg (2 ^ fb + fr) ((ex : Int) - bias - fb)

/-- .ftz of an f32 input: a subnormal becomes the zero of its sign (R45). -/
def flushIn (ftz : Bool) (x : Nat) : Nat :=
  if ftz && x / 2 ^ 23 % 256 == 0 then x / 2 ^ 31 * 2 ^ 31 else x

/-- A result: its bits, the sticky flags NV DZ OF UF NX (R28), and the status events of a drain (R62): overflow to infinity,
saturation, a NaN. -/
structure FR where
  bits : Nat
  flags : BitVec 5 := 0
  ovf : Bool := false
  sat : Bool := false
  isNan : Bool := false
  deriving DecidableEq, Repr

def fNV : BitVec 5 := 16
def fDZ : BitVec 5 := 8
def fOF : BitVec 5 := 4
def fUF : BitVec 5 := 2
def fNX : BitVec 5 := 1

/-- How a conversion rounds: mode (R53), saturate, NaN mode (R56, R58), .ftz of an f32 result. -/
structure Rnd where
  mode : Nat := 0
  sat : Bool := false
  nanm : Nat := 0
  ftz : Bool := false
  deriving DecidableEq, Repr

/-- A NaN written under the NaN mode (R58). -/
def nanResult (t : ElTy) (r : Rnd) (fl : BitVec 5) : FR :=
  { bits := if r.nanm = 1 then 0 else canonNan t, flags := fl, isNan := true }

def signBit (t : ElTy) (neg : Bool) : Nat :=
  if neg then (if t = .tap8 then 128 else if t = .tap6 then 32 else 2 ^ (t.width - 1)) else 0

def zeroBits (t : ElTy) (neg : Bool) : Nat := if isTapered t then 0 else signBit t neg

/-- The bits of the largest finite magnitude (R43, R49, R50). -/
def maxBits (t : ElTy) : Nat :=
  match t with
  | .f16 => 0x7BFF | .bf16 => 0x7F7F | .e4m3 => 0x7E | .e5m2 => 0x7B | .tap8 => 0x7F | .tap6 => 0x1F
  | _ => 0x7F7FFFFF

def infBits (t : ElTy) (neg : Bool) : Nat :=
  let (eb, fb, _) := ieee t
  signBit t neg + (2 ^ eb - 1) * 2 ^ fb

/-- Overflow of a finite value (R56). -/
def overflow (t : ElTy) (r : Rnd) (neg : Bool) : FR :=
  let fl := fOF ||| fNX
  if r.mode = 1 ∨ (r.mode = 2 ∧ neg = false) ∨ (r.mode = 3 ∧ neg) then { bits := signBit t neg + maxBits t, flags := fl }
  else if r.sat then { bits := signBit t neg + maxBits t, flags := fl, sat := true }
  else if hasInfinity t then { bits := infBits t neg, flags := fl, ovf := true }
  else nanResult t r fl

/-- An infinite source (R56). -/
def fromInf (t : ElTy) (r : Rnd) (neg : Bool) : FR :=
  if r.sat then { bits := signBit t neg + maxBits t, sat := true }
  else if hasInfinity t then { bits := infBits t neg }
  else nanResult t r fNV

/-- Whether rounding goes up, from the kept value's low bit and the comparison of the rest with one half. -/
def roundsUp (mode : Nat) (neg odd : Bool) (half : Ordering) (inexact : Bool) : Bool :=
  match mode with
  | 0 => half == .gt || (half == .eq && odd)
  | 1 => false
  | 2 => inexact && neg
  | _ => inexact && !neg

/-- (m + δ) × 2^e rounded to a multiple of 2^k, with 0 < δ < 1 when `sticky`: the multiple, and whether it is inexact. -/
def roundAt (mode : Nat) (neg : Bool) (m : Nat) (e : Int) (sticky : Bool) (k : Int) : Nat × Bool :=
  if k ≤ e then (m * 2 ^ (e - k).toNat, sticky)
  else
    let d := (k - e).toNat
    let n := m / 2 ^ d
    let rest := m % 2 ^ d
    let h := 2 ^ (d - 1)
    let half : Ordering := if rest < h then .lt else if h < rest ∨ sticky then .gt else .eq
    let ix := rest != 0 || sticky
    (n + (if roundsUp mode neg (n % 2 == 1) half ix then 1 else 0), ix)

def bitLen (n : Nat) : Nat := if n = 0 then 0 else Nat.log2 n + 1

/-- Rounding into an IEEE-style format (R45, R54, R56). -/
def roundIeee (t : ElTy) (r : Rnd) (neg : Bool) (m : Nat) (e : Int) (sticky : Bool) : FR :=
  let (_, fb, bias) := ieee t
  let emin : Int := 1 - bias
  let ex : Int := e + bitLen m - 1
  let unb := roundAt r.mode neg m e sticky (ex - fb)
  let uEx : Int := ex - fb + bitLen unb.1 - 1
  let tiny : Bool := decide (uEx < emin)
  let k := max ex emin - fb
  let (n, ix) := roundAt r.mode neg m e sticky k
  let top : Int := k + bitLen n - 1
  let enc := if n < 2 ^ fb then n else
    let sh := bitLen n - 1 - fb
    ((top + bias).toNat) * 2 ^ fb + (n / 2 ^ sh - 2 ^ fb)
  if n ≠ 0 ∧ maxBits t < enc then overflow t r neg
  else
    let fl := (if ix then fNX else 0) ||| (if tiny && ix then fUF else 0)
    if r.ftz && decide (t = .f32) && (decide (n < 2 ^ fb) || false) then
      { bits := signBit t neg, flags := fl ||| fUF ||| fNX }
    else { bits := signBit t neg + enc, flags := fl }

/-- Comparison of (m + δ) × 2^e with u × 2^−s. -/
def cmpUnits (m : Nat) (e : Int) (sticky : Bool) (u s : Nat) : Ordering :=
  let a := if -(s : Int) ≤ e then m * 2 ^ (e + s).toNat else m
  let b := if -(s : Int) ≤ e then u else u * 2 ^ (-(s : Int) - e).toNat
  if a < b then .lt else if b < a ∨ sticky then .gt else .eq

/-- The largest code up to `n` whose magnitude does not exceed the value. -/
def floorCode (t : ElTy) (m : Nat) (e : Int) (sticky : Bool) (s : Nat) : Nat → Nat
  | 0 => 0
  | n + 1 => if cmpUnits m e sticky (taperMag t (n + 1)) s == .lt then floorCode t m e sticky s n else n + 1

/-- Rounding into taper8 and taper6 (R45, R55, R56). -/
def roundTaper (t : ElTy) (r : Rnd) (neg : Bool) (m : Nat) (e : Int) (sticky : Bool) : FR :=
  let s := if t = .tap8 then 12 else 4
  let last := if t = .tap8 then 127 else 31
  let c := floorCode t m e sticky s last
  let exact := c != 0 && cmpUnits m e sticky (taperMag t c) s == .eq
  if exact then { bits := signBit t neg + c }
  else if c = last then overflow t r neg
  else
    let half := cmpUnits m e sticky (taperMag t c + taperMag t (c + 1)) (s + 1)
    let up := roundsUp r.mode neg (c % 2 == 1) half true
    let q := if up then c + 1 else c
    { bits := if q = 0 then 0 else signBit t neg + q, flags := if c = 0 then fUF ||| fNX else fNX }

/-- A finite nonzero value rounded into a format. -/
def roundF (t : ElTy) (r : Rnd) (neg : Bool) (m : Nat) (e : Int) (sticky : Bool) : FR :=
  if isTapered t then roundTaper t r neg m e sticky else roundIeee t r neg m e sticky

/-- A value converted into a format (R57, R58): NaN, infinity, zero, finite. -/
def toFormat (t : ElTy) (r : Rnd) : FV → FR
  | .nan sg => nanResult t r (if sg then fNV else 0)
  | .inf neg => fromInf t r neg
  | .zero neg => { bits := zeroBits t neg }
  | .fin neg m e => roundF t r neg m e false

/-! ## Exact operations -/

def FV.neg : FV → FV
  | .nan s => .nan s
  | .inf b => .inf (!b)
  | .zero b => .zero (!b)
  | .fin b m e => .fin (!b) m e

def FV.isNan : FV → Bool
  | .nan _ => true
  | _ => false

def FV.isSnan : FV → Bool
  | .nan s => s
  | _ => false

def FV.sign : FV → Bool
  | .nan _ => false
  | .inf b | .zero b | .fin b _ _ => b

/-- The exact sum of two finite values; cancellation gives −0 in mode rm and +0 otherwise (R46). -/
def addFin (mode : Nat) (n1 : Bool) (m1 : Nat) (e1 : Int) (n2 : Bool) (m2 : Nat) (e2 : Int) : FV :=
  let e := min e1 e2
  let a : Int := (if n1 then -1 else 1) * (m1 * 2 ^ (e1 - e).toNat : Nat)
  let b : Int := (if n2 then -1 else 1) * (m2 * 2 ^ (e2 - e).toNat : Nat)
  let c := a + b
  if c = 0 then .zero (mode == 2) else .fin (decide (c < 0)) c.natAbs e

/-- x + y, exactly; none when invalid (∞ − ∞), R142. -/
def addV (mode : Nat) : FV → FV → Option FV
  | .nan s, _ => some (.nan s)
  | _, .nan s => some (.nan s)
  | .inf a, .inf b => if a = b then some (.inf a) else none
  | .inf a, _ | _, .inf a => some (.inf a)
  | .zero a, .zero b => some (if a = b then .zero a else .zero (mode == 2))
  | .zero _, y => some y
  | x, .zero _ => some x
  | .fin n1 m1 e1, .fin n2 m2 e2 => some (addFin mode n1 m1 e1 n2 m2 e2)

/-- x × y, exactly; none when invalid (0 × ∞), R142. -/
def mulV : FV → FV → Option FV
  | .nan s, _ => some (.nan s)
  | _, .nan s => some (.nan s)
  | .inf a, .zero _ | .zero a, .inf _ => (fun _ : Bool => none) a
  | .inf a, y | y, .inf a => some (.inf (a != y.sign))
  | .zero a, y | y, .zero a => some (.zero (a != y.sign))
  | .fin n1 m1 e1, .fin n2 m2 e2 => some (.fin (n1 != n2) (m1 * m2) (e1 + e2))

/-- The shared ending of R142: signalling operands raise NV, an invalid case gives the canonical NaN with NV. -/
def finishF (t : ElTy) (r : Rnd) (ops : List FV) (x : Option FV) : FR :=
  let sn : BitVec 5 := if ops.any FV.isSnan then fNV else 0
  match x with
  | none => { bits := canonNan t, flags := fNV, isNan := true }
  | some v =>
    if ops.any FV.isNan then { bits := canonNan t, flags := sn, isNan := true }
    else let f := toFormat t r v; { f with flags := f.flags ||| sn }

def opAdd (t : ElTy) (r : Rnd) (x y : Nat) : FR :=
  let a := decodeF t x; let b := decodeF t y
  finishF t r [a, b] (addV r.mode a b)

def opSub (t : ElTy) (r : Rnd) (x y : Nat) : FR :=
  let a := decodeF t x; let b := decodeF t y
  finishF t r [a, b] (addV r.mode a b.neg)

def opMul (t : ElTy) (r : Rnd) (x y : Nat) : FR :=
  let a := decodeF t x; let b := decodeF t y
  finishF t r [a, b] (mulV a b)

/-- FFMA: one rounding; 0 × ∞ is invalid whatever c is (R142). -/
def opFma (t : ElTy) (r : Rnd) (x y z : Nat) : FR :=
  let a := decodeF t x; let b := decodeF t y; let c := decodeF t z
  finishF t r [a, b, c] ((mulV a b).bind fun p => addV r.mode p c)

/-- x < y over values that are no NaN, with −0 below +0 when `zeros`. -/
def ltV (zeros : Bool) : FV → FV → Bool
  | .inf a, .inf b => a && !b
  | .inf a, _ => a
  | _, .inf b => !b
  | .zero a, .zero b => zeros && a && !b
  | .zero _, y => !y.sign
  | x, .zero _ => x.sign
  | .fin n1 m1 e1, .fin n2 m2 e2 =>
    let e := min e1 e2
    let a : Int := (if n1 then -1 else 1) * (m1 * 2 ^ (e1 - e).toNat : Nat)
    let b : Int := (if n2 then -1 else 1) * (m2 * 2 ^ (e2 - e).toNat : Nat)
    decide (a < b)
  | _, _ => false

/-- FMIN and FMAX (R145). -/
def opMinMax (t : ElTy) (isMax nanMode : Bool) (x y : Nat) : FR :=
  let a := decodeF t x; let b := decodeF t y
  let fl : BitVec 5 := if a.isSnan || b.isSnan then fNV else 0
  if a.isNan && b.isNan then { bits := canonNan t, flags := fl }
  else if a.isNan || b.isNan then
    { bits := if nanMode then canonNan t else if a.isNan then y else x, flags := fl }
  else
    let less := ltV true a b
    { bits := if less != isMax then x else y, flags := fl }

/-- The condition of R146, and whether NV is raised. -/
def floatCond (sub : Nat) (x y : Nat) : Bool × BitVec 5 :=
  let a := decodeF .f32 x; let b := decodeF .f32 y
  let un := a.isNan || b.isNan
  let lt := !un && ltV false a b
  let gt := !un && ltV false b a
  let eq := !un && !lt && !gt
  let rel (k : Nat) : Bool :=
    match k with
    | 0 => eq | 1 => !un && !eq | 2 => lt | 3 => lt || eq | 4 => gt | _ => gt || eq
  let r := if sub < 6 then rel sub else if sub = 6 then !un else if sub = 7 then un else un || rel (sub - 8)
  let nv := a.isSnan || b.isSnan || (un && decide (2 ≤ sub ∧ sub ≤ 5))
  (r, if nv then fNV else 0)

/-- FSCALE (R143): beyond a factor of 2^±1000 every finite f32 rounds as it does there. -/
def opScale (r : Rnd) (x : Nat) (n : Int) : FR :=
  match decodeF .f32 x with
  | .fin neg m e => roundF .f32 r neg m (e + max (-1000) (min 1000 n)) false
  | .nan s => { bits := canonNan .f32, flags := if s then fNV else 0 }
  | _ => { bits := x }

/-- The integer nearest to a finite value in a mode, and whether it differs (R59, R144). -/
def roundInt (mode : Nat) (neg : Bool) (m : Nat) (e : Int) : Int × Bool :=
  let (n, ix) := roundAt mode neg m e false 0
  (if neg then -(n : Int) else n, ix)

/-- FRND (R144). -/
def opRound (mode : Nat) (x : Nat) : FR :=
  match decodeF .f32 x with
  | .fin neg m e =>
    let (z, _) := roundInt mode neg m e
    if z = 0 then { bits := signBit .f32 neg }
    else { bits := (roundF .f32 { mode := 1 } neg z.natAbs 0 false).bits }
  | .nan s => { bits := canonNan .f32, flags := if s then fNV else 0 }
  | _ => { bits := x }

/-- FCLASS (R148). -/
def classBit (x : Nat) : Nat :=
  match decodeF .f32 x with
  | .nan true => 8
  | .nan false => 9
  | .inf n => if n then 0 else 7
  | .zero n => if n then 3 else 4
  | .fin n _ _ =>
    let sub := x / 2 ^ 23 % 256 == 0
    if n then (if sub then 2 else 1) else if sub then 5 else 6

/-- The integer square root, by bits from `2^n` down. -/
def isqrtFrom (x : Nat) : Nat → Nat → Nat
  | 0, r => r
  | n + 1, r => if (r + 2 ^ n) * (r + 2 ^ n) ≤ x then isqrtFrom x n (r + 2 ^ n) else isqrtFrom x n r

def isqrt (x : Nat) : Nat := isqrtFrom x (bitLen x / 2 + 1) 0

/-- FDIV (R149, R151). -/
def opDiv (r : Rnd) (x y : Nat) : FR :=
  let a := decodeF .f32 x; let b := decodeF .f32 y
  let sn : BitVec 5 := if a.isSnan || b.isSnan then fNV else 0
  let s := a.sign != b.sign
  if a.isNan || b.isNan then { bits := canonNan .f32, flags := sn }
  else match a, b with
    | .zero _, .zero _ | .inf _, .inf _ => { bits := canonNan .f32, flags := fNV }
    | .inf _, _ => { bits := infBits .f32 s }
    | _, .inf _ => { bits := signBit .f32 s }
    | .zero _, _ => { bits := signBit .f32 s }
    | _, .zero _ => { bits := infBits .f32 s, flags := fDZ }
    | .fin _ m1 e1, .fin _ m2 e2 =>
      roundF .f32 r s (m1 * 2 ^ 64 / m2) (e1 - e2 - 64) (m1 * 2 ^ 64 % m2 != 0)
    | _, _ => { bits := 0 }

/-- FRCP (R149, R151). -/
def opRcp (r : Rnd) (x : Nat) : FR := opDiv r 0x3F800000 x

/-- FSQRT and FRSQ (R149, R151). -/
def opSqrt (r : Rnd) (x : Nat) : FR :=
  match decodeF .f32 x with
  | .nan s => { bits := canonNan .f32, flags := if s then fNV else 0 }
  | .zero _ => { bits := x }
  | .inf false => { bits := x }
  | .fin false m e =>
    let m' := if e % 2 = 0 then m * 2 ^ 64 else m * 2 ^ 65
    let e' := if e % 2 = 0 then e - 64 else e - 65
    let q := isqrt m'
    roundF .f32 r false q (e' / 2) (q * q != m')
  | _ => { bits := canonNan .f32, flags := fNV }

def opRsqrt (r : Rnd) (x : Nat) : FR :=
  match decodeF .f32 x with
  | .nan s => { bits := canonNan .f32, flags := if s then fNV else 0 }
  | .zero n => { bits := infBits .f32 n, flags := fDZ }
  | .inf false => { bits := 0 }
  | .fin false m e =>
    let m' := if e % 2 = 0 then m else m * 2
    let e' := if e % 2 = 0 then e else e - 1
    let q := isqrt (2 ^ 128 / m')
    roundF .f32 r false q (-64 - e' / 2) (q * q * m' != 2 ^ 128)
  | _ => { bits := canonNan .f32, flags := fNV }

/-- Whether a value is 2^n: the n. -/
def powerOf (m : Nat) (e : Int) : Option Int :=
  if m = 2 ^ Nat.log2 m then some (e + Nat.log2 m) else none

/-- A small integer as f32 bits. -/
def intF32 (z : Int) : Nat :=
  if z = 0 then 0 else (roundF .f32 {} (decide (z < 0)) z.natAbs 0 false).bits

/-- ln 2 in units of 2^−256 and 2π in units of 2^−400, both rounded down. -/
def ln2Fix : Nat := 80260960185991308862233904206310070533990667611589946606122867505419956976171
def twoPiFix : Nat :=
  16224754493461942477724542702601789038322303200358530407182382075230461810747980997491046721853633630855133559454655152472

/-- A power series in `u`, of units of 2^−256: terms from number `k` on, each the one before it times u and divided by `div k`, `n` of them, their
signs those of `sign`. -/
def seriesFix (u : Nat) (div : Nat → Nat) (sign : Nat → Bool) : Nat → Nat → Nat → Int
  | 0, _, _ => 0
  | n + 1, k, term => (if sign k then -(term : Int) else term) + seriesFix u div sign n (k + 1) (term * u / 2 ^ 256 / div k)

/-- e^−t for a t of units of 2^−256: a series at t / 2^12, squared 12 times. -/
def expNegFix (t : Nat) : Nat :=
  if 200 * 2 ^ 256 < t then 0
  else (List.range 12).foldl (fun x _ => x * x / 2 ^ 256) (seriesFix (t / 2 ^ 12) (fun k => k + 1) (fun k => k % 2 == 1) 48 0 (2 ^ 256)).toNat

/-- sin and cos of an angle of units of 2^−256, below 2π. -/
def sinFix (r : Nat) : Int := seriesFix (r * r / 2 ^ 256) (fun k => (2 * k + 2) * (2 * k + 3)) (fun k => k % 2 == 1) 64 0 r
def cosFix (r : Nat) : Int := seriesFix (r * r / 2 ^ 256) (fun k => (2 * k + 1) * (2 * k + 2)) (fun k => k % 2 == 1) 64 0 (2 ^ 256)

/-- `n` bits of log2 of x, for an x from 1 to 2 of units of 2^−256. -/
def log2Fix : Nat → Nat → Nat → Nat
  | 0, _, acc => acc
  | n + 1, x, acc =>
    let y := x * x / 2 ^ 256
    if 2 ^ 257 ≤ y then log2Fix n (y / 2) (2 * acc + 1) else log2Fix n y (2 * acc)

/-- A magnitude m × 2^e in units of 2^−b. -/
def toFix (b : Nat) (m : Nat) (e : Int) : Nat := if 0 ≤ e + b then m * 2 ^ (e + b).toNat else m / 2 ^ (-(e + b)).toNat

/-- The exact value that an operation of R150 approximates, of a finite nonzero operand ±m × 2^e, in units of 2^−512. -/
def exactFix (op : Nat) (neg : Bool) (m : Nat) (e : Int) : Int :=
  let x := toFix 256 m (min e 200)
  match op with
  | 0 =>
    let z := (roundInt 2 neg m e).1
    let v : Int := if neg then -(x : Int) else x
    let f := (v - (max (-1000) (min z 1000)) * 2 ^ 256).toNat
    if z < -250 then 0 else 2 * (expNegFix ((2 ^ 256 - f) * ln2Fix / 2 ^ 256) : Int) * 2 ^ (256 + z).toNat
  | 1 =>
    let k := Nat.log2 m
    ((e + k) * 2 ^ 200 + log2Fix 200 (m * 2 ^ (256 - k)) 0) * 2 ^ 312
  | 2 | 3 =>
    let r := toFix 400 m e % twoPiFix / 2 ^ 144
    (if op = 3 then cosFix r else if neg then -sinFix r else sinFix r) * 2 ^ 256
  | 4 =>
    let q := expNegFix (2 * x)
    let y : Int := ((2 ^ 256 - q) * 2 ^ 512 / (2 ^ 256 + q) : Nat)
    if neg then -y else y
  | _ =>
    let q := expNegFix x
    ((if neg then q else 2 ^ 256) * 2 ^ 512 / (2 ^ 256 + q) : Nat)

/-- How much the exact value of an operation of R150 exceeds, in magnitude, what is known of it, at the most and in part: a logarithm is known
within 2^−190, the others within 2^−230 and 2^−220 of themselves. No f32 value, nor one 2 ulp or 2^−24 from it, lies so close above the exact
one's magnitude. -/
def fixSlack (op : Nat) (y : Int) : Nat := (if op = 1 then 2 ^ 322 else 2 ^ 282) + y.natAbs / 2 ^ 220

/-- A magnitude, in units of 2^−512, that the exact one exceeds, and no value to compare it with lies between them. -/
def exactMag (op : Nat) (neg : Bool) (m : Nat) (e : Int) : Nat := (exactFix op neg m e).natAbs - fixSlack op (exactFix op neg m e)

/-- The bound of R150 about a magnitude, in units of 2^−512: 2 ulp, or the larger of 2 ulp and 2^−24 for FLOG2, FSIN and FCOS. -/
def boundFix (op y : Nat) : Nat :=
  let ulp2 := 2 ^ (max (Nat.log2 y) 386 - 22)
  if op = 1 ∨ op = 2 ∨ op = 3 then max ulp2 (2 ^ 488) else ulp2

/-- A finite f32 value in units of 2^−512. -/
def valueFix (b : Nat) : Option Int :=
  match decodeF .f32 b with
  | .zero _ => some 0
  | .fin neg m e => some (if neg then -((m * 2 ^ (e + 512).toNat : Nat) : Int) else (m * 2 ^ (e + 512).toNat : Nat))
  | _ => none

/-- Whether a value's distance from the exact one keeps the bound of R150. -/
def withinBound (op : Nat) (neg : Bool) (m : Nat) (e : Int) (b : Nat) : Bool :=
  let y := exactMag op neg m e
  let n := decide (exactFix op neg m e < 0)
  (valueFix b).any fun v =>
    let v := if n then -v else v
    decide ((y : Int) < v + boundFix op y) && decide (v ≤ y + boundFix op y)

/-- The f32 value nearest to the exact one. -/
def nearestFix (op : Nat) (neg : Bool) (m : Nat) (e : Int) : Nat :=
  (roundF .f32 {} (decide (exactFix op neg m e < 0)) (exactMag op neg m e) (-512) true).bits

/-- The approximate result of R150: NX, UF when its magnitude lies below 2^−126, flushed under FTZ. The value is the open function of
Config, where it keeps the bound, and else the nearest one (log 8). -/
def approxResult (op : Nat) (ftz : Bool) (x : Nat) (neg : Bool) (m : Nat) (e : Int) : FR :=
  let a := (Config.approx op ftz (BitVec.ofNat 32 x)).toNat
  let b := if withinBound op neg m e a then a else nearestFix op neg m e
  if b / 2 ^ 23 % 256 = 0 then
    { bits := if ftz then b / 2 ^ 31 * 2 ^ 31 else b, flags := fUF ||| fNX }
  else { bits := b, flags := fNX }

/-- An exact result of R151; under FTZ a subnormal one is flushed with UF and NX (R150). -/
def exactResult (ftz : Bool) (b : Nat) : FR :=
  if ftz && b / 2 ^ 23 % 256 == 0 && b % 2 ^ 31 != 0 then { bits := b / 2 ^ 31 * 2 ^ 31, flags := fUF ||| fNX } else { bits := b }

/-- The six operations of R150: 0 FEXP2, 1 FLOG2, 2 FSIN, 3 FCOS, 4 FTANH, 5 FSIGM, with the special operands of R151. -/
def opTrans (op : Nat) (ftz : Bool) (x : Nat) : FR :=
  let one := 0x3F800000
  let nv : FR := { bits := canonNan .f32, flags := fNV }
  match decodeF .f32 x with
  | .nan s => { bits := canonNan .f32, flags := if s then fNV else 0 }
  | .zero n =>
    match op with
    | 0 | 3 => { bits := one }
    | 1 => { bits := infBits .f32 true, flags := fDZ }
    | 5 => { bits := 0x3F000000 }
    | _ => { bits := signBit .f32 n }
  | .inf n =>
    match op with
    | 0 => { bits := if n then 0 else infBits .f32 false }
    | 1 => if n then nv else { bits := infBits .f32 false }
    | 2 | 3 => nv
    | 4 => { bits := signBit .f32 n + one }
    | _ => { bits := if n then 0 else one }
  | .fin neg m e =>
    match op with
    | 0 =>
      let (z, ix) := roundInt 1 neg m e
      if neg = false ∧ 128 ≤ z then { bits := infBits .f32 false, flags := fOF ||| fNX }
      else if ix = false ∧ -149 ≤ z then exactResult ftz (roundF .f32 {} false 1 z false).bits
      else approxResult 0 ftz x neg m e
    | 1 =>
      if neg then nv
      else match powerOf m e with
        | some n => { bits := intF32 n }
        | none => approxResult 1 ftz x neg m e
    | k => approxResult k ftz x neg m e

/-! ## Conversions -/

/-- Float to integer (R59). -/
def floatToInt (t : ElTy) (sat : Bool) (mode : Nat) : FV → Nat × BitVec 5
  | .nan _ => (0, fNV)
  | .inf n =>
    (if sat then wrapZ t.width (clampZ t.signed t.width (if n then -(2 ^ 70) else 2 ^ 70)) else 0, fNV)
  | .zero _ => (0, 0)
  | .fin neg m e =>
    let (z, ix) := roundInt mode neg m e
    let nx : BitVec 5 := if ix then fNX else 0
    if clampZ t.signed t.width z = z then (wrapZ t.width z, nx)
    else (wrapZ t.width (if sat then clampZ t.signed t.width z else z), nx ||| fNV)

/-- Integer to float (R60). -/
def intToFloat (t : ElTy) (r : Rnd) (z : Int) : FR :=
  if z = 0 then { bits := 0 } else roundF t r (decide (z < 0)) z.natAbs 0 false

/-- Integer to integer (R60): widening extends by the source's signedness; .sat clamps. -/
def intToInt (src dst : ElTy) (sat : Bool) (x : Nat) : Nat :=
  let z := toVal src.signed src.width x
  wrapZ dst.width (if sat then clampZ dst.signed dst.width z else z)

/-- To E8M0 (R61). -/
def toE8M0 (mode : Nat) : FV → Nat × BitVec 5
  | .nan s => (255, if s then fNV else 0)
  | .inf _ => (255, 0)
  | .zero _ => (0, fUF ||| fNX)
  | .fin _ m e =>
    let l := Nat.log2 m
    let j : Int := e + l
    let exact := m = 2 ^ l
    let up : Bool := !exact &&
      (match mode with
       | 1 | 2 => false
       | 3 => true
       | _ => if 2 * m = 3 * 2 ^ l then (j + 127) % 2 == 1 else decide (3 * 2 ^ l < 2 * m))
    let k := if up then j + 1 else j
    let nx : BitVec 5 := if exact then 0 else fNX
    if 127 < k then (254, fOF ||| fNX) else if k < -127 then (0, fUF ||| fNX) else ((k + 127).toNat, nx)

/-- From E8M0 (R61): exact into f32; .ftz flushes 2^−127. -/
def fromE8M0 (ftz : Bool) (c : Nat) : FR :=
  if c = 255 then { bits := canonNan .f32 }
  else roundF .f32 { ftz := ftz } false 1 ((c : Int) - 127) false

/-- The value 2^(c − 127) of a scale code (R47). -/
def scaleV (c : Nat) : Option Int := if c = 255 then none else some ((c : Int) - 127)

/-- Format-slot word (R63). -/
structure Slot where
  elem : Nat
  scale : Nat
  lg : Nat
  rnd : Nat
  sat : Bool
  nanm : Nat
  deriving DecidableEq, Repr

def slotOf (w : Word) : Slot :=
  let x := w.toNat
  { elem := x % 16, scale := x / 16 % 16, lg := x / 256 % 16, rnd := x / 2 ^ 12 % 4, sat := x / 2 ^ 14 % 2 == 1,
    nanm := x / 2 ^ 15 % 4 }

/-- The checks of R64 on the word alone. -/
def Slot.ok (s : Slot) : Bool :=
  decide (s.elem < 7) && decide (s.scale < 2) && (s.scale == 0 || (decide (5 ≤ s.lg) && decide (s.lg ≤ 8))) && decide (s.nanm < 2)

def elemTy : Nat → ElTy
  | 1 => .f16 | 2 => .bf16 | 3 => .e4m3 | 4 => .e5m2 | 5 => .tap8 | 6 => .tap6 | _ => .f32

def Slot.rounding (s : Slot) (rnd : Nat) : Rnd :=
  { mode := if rnd = 0 then s.rnd else rnd, sat := s.sat, nanm := s.nanm }

/-- The smallest j with |x| ≤ M × 2^j, clamped to −127 to 127, plus 127 (R161). -/
def blockScale (t : ElTy) (m : Nat) (e : Int) : Nat :=
  match decodeF t (maxBits t) with
  | .fin _ mm me =>
    let j0 : Int := (e + bitLen m) - (me + bitLen mm) - 1
    let fits (j : Int) : Bool := cmpUnits m (e - j - me + 0) false mm 0 != .gt
    let j := if fits j0 then j0 else if fits (j0 + 1) then j0 + 1 else j0 + 2
    (max (-127) (min 127 j) + 127).toNat
  | _ => 0

/-- QNT.sc (R161). -/
def qntScale (t : ElTy) (x : Nat) : Nat × BitVec 5 :=
  match decodeF .f32 x with
  | .nan s => (255, if s then fNV else 0)
  | .inf _ => (255, 0)
  | .zero _ => (0, 0)
  | .fin _ m e => (blockScale t m e, 0)

/-- A value times 2^k, exactly. -/
def FV.scale (k : Int) : FV → FV
  | .fin n m e => .fin n m (e + k)
  | v => v

/-- One element of a register, and a register with one element replaced (R39); a taper6 element fills a byte. -/
def elemGet (w pos x : Nat) : Nat := x / 2 ^ (w * pos) % 2 ^ w
def elemSet (w pos x q : Nat) : Nat := x - elemGet w pos x * 2 ^ (w * pos) + q % 2 ^ w * 2 ^ (w * pos)

/-- Container width of a format in a register (R39). -/
def cellWidth : ElTy → Nat
  | .tap6 => 8
  | t => t.width

/-- A stored code: taper6 reads bits 5:0 (R39). -/
def elemCode (t : ElTy) (x : Nat) : Nat := x % 2 ^ t.width

/-- Packed 16-bit operations, element by element (R152). -/
def packed (f : Nat → Nat → Nat → FR) (a b c : Nat) : FR :=
  let lo := f (a % 65536) (b % 65536) (c % 65536)
  let hi := f (a / 65536 % 65536) (b / 65536 % 65536) (c / 65536 % 65536)
  { bits := lo.bits + 65536 * hi.bits, flags := lo.flags ||| hi.flags }

/-! ## Atomics (R183) -/

/-- .add.f32 of R184: rounded under .rn, subnormals kept, a NaN is canonical. -/
def addF32 (a b : Nat) : Nat := (opAdd .f32 {} a b).bits

def atomNew (op : Nat) (t : ElTy) (old b : Nat) : Nat :=
  let w := t.width
  let x := toVal t.signed w old
  let y := toVal t.signed w b
  match op with
  | 0 => if t = .f32 then addF32 old b else (old + b) % 2 ^ w
  | 1 => if x ≤ y then old else b
  | 2 => if x ≤ y then b else old
  | 3 => Nat.land old b
  | 4 => Nat.lor old b
  | 5 => Nat.xor old b
  | 6 => b
  | 7 => if b ≤ old then 0 else old + 1
  | _ => if old = 0 ∨ b < old then b else old - 1

end Sys2Proof.Machine
end

