-- ==== Sys2Proof/Machine/Mem.lean ====
section
/-! DEFINITION. Memory: the canonical list of cells, physical and scratchpad locations with the glade overlay (R205), poison
(R455), logical times (R330 to R332), partitions and gates (R410, R411), translation (R418 to R422), and the checks of an access in
the order of R178. -/

namespace Sys2Proof.Machine

/-! ## Cells -/

/-- A byte of a memory: 0x00 where nothing is listed (log 4). -/
def cellGet : List Host.Cell → Nat → Byte
  | [], _ => 0
  | (b, x) :: r, a => if b = a then x else if a < b then 0 else cellGet r a

/-- A memory with one byte written, in canonical form. -/
def cellSet : List Host.Cell → Nat → Byte → List Host.Cell
  | [], a, x => if x = 0 then [] else [(a, x)]
  | (b, y) :: r, a, x =>
    if a < b then (if x = 0 then (b, y) :: r else (a, x) :: (b, y) :: r)
    else if a = b then (if x = 0 then r else (a, x) :: r)
    else (b, y) :: cellSet r a x

def cellsGet (m : List Host.Cell) (a : Nat) : Nat → List Byte
  | 0 => []
  | n + 1 => cellGet m a :: cellsGet m (a + 1) n

def cellsSet (m : List Host.Cell) (a : Nat) : List Byte → List Host.Cell
  | [] => m
  | b :: r => cellsSet (cellSet m a b) (a + 1) r

/-- The cells of a run of bytes. -/
def cellsOf (a : Nat) : List Byte → List Host.Cell
  | [] => []
  | b :: r => if b = 0 then cellsOf (a + 1) r else (a, b) :: cellsOf (a + 1) r

/-- A long run of bytes written in one pass. -/
def cellsPut (m : List Host.Cell) (a : Nat) (bs : List Byte) : List Host.Cell :=
  (m.filter fun c => decide (c.1 < a)) ++ cellsOf a bs ++ m.filter fun c => decide (a + bs.length ≤ c.1)

/-- The canonical form: addresses rise strictly from `lo`, and no listed byte is 0x00. -/
def cellsWf (lo : Nat) : List Host.Cell → Bool
  | [] => true
  | (a, x) :: r => decide (lo ≤ a) && x != 0 && cellsWf (a + 1) r

/-- Both memories are canonical. -/
def Memory.wf (s : State) : Bool := cellsWf 0 s.mem && cellsWf 0 s.scratch

/-! ## Reading and writing the parts of the state -/

def State.team? (s : State) (k : Nat) : Option Team := AMap.find s.teams k
def State.setTeam (s : State) (k : Nat) (t : Team) : State := { s with teams := AMap.set s.teams k t }
def State.modTeam (s : State) (k : Nat) (f : Team → Team) : State :=
  match s.team? k with
  | some t => s.setTeam k (f t)
  | none => s

def State.thread? (s : State) (k tid : Nat) : Option Thread := (s.team? k).bind fun t => AMap.find t.threads tid
def State.modThread (s : State) (k tid : Nat) (f : Thread → Thread) : State :=
  s.modTeam k fun t =>
    match AMap.find t.threads tid with
    | some th => { t with threads := AMap.set t.threads tid (f th) }
    | none => t

def State.gang? (s : State) (k : Nat) : Option Gang := AMap.find s.gangs k
def State.modGang (s : State) (k : Nat) (f : Gang → Gang) : State :=
  match s.gang? k with
  | some g => { s with gangs := AMap.set s.gangs k (f g) }
  | none => s

def State.vd (s : State) (n : Nat) : VDev := AMap.get {} s.vds n
def State.modVd (s : State) (n : Nat) (f : VDev → VDev) : State := { s with vds := AMap.set s.vds n (f (s.vd n)) }

def agentTeam : Agent → Nat
  | .thread k _ => k
  | .stream k => k

/-- Little-endian value of bytes as a 64-bit word. -/
def leWord (bs : List Byte) : DWord := BitVec.ofNat 64 (leNat bs)

/-! ## Core, cluster, die (R489) -/

def clusterOf (core : Nat) : Nat := core / 4
def dieOf (core : Nat) : Nat := core / 192

/-- The quadrants of a partition under a configuration (R410). -/
def quadrants (config part : Nat) : List Nat :=
  match config with
  | 0 => [0, 1, 2, 3]
  | 1 => [2 * part, 2 * part + 1]
  | _ => [part]

def State.partQuads (s : State) (vd : Nat) : List Nat := quadrants s.config (s.vd vd).part

/-- The bridge gates of a configuration, in the order Q0–Q1, Q0–Q2, Q1–Q3, Q2–Q3 (R411). -/
def gatesOf (config : Nat) : List Bool :=
  match config with
  | 0 => [true, true, true, true]
  | 1 => [true, false, false, true]
  | _ => [false, false, false, false]

def bridgeEnds : Nat → Nat × Nat
  | 0 => (0, 1) | 1 => (0, 2) | 2 => (1, 3) | _ => (2, 3)

/-- The quadrants that one more bridge joins to a set. -/
def reachOnce (gates : List Bool) (q : List Nat) : List Nat :=
  (List.range 4).foldl (fun acc i =>
    let (a, b) := bridgeEnds i
    if gates.getD i false then
      (if acc.contains a && !acc.contains b then b :: acc else if acc.contains b && !acc.contains a then a :: acc else acc)
    else acc) q

/-- Whether no locked gate lies between two dies (R411). -/
def reaches (gates : List Bool) (a b : Nat) : Bool := (reachOnce gates (reachOnce gates (reachOnce gates [a]))).contains b

/-! ## Lines, sectors, times -/

/-- Key of a 32-byte sector: even physical, odd scratchpad. -/
def sectorKey : Loc → Nat
  | .phys a => 2 * (a / 32)
  | .scr core off => 2 * ((core * 2 ^ 19 + off) / 32) + 1

/-- Key of a 64-byte line. -/
def lineKey : Loc → Nat
  | .phys a => 2 * (a / 64)
  | .scr core off => 2 * ((core * 2 ^ 19 + off) / 64) + 1

def locAdd : Loc → Nat → Loc
  | .phys a, n => .phys (a + n)
  | .scr c o, n => .scr c (o + n)

/-- The sectors that `n` bytes from a place touch. -/
def sectorsOf (l : Loc) (n : Nat) : List Nat :=
  ((List.range ((n + 62) / 32 + 1)).map fun i => sectorKey (locAdd l (min (32 * i) (n - 1)))).eraseDups

/-- A place behind a Lyano link that is down: what is still on its way there reads poisoned, and its writes are discarded (R478). -/
def linkCut (s : State) : Loc → Bool
  | .phys a => a / 2 ^ 48 % 16 == 1 && !(AMap.get { up := false } s.links (a / 2 ^ 44 % 16)).up
  | .scr _ _ => false

def locPoisoned (s : State) (l : Loc) (n : Nat) : Bool := linkCut s l || (sectorsOf l n).any s.poison.contains

/-- The offset of a place within its sector. -/
def sectorOff : Loc → Nat
  | .phys a => a % 32
  | .scr _ o => o % 32

/-- Poison after a write of `n` bytes: poisoned data poisons its sectors, good data clears the sectors it covers whole (R455). -/
def poisonAfter (s : State) (l : Loc) (n : Nat) (bad : Bool) : List Nat :=
  let secs := sectorsOf l n
  if bad then (secs.filter fun k => !s.poison.contains k) ++ s.poison
  else
    let o := sectorOff l
    let first := if o = 0 then 0 else 1
    let covered := (List.range ((o + n) / 32)).filter fun i => decide (first ≤ i)
    let whole := covered.map fun i => sectorKey l + 2 * i
    s.poison.filter fun k => !whole.contains k

/-- The bytes of a sector, as a mask, that a run of `n` bytes from offset `o` covers of the `i`th sector it touches. -/
def byteMask (o n i : Nat) : Nat := (2 ^ (min (o + n) (32 * i + 32) - max o (32 * i)) - 1) * 2 ^ (max o (32 * i) - 32 * i)

/-- Good data of a command `op`, a bulk copy, a drain or a swap, over part of a poisoned sector: the poison goes once the 16-byte pieces of that one
command have covered the sector whole (R235, R259, R260, R455, log 60). -/
def mend (s : State) (op : Nat × Nat) (l : Loc) (n : Nat) : State :=
  (List.range ((sectorOff l + n + 31) / 32)).foldl (fun s i =>
    let k := sectorKey l + 2 * i
    if !s.poison.contains k then s
    else
      let before := match AMap.find s.mended k with
        | some x => if x.op = op then x.mask else 0
        | none => 0
      let m := before ||| byteMask (sectorOff l) n i
      if m = 2 ^ 32 - 1 then { s with poison := s.poison.filter fun x => x != k, mended := AMap.del s.mended k }
      else { s with mended := AMap.set s.mended k { op := op, mask := m } }) s

/-- Poison added to sectors: what good data had covered of them counts no more (R455). -/
def poisonSectors (s : State) (ks : List Nat) : State :=
  { s with poison := (ks.filter fun k => !s.poison.contains k) ++ s.poison, mended := s.mended.filter fun p => !ks.contains p.1 }

/-- A core's CT (R330): its drift since package reset, and its lead over it. -/
def ctOf (s : State) (core : Nat) : DWord := BitVec.ofNat 64 (s.cycle / 8) + AMap.get 0 s.ct core

/-- A core's CT raised to a time (R330). -/
def raiseCt (s : State) (core : Nat) (t : DWord) : State :=
  if (ctOf s core).toNat < t.toNat then { s with ct := AMap.set s.ct core (t - BitVec.ofNat 64 (s.cycle / 8)) } else s

/-- The next access of a core takes a later time than those before it (R338). -/
def laterCt (s : State) (core : Nat) : State := raiseCt s core (ctOf s core + 1)

def maxD (a b : DWord) : DWord := if a.toNat < b.toNat then b else a

/-- The key under which a CSRW's access time is kept, of a virtual device's register (R269, R275). -/
def crKey (vd n : Nat) : Nat := 2 * (4096 * vd + n)

/-- An agent of a core meets the effect of the latest CSRW of a register: its next accesses follow that CSRW (R188, R275). -/
def meetCr (s : State) (core key : Nat) : State := raiseCt s core (AMap.get 0 s.crTimes key)

/-- A CSRW as an access in the total order (R275, R332): its time exceeds those of the register's earlier CSRWs, and CT rises to it. -/
def touchCr (s : State) (core key : Nat) : State :=
  let t := maxD (ctOf s core) (AMap.get 0 s.crTimes key + 1)
  raiseCt { s with crTimes := AMap.set s.crTimes key t } core t

/-- Exclusive or of the 6-bit fields of a line address (R173). -/
def fold6 (l : Nat) : Nat :=
  (List.range 8).foldl (fun acc i => Nat.xor acc (l / 2 ^ (6 * i) % (if i = 7 then 16 else 64))) 0

/-- The partition that owns a physical address of device memory (R410, R418). -/
def ownerPart (config pa : Nat) : Nat :=
  match config with
  | 0 => 0
  | 1 => pa / 2 ^ 41 % 2
  | _ => pa / 2 ^ 40 % 4

/-- The slice, die × 64 + number, in which a line of device memory is homed (R172, R173). -/
def sliceOf (s : State) (pa : Nat) : Nat :=
  match AMap.find s.pins (pa / 65536) with
  | some p => p
  | none =>
    let q := quadrants s.config (ownerPart s.config pa)
    q.getD (pa / 2 ^ 12 % q.length) 0 * 64 + fold6 (pa / 64)

/-- Device memory: its lines are homed in the L2 slices and held in caches (R327). -/
def cached : Loc → Option Nat
  | .phys a => if a < 2 ^ 42 then some (a / 64) else none
  | .scr _ _ => none

/-- The times of a home line: those of its slice's FLOOR where none are listed (R331). -/
def timesOf (s : State) (l : Loc) : Times :=
  let f : DWord := match l with
    | .phys a => if a < 2 ^ 42 then AMap.get 0 s.floor (sliceOf s a) else 0
    | .scr _ _ => 0
  AMap.get { wts := f, rts := f } s.times (lineKey l)

/-- The entry of a list that a measure makes least, the first of them. -/
def leastBy {α : Type} (f : α → Nat) : List α → Option α
  | [] => none
  | x :: r => match leastBy f r with
    | none => some x
    | some y => if f y < f x then some y else some x

/-- An L2 slice makes room for a line (R327, R331): 16 ways of 2048 sets; a full set evicts the line of least RTS, whose exclusive copy is
recalled and whose RTS the FLOOR keeps (log 40). -/
def makeRoom (s : State) (line : Nat) : State :=
  let set (x : Nat) : Nat := x / 64 % 2048
  let mine := s.times.filter fun p => p.1 % 2 == 0 && decide (p.1 < 2 ^ 37) && set (p.1 / 2) == set line
  if mine.length < 16 then s
  else
    let sl := sliceOf s (64 * line)
    let ways := mine.filter fun p => sliceOf s (32 * p.1) == sl
    match (if ways.length < 16 then none else leastBy (fun p => p.2.rts.toNat) ways) with
    | none => s
    | some v => { s with times := AMap.del s.times v.1, holder := AMap.del s.holder (v.1 / 2),
                         floor := AMap.set s.floor sl (maxD (AMap.get 0 s.floor sl) v.2.rts) }

/-- The times of a home line set; an L2 slice that does not hold the line fills it. -/
def setTimes (s : State) (l : Loc) (t : Times) : State :=
  let k := lineKey l
  let s1 := match cached l with
    | some n => if (AMap.find s.times k).isSome then s else makeRoom s n
    | none => s
  { s1 with times := AMap.set s1.times k t }

/-- The retries of a link that an access passes over no longer fail in a row (R478). -/
def passLink (s : State) : Loc → State
  | .phys a =>
    if a / 2 ^ 48 % 16 = 1 then
      match AMap.find s.links (a / 2 ^ 44 % 16) with
      | some x => if x.failed = 0 then s else { s with links := AMap.set s.links (a / 2 ^ 44 % 16) { x with failed := 0 } }
      | none => s
    else s
  | .scr _ _ => s

/-- An access at a home line: the access time of R332, with the core's CT raised to it. -/
def touch (s : State) (core : Nat) (l : Loc) (write : Bool) : State :=
  let s := passLink s l
  let ts := timesOf s l
  let ct := ctOf s core
  if write then
    let t := maxD ct (ts.rts + 1)
    raiseCt (setTimes s l { wts := t, rts := t }) core t
  else
    let t := maxD ct ts.wts
    let lease : DWord := match l with
      | .phys _ => t + 32
      | .scr _ _ => t
    raiseCt (setTimes s l { ts with rts := maxD ts.rts lease }) core t

/-! ## Copies in the L1 caches (R327, R331 to R334) -/

/-- A recall: the line is no longer held exclusive (R332). -/
def recallLine (s : State) (l : Loc) : State :=
  match cached l with
  | some n => { s with holder := AMap.del s.holder n }
  | none => s

/-- The lines of some keys recalled. -/
def recallKeys (s : State) (ks : List Nat) : State := { s with holder := s.holder.filter fun p => !ks.contains (2 * p.1) }

def leaseOf (s : State) (cache line : Nat) : Option Lease := AMap.find (AMap.get [] s.l1 cache) line
def dropLease (s : State) (cache line : Nat) : State :=
  if (leaseOf s cache line).isSome then { s with l1 := AMap.set s.l1 cache (AMap.del (AMap.get [] s.l1 cache) line) } else s

/-- An L1 makes room for a line: 8 ways of 256 sets; a full set evicts its leased copy of least RTS, or else an exclusive copy, which
returns to the home (R327, R332, log 40). -/
def roomInL1 (s : State) (core line : Nat) : State :=
  let set (x : Nat) : Bool := x % 256 == line % 256 && x != line
  let leases := (AMap.get [] s.l1 core).filter fun p => set p.1
  let held := s.holder.filter fun p => p.2 == core && set p.1
  if leases.length + held.length < 8 then s
  else match leastBy (fun p => p.2.rts.toNat) leases, held with
    | some v, _ => dropLease s core v.1
    | none, h :: _ => { s with holder := AMap.del s.holder h.1 }
    | none, [] => s

/-- A core takes a line exclusive for a store (R332): any other exclusive copy is recalled, its own leased copy replaced. A port holds
no copies. -/
def takeLine (s : State) (core : Nat) (l : Loc) : State :=
  match cached l with
  | none => s
  | some n =>
    if 768 ≤ core then recallLine s l
    else
      let s1 := roomInL1 (dropLease s core n) core n
      { s1 with holder := AMap.set s1.holder n core }

/-- A copy that a load miss is granted replaces an earlier one; its RTS is that of its own grant (R332, R334). -/
def grantLease (s : State) (cache line : Nat) (c : Lease) : State :=
  let s1 := if cache < 768 then roomInL1 s cache line else s
  { s1 with l1 := AMap.set s1.l1 cache (AMap.set (AMap.get [] s1.l1 cache) line c) }

/-! ## Granules and tiers (R424 to R426) -/

/-- The memory slice of a granule (R424). -/
def granSlice (g : Nat) : Nat := g / 2 ^ 24 % 4 * 4 + g % 4

def t0Of (s : State) (slice : Nat) : List Nat := s.t0.filter fun g => granSlice g == slice

/-- How many granules of a slice lie in an extent. -/
def granulesIn (slice : Nat) (e : Nat × Nat) : Nat :=
  let q := slice / 4 * 2 ^ 24
  let below (h : Nat) : Nat := (h + 3 - slice % 4) / 4
  below (min ((e.1 + e.2) / 65536) (q + 2 ^ 24)) - below (max (e.1 / 65536) q)

/-- Whether a range of addresses is covered by extents, `fuel` of them at most (R419). -/
def coverTo (es : List (Nat × Nat)) : Nat → Nat → Nat → Bool
  | 0, lo, hi => decide (hi ≤ lo)
  | n + 1, lo, hi =>
    decide (hi ≤ lo) || match es.find? fun e => decide (e.1 ≤ lo) && decide (lo < e.1 + e.2) with
      | some e => coverTo es n (e.1 + e.2) hi
      | none => false

def inExtents (v : VDev) (pa n : Nat) : Bool := coverTo v.extents 16 pa (pa + n)

/-- The granules of a slice that stand in T1: those granted, and in neither other tier (R424). DESIGN CHOICE (log 64): a granule counts once for
each extent that holds it, and memory in no grant, which the host and peers reach, is in no tier and counts toward none. -/
def t1Count (s : State) (slice : Nat) : Nat :=
  let all := (s.vds.map fun p => (p.2.extents.map (granulesIn slice)).sum).sum
  let away := (s.t0 ++ s.t2).filter fun g => granSlice g == slice && s.vds.any fun p => inExtents p.2 (65536 * g) 65536
  all - away.length

/-- The granules of T1 of a slice that belong to some virtual devices. -/
def t1Of (s : State) (slice : Nat) (f : VDev → Bool) : List Nat :=
  ((s.vds.filter fun p => f p.2).map fun p => (p.2.extents.map fun e =>
    ((List.range (e.2 / 65536)).map fun i => e.1 / 65536 + i).filter fun g => granSlice g == slice && !s.t0.contains g && !s.t2.contains g).flatten).flatten

/-- Granules that a slice's T2 still has room for (R424). -/
def t2Room (s : State) (slice : Nat) : Nat :=
  ((AMap.get [] s.tier2 slice).map fun e => e.2 / 65536).sum - (s.t2.filter fun g => granSlice g == slice).length

/-- T1 makes room where it holds more than its 1,048,576 granules: the least recently accessed granule of a non-resident virtual device
goes to T2 (R424, R426), or, where T1 has none, that of any but the granule `keep` (log 52). DESIGN CHOICE (log 64): extents may overlap, and a
granule of two of them stands in a tier once. -/
def trimT1 (s : State) (slice keep : Nat) : State :=
  let use (g : Nat) : Nat := AMap.get 0 s.granUse g
  if t1Count s slice ≤ 1048576 ∨ t2Room s slice = 0 then s
  else match (leastBy use (t1Of s slice fun v => !v.resident)).or (leastBy use ((t1Of s slice fun _ => true).filter fun g => g != keep)) with
    | some g => { s with t2 := g :: s.t2 }
    | none => s

/-- Whether a granule that comes to T0 is pinned there: a resident virtual device was switched in with it in its record (R426). -/
def pinsIt (s : State) (g : Nat) : Bool := s.vds.any fun p => p.2.resident && p.2.incoming.contains g

/-- Granules in T0 that an engine may send away to bring a recorded one (R426): unpinned ones of non-resident virtual devices. -/
def evictable (s : State) (slice : Nat) : List Nat :=
  (t0Of s slice).filter fun g => !s.pinned.contains g && !s.vds.any fun p => p.2.resident && inExtents p.2 (65536 * g) 65536

/-- A granule in T2 comes up for an access (R425): to T0, where an unpinned granule gives way if none is free, or else to T1. A recorded one is
pinned there, and only an evictable one gives way to it (R426). -/
def comeUp (s : State) (g : Nat) : State :=
  let sl := granSlice g
  let s1 := { s with t2 := s.t2.filter fun x => x != g }
  let use (x : Nat) : Nat := AMap.get 0 s.granUse x
  let pins := if pinsIt s g then g :: s.pinned else s.pinned
  let s2 :=
    if (t0Of s sl).length < 8192 then { s1 with t0 := g :: s1.t0, pinned := pins }
    else match leastBy use (if pinsIt s g then evictable s sl else (t0Of s sl).filter fun x => !s.pinned.contains x) with
      | some v => { s1 with t0 := g :: s1.t0.filter fun x => x != v, dirtyGran := s1.dirtyGran.filter fun x => x != v, pinned := pins }
      | none => s1
  trimT1 s2 sl g

/-- The granule of a line of device memory is reached (R425), and stamped with the cycle of the access (R426). -/
def reachGranule (s : State) (l : Loc) : State :=
  match cached l with
  | none => s
  | some n =>
    let g := n / 1024
    let s1 := { s with granUse := AMap.set s.granUse g s.cycle }
    if s.t2.contains g then comeUp s1 g else s1

/-! ## The glade overlay (R205) -/

/-- The resident team whose live glade covers a 16-byte place of a core's scratchpad, with its window offset. -/
def gladeAt (s : State) (core off : Nat) : Option (Nat × Nat) :=
  (s.teams.find? fun p => p.2.resident && !p.2.retired && p.2.core == core && decide (p.2.winBase ≤ off) &&
    (AMap.find p.2.glades ((off - p.2.winBase) / 16 * 16)).isSome).map fun p => (p.1, (off - p.2.winBase) / 16 * 16)

/-- Threads waiting on a glade (R204). -/
def waiters (t : Team) (key off : Nat) : Nat :=
  (t.threads.filter fun p =>
    match p.2.wait with
    | some (.glade _ k o _ _) => k == key && o == off
    | some (.exchange _ o _ _ _) => o == off
    | _ => false).length

/-- Bits 127:64 of a live glade (R204). -/
def gladeHigh (t : Team) (key off : Nat) : Nat :=
  (AMap.get {} t.glades off).resid * 2 ^ 16 + waiters t key off

/-- One byte of a place, as an ordinary read gives it: bytes 8 to 15 of a live glade are its directory bits. -/
def readByte (s : State) : Loc → Byte
  | .phys a => cellGet s.mem a
  | .scr core off =>
    if off % 16 < 8 then cellGet s.scratch (core * 2 ^ 19 + off)
    else
      match gladeAt s core off with
      | some (k, o) =>
        match s.team? k with
        | some t => BitVec.ofNat 8 (gladeHigh t k o / 2 ^ (8 * (off % 16 - 8)))
        | none => 0
      | none => cellGet s.scratch (core * 2 ^ 19 + off)

/-- One byte written by an ordinary store: bytes 8 to 15 of a live glade discard it. -/
def writeByte (s : State) (l : Loc) (b : Byte) : State :=
  match l with
  | .phys a => { s with mem := cellSet s.mem a b }
  | .scr core off =>
    if decide (8 ≤ off % 16) && (gladeAt s core off).isSome then s
    else { s with scratch := cellSet s.scratch (core * 2 ^ 19 + off) b }

def readBytes (s : State) (l : Loc) : Nat → List Byte
  | 0 => []
  | n + 1 => readByte s l :: readBytes s (locAdd l 1) n

def writeBytes (s : State) (l : Loc) : List Byte → State
  | [] => s
  | b :: r => writeBytes (writeByte s l b) (locAdd l 1) r

/-- A granule of device memory that a virtual device's access records (R426). -/
def recordGranule (s : State) (vd : Nat) (l : Loc) : State :=
  match l with
  | .phys a =>
    if a < 2 ^ 42 then
      let g := a / 65536
      let v := s.vd vd
      if v.record.contains g || decide (v.recMax ≤ v.record.length) then s
      else s.modVd vd fun v => { v with record := v.record ++ [g] }
    else s
  | .scr _ _ => s

/-- A granule in T0 that a write dirties (R426). -/
def dirtied (s : State) : Loc → List Nat
  | .phys a => if s.t0.contains (a / 65536) && !s.dirtyGran.contains (a / 65536) then a / 65536 :: s.dirtyGran else s.dirtyGran
  | .scr _ _ => s.dirtyGran

/-- The region of a physical address and whether it is allocated (R418). -/
def regionOf (pa : Nat) : Nat := pa / 2 ^ 48 % 16
def allocated (pa : Nat) : Bool := decide (regionOf pa < 4) && (regionOf pa != 0 || decide (pa % 2 ^ 48 < 2 ^ 42)) && decide (pa < 2 ^ 52)
def isSystem (pa : Nat) : Bool := regionOf pa != 0

/-- The system port of a physical address: PCI Express ports 0 and 1, Lyano links 2 to 17 (R342). -/
def portOf (pa : Nat) : Option Nat :=
  match regionOf pa with
  | 0 => none
  | 1 => some (2 + pa / 2 ^ 44 % 16)
  | r => some (r - 2)

/-- log2 of the leaf size of a level, and the index of an address there (R420). -/
def levelLg : Nat → Nat
  | 3 => 39 | 2 => 30 | 1 => 21 | _ => 16
def levelIdx (level va : Nat) : Nat :=
  match level with
  | 3 => va / 2 ^ 39 % 8192 | 2 => va / 2 ^ 30 % 512 | 1 => va / 2 ^ 21 % 512 | _ => va / 2 ^ 16 % 32

/-- Whether an entry is malformed at its level (R420). -/
def entryBad (v : VDev) (level e : Nat) : Bool :=
  let leaf := e / 2 % 2 == 1
  let frame := e / 65536 % 2 ^ 36 * 65536
  let home := e / 32 % 4
  let size := if leaf then 2 ^ levelLg level else if level = 3 then 4096 else if level = 2 then 4096 else 256
  decide (2 ^ 52 ≤ e) || e / 128 % 2 == 1 || (leaf && level == 3) || (!leaf && level == 0) ||
  (leaf && frame % 2 ^ levelLg level != 0) || home == 3 || (home == 2) != isSystem frame ||
  !allocated frame || (!isSystem frame && !inExtents v frame size)

/-- The translation that a leaf entry gives (R420). -/
def leafTrans (vd va level e : Nat) : Trans :=
  let lg := levelLg level
  let w := e / 8 % 2 == 1
  let x := e / 16 % 2 == 1
  { vd := vd, va := va / 2 ^ lg * 2 ^ lg, lg := lg, frame := e / 65536 % 2 ^ 36 * 65536, r := e / 4 % 2 == 1, w := w && !x, x := x && !w,
    home := e / 32 % 4, pin := e / 256 % 256 }

/-- The entries with V = 1 of a table of a number of bytes: their addresses and values. -/
def tableEntries (m : List Host.Cell) (base size : Nat) : List (Nat × Nat) :=
  (m.filter fun c => decide (base ≤ c.1) && decide (c.1 < base + size) && c.1 % 8 == 0 && c.2.getLsbD 0).map fun c => (c.1, leNat (cellsGet m c.1 8))

/-- The leaves of a virtual device's table at a level that a walk reads through the word at `w`: address, level and entry (R420). `thru` once
the path has passed that word. -/
def leavesThrough (m : List Host.Cell) (v : VDev) (w : Nat) : Nat → Nat → Nat → Bool → List (Nat × Nat × Nat)
  | 0, base, va, thru =>
    (tableEntries m base 256).filterMap fun p =>
      if (thru || p.1 == w) && !entryBad v 0 p.2 then some (va + (p.1 - base) / 8 * 2 ^ 16, 0, p.2) else none
  | l + 1, base, va, thru =>
    ((tableEntries m base (if l = 2 then 65536 else 4096)).map fun p =>
      let va1 := va + (p.1 - base) / 8 * 2 ^ levelLg (l + 1)
      if entryBad v (l + 1) p.2 then []
      else if p.2 / 2 % 2 = 1 then (if thru || p.1 == w then [(va1, l + 1, p.2)] else [])
      else leavesThrough m v w l (p.2 / 65536 % 2 ^ 36 * 65536) va1 (thru || p.1 == w)).flatten

/-- The translations that writing a word of a virtual device's tables takes from it: its shootdown is in flight from that write (R389). -/
def transLost (s : State) (w : Nat) : List Trans :=
  (s.vds.map fun p =>
    if !isSystem p.2.root && !inExtents p.2 p.2.root 65536 then []
    else (leavesThrough s.mem p.2 w 3 p.2.root 0 false).filterMap fun x =>
      let t := leafTrans p.1 x.1 x.2.1 x.2.2
      if (t.w || t.x) && !s.walked.contains t then some t else none).flatten

/-- The translations that a write of bytes takes from tables: those of the words with V = 1 that it changes (R389). -/
def entryLost (s : State) (l : Loc) (bs : List Byte) : List Trans :=
  match l with
  | .scr _ _ => []
  | .phys a =>
    ((List.range ((a % 8 + bs.length + 7) / 8)).map fun i =>
      let w := a / 8 * 8 + 8 * i
      if (cellGet s.mem w).getLsbD 0 then (if cellsGet s.mem w 8 = cellsGet (cellsSet s.mem a bs) w 8 then [] else transLost s w)
      else []).flatten

/-- A write of bytes: data, poison and times. -/
def putData (s : State) (core : Nat) (l : Loc) (bs : List Byte) (bad : Bool) : State :=
  if linkCut s l then s
  else touch { writeBytes s l bs with
    poison := poisonAfter s l bs.length bad, dirtyGran := dirtied s l, walked := entryLost s l bs ++ s.walked,
    mended := if bad then s.mended.filter fun p => !(sectorsOf l bs.length).contains p.1 else s.mended } core l true

/-- A store: performed in an exclusive copy of its line, or at a home that holds no copies (R332). -/
def store (s : State) (core : Nat) (l : Loc) (bs : List Byte) (bad : Bool) : State := putData (takeLine (reachGranule s l) core l) core l bs bad

/-- A read-modify-write at the home, after any exclusive copy is recalled (R332). -/
def storeHome (s : State) (core : Nat) (l : Loc) (bs : List Byte) (bad : Bool) : State := putData (recallLine (reachGranule s l) l) core l bs bad

/-- The bytes of a leased copy from a place, and whether one of them is poisoned. -/
def leaseBytes (c : Lease) (a n : Nat) : List Byte × Bool :=
  ((c.data.drop (a % 64)).take n, (c.bad.getD (a % 64 / 32) false) || (c.bad.getD ((a % 64 + n - 1) / 32) false))

/-- A load at the home (R332): any exclusive copy is recalled and the cache is granted a leased one. -/
def loadMiss (s : State) (cache core line : Nat) (l : Loc) : State :=
  let base : Loc := .phys (64 * line)
  let s1 := touch (recallLine (reachGranule s l) l) core l false
  grantLease s1 cache line
    { data := readBytes s base 64, bad := [locPoisoned s base 32, locPoisoned s (.phys (64 * line + 32)) 32],
      wts := (timesOf s l).wts, rts := maxD (ctOf s core) (timesOf s l).wts + 32 }

/-- A load of `n` bytes of one line by an agent of a core through a cache (R332): the state, the bytes, and whether they are poisoned. A
leased copy that is still valid answers with what it holds; an exclusive copy of the core with what it and so the home key holds. -/
def loadVia (s : State) (cache core : Nat) (l : Loc) (n : Nat) : State × (List Byte × Bool) :=
  let home := (readBytes s l n, locPoisoned s l n)
  match l, cached l with
  | .phys a, some line =>
    match leaseOf s cache line with
    | some c =>
      let t := maxD (ctOf s core) c.wts
      if t.toNat ≤ c.rts.toNat then (raiseCt s core t, leaseBytes c a n) else (loadMiss s cache core line l, home)
    | none =>
      if AMap.find s.holder line = some core then
        let ts := timesOf s l
        let t := maxD (ctOf s core) ts.wts
        (raiseCt (setTimes s l { ts with rts := maxD ts.rts t }) core t, home)
      else (loadMiss s cache core line l, home)
  | _, _ => (touch s core l false, home)

/-- A load of an agent of a core (R332). -/
def load (s : State) (core : Nat) (l : Loc) (n : Nat) : State × (List Byte × Bool) := loadVia s core core l n

/-- A read at the home by an agent that keeps no copies: a port, or a walker (R332, R343, R420). -/
def readHome (s : State) (core : Nat) (l : Loc) : State := touch (recallLine (reachGranule s l) l) core l false

/-! ## Translation -/

abbrev FaultInfo := BitVec 8 × DWord

def cADDR : BitVec 8 := 0x0D
def cPAGE : BitVec 8 := 0x09
def cPROTR : BitVec 8 := 0x0A
def cPROTW : BitVec 8 := 0x0B
def cPROTX : BitVec 8 := 0x0C
def cGATE : BitVec 8 := 0x12
def cSCRATCH : BitVec 8 := 0x10
def cGANG : BitVec 8 := 0x11
def cALIGN : BitVec 8 := 0x08
def cILLEGAL : BitVec 8 := 0x01
def cMASKED : BitVec 8 := 0x03
def cPRIV : BitVec 8 := 0x04
def cREG : BitVec 8 := 0x05
def cINDEX : BitVec 8 := 0x06
def cGLADE : BitVec 8 := 0x14
def cRENDEZVOUS : BitVec 8 := 0x15
def cBARRIER : BitVec 8 := 0x16
def cMATRIX : BitVec 8 := 0x18
def cCANOPY : BitVec 8 := 0x19
def cFORMAT : BitVec 8 := 0x1A
def cWATCHDOG : BitVec 8 := 0x1C
def cDOUBLE : BitVec 8 := 0x20
def cSOFT : BitVec 8 := 0x21
def cPOISON : BitVec 8 := 0x22

/-- A device line, or a port, that no agent of a core reaches (R411, R477, R478): the home or the memory region behind a locked gate, a
host port not bound to the partition, a link that is down. -/
def closedTo (s : State) (vd core home pa : Nat) : Bool :=
  match portOf pa with
  | none => !reaches s.gates (dieOf core) home || !reaches s.gates (dieOf core) (pa / 2 ^ 40 % 4)
  | some p =>
    if p < 2 then !(AMap.get {} s.ports p).parts.getLsbD (s.vd vd).part
    else !(AMap.get { up := false } s.links (p - 2)).up

/-- One entry of a walk (R420): a leaf, or the next table; a table that lies behind a locked gate is not read (R411, R419). -/
def walkEntry (s : State) (vd core va level table : Nat) : Except FaultInfo (Trans ⊕ Nat) :=
  let at' := table + 8 * levelIdx level va
  let e := leNat (cellsGet s.mem at' 8)
  if closedTo s vd core (sliceOf s at' / 64) at' then .error (cGATE, BitVec.ofNat 64 va)
  else if e % 2 = 0 then .error (cPAGE, BitVec.ofNat 64 va)
  else if entryBad (s.vd vd) level e then .error (cADDR, BitVec.ofNat 64 va)
  else
    if e / 2 % 2 = 1 then .ok (.inl (leafTrans vd va level e)) else .ok (.inr (e / 65536 % 2 ^ 36 * 65536))

/-- The walk of R420 from a table at a level: the leaf or the fault, and the entries read, the last of them first. -/
def walkFrom (s : State) (vd core va : Nat) : Nat → Nat → List Nat → Except FaultInfo Trans × List Nat
  | 0, table, seen =>
    match walkEntry s vd core va 0 table with
    | .ok (.inl t) => (.ok t, (table + 8 * levelIdx 0 va) :: seen)
    | .ok (.inr _) => (.error (cADDR, BitVec.ofNat 64 va), (table + 8 * levelIdx 0 va) :: seen)
    | .error e => (.error e, if e.1 = cGATE then seen else (table + 8 * levelIdx 0 va) :: seen)
  | l + 1, table, seen =>
    match walkEntry s vd core va (l + 1) table with
    | .ok (.inl t) => (.ok t, (table + 8 * levelIdx (l + 1) va) :: seen)
    | .ok (.inr next) => walkFrom s vd core va l next ((table + 8 * levelIdx (l + 1) va) :: seen)
    | .error e => (.error e, if e.1 = cGATE then seen else (table + 8 * levelIdx (l + 1) va) :: seen)

def walkAll (s : State) (vd core va : Nat) : Except FaultInfo Trans × List Nat :=
  let v := s.vd vd
  if !isSystem v.root && !inExtents v v.root 65536 then (.error (cADDR, BitVec.ofNat 64 va), []) else walkFrom s vd core va 3 v.root []

def walk (s : State) (vd core va : Nat) : Except FaultInfo Trans := (walkAll s vd core va).1

def Trans.covers (t : Trans) (vd va : Nat) : Bool := t.vd == vd && t.va == va / 2 ^ t.lg * 2 ^ t.lg

/-- The translation that a core's caches hold: the L1 TLB, then the L2 TLB of its cluster (R421). -/
def tlbFind (s : State) (core vd va : Nat) : Option Trans :=
  ((AMap.get [] s.tlb core).find? fun t => t.covers vd va).or ((AMap.get [] s.tlb (1000 + clusterOf core)).find? fun t => t.covers vd va)

/-- The translation of an address: a cached one, or a walk (R420, R421). -/
def translate (s : State) (vd core va : Nat) : Except FaultInfo Trans :=
  match tlbFind s core vd va with
  | some t => .ok t
  | none => walk s vd core va

def Trans.pa (t : Trans) (va : Nat) : Nat := t.frame + va % 2 ^ t.lg

/-- The set of the L2 TLB that holds a page: 1024 sets of 8 ways (R421, log 41). -/
def tlbSet (t : Trans) : Nat := t.va / 2 ^ t.lg % 1024

/-- A translation in the caches of a core: 128 entries in the L1 TLB, 8 ways of a set in the L2 TLB; the newest stay (R421, log 41). -/
def cacheTrans (s : State) (core : Nat) (t : Trans) : State :=
  let c2 := 1000 + clusterOf core
  let others := (AMap.get [] s.tlb c2).filter fun x => x != t
  let near := (others.filter fun x => tlbSet x == tlbSet t).take 7
  let l2 := t :: near ++ others.filter fun x => tlbSet x != tlbSet t
  let l1 := (t :: (AMap.get [] s.tlb core).filter fun x => x != t).take 128
  { s with tlb := AMap.set (AMap.set s.tlb c2 l2) core l1, walked := if s.walked.contains t then s.walked else t :: s.walked }

/-- The caches after an access to an address (R421): the entries of a walk are loads, read at their homes, whether or not it faults (R420); one that
succeeds is cached. -/
def fillTlb (s : State) (vd core va : Nat) : State :=
  if (AMap.get [] s.tlb core).any fun t => t.covers vd va then s
  else match (AMap.get [] s.tlb (1000 + clusterOf core)).find? fun t => t.covers vd va with
    | some t => cacheTrans s core t
    | none =>
      let w := walkAll s vd core va
      let s1 := w.2.reverse.foldl (fun s a => readHome s core (.phys a)) s
      match w.1 with
      | .ok t => cacheTrans s1 core t
      | .error _ => s1

/-- What a check that fails has done: the walk that found the fault has read its entries (R420). -/
def noteFault (s : State) (vd core : Nat) (e : FaultInfo) : State :=
  if (e.1 = cPAGE ∨ e.1 = cADDR ∨ e.1 = cPROTR ∨ e.1 = cPROTW ∨ e.1 = cPROTX ∨ e.1 = cGATE) ∧ e.2.toNat < 2 ^ 52 then fillTlb s vd core e.2.toNat
  else s

/-- The die of a line's home (R172, R173). -/
def homeDie (s : State) (vd : Nat) (t : Trans) (pa : Nat) : Nat :=
  if t.home = 1 then t.pin / 64 % 4
  else
    let q := s.partQuads vd
    q.getD (pa / 2 ^ 12 % q.length) 0

/-- Step 7 of R178. -/
def gateClosed (s : State) (vd core : Nat) (t : Trans) (pa : Nat) : Bool := closedTo s vd core (homeDie s vd t pa) pa

/-- What the page table gives a page now: execute (true) or write (false). -/
def givesNow (s : State) (vd core va : Nat) (exec : Bool) : Bool :=
  match walk s vd core va with
  | .ok t => if exec then t.x else t.w
  | .error _ => false

/-- The old translation of a page that held execute and is given write, while its shootdown is in flight (R389, R390): from the entry's
write on (`entryLost`), until a shootdown of the page has completed (log 39). -/
def shotExec (s : State) (vd core va : Nat) : Option Trans :=
  match s.walked.find? fun o => o.covers vd va && o.x with
  | some o => if givesNow s vd core va false then some o else none
  | none => none

/-- A page that held write and is given execute, while its shootdown is in flight (R389, R391). -/
def shotWrite (s : State) (vd core va : Nat) : Bool := (s.walked.any fun o => o.covers vd va && o.w) && givesNow s vd core va true

/-- What an access wants. -/
structure Want where
  read : Bool
  write : Bool
  deriving DecidableEq, Repr

/-- Steps 5 to 7 of R178 on a global address. -/
def checkGlobal (s : State) (vd core va : Nat) (w : Want) : Except FaultInfo Loc :=
  let d : DWord := BitVec.ofNat 64 va
  match translate s vd core va with
  | .error e => .error e
  | .ok t =>
    if w.read && !t.r then .error (cPROTR, d)
    else if w.write && (!t.w || (shotExec s vd core va).isSome) then .error (cPROTW, d)
    else if gateClosed s vd core t (t.pa va) then .error (cGATE, d)
    else .ok (.phys (t.pa va))

/-- The team of a rank of a gang. -/
def gangTeam (s : State) (g rank : Nat) : Option (Nat × Team) :=
  (s.gang? g).bind fun g => (g.teams[rank]?).bind fun k => (s.team? k).map fun t => (k, t)

/-- The checks of R178 on a generic address, in order, and the place it names (R167). `datum` replaces the address in the record
where R490 says so. -/
def resolveAs (s : State) (t : Team) (smode : Bool) (ea : DWord) (size align : Nat) (w : Want) (datum : DWord) :
    Except FaultInfo Loc :=
  let a := ea.toNat
  let low := a % 2 ^ 52
  let aligned := low % align == 0
  match a / 2 ^ 52 with
  | 0 => if !aligned then .error (cALIGN, datum) else checkGlobal s t.vd t.core low w
  | 0x800 =>
    if 2 ^ 19 ≤ low ∨ t.lrec.scratch < low + size then .error (cSCRATCH, datum)
    else if !aligned then .error (cALIGN, datum)
    else .ok (.scr t.core (t.winBase + low))
  | 0x900 =>
    let rank := low / 2 ^ 19 % 16
    let off := low % 2 ^ 19
    if 2 ^ 23 ≤ low ∨ t.lrec.gsize ≤ rank then .error (cGANG, datum)
    else match gangTeam s t.gang rank with
      | none => .error (cGANG, datum)
      | some (_, p) =>
        if p.retired then .error (cGANG, datum)
        else if p.lrec.scratch < off + size then .error (cSCRATCH, datum)
        else if !aligned then .error (cALIGN, datum)
        else .ok (.scr p.core (p.winBase + off))
  | 0xA00 =>
    if !smode then .error (cADDR, datum)
    else if 2 ^ 19 ≤ low then .error (cSCRATCH, datum)
    else if !aligned then .error (cALIGN, datum)
    else if 2 ^ 19 < low + size then .error (cSCRATCH, datum)
    else .ok (.scr t.core low)
  | _ => .error (cADDR, datum)

def resolve (s : State) (t : Team) (smode : Bool) (ea : DWord) (size : Nat) (w : Want) : Except FaultInfo Loc :=
  resolveAs s t smode ea size size w ea

/-- The system port that a place lies behind (R341). -/
def locPort : Loc → Option Nat
  | .phys a => portOf a
  | .scr _ _ => none

/-- The slices that a granule's lines are homed in (R172, R173). -/
def slicesOf (s : State) (g : Nat) : List Nat :=
  match AMap.find s.pins g with
  | some p => [p]
  | none => ((quadrants s.config (ownerPart s.config (65536 * g))).map fun q => (List.range 64).map fun i => q * 64 + i).flatten

/-- The FLOORs of the slices that lines move to, where those of the slices that they leave are greater: a line's times go with it (R331, R340,
log 53). -/
def carryFloor (floor : AMap DWord) (old new : List Nat) : AMap DWord :=
  let m := old.foldl (fun m x => maxD m (AMap.get 0 floor x)) 0
  if m = 0 then floor else new.foldl (fun f x => if (AMap.get 0 f x).toNat < m.toNat then AMap.set f x m else f) floor

/-- A granule's homing changed. -/
def setHome (s : State) (g : Nat) (pins : AMap Nat) : State :=
  { s with pins := pins, floor := carryFloor s.floor (slicesOf s g) (slicesOf { s with pins := pins } g) }

/-- The walk of an address that is checked for an access which another place's check, or its own, then stops (R420, R421). -/
def noteWalk (s : State) (t : Team) (ea : DWord) : State := if ea.toNat < 2 ^ 52 then fillTlb s t.vd t.core ea.toNat else s

/-- The homing of a line's granule, as the translation of its page gives it (R172). -/
def noteHome (s : State) (t : Trans) (l : Loc) : State :=
  match cached l with
  | none => s
  | some n =>
    let g := n / 1024
    if t.home = 1 then (if AMap.find s.pins g = some t.pin then s else setHome s g (AMap.set s.pins g t.pin))
    else if (AMap.find s.pins g).isSome then setHome s g (AMap.del s.pins g) else s

/-- The caches, the homing and the residency record after a checked access of a generic address. -/
def noteAccess (s : State) (t : Team) (ea : DWord) (l : Loc) : State :=
  if ea.toNat < 2 ^ 52 then
    let s1 := fillTlb s t.vd t.core ea.toNat
    let s2 := match translate s1 t.vd t.core ea.toNat with
      | .ok x => noteHome s1 x l
      | .error _ => s1
    recordGranule s2 t.vd l
  else s

end Sys2Proof.Machine
end

