-- ==== Sys2Proof/Machine/Operands.lean ====
section
/-! DEFINITION. Operand forms: reading and writing what a selector names (R14 to R17, R29, R35, R69, R71, R73, R375), the decode
faults that depend on the agent (R79), guards (R23) and the interlock on outstanding results (R15). -/

namespace Sys2Proof.Machine

/-- Whether a team has NTEAMS and such from its record: the 32-bit specials of R29 for a thread. -/
def specialVal (s : State) (t : Team) (tid : Nat) (th : Thread) : Special → DWord
  | .tid => BitVec.ofNat 64 tid
  | .teamid => BitVec.ofNat 64 t.teamid
  | .gangrank => BitVec.ofNat 64 t.rank
  | .gangsize => BitVec.ofNat 64 t.lrec.gsize
  | .nthreads => BitVec.ofNat 64 t.lrec.nthreads
  | .slot => BitVec.ofNat 64 th.slot
  | .part => BitVec.ofNat 64 (th.slot / 32 % 4)
  | .mode => if th.arch.mode then 1 else 0
  | .pix => th.arch.pix.zeroExtend 64
  | .prio => th.arch.prio.zeroExtend 64
  | .fflags => th.arch.fflags.zeroExtend 64
  | .gpc => th.arch.pc
  | .growth => s.growth
  | .egw0 => th.arch.egw0
  | .egw1 => th.arch.egw1
  | .epc => th.arch.epc
  | .elen => th.arch.elen.zeroExtend 64
  | .grid => BitVec.ofNat 64 t.grid
  | .nteams => BitVec.ofNat 64 t.lrec.nteams

/-- The K registers as a thread reads them: as the first KBAR left them on a barrier whose phase goes on and on which the thread has not yet
arrived, or the latest KBAR after that one whose phase the thread has waited for; where there is no such KBAR, as they are (R36). -/
def kFor (t : Team) (tid : Nat) : AMap DWord :=
  match t.kold.find? fun v => !(AMap.get {} t.barriers v.b).who.contains tid with
  | some v => ((AMap.find v.seen tid).getD v.mark).k
  | none => t.k

/-- The number of the v register that a selector names, through the window (R17). -/
def regNo (ar : Arch) : Sel → Option Nat
  | .v j => some j.toNat
  | .n i => some (ar.wbase.toNat + i.toNat)
  | .big x => some x.toNat
  | _ => none

def vReg (ar : Arch) (j : Nat) : Word := AMap.get 0 ar.v j
def vPair (ar : Arch) (j : Nat) : DWord := (vReg ar (j + 1)) ++ (vReg ar j)

/-- The thread that reads: its state, team, number and itself. -/
structure Ctx where
  s : State
  key : Nat
  team : Team
  tid : Nat
  th : Thread

/-- A 32-bit source operand (R35, R69, R73, R375). -/
def read32 (c : Ctx) (x : Sel) : Word :=
  match x with
  | .v j => vReg c.th.arch j.toNat
  | .n i => vReg c.th.arch (c.th.arch.wbase.toNat + i.toNat)
  | .big n => vReg c.th.arch n.toNat
  | .k j => (AMap.get 0 (kFor c.team c.tid) j.toNat).truncate 32
  | .sp p hi =>
    let d := specialVal c.s c.team c.tid c.th p
    if hi then (d >>> 32).truncate 32 else d.truncate 32
  | .e j => AMap.get 0 c.th.arch.e j.toNat
  | .t j => AMap.get 0 c.th.arch.t j.toNat
  | .imm i => i.signExtend 32
  | .ext w => w.truncate 32
  | .val w _ => w
  | .num n => BitVec.ofNat 32 n
  | .none => 0

/-- A 64-bit source operand (R14, R35, R69, R73). -/
def read64 (c : Ctx) (x : Sel) : DWord :=
  match x with
  | .v j => vPair c.th.arch j.toNat
  | .n i => vPair c.th.arch (c.th.arch.wbase.toNat + i.toNat)
  | .big n => vPair c.th.arch n.toNat
  | .k j => AMap.get 0 (kFor c.team c.tid) j.toNat
  | .sp p _ => specialVal c.s c.team c.tid c.th p
  | .t j => (AMap.get 0 c.th.arch.t (j.toNat + 1)) ++ (AMap.get 0 c.th.arch.t j.toNat)
  | .imm i => i.signExtend 64
  | .ext w => w.signExtend 64
  | .val w sx => if sx then w.signExtend 64 else w.zeroExtend 64
  | _ => 0

/-- A packed source of elements in fields of `w` bits: an immediate or an extracted value goes to each element (R69, R375), an extension
value does not (R73). -/
def readPack (c : Ctx) (w : Nat) (x : Sel) : Word :=
  let every (v : Word) : Word :=
    if w = 16 then (let h : BitVec 16 := v.truncate 16; h ++ h) else (let b : Byte := v.truncate 8; b ++ b ++ b ++ b)
  match x with
  | .imm i => every (i.signExtend 32)
  | .val v _ => every v
  | y => read32 c y

/-- A packed source of 16-bit elements. -/
def readPk (c : Ctx) (x : Sel) : Word := readPack c 16 x

/-- The value of an integer operand under a type's width. -/
def readInt (c : Ctx) (t : ElTy) (x : Sel) : Nat := if t.width = 64 then (read64 c x).toNat else (read32 c x).toNat

/-- A scalar integer operand's bits, of its type's width (R39). -/
def readTy (c : Ctx) (t : ElTy) (x : Sel) : Nat := readInt c t x % 2 ^ t.width

/-- A register written: its slot of a held window becomes dirty (R17, R117), but while the window is being staged the understory register is written
too (R20). -/
def setReg (th : Thread) (j : Nat) (w : Word) : Thread :=
  let b := th.arch.wbase.toNat
  let d := if th.arch.wvalid && th.held && th.wait != some .staging && decide (b ≤ j) && decide (j < b + 16) then th.dirty ||| (1#16 <<< (j - b)) else th.dirty
  { th with arch := { th.arch with v := AMap.set th.arch.v j w }, dirty := d, bad := th.bad.filter fun x => x.1 != j }

def setPair (th : Thread) (j : Nat) (w : DWord) : Thread := setReg (setReg th j (w.truncate 32)) (j + 1) ((w >>> 32).truncate 32)

/-- A 32-bit result written to its destination (R69). -/
def write32 (th : Thread) (d : Sel) (w : Word) : Thread :=
  match d with
  | .v j => setReg th j.toNat w
  | .n i => setReg th (th.arch.wbase.toNat + i.toNat) w
  | .big n => setReg th n.toNat w
  | .e j => { th with arch := { th.arch with e := AMap.set th.arch.e j.toNat w } }
  | .t j => { th with arch := { th.arch with t := AMap.set th.arch.t j.toNat w } }
  | .sp .fflags _ => { th with arch := { th.arch with fflags := w.truncate 5 } }
  | _ => th

/-- A 64-bit result written to its pair (R14). -/
def write64 (th : Thread) (d : Sel) (w : DWord) : Thread :=
  match d with
  | .v j => setPair th j.toNat w
  | .n i => setPair th (th.arch.wbase.toNat + i.toNat) w
  | .big n => setPair th n.toNat w
  | .t j =>
    { th with arch := { th.arch with t := AMap.set (AMap.set th.arch.t j.toNat (w.truncate 32)) (j.toNat + 1) ((w >>> 32).truncate 32) } }
  | _ => th

def writeInt (th : Thread) (t : ElTy) (d : Sel) (x : Nat) : Thread :=
  if t.width = 64 then write64 th d (BitVec.ofNat 64 x) else write32 th d (BitVec.ofNat 32 x)

def pred (th : Thread) (j : Nat) : Bool := th.arch.p.getLsbD j
def setPred (th : Thread) (j : Nat) (b : Bool) : Thread :=
  let m : BitVec 16 := 1#16 <<< j
  { th with arch := { th.arch with p := if b then th.arch.p ||| m else th.arch.p &&& ~~~m } }

/-- Flags raised are ORed into sr.fflags (R28, R165). -/
def raiseF (th : Thread) (f : BitVec 5) : Thread := { th with arch := { th.arch with fflags := th.arch.fflags ||| f } }

/-- The guard of R23. -/
def guardTrue (th : Thread) : Guard → Bool
  | .always => true
  | .on j neg => th.arch.p.getLsbD j.toNat != neg

/-! ## Decode faults of a thread (R79) -/

/-- Registers a position takes. -/
def posRegs : PosKind → Nat
  | .r64 | .w64 | .ld64 => 2
  | .quad | .quadSrc => 4
  | _ => 1

/-- REG_RANGE of one operand: the datum of R490. -/
def rangeOf (alloc : Nat) (ar : Arch) : Sel → Option DWord
  | .v j => if alloc ≤ j.toNat then some (j.zeroExtend 64) else none
  | .n i => if !ar.wvalid || decide (alloc ≤ ar.wbase.toNat + i.toNat) then some (BitVec.ofNat 64 (256 + i.toNat)) else none
  | .big x => some (x.zeroExtend 64)
  | _ => none

/-- The class bit of R268 of an operation. -/
def featBit (cls opc : Nat) : Option Nat :=
  match cls, opc with
  | 0, 0x4B => some 7
  | 0, 0x4E | 0, 0x4F => some 6
  | 1, 0x23 => some 5
  | 1, 0x08 => some 4
  | 0, 0xAB | 0, 0xAC | 0, 0xAD | 0, 0xAE => some 3
  | 0, 0xA0 | 0, 0xA1 | 0, 0xA2 | 0, 0xA3 | 0, 0xA4 => some 2
  | 2, 0x15 => some 1
  | 2, n => if n / 16 = 2 then some 0 else none
  | _, _ => none

/-- The control transfers of R75. -/
def isTransfer (cls opc : Nat) : Bool :=
  match cls with
  | 0 => [0x40, 0x41, 0x42, 0x43, 0x44, 0x45, 0x46, 0x48, 0x4E, 0x4F].contains opc
  | 1 => [0xE2, 0xE3, 0xE4].contains opc
  | _ => [0x10, 0x11, 0x12, 0x16].contains opc

/-- Where an instruction of `len` bytes may stand in its clause (R75 rules 3 and 5). -/
def placedOk (cls opc : Nat) (pc : DWord) (cl : Clause) (len : Nat) : Bool :=
  cl.loose || (!cl.due && (if isTransfer cls opc then pc + BitVec.ofNat 64 len == cl.stop else decide ((pc + BitVec.ofNat 64 len).toNat ≤ cl.stop.toNat)))

/-- PRIV_OP (R267, R275): the datum. -/
def privOf (cls opc : Nat) (a : Args) (smode uen : Bool) : Option DWord :=
  if smode ∨ cls ≠ 1 then none
  else match opc with
    | 0xE0 => match crRow a.mod.toNat with
              | some (_, true, _) => none
              | _ => some (a.mod.zeroExtend 64)
    | 0xE1 => some (a.mod.zeroExtend 64)
    | 0xE3 | 0xE5 | 0xE6 | 0xE9 => some 0
    | 0xE7 => if uen then none else some 0
    | _ => none

/-- The decode fault of a thread operation, in the order of R79: its code and datum. `native` adds the rules of clauses. -/
def decodeFault (c : Ctx) (cls opc : Nat) (a : Args) (native : Bool) : Option FaultInfo :=
  let v := c.s.vd c.team.vd
  let alloc := 8 * c.team.lrec.regs8
  let tagBad := cls == 1 && opc == 0x10 && modBits a.mod 7 7 == 1 && decide (c.team.lrec.tags ≤ a.dst.toNum)
  if !opOk cls opc a || tagBad || (native && !placedOk cls opc c.th.arch.pc c.th.arch.clause (8 * a.words)) then some (cILLEGAL, 0)
  else match privOf cls opc a c.th.arch.mode v.perfctl with
    | some d => some (cPRIV, d)
    | none =>
      match (featBit cls opc).filter fun b => !v.feat.getLsbD b with
      | some b => some (cMASKED, BitVec.ofNat 64 b)
      | none =>
        let rgn := if cls = 0 ∧ opc = 0x30 ∧ alloc ≤ 8 * modBits a.mod 4 0 then some (BitVec.ofNat 64 (8 * modBits a.mod 4 0)) else none
        match ([a.dst, a.sa, a.sb, a.sc].findSome? (rangeOf alloc c.th.arch)).or rgn with
        | some d => some (cREG, d)
        | none => none

/-! ## The interlock (R15, R180) -/

/-- Keys of registers: v j is j, e j is 1000 + j, t j is 2000 + j, sr.fflags is 3000, k j is 4000 + j. -/
def selKeys (ar : Arch) (n : Nat) : Sel → List Nat
  | .v j => (List.range n).map fun i => j.toNat + i
  | .n i => (List.range n).map fun k => ar.wbase.toNat + i.toNat + k
  | .big x => (List.range n).map fun k => x.toNat + k
  | .e j => [1000 + j.toNat]
  | .t j => (List.range n).map fun i => 2000 + j.toNat + i
  | .sp .fflags _ => [3000]
  | .k j => [4000 + j.toNat]
  | _ => []

def accessKeys (ac : Access) : List Nat :=
  match ac.op with
  | .load d _ | .cas d _ _ _ | .atom d _ _ _ => selKeys {} (max 1 (ac.size / 4)) d
  | .kload k _ => [4000 + k.toNat]
  | .store _ => []

/-- The registers that an operation names. -/
def argKeys (ar : Arch) (sh : Shape) (a : Args) : List Nat :=
  selKeys ar (posRegs sh.dst) a.dst ++ selKeys ar (posRegs sh.sa) a.sa ++ selKeys ar (posRegs sh.sb) a.sb ++ selKeys ar (posRegs sh.sc) a.sc

/-- Operations that read or write sr.fflags without naming it: FFLAG, and those that raise flags (R164, R165). -/
def impliedKeys (cls opc : Nat) : List Nat := if cls = 0 ∧ 0x80 ≤ opc ∧ opc ≠ 0x88 then [3000] else []

/-- The registers that an operation reads. -/
def srcKeys (ar : Arch) (sh : Shape) (a : Args) : List Nat :=
  (if sh.dst = .r64 then selKeys ar 2 a.dst else []) ++
  selKeys ar (posRegs sh.sa) a.sa ++ selKeys ar (posRegs sh.sb) a.sb ++ selKeys ar (posRegs sh.sc) a.sc

/-- A unit address of a core's structure (R454). -/
def coreUnit (core code ix : Nat) : DWord := BitVec.ofNat 64 (15 * 2 ^ 48 + core / 4 * 2 ^ 40 + core % 4 * 2 ^ 38 + code * 2 ^ 32 + ix % 2 ^ 32)

/-- The near slot of a thread's window that holds register `j` dirty (R17, R18). -/
def dirtyNear (th : Thread) (j : Nat) : Option Nat :=
  let k := j - th.arch.wbase.toNat
  if th.held && decide (th.arch.wbase.toNat ≤ j) && decide (k < 16) && th.dirty.getLsbD k then some k else none

/-- The unit address of a register in error (R454): its understory row, or its near slot where the error struck that and it is still dirty. -/
def regUnit (core : Nat) (th : Thread) (j : Nat) : DWord :=
  match dirtyNear th j with
  | some k =>
    if AMap.get 0 th.bad j = k + 1 then coreUnit core 1 (Config.nearSlot core (th.slot * 16 + k)).toNat
    else coreUnit core 0 (Config.regRow core (th.slot * 32 + j / 8)).toNat
  | none => coreUnit core 0 (Config.regRow core (th.slot * 32 + j / 8)).toNat

/-- A register in error among some keys (R453). DESIGN CHOICE (log 65): an understory error faults each read of its register, also while a held window
serves that register from a near slot (R17). -/
def softError (c : Ctx) (ks : List Nat) : Option FaultInfo :=
  (ks.find? fun j => (AMap.find c.th.bad j).isSome).map fun j => (cSOFT, regUnit c.team.core c.th j)

/-- Operations that stand only last in a template, and take effect after its commit point (R290). -/
def lastOnly (cls opc : Nat) : Bool :=
  match cls with
  | 0 => decide (0x40 ≤ opc) && decide (opc ≤ 0x4F) && opc != 0x4D
  | _ => !([0x00, 0x01, 0x02, 0x03, 0x07].contains opc)

/-- Operations that wait for every earlier access of the agent: ordering (R199, R206, R215, R236), R116, R126, R165, R191, R275. -/
def drainsFirst (cls opc : Nat) : Bool :=
  match cls with
  | 0 => [0x2D, 0x2E, 0x47].contains opc
  | 1 => [0x08, 0x10, 0x11, 0x12, 0x13, 0x14, 0x18, 0x19, 0x1A, 0x1B, 0x1C, 0x1D, 0x20, 0x21, 0x22, 0x23, 0xE0, 0xE1, 0xE5, 0xE6,
          0xE9].contains opc
  | _ => opc == 0x13 || opc == 0x15 || opc == 0x16 || decide (0x20 ≤ opc)

/-- Whether an operation must wait for an outstanding access of its agent. -/
def interlocked (out : List Access) (ar : Arch) (cls opc : Nat) (a : Args) : Bool :=
  !out.isEmpty &&
  (drainsFirst cls opc ||
   match shapeOf cls opc a.mod with
   | some sh => let ks := impliedKeys cls opc ++ argKeys ar sh a; out.any fun ac => (accessKeys ac).any ks.contains
   | none => false)

/-! ## The uniform stream's operands (R71) -/

def kread (s : State) (t : Team) : Sel → DWord
  | .k j => AMap.get 0 t.k j.toNat
  | .imm i => i.signExtend 64
  | .ext w => w.signExtend 64
  | .sp p _ =>
    match p with
    | .teamid => BitVec.ofNat 64 t.teamid
    | .gangrank => BitVec.ofNat 64 t.rank
    | .gangsize => BitVec.ofNat 64 t.lrec.gsize
    | .nthreads => BitVec.ofNat 64 t.lrec.nthreads
    | .grid => BitVec.ofNat 64 t.grid
    | .nteams => BitVec.ofNat 64 t.lrec.nteams
    | .growth => s.growth
    | _ => 0
  | _ => 0

def kwrite (t : Team) (d : Sel) (w : DWord) : Team :=
  match d with
  | .k j => { t with k := AMap.set t.k j.toNat w }
  | _ => t

def qTrue (t : Team) : Guard → Bool
  | .always => true
  | .on j neg => t.q.getLsbD j.toNat != neg

/-- The decode fault of a uniform word (R79, R225). -/
def kdecodeFault (s : State) (t : Team) (opc : Nat) (a : Args) : Option FaultInfo :=
  if !opOk 2 opc a || !placedOk 2 opc t.stream.pc t.stream.clause (8 * a.words) then some (cILLEGAL, 0)
  else match (featBit 2 opc).filter fun b => !(s.vd t.vd).feat.getLsbD b with
    | some b => some (cMASKED, BitVec.ofNat 64 b)
    | none => none

end Sys2Proof.Machine
end

