-- ==== Sys2Proof/Machine/Engine.lean ====
section
/-! DEFINITION. The matrix engine's data operations (R40, R244, R249 to R260): what a command that has passed its checks does to
tiles, canopy slots and memory. -/

namespace Sys2Proof.Machine

/-- Bits of one packed element of a format (R40). -/
def packBits : Nat → Nat
  | 1 | 2 => 16
  | 6 => 6
  | 0 => 32
  | _ => 8

/-- `n` packed elements of a row of bytes (R39, R40): a little-endian run of bits. -/
def unpackRow (elem n : Nat) (bs : List Byte) : List Nat :=
  let w := packBits elem
  let x := leNat bs
  (List.range n).map fun i => x / 2 ^ (w * i) % 2 ^ w

/-- A row of elements packed into bytes (R40). -/
def packRow (elem : Nat) (xs : List Nat) : List Byte :=
  let w := packBits elem
  leBytes (xs.length * w / 8) (xs.foldr (fun x acc => x % 2 ^ w + 2 ^ w * acc) 0)

/-- The next sequence number of a core toward a port, taken (R342). -/
def takeSeq (s : State) (core port : Nat) : State × Nat :=
  let k := core * 18 + port
  let n := AMap.get 0 s.seqs k
  ({ s with seqs := AMap.set s.seqs k ((n + 1) % 2 ^ 32) }, n)

/-- The physical address of a place. -/
def physOf : Loc → Nat
  | .phys a => a
  | .scr _ _ => 0

/-- A write of an engine of a team, of the command `op`: one to a system page awaits its acknowledgment among those of the team's stream (R341,
R342); one behind a link that is down is discarded (R478, log 16). -/
def engineStore (s : State) (op : Nat × Nat) (t : Team) (va : DWord) (l : Loc) (bs : List Byte) (bad : Bool) : State :=
  if linkCut s l then s else
  let s0 := store s t.core l bs bad
  let s1 := if bad then s0 else mend s0 op l bs.length
  match locPort l with
  | none => s1
  | some p =>
    let (s2, n) := takeSeq s1 t.core p
    let w : SysWrite := { core := t.core, port := p, seq := n, va := va, pa := physOf l, old := readBytes s l bs.length,
                          time := (timesOf s1 l).wts }
    match s2.teams.find? fun q => q.2.gang == t.gang && q.2.rank == t.rank with
    | some q => s2.modTeam q.1 fun t => { t with stream := { t.stream with unacked := t.stream.unacked ++ [w] } }
    | none => s2

/-- Bytes of a row of 128 elements (R249, R259). -/
def rowBytes (elem : Nat) : Nat := 16 * packBits elem

/-- Bytes of 32 elements of A (R251). -/
def chunkBytes (elem : Nat) : Nat := 4 * packBits elem

/-- The place of a generic address under the translations that a command holds (R196); an address it holds none for is checked anew
(R433). -/
def heldLoc (s : State) (t : Team) (held : List Trans) (ea : DWord) (w : Want) : Option Loc :=
  match (if ea.toNat < 2 ^ 52 then held.find? fun x => x.covers t.vd ea.toNat else none) with
  | some x => some (.phys (x.pa ea.toNat))
  | none =>
    match resolveAs s t false ea 1 1 w ea with
    | .ok l => some l
    | .error _ => none

/-- The scale cache of a team's cluster (R255, R338). -/
def scaleCache (t : Team) : Nat := 1000 + clusterOf t.core

/-- Bytes read by an engine in reads of `u` bytes (R188, R338): the state, the bytes, and the first poisoned address. -/
def engineRead (s : State) (t : Team) (cache : Nat) (held : List Trans) (ea : DWord) (n u : Nat) : State × List Byte × Option DWord :=
  (List.range (n / u)).foldl (fun (s, bs, p) i =>
    let a := ea + BitVec.ofNat 64 (u * i)
    match heldLoc s t held a ⟨true, false⟩ with
    | some l =>
      let (s1, x, bad) := loadVia s cache t.core l u
      (s1, bs ++ x, p.or (if bad then some a else none))
    | none => (s, bs ++ List.replicate u 0, p)) (s, [], none)

/-- A run of 16-byte units written by a drain or a swap of a team (R259, R260); those of a system page take numbers at their port (R342). -/
def engineWrite (s : State) (key : Nat) (t : Team) (c : PCmd) (ea : DWord) (bs : List Byte) : State :=
  (List.range ((bs.length + 15) / 16)).foldl (fun s i =>
    match heldLoc s t c.held (ea + BitVec.ofNat 64 (16 * i)) ⟨false, true⟩ with
    | some l => engineStore s (key, c.no) t (ea + BitVec.ofNat 64 (16 * i)) l ((bs.drop (16 * i)).take 16) false
    | none => s) s

def stNANIN : BitVec 4 := 8
def stINV : BitVec 4 := 4
def stSAT : BitVec 4 := 2
def stOVF : BitVec 4 := 1

/-- The status events of a drain conversion (R62, R259). -/
def drainEvents (f : FR) (nanElem : Bool) : BitVec 4 :=
  (if f.ovf then stOVF else 0) ||| (if f.sat then stSAT else 0) ||| (if f.isNan || nanElem then stINV else 0)

/-- The exact sum of 32 products (R252); none for a NaN chunk. -/
def chunkSum (xs ys : List FV) : Option FV :=
  match (xs.zip ys).map fun p => mulV p.1 p.2 with
  | [] => some (.zero false)
  | p :: ps => ps.foldl (fun acc q => acc.bind fun a => q.bind fun b => addV 0 a b) p

/-- One element of one pass (R252): the new accumulator value and its status events. A -0 chunk added to an accumulator of -0 gives -0, as a sum
of zeros of one sign does (R46); a scale of 0xFF makes the chunk NaN after its sum is rounded, which can raise OVF (log 54). -/
def mmaElement (acc : Word) (xs ys : List FV) (sa sb : Nat) : Word × BitVec 4 :=
  let nanIn : BitVec 4 := if xs.any FV.isNan || ys.any FV.isNan || sa == 255 || sb == 255 then stNANIN else 0
  let bad : Word × BitVec 4 := (0x7FC00000, nanIn ||| stINV)
  match chunkSum xs ys with
  | none | some (.nan _) => bad
  | some v =>
    let f := toFormat .f32 {} v
    let x := (decodeF .f32 f.bits).scale ((sa : Int) + sb - 254)
    let o1 : BitVec 4 := if f.ovf then stOVF else 0
    if sa = 255 ∨ sb = 255 then (0x7FC00000, nanIn ||| o1 ||| stINV)
    else match addV 0 (decodeF .f32 acc.toNat) x with
      | none | some (.nan _) => (0x7FC00000, nanIn ||| o1 ||| stINV)
      | some w =>
        let g := toFormat .f32 {} w
        (BitVec.ofNat 32 g.bits, nanIn ||| o1 ||| (if g.ovf then stOVF else 0))

/-- The descriptor fields of an MMA (R251). -/
structure MmaDesc where
  pitch : Nat
  passes : Nat
  first : Nat
  slot : Nat

def mmaDesc (b : DWord) : MmaDesc :=
  let x := b.toNat
  { pitch := x / 2 ^ 32 % 2 ^ 16, passes := x / 2 ^ 11 % 4 + 1, first := x / 2 ^ 9 % 4, slot := x % 512 }

def fslOf (t : Team) (j : Nat) : Slot := slotOf (t.lrec.fsl.getD j 0)

/-- The address of a scale byte of A or B (R254). -/
def scaleAddr (base sh : DWord) (lg row k : Nat) : DWord :=
  base + BitVec.ofNat 64 (row * 2 ^ sh.toNat + k / 2 ^ lg)

/-- The scale settings of a command (R254): those it left the head with, or the team's. -/
def scalesOf (t : Team) (c : PCmd) : Scales := c.scales.getD t.scales

def tileOf (t : Team) (j : Nat) : Tile := AMap.get {} t.tiles j

/-- The columns of B in one pass of an MMA, each with its scale (R251, R252). -/
def mmaCols (s : State) (t : Team) (c : PCmd) (d : MmaDesc) (fb : Slot) (rows : List (List Byte)) (pass : Nat) : State × List (List FV × Nat) :=
  let brows := ((rows.drop (32 * (d.first + pass))).take 32).map fun r => (unpackRow fb.elem 128 r).map (decodeF (elemTy fb.elem))
  (List.range 128).foldl (fun (s, acc) n =>
    let col := brows.map fun r => r.getD n (.zero false)
    if fb.scale = 1 then
      let (s1, x, _) := engineRead s t (scaleCache t) c.held (scaleAddr (scalesOf t c).sbb (scalesOf t c).spb fb.lg n (32 * (d.first + pass))) 1 1
      (s1, acc ++ [(col, (x.headD 0).toNat)])
    else (s, acc ++ [(col, 127)])) (s, [])

/-- The chunk of A of a row in one pass, with its scale: reads of 8 bytes of the window (R251, R253). -/
def mmaArow (s : State) (t : Team) (c : PCmd) (d : MmaDesc) (fa : Slot) (pass m : Nat) : State × List FV × Nat :=
  let off := c.a.toNat % 2 ^ 32 + m * d.pitch + pass * chunkBytes fa.elem
  let (s1, bs, _) := engineRead s t t.core c.held ((0x800 : BitVec 12) ++ BitVec.ofNat 52 off) (chunkBytes fa.elem) 8
  let xs := (unpackRow fa.elem 32 bs).map (decodeF (elemTy fa.elem))
  if fa.scale = 1 then
    let (s2, x, _) := engineRead s1 t (scaleCache t) c.held (scaleAddr (scalesOf t c).sba (scalesOf t c).spa fa.lg m (32 * pass)) 1 1
    (s2, xs, (x.headD 0).toNat)
  else (s1, xs, 127)

/-- A tile after one row of one pass (R252). -/
def mmaRow (tile : Tile) (m : Nat) (xs : List FV) (sa : Nat) (cols : List (List FV × Nat)) : Tile :=
  let mine := (tile.el.dropWhile fun p => decide (p.1 < 128 * m)).takeWhile fun p => decide (p.1 < 128 * m + 128)
  let out := (cols.zip (List.range 128)).map fun p => (128 * m + p.2, mmaElement (AMap.get 0 mine (128 * m + p.2)) xs p.1.1 sa p.1.2)
  { tile with
    el := (tile.el.takeWhile fun p => decide (p.1 < 128 * m)) ++ (out.map fun p => (p.1, p.2.1)) ++
      tile.el.dropWhile fun p => decide (p.1 < 128 * m + 128),
    status := out.foldl (fun acc p => acc ||| p.2.2) tile.status }

/-- Rows that an MMA takes in all: 128 in each pass. -/
def mmaTotal (c : PCmd) : Nat := 128 * (mmaDesc c.b).passes

/-- The next rows of an MMA, `n` at most, of one pass (R251 to R253), under the scale settings it left the queue with (R254). DESIGN CHOICE (log 59):
its reads of A and of the scales, which R253 leaves unordered, are made in ascending pass and row order, and those of B's scales anew for each run of
rows. -/
def mmaRows (s : State) (key : Nat) (t : Team) (c : PCmd) (acc fa fb n : Nat) : State :=
  let d := mmaDesc c.b
  let pass := c.prog / 128
  let m0 := c.prog % 128
  match AMap.find t.canopy d.slot with
  | some (.tile _ _ rows) =>
    let (s1, cols) := mmaCols s t c d (fslOf t fb) rows pass
    let (s2, tile) := (List.range (min n (128 - m0))).foldl (fun (s, tile) i =>
      let (s1, xs, sa) := mmaArow s t c d (fslOf t fa) pass (m0 + i)
      (s1, mmaRow tile (m0 + i) xs sa cols)) (s1, tileOf t acc)
    s2.modTeam key fun t => { t with tiles := AMap.set t.tiles acc tile }
  | _ => s

/-- A row of a drain (R259): its bytes and its status events. -/
def drainRow (t : Team) (acc fs m : Nat) : List Byte × BitVec 4 :=
  let sl := fslOf t fs
  let ty := elemTy sl.elem
  let mine := ((tileOf t acc).el.dropWhile fun p => decide (p.1 < 128 * m)).takeWhile fun p => decide (p.1 < 128 * m + 128)
  let row := (List.range 128).map fun n =>
    let v := decodeF .f32 (AMap.get 0 mine (128 * m + n)).toNat
    (toFormat ty (sl.rounding 0) v, v.isNan)
  (packRow sl.elem (row.map fun f => f.1.bits), row.foldl (fun acc f => acc ||| drainEvents f.1 f.2) 0)

/-- One row of an MDRAIN (R259): its bytes written, its events in the status word, which CLR clears before the first. DESIGN CHOICE (log 59): its
16-byte writes, which R259 leaves unordered, are performed in ascending row and unit order. -/
def drainStep (s : State) (key : Nat) (t : Team) (c : PCmd) (acc fs : Nat) (clr : Bool) : State :=
  let m := c.prog
  let (bs, ev) := drainRow t acc fs m
  let s1 := engineWrite s key t c (c.a + BitVec.ofNat 64 (m * (c.b.toNat % 2 ^ 32))) bs
  s1.modTeam key fun t =>
    let tile := tileOf t acc
    { t with tiles := AMap.set t.tiles acc { tile with status := (if clr && m == 0 then 0 else tile.status) ||| ev } }

/-- The tile image of R260. -/
def tileImage (tile : Tile) : List Byte :=
  ((List.range 16384).map fun i => leBytes 4 (AMap.get 0 tile.el i).toNat).flatten ++ leBytes 8 tile.status.toNat ++ leBytes 56 0

def imageTile (bs : List Byte) : Tile :=
  { el := (List.range 16384).map fun i => (i, BitVec.ofNat 32 (leNat ((bs.drop (4 * i)).take 4))),
    status := BitVec.ofNat 4 (leNat ((bs.drop 65536).take 1)) }

/-- Bytes of row `m` of a tile image: 128 rows of 512, and the status words (R260). -/
def imageRow (tile : Tile) (m : Nat) : List Byte := ((tileImage tile).drop (512 * m)).take (if m < 128 then 512 else 64)

/-- Rows that a swap takes: the store half's, then the load half's. -/
def swapTotal (op : Nat) : Nat := if op = 2 then 258 else 129

/-- The canopy after slot `j` takes a tile of a format: other halves of tiles it cuts become empty (R249). -/
def canopyPut (cn : AMap Canopy) (j elem : Nat) (cell : Canopy) : AMap Canopy :=
  let wide := elem = 1 ∨ elem = 2
  let cut (cn : AMap Canopy) (i : Nat) : AMap Canopy :=
    match AMap.find cn i with
    | some .second => AMap.del (AMap.del cn (i - 1)) i
    | some (.tile e _ _) => if e = 1 ∨ e = 2 then AMap.del (AMap.del cn (i + 1)) i else AMap.del cn i
    | none => cn
  let cn1 := if wide then cut (cut cn j) (j + 1) else cut cn j
  let cn2 := AMap.set cn1 j cell
  if wide then AMap.set cn2 (j + 1) .second else cn2

/-- MLDB (R249): the rows it has read fill its slots. -/
def mldbApply (t : Team) (c : PCmd) (fs : Nat) : Team :=
  let elem := (fslOf t fs).elem
  { t with canopy := canopyPut t.canopy (c.b.toNat % 512) elem (.tile elem c.hot.isSome c.buf) }

/-- The next row of an MLDB read, in reads of 32 bytes (R249). DESIGN CHOICE (log 59): its reads, which R249 leaves unordered, are made in ascending
row order. -/
def mldbRow (s : State) (t : Team) (c : PCmd) (fs : Nat) : State × PCmd :=
  let pitch := c.b.toNat / 2 ^ 16 % 2 ^ 24
  let (s1, bs, p) := engineRead s t t.core c.held (c.a + BitVec.ofNat 64 (c.prog * pitch)) (rowBytes (fslOf t fs).elem) 32
  (s1, { c with prog := c.prog + 1, buf := c.buf ++ [bs], hot := c.hot.or p })

/-- The kf count of a flag falls (R25, R229). -/
def kfDec (t : Team) : Option (BitVec 4) → Team
  | some j => { t with kf := AMap.set t.kf j.toNat (AMap.get 0 t.kf j.toNat - 1) }
  | none => t

def kfInc (t : Team) : Option (BitVec 4) → Team
  | some j => { t with kf := AMap.set t.kf j.toNat (AMap.get 0 t.kf j.toNat + 1) }
  | none => t

/-- The handle of a tile instruction, MOD bits 53:50 (R245). -/
def accOf (a : Args) : Nat := modBits a.mod 9 6

/-- Commands of a queue discarded, with their counts (R237, R246). -/
def discardAll (t : Team) (cs : List PCmd) : Team := cs.foldl (fun t c => kfDec t c.flag) t

/-- The stream takes a fault (R225): it stops, with the record of CR.UFPC and CR.UFCMD. -/
def ufault (t : Team) (code : BitVec 8) (datum pc cmd : DWord) : Team :=
  { t with stream := { t.stream with stopped := true, wait := none }, ufpc := pc, ufcmd := cmd, ufault := t.ufault ++ [{ code := code, datum := datum }] }

/-- The address of the stream's next unissued instruction (R225): a header that is due is none (R284); a KWAIT or KBAR.w in its wait has
issued. -/
def nextPc (t : Team) : DWord :=
  match t.stream.wait with
  | some (.flag _ _ len) | some (.barrier _ _ len) =>
    let pc := t.stream.pc + BitVec.ofNat 64 len
    if pc = t.stream.clause.stop then pc + 8 else pc
  | _ => if t.stream.clause.due then t.stream.pc + 8 else t.stream.pc

/-- Rows that a granted command takes. -/
def unitTotal (c : PCmd) : Nat :=
  match c.op with
  | .mma _ => mmaTotal c
  | .mdrain _ => 128
  | .mswap a => swapTotal (modBits a.mod 5 4)
  | _ => 0

/-- A granted command of a team changed. -/
def modGranted (s : State) (key : Nat) (u : UnitKind) (f : PCmd → PCmd) : State :=
  s.modTeam key fun t => { t with granted := t.granted.map fun g => if g.1 = u then (u, f g.2) else g }

/-- A unit goes on with its command, by `n` rows at most (R253, R259, R260, R262). DESIGN CHOICE (log 59): a swap's 16-byte reads, and its writes, are made in
increasing row and place. -/
def unitStep (s : State) (key : Nat) (u : UnitKind) (n : Nat) : State :=
  match s.team? key with
  | none => s
  | some t =>
    match t.granted.find? fun g => g.1 == u with
    | none => s
    | some (_, c) =>
      if unitTotal c ≤ c.prog then s
      else match c.op with
        | .mma a => modGranted (mmaRows s key t c (accOf a) (modBits a.mod 5 3) (modBits a.mod 2 0) n) key u fun c =>
            { c with prog := c.prog + min n (128 - c.prog % 128) }
        | .mdrain a => modGranted (drainStep s key t c (accOf a) (modBits a.mod 5 3) (modBits a.mod 2 2 == 1)) key u fun c =>
            { c with prog := c.prog + 1 }
        | .mswap a =>
          let op := modBits a.mod 5 4
          if op = 1 ∨ 129 ≤ c.prog then
            let m := c.prog % 129
            let (s1, bs, p) := engineRead s t t.core c.held ((if op = 1 then c.a else c.b) + BitVec.ofNat 64 (512 * m)) (if m < 128 then 512 else 64) 16
            modGranted s1 key u fun c => { c with prog := c.prog + 1, buf := c.buf ++ [bs], hot := c.hot.or p }
          else
            modGranted (engineWrite s key t c (c.a + BitVec.ofNat 64 (512 * c.prog)) (imageRow (tileOf t (accOf a)) c.prog)) key u fun c =>
              { c with prog := c.prog + 1 }
        | _ => s

/-- Rows that are left of the command granted to a unit. -/
def unitLeft (s : State) (key : Nat) (u : UnitKind) : Nat :=
  match (s.team? key).bind fun t => t.granted.find? fun g => g.1 == u with
  | some (_, c) => unitTotal c - c.prog
  | none => 0

/-- The rest of a granted command's rows. -/
def unitRest (s : State) (key : Nat) (u : UnitKind) : Nat → State
  | 0 => s
  | n + 1 => unitRest (unitStep s key u 128) key u n

/-- The end of the command granted to a unit, whose rows are done: its results, its place in the unit, its flag (R263, R265). -/
def endGranted (s : State) (key : Nat) (u : UnitKind) : State :=
  match s.team? key with
  | none => s
  | some t =>
    match t.granted.find? fun g => g.1 == u with
    | none => s
    | some (_, c) =>
      let fin (s : State) : State := s.modTeam key fun t => kfDec { t with granted := t.granted.filter fun g => g.1 != u } c.flag
      match c.op with
      | .mzero a =>
        let tile := tileOf t (accOf a)
        let clr := modBits a.mod 5 5 = 1
        let z : Tile := { el := [], status := if clr then 0 else tile.status, poison := if clr then false else tile.poison }
        fin (s.setTeam key { t with tiles := AMap.set t.tiles (accOf a) z })
      | .mswap a =>
        if modBits a.mod 5 4 = 0 then fin s
        else match c.hot with
          | none => fin (s.setTeam key { t with tiles := AMap.set t.tiles (accOf a) (imageTile c.buf.flatten) })
          | some p =>
            (fin s).modTeam key fun t =>
              ufault { discardAll t t.matrix with matrix := [] } cPOISON p (nextPc t) c.addr
      | _ => fin s

/-- The command granted to a unit completes: MMA and MZERO on the array, MDRAIN and MSWAP on the drain unit (R262, R263, R265). -/
def completeGranted (s : State) (key : Nat) (u : UnitKind) : State := endGranted (unitRest s key u (unitLeft s key u)) key u

end Sys2Proof.Machine
end

