-- ==== Sys2Proof/Machine/Ops.lean ====
section
/-! DEFINITION. The machine's shared operations: going on to the next instruction, taking a fault (R271) and returning from one (R276),
termination and notices (R447 to R450), performing accesses and copies (R180, R197), glades and barriers (R206 to R216), waits
(R318), nodes of a launch (R399), and how a thread operation and a uniform operation run. -/

namespace Sys2Proof.Machine

/-! ## Notices (R450, R480) -/

/-- The 32 bytes of a notice. -/
def noticeBytes (kind : Nat) (code code2 : BitVec 8) (vdn whereV seq tid : Nat) (datum stamp : DWord) : List Byte :=
  leBytes 1 kind ++ [code, code2] ++ leBytes 1 vdn ++ leBytes 4 whereV ++ leBytes 4 seq ++ leBytes 4 tid ++
  leBytes 8 datum.toNat ++ leBytes 8 stamp.toNat

/-- Whether an event ring has room: one entry stays free (log 13). -/
def ringRoom (p : Port) : Bool := decide (64 ≤ p.evsize.toNat) && (p.evtail.toNat + 1) % p.evsize.toNat != p.evhead.toNat

/-- Notices that wait are written while their ring has room, at most `n` of them. -/
def flushNotices (s : State) (port : Nat) : Nat → State
  | 0 => s
  | n + 1 =>
    let p := AMap.get {} s.ports port
    match p.notices with
    | (bs, _) :: rest =>
      if ringRoom p then
        let q := { p with notices := rest, evtail := BitVec.ofNat 32 ((p.evtail.toNat + 1) % p.evsize.toNat) }
        flushNotices { s with
          mem := cellsSet s.mem (p.evbase.toNat + 32 * p.evtail.toNat) bs, ports := AMap.set s.ports port q } port n
      else s
    | [] => s

/-- A notice is posted to the event ring of every OWNER port (log 13), and waits there for room. -/
def postNotice (s : State) (bs : List Byte) : State :=
  (s.ports.filter fun p => p.2.owner).foldl (fun s p =>
    let q := AMap.get {} s.ports p.1
    flushNotices { s with ports := AMap.set s.ports p.1 { q with notices := q.notices ++ [(bs, s.growth.toNat)] } } p.1 1) s

/-! ## Nodes of a launch (R399) -/

def noGang (s : State) (l n : Nat) (saved : Bool) : Bool :=
  !s.gangs.any fun g => g.2.launch == l && g.2.node == n && (saved || !g.2.saved)

/-- The next state of one node, given the nodes before it. -/
def settleNode (s : State) (l n : Nat) (x : Launch) (nd : Node) : Node :=
  let dep (j : Nat) : Node := AMap.get {} x.nodes j
  match nd.state, nd.ending with
  | .done, _ => nd
  | .waitDep, none =>
    if x.started = false then nd
    else if nd.deps.all fun j => (dep j).state == .done && (dep j).status == 0 then { nd with state := .waitRes }
    else if nd.deps.any fun j => (dep j).state == .done && (dep j).status != 0 then { nd with state := .done, status := 7 }
    else nd
  | _, some st => if noGang s l n false then { nd with state := .done, status := st } else nd
  | .draining, none => if noGang s l n true then { nd with state := .done, status := 0 } else nd
  | _, none => nd

/-- The nodes of a launch, in increasing number (a node depends on lower ones only, R397). -/
def settleLaunch (s : State) (l : Nat) : State :=
  match AMap.find s.launches l with
  | none => s
  | some x =>
    let x1 := x.nodes.foldl (fun y p => { y with nodes := AMap.set y.nodes p.1 (settleNode s l p.1 y (AMap.get {} y.nodes p.1)) }) x
    { s with launches := AMap.set s.launches l x1 }

def launchDone (x : Launch) : Bool := x.early.isSome || x.nodes.all fun p => p.2.state == .done

/-- A launch of a SERIAL queue enters WAITDEP when the previous launches of the queue are done (R407); the keys of launches rise in the
order of their acceptance. -/
def startLaunch (s : State) (l : Nat) : State :=
  match AMap.find s.launches l with
  | none => s
  | some x =>
    let serial := ((AMap.find s.queues x.queue).map Queue.serial).getD false
    let before := s.launches.any fun o => o.2.queue == x.queue && decide (o.1 < l) && !launchDone o.2
    if x.started || (serial && before) then s else { s with launches := AMap.set s.launches l { x with started := true } }

/-- Launches that have become done join the order of their queue's completion entries (R404). -/
def orderDone (s : State) : State :=
  s.launches.foldl (fun s p =>
    match AMap.find s.queues p.2.queue with
    | some q =>
      if launchDone p.2 && !p.2.written && !q.doneOrder.contains p.1 then
        { s with queues := AMap.set s.queues p.2.queue { q with doneOrder := q.doneOrder ++ [p.1] } }
      else s
    | none => s) s

def modNode (s : State) (l n : Nat) (f : Node → Node) : State :=
  match AMap.find s.launches l with
  | some x =>
    match AMap.find x.nodes n with
    | some nd => { s with launches := AMap.set s.launches l { x with nodes := AMap.set x.nodes n (f nd) } }
    | none => s
  | none => s

/-- A node ends with a status once no gang of it is resident (R399); a node that is ending or done keeps its own. -/
def endNode (s : State) (l n status : Nat) : State :=
  modNode s l n fun nd => if nd.state == .done || nd.ending.isSome then nd else { nd with ending := some status }

/-! ## Going on (R75, R78, R287, R289) -/

/-- The position in a decoded line after an instruction (R387). -/
def nextSpot (th : Thread) : Option Spot := th.spot.map fun p => { p with ix := p.ix + 1 }

/-- A native thread passes an instruction of `len` bytes: at its clause's end a header is due; a live record makes a safe point. -/
def passNative (th : Thread) (len : Nat) (live : Option LiveRec) : Thread :=
  let pc := th.arch.pc + BitVec.ofNat 64 len
  { th with wait := none, rep := none, spawn := none, safe := live, spot := nextSpot th,
            arch := { th.arch with pc := pc, clause := { th.arch.clause with due := !th.arch.clause.loose && pc == th.arch.clause.stop } } }

/-- An expansion ends: the thread stands at the next guest boundary, its tail record cleared (R289, R294). -/
def passGuest (th : Thread) (len : Nat) : Thread :=
  { th with wait := none, rep := none, spawn := none, safe := none, expansion := none, tail := none, spot := nextSpot th,
            arch := { th.arch with pc := th.arch.pc + BitVec.ofNat 64 len } }

/-- An operation of a thread is complete; after the last one that takes effect before the commit point, that point is to come (R289). -/
def passOp (th : Thread) (len : Nat) (live : Option LiveRec) : Thread :=
  match th.expansion with
  | none => passNative th len live
  | some x =>
    match x.ops with
    | _ :: r :: rs => { th with wait := none, expansion := some { x with ops := r :: rs } }
    | _ => if x.committed then passGuest th x.len else { th with wait := none, expansion := some { x with ops := [], checked := true } }

/-- The length in bytes of the operation that runs: the guest length in a template (R295). -/
def opLen (th : Thread) (a : Args) : Nat :=
  match th.expansion with
  | none => 8 * a.words
  | some x => x.len

/-- A transfer: the next word is a header (native), the expansion is over. -/
def goTo (th : Thread) (target : DWord) (live : Option LiveRec) : Thread :=
  { th with wait := none, rep := none, spot := none, safe := live, expansion := none, tail := if th.expansion.isSome then none else th.tail,
            arch := { th.arch with pc := target, clause := { th.arch.clause with due := true, loose := false } } }

/-- A transfer to another personality: the boundary there follows an instruction with S = 1 too (R78, R428), though only a native one is a safe point
(R301). -/
def goToPix (th : Thread) (target : DWord) (pix : BitVec 3) (live : Option LiveRec) : Thread :=
  let th1 := goTo th target live
  { th1 with arch := { th1.arch with pix := pix } }

/-- The address after an instruction: the header after its clause, or the next guest instruction (R120, R295). -/
def returnAddr (th : Thread) (a : Args) : DWord := th.arch.pc + BitVec.ofNat 64 (opLen th a)

def passStream (st : Stream) (len : Nat) : Stream :=
  let pc := st.pc + BitVec.ofNat 64 len
  { st with wait := none, pc := pc, clause := { st.clause with due := pc == st.clause.stop } }

def streamGo (st : Stream) (target : DWord) : Stream := { st with wait := none, pc := target, clause := { st.clause with due := true } }

/-! ## Flag counts (R25, R26) -/

def flagCount (th : Thread) (j : BitVec 4) : Nat := AMap.get 0 th.f j.toNat

def incFlag (th : Thread) : Option (BitVec 4) → Thread
  | some j => { th with f := AMap.set th.f j.toNat (flagCount th j + 1) }
  | none => th

def decFlag (th : Thread) : Option (BitVec 4) → Thread
  | some j => { th with f := AMap.set th.f j.toNat (flagCount th j - 1) }
  | none => th

/-- Whether an increment would take a flag past 63 (R26). -/
def flagFull (th : Thread) : Option (BitVec 4) → Bool
  | some j => decide (63 ≤ flagCount th j)
  | none => false

/-- The wait of an instruction at issue for room in its flag (R26, R318). -/
def roomWait (th : Thread) (cycle : Nat) : Option (BitVec 4) → Thread
  | some j => { th with wait := some (.room j), waitFrom := cycle }
  | none => th

/-- The flag an operation of a thread counts on: none inside a template (R287). -/
def flagA (th : Thread) : Option (BitVec 4) := if th.expansion.isSome then none else th.arch.clause.aflag
def flagB (th : Thread) : Option (BitVec 4) := if th.expansion.isSome then none else th.arch.clause.bflag

/-- Every flag of a WAIT mask is 0 (R76). -/
def maskClear (f : AMap Nat) (mask : BitVec 12) : Bool := (List.range 12).all fun j => !mask.getLsbD j || AMap.get 0 f j == 0

/-- Copy tags selected by a mask, below the team's tag count (R202). -/
def tagSelected (t : Team) (mask : DWord) : List Nat := (List.range t.lrec.tags).filter fun j => mask.getLsbD j
def tagsClear (t : Team) (mask : DWord) : Bool := (tagSelected t mask).all fun j => (AMap.get {} t.tags j).count == 0

/-- A wait that a count ends: clause, flag and tag waits are re-evaluated (R318). -/
def recheck (t : Team) (th : Thread) : Thread :=
  match th.wait with
  | some (.clause m) => if maskClear th.f m then { th with wait := none } else th
  | some (.flag j n len) => if flagCount th j ≤ n then passOp th len th.after else th
  | some (.room j) => if flagCount th j < 63 then { th with wait := none } else th
  | some (.tags m len) => if tagsClear t m then passOp th len th.after else th
  | _ => th

def recheckStream (t : Team) : Team :=
  match t.stream.wait with
  | some (.clause m) => if maskClear t.kf m then { t with stream := { t.stream with wait := none } } else t
  | some (.flag j n len) => if AMap.get 0 t.kf j.toNat ≤ n then { t with stream := passStream t.stream len } else t
  | _ => t

def recheckTeam (t : Team) : Team :=
  recheckStream { t with threads := t.threads.map fun p => (p.1, recheck t p.2) }

/-! ## Copies: performing one (R197 to R200) -/

/-- The low 64 bits of a glade (R204). -/
structure GWord where
  hi : Nat
  rvx : Bool
  faulted : Bool
  remote : Bool
  spend : Int
  apend : Nat
  ainit : Nat
  phase : Nat
  deriving DecidableEq, Repr

def gDecode (x : Nat) : GWord :=
  { hi := x / 2 ^ 59 % 32, rvx := x / 2 ^ 58 % 2 == 1, faulted := x / 2 ^ 57 % 2 == 1, remote := x / 2 ^ 56 % 2 == 1,
    spend := toVal true 28 (x / 2 ^ 28), apend := x / 2 ^ 16 % 4096, ainit := x / 16 % 4096, phase := x % 16 }

def gEncode (g : GWord) : Nat :=
  g.hi * 2 ^ 59 + bitNat g.rvx * 2 ^ 58 + bitNat g.faulted * 2 ^ 57 + bitNat g.remote * 2 ^ 56 + wrapZ 28 g.spend * 2 ^ 28 +
  g.apend * 2 ^ 16 + g.ainit * 16 + g.phase

/-- The place of a team's window offset. -/
def winLoc (t : Team) (off : Nat) : Loc := .scr t.core (t.winBase + off)

def gRead (s : State) (t : Team) (off : Nat) : GWord := gDecode (leNat (readBytes s (winLoc t off) 8))

/-- Bytes 0 to 7 of a glade written by a glade operation of an agent of a core: one access (R206), at a time of that core (R332). -/
def gWrite (s : State) (core : Nat) (t : Team) (off : Nat) (g : GWord) : State :=
  touch (writeBytes s (winLoc t off) (leBytes 8 (gEncode g))) core (winLoc t off) true

/-- Live, and well formed under R206; an RVX accepts RVX_ACTIVE. -/
def gWellFormed (g : GWord) : Bool := g.hi == 0 && g.ainit != 0 && decide (g.apend ≤ g.ainit)
def gUsable (t : Team) (off : Nat) (g : GWord) (rvxOp : Bool) : Bool :=
  (AMap.find t.glades off).isSome && gWellFormed g && !g.faulted && (rvxOp || !g.rvx)

/-- The value an RVX gives a participant (R218). -/
def rvxResult (op ty : Nat) (c : Word) (all : List Share) (me : Share) : Word :=
  let xs := all.foldl (fun acc x => acc.takeWhile (fun y => decide (y.tid ≤ x.tid)) ++ x :: acc.dropWhile fun y => decide (y.tid ≤ x.tid)) []
  let pick (n : Word) : Word := ((all.find? fun x => x.tid == n.toNat).map Share.a).getD 0
  let t : ElTy := match ty with
    | 0 => .i32 | 1 => .n32 | _ => .f32
  let mm (isMax : Bool) (x y : Nat) : Nat :=
    if t = .f32 then (opMinMax .f32 isMax false x y).bits else atomNew (if isMax then 2 else 1) t x y
  let fold (f : Nat → Nat → Nat) : Word :=
    match xs with
    | [] => 0
    | x :: r =>
      let v := r.foldl (fun acc y => f acc y.a.toNat) x.a.toNat
      if t = .f32 ∧ (decodeF .f32 v).isNan then 0x7FC00000 else BitVec.ofNat 32 v
  match op with
  | 0 => pick c
  | 1 => fold (atomNew 0 t)
  | 2 => fold (mm false)
  | 3 => fold (mm true)
  | 4 => fold Nat.land
  | 5 => fold Nat.lor
  | 6 => fold Nat.xor
  | 7 => if 31 < c.toNat then 0 else
      BitVec.ofNat 32 (all.foldl (fun acc x => if x.tid / 32 = c.toNat ∧ x.a ≠ 0 then acc + 2 ^ (x.tid % 32) else acc) 0)
  | _ => pick me.c

/-- The kept waits of a kind that have not ended do so. -/
def endKept (f : Wait → Bool) (r : KeptEnd) (ks : List Kept) : List Kept :=
  ks.map fun x => if x.result.isNone && f x.wait then { x with result := some r } else x

/-- A phase of a glade completes: its waiters go on, and an RVX whose wait a delivery or a save has interrupted has its result (R207, R212, R218,
R219). -/
def releaseGlade (t : Team) (key off : Nat) (old : Nat) (gl : Glade) : Team :=
  let share (tid : Nat) : Option Share := gl.shares.find? fun x => x.tid == tid
  let result (tid : Nat) : Word := (share tid).elim 0 fun me => rvxResult gl.op gl.ty gl.c gl.shares me
  { t with
    glades := AMap.set t.glades off { gl with shares := [] },
    threads := t.threads.map fun p =>
      let mine (w : Wait) : Bool := match w with
        | .exchange _ o tok _ _ => o == off && tok.toNat == old
        | _ => false
      let th := { p.2 with kept := endKept mine (.value (result p.1)) p.2.kept }
      (p.1,
        match th.wait with
        | some (.glade _ k o tok len) => if k = key ∧ o = off ∧ tok.toNat = old then passOp th len th.after else th
        | some (.exchange _ o tok d len) => if o = off ∧ tok.toNat = old then passOp (write32 th d (result p.1)) len th.after else th
        | _ => th) }

/-- complete_if_done of R207, with the word after an operation of a core; a completion is an access of its own, later than the operation's, and
raises the CT of the waiters' core to its time (R332, R339). -/
def completeIfDone (s : State) (core key off : Nat) (g : GWord) : State :=
  match s.team? key with
  | none => s
  | some t =>
    let gl := AMap.get {} t.glades off
    if g.apend = 0 ∧ g.spend = 0 ∧ gl.resid = 0 then
      let g1 := { g with phase := (g.phase + 1) % 16, apend := g.ainit, rvx := false }
      let s1 := gWrite (gWrite s core t off g) core t off g1
      (raiseCt s1 t.core (timesOf s1 (winLoc t off)).wts).modTeam key fun t => releaseGlade t key off g.phase gl
    else gWrite s core t off g

/-! ## Faults (R271, R447 to R449) -/

/-- The agents' accesses that have issued land (R428 step 2). `land` performs the oldest access of an agent. -/
def landAll (land : State → Agent → State) (s : State) (ag : Agent) : Nat → State
  | 0 => s
  | n + 1 => landAll land (land s ag) ag n

/-- Halts of a thread end, as by HALTT.go (R279). -/
def endHalts (s : State) (p : Halt → Bool) : State := { s with halts := s.halts.filter fun h => !p h }

/-- The halts of threads that have stopped for a pre-emption end at that stop (R428, R470). -/
def endStopHalts (s : State) : State := endHalts s fun h => ((s.thread? h.team h.tid).map Thread.preempted).getD false

/-- The system writes of a team that await acknowledgment. -/
def teamWrites (t : Team) : List SysWrite :=
  (t.threads.map fun p => p.2.unacked).flatten ++ t.stream.unacked ++ t.replays.filterMap fun r => if r.acked then none else r.write

/-- Unacknowledged writes whose thread or team is gone stay with the launch, whose completion they hold up (R404). -/
def leaveWrites (s : State) (launch : Nat) (ws : List SysWrite) : State :=
  match AMap.find s.launches launch with
  | some x => { s with launches := AMap.set s.launches launch { x with unacked := x.unacked ++ ws } }
  | none => s

/-- A gang and its teams leave the package (R310): resources are those of the teams, so they are free. -/
def dropGang (s : State) (gk : Nat) : State :=
  match s.gang? gk with
  | none => s
  | some g =>
    let s1 := (g.teams.filterMap s.team?).foldl (fun s t => leaveWrites s t.launch (teamWrites t)) s
    { endHalts s1 (fun h => g.teams.contains h.team) with
      teams := s1.teams.filter fun p => !g.teams.contains p.1, gangs := AMap.del s1.gangs gk }

/-- Gangs of a node that is ending or done that are saved, or wait for their first placement step, are discarded: no further gang of it is placed
(R396, R399, R434, log 37). -/
def dropStale (s : State) : State :=
  (s.gangs.filter fun g => (g.2.saved || g.2.fresh) &&
    ((AMap.find s.launches g.2.launch).bind fun x => AMap.find x.nodes g.2.node).any fun nd => nd.ending.isSome || nd.state == .done).foldl
    (fun s g => dropGang s g.1) s

/-- Resident teams of a cluster. -/
def teamsIn (s : State) (cluster : Nat) : List (Nat × Team) :=
  s.teams.filter fun p => p.2.resident && !p.2.retired && clusterOf p.2.core == cluster

/-- A cluster is cleared (R459 step 7): its cores with their caches and scratchpads, its scale cache, its decoded lines and decode tables; what
its L1s held exclusive is at the homes. -/
def clearCluster (s : State) (c : Nat) : State :=
  let mine (core : Nat) : Bool := clusterOf core == c
  let del {α : Type} (m : AMap α) (shared : Bool) : AMap α := m.filter fun p => !(mine p.1 || (shared && p.1 == 1000 + c))
  { s with
    slots := AMap.del s.slots c, lines := AMap.del s.lines c, fills := AMap.del s.fills c,
    l1 := del s.l1 true, tlb := del s.tlb true, icode := del s.icode false, holder := s.holder.filter fun p => !mine p.2,
    scratch := s.scratch.filter fun x => !mine (x.1 / 2 ^ 19),
    poison := s.poison.filter fun k => !(k % 2 == 1 && mine (k / 2 * 32 / 2 ^ 19)) }

/-- A notice of the hardware: VDN 0xFF, TID 0xFFFF_FFFF (R450). -/
def hardwareNotice (s : State) (kind : Nat) (code : BitVec 8) (where' : Nat) (datum : DWord) : State :=
  postNotice s (noticeBytes kind code 0 0xFF where' 0 0xFFFFFFFF datum s.growth)

/-- Retired clusters that hold no team any more are cleared, and the notices of KIND 4 and KIND 5 are posted (R461 steps 3 and 4, log 32). -/
def clearRetired (s : State) : State :=
  s.retiring.foldl (fun s c =>
    if (teamsIn s c).isEmpty then
      hardwareNotice (hardwareNotice { clearCluster s c with retiring := s.retiring.filter fun x => x != c } 4 0 c 0) 5 0 c 0
    else s) s

/-- A virtual device whose switch-in has brought a new FEAT or ROOT that has not taken effect (R268, R415). -/
def VDev.configDue (v : VDev) : Bool := v.dueFeat.isSome || v.dueRoot.isSome

/-- FEAT and ROOT of a switch-in take effect once no gang of the virtual device stands on the cores (R268, R415). -/
def enterConfig (s : State) : State :=
  { s with vds := s.vds.map fun p =>
      (p.1, if p.2.configDue && !(s.gangs.any fun g => g.2.vd == p.1 && !g.2.saved) then
          { p.2 with feat := p.2.dueFeat.getD p.2.feat, dueFeat := none, root := p.2.dueRoot.getD p.2.root, dueRoot := none }
        else p.2) }

/-- Launches start, one after another in the order of their acceptance, so that the next of a SERIAL queue starts as the one before is done (R407);
their nodes pass through the states of R399, and those that are done join their queues' orders; gangs and clusters that have nothing to wait for are
given up. -/
def settleAll (s : State) : State :=
  let s1 := enterConfig (clearRetired (dropStale s))
  orderDone (s1.launches.foldl (fun s p => settleLaunch (startLaunch s p.1) p.1) s1)

/-- A load's data given to its destination, extended per R174 and R176. -/
def loadReg (th : Thread) (d : Sel) (wid : Nat) (x : Nat) : Thread :=
  match wid with
  | 2 => write32 th d (BitVec.ofNat 32 (extendTo true 8 x))
  | 4 => write32 th d (BitVec.ofNat 32 (extendTo true 16 x))
  | 5 => write64 th d (BitVec.ofNat 64 x)
  | 6 =>
    match regNo th.arch d with
    | some j => setPair (setPair th j (BitVec.ofNat 64 x)) (j + 2) (BitVec.ofNat 64 (x / 2 ^ 64))
    | none => th
  | _ => write32 th d (BitVec.ofNat 32 x)

def addPending (th : Thread) (rank : Nat) (code : BitVec 8) (datum : DWord) : Thread :=
  { th with pending := th.pending ++ [{ rank := rank, code := code, datum := datum }] }

/-- Accesses whose reply is data. -/
def returnsData : AccOp → Bool
  | .load _ _ | .kload _ _ | .cas _ _ _ _ => true
  | .atom d _ _ _ => d != .none
  | .store _ => false

/-- A write of an agent's access, at its line's home (`home`, R332: atomics) or in an exclusive copy; a system write or RED awaits its
acknowledgment (R341, R342). -/
def landStore (s : State) (t : Team) (ag : Agent) (ac : Access) (bs : List Byte) (home : Bool) : State :=
  let s1 := if home then storeHome s t.core ac.loc bs false else store s t.core ac.loc bs false
  match if returnsData ac.op then none else ac.port with
  | none => s1
  | some p =>
    let (s2, n) := takeSeq s1 t.core p
    let w : SysWrite := { core := t.core, port := p, seq := n, va := ac.va, pa := physOf ac.loc, old := readBytes s ac.loc bs.length, no := ac.no,
                          time := (timesOf s1 ac.loc).wts }
    match ag with
    | .thread k tid => s2.modThread k tid fun th => { th with unacked := th.unacked ++ [w] }
    | .stream k => s2.modTeam k fun t => { t with stream := { t.stream with unacked := t.stream.unacked ++ [w] } }

/-- A read-modify-write that leaves its bytes as they are, with the times of R332: a CAS that fails, or that reads poison. -/
def touchHome (s : State) (core : Nat) (l : Loc) : State := touch (recallLine (reachGranule s l) l) core l true

/-- An access is performed at its place in the total order (R181, R184, R185, R230): the memory it leaves, and the data an agent's
destination receives, poisoned or not. A load with the .nol1 hint is served from its home and leaves no copy (R174). A load of a system page
that has read before its turn gives what it read, unless the line has been written since (R333, R341). A RED returns none, so no poison reaches its thread. DESIGN CHOICE (log 42): an ATOM or RED that reads poison
writes its result, which leaves the sector poisoned where it is not covered whole (R446, R455); a CAS that reads poison neither compares nor
writes. -/
def performAt (s : State) (t : Team) (ag : Agent) (ac : Access) : State × Option (Nat × Bool) :=
  let old := leNat (readBytes s ac.loc ac.size)
  let bad := locPoisoned s ac.loc ac.size
  match ac.op with
  | .store bs => (landStore s t ag ac bs false, none)
  | .load _ _ | .kload _ _ =>
    let (s1, bs, b) := if ac.nol1 then (readHome s t.core ac.loc, readBytes s ac.loc ac.size, bad) else load s t.core ac.loc ac.size
    match ac.early with
    | some (x, p, w) => (s1, some (if w = (timesOf s ac.loc).wts then (leNat x, p) else (leNat bs, b)))
    | none => (s1, some (leNat bs, b))
  | .atom _ op ty b =>
    (landStore s t ag ac (leBytes ac.size (atomNew op ty old (b.toNat % 2 ^ (8 * ac.size)))) true, some (old, bad && returnsData ac.op))
  | .cas _ _ b c =>
    if bad then (touchHome s t.core ac.loc, some (old, true))
    else if old = b.toNat % 2 ^ (8 * ac.size) then (landStore s t ag ac (leBytes ac.size c.toNat) true, some (old, false))
    else (touchHome s t.core ac.loc, some (old, false))

/-- The destination of a performed access of a thread; poisoned data leaves it unwritten and raises a notice (R446). -/
def giveData (th : Thread) (ac : Access) (r : Option (Nat × Bool)) : Thread :=
  match r with
  | none => th
  | some (x, bad) =>
    if bad then addPending th (if th.expansion.isSome then 1 else 2) cPOISON ac.va
    else match ac.op with
      | .load d wid => loadReg th d wid x
      | .atom d _ _ _ | .cas d _ _ _ => if ac.size = 8 then write64 th d (BitVec.ofNat 64 x) else write32 th d (BitVec.ofNat 32 x)
      | _ => th

/-- CR.FCLS of a clause's flag sets and a block priority (R270). -/
def clausePack (cl : Clause) (prio : BitVec 8) : Word :=
  let one (o : Option (BitVec 4)) (bit low : Nat) : Nat := match o with
    | some j => 2 ^ bit + j.toNat * 2 ^ low
    | none => 0
  BitVec.ofNat 32 (prio.toNat + one cl.aflag 12 8 + one cl.bflag 20 16)

/-- What stays of a wait that a delivery or a save interrupts: the arrival of a BARS or an RVX, a NAP's deadline, and a guest's committed EXIT (R131,
R219, R294, R324, log 57). -/
def keptOf (th : Thread) : Option Wait := th.wait.filter fun w => match w with
  | .barrier _ _ own _ => own
  | .exchange _ _ _ _ _ | .nap _ _ => true
  | .exit => th.arch.pix != 0
  | _ => false

/-- The records of a thread's interrupted waits, with that of the one interrupted now, which takes the place of an earlier one of its instruction: a
wait in a handler leaves that of the code it interrupted as it is (R219, R273). -/
def keepWait (th : Thread) : List Kept :=
  (keptOf th).elim th.kept fun w => { pc := th.arch.pc, wait := w, result := none } :: th.kept.filter fun x => x.pc != th.arch.pc

/-- The clause a delivery records: at the address after a clause that a TRAP ends, a header is due (R75, R271). -/
def cutClause (ar : Arch) (resume : DWord) : Clause :=
  { ar.clause with due := ar.clause.due || (resume != ar.pc && !ar.clause.loose && resume == ar.clause.stop) }

/-- The fault record a delivery leaves (R270, R271): the thread enters S mode at CR.FVEC under the native personality; what else is pending
waits for the handler's dismissal (R444). DESIGN CHOICE (log 66): under a guest personality, where no clause header is in force (R287), CR.FCLS takes
the flag sets of the last native clause. -/
def enterHandler (th : Thread) (fvec : DWord) (code trapno src : BitVec 8) (resume datum : DWord) : Thread :=
  { th with
    wait := none, rep := none, spot := none, spawn := none, safe := none, expansion := none, kept := keepWait th,
    cut := some { pc := resume, clause := cutClause th.arch resume },
    pending := th.pending.map fun p => { p with held := true },
    cr := { th.cr with
      fstat := BitVec.ofNat 32 (code.toNat * 2 ^ 24 + trapno.toNat * 2 ^ 8 + 128 + src.toNat * 32 + bitNat th.arch.mode * 16 + th.arch.pix.toNat),
      fpc := resume, faddr := datum, fcls := clausePack th.arch.clause th.arch.prio },
    arch := { th.arch with mode := true, pix := 0, pc := fvec, clause := { th.arch.clause with due := true, loose := false } } }

def isLive (th : Thread) : Bool := th.cr.fstat.getLsbD 7

/-- Whether two places of some sizes share a byte. -/
def overlaps (a : Loc) (n : Nat) (b : Loc) (m : Nat) : Bool :=
  match a, b with
  | .phys x, .phys y => decide (x < y + m) && decide (y < x + n)
  | .scr c x, .scr d y => c == d && decide (x < y + m) && decide (y < x + n)
  | _, _ => false

/-- Whether copy `p` must be performed before copy `q` of the same thread: it was issued earlier, before a CFENCE, or with an
overlapping destination (R200). -/
def copyBefore (p q : Nat × Copy) : Bool :=
  decide (p.1 < q.1) && p.2.tid == q.2.tid &&
    (decide (p.2.epoch < q.2.epoch) || overlaps p.2.dst p.2.size q.2.dst q.2.size)

/-- Some copy of the team must still be performed before a copy (R200). -/
def copyBlocked (t : Team) (id : Nat) (c : Copy) : Bool := t.copies.any fun p => copyBefore p (id, c)

/-- A copy and the copies that must be performed before it, in issue order (R200). -/
def copyNeeds (t : Team) (id : Nat) : List (Nat × Copy) :=
  t.copies.foldr (fun p acc => if p.1 = id ∨ acc.any (copyBefore p) then p :: acc else acc) []

/-- A thread released from a wait on a glade that became FAULTED: GLADE_STATE is pending for its instruction (R213), or, where a delivery or a save
has interrupted that wait, its RVX takes the fault as it comes to it again (R219). -/
def releaseFaulted (own : Bool) (key off : Nat) (x : Thread) : Thread :=
  let mine (w : Wait) : Bool := match w with
    | .exchange _ o _ _ _ => own && o == off
    | _ => false
  let th := { x with kept := endKept mine .faulted x.kept }
  let hit (ea : DWord) : Thread :=
    { th with wait := none, pending := th.pending ++ [{ rank := 1, code := cGLADE, datum := ea }] }
  match th.wait with
  | some (.glade ea k o _ _) => if k = key ∧ o = off then hit ea else th
  | some (.exchange ea o _ _ _) => if own ∧ o = off then hit ea else th
  | _ => th

/-- A glade gets FAULTED = 1 from an operation of a core, if it is live, and its waiters are released (R213). -/
def markFaulted (s : State) (core key off : Nat) : State :=
  match s.team? key with
  | none => s
  | some t =>
    if (AMap.find t.glades off).isSome then
      let s1 := gWrite s core t off { gRead s t off with faulted := true }
      { s1 with teams := s1.teams.map fun p =>
          (p.1, { p.2 with threads := p.2.threads.map fun q => (q.1, releaseFaulted (p.1 == key) key off q.2) }) }
    else s

/-- A sector report of `u` units of a team's copy to a glade of its gang (R197, R206, R207): whether it counts, and the state. Its time
exceeds that of the copy's write (R338). DESIGN CHOICE (log 43): one that meets a malformed or a poisoned glade does not count. -/
def reportTo (s : State) (key : Nat) (ga : DWord) (u : Nat) : State × Bool :=
  match s.team? key with
  | none => (s, false)
  | some t =>
    let a := ga.toNat
    let low := a % 2 ^ 52
    let dest : Option (Nat × Team × Nat) :=
      if a / 2 ^ 52 = 0x800 then some (key, t, low)
      else (gangTeam s t.gang (low / 2 ^ 19 % 16)).map fun p => (p.1, p.2, low % 2 ^ 19)
    match dest with
    | none => (s, false)
    | some (k, p, off) =>
      let g := gRead s p off
      if p.retired || locPoisoned s (winLoc p off) 8 || !gUsable p off g false || (k != key && !g.remote) then (s, false)
      else
        let gl := AMap.get {} p.glades off
        let n := gl.resid + u
        let sp := g.spend - (n / 8 : Nat)
        let s0 := laterCt s t.core
        if sp < -(2 ^ 27 : Int) then (markFaulted s0 t.core k off, false)
        else
          let s1 := s0.modTeam k fun t => { t with glades := AMap.set t.glades off { gl with resid := n % 8 } }
          (completeIfDone s1 t.core k off { g with spend := sp }, true)

def setTagFault (t : Team) : Option Nat → Team
  | some j => { t with tags := AMap.set t.tags j { AMap.get {} t.tags j with fault := true } }
  | none => t

def decTag (t : Team) : Option Nat → Team
  | some j => let g := AMap.get {} t.tags j; { t with tags := AMap.set t.tags j { g with count := g.count - 1 } }
  | none => t

/-- The read of a copy (R197, R338). -/
def copyRead (s : State) (t : Team) (c : Copy) : State × (List Byte × Bool) := load s t.core c.src c.size

/-- The window of the team that a glade address names (own window or aperture). -/
def gladeHome (s : State) (key : Nat) (ga : DWord) : Option (Nat × Nat) :=
  match s.team? key with
  | none => none
  | some t =>
    let low := ga.toNat % 2 ^ 52
    if ga.toNat / 2 ^ 52 = 0x800 then some (key, low) else (gangTeam s t.gang (low / 2 ^ 19 % 16)).map fun p => (p.1, low % 2 ^ 19)

/-- A copy's write is performed (R197): data, tag, flag and report. Its time exceeds that of its read (R338). DESIGN CHOICE (log 43): a
report that R207 discards for SECT_PEND's range sets the tag's fault bit, as every other discarded report does. -/
def copyWrite (s : State) (key id : Nat) (c : Copy) (bs : List Byte) (bad : Bool) : State :=
  match s.team? key with
  | none => s
  | some t =>
    let s0 := store (laterCt s t.core) t.core c.dst bs bad
    let s1 := match c.port, c.tid with
      | some p, some tid =>
        let (s2, n) := takeSeq s0 t.core p
        let w : SysWrite := { core := t.core, port := p, seq := n, va := c.dstVa, pa := physOf c.dst, old := readBytes s c.dst bs.length, no := id,
                              time := (timesOf s0 c.dst).wts }
        if (s2.thread? key tid).isSome then s2.modThread key tid fun th => { th with unacked := th.unacked ++ [w] }
        else leaveWrites s2 t.launch [w]
      | _, _ => s0
    let s2 := match c.tid with
      | some tid => s1.modThread key tid fun th => decFlag th c.flag
      | none => s1
    let s3 := s2.modTeam key fun t => decTag { t with copies := AMap.del t.copies id } c.tag
    let s4 := if bad then
        let s' := s3.modTeam key fun t => setTagFault t c.tag
        match c.glade.bind (gladeHome s' key) with
        | some (k, off) => markFaulted s' t.core k off
        | none => s'
      else match c.glade with
        | some ga =>
          match reportTo s3 key ga (c.size / 4) with
          | (s', true) => s'
          | (s', false) => s'.modTeam key fun t => setTagFault t c.tag
        | none => s3
    s4.modTeam key recheckTeam

/-- A copy is performed: its read, if it is still to come, and its write (R197). -/
def performCopy (s : State) (key id : Nat) : State :=
  match (s.team? key).bind fun t => AMap.find t.copies id with
  | none => s
  | some c =>
    match s.team? key with
    | none => s
    | some t =>
      match c.data with
      | some (bs, bad) => copyWrite s key id c bs bad
      | none => let (s1, (bs, bad)) := copyRead s t c; copyWrite s1 key id c bs bad

/-- A copy is performed, after the copies that come before it. -/
def performCopiesTo (s : State) (key id : Nat) : State :=
  match s.team? key with
  | none => s
  | some t => (copyNeeds t id).foldl (fun s p => performCopy s key p.1) s

/-- A copy of the thread that an access of it must follow: one that writes bytes it touches, or one that has not yet read bytes it
writes (R199). -/
def copyHazard (t : Team) (tid : Nat) (l : Loc) (n : Nat) (write : Bool) : Option Nat :=
  (t.copies.find? fun p => p.2.tid == some tid &&
    (overlaps p.2.dst p.2.size l n || (write && p.2.data.isNone && overlaps p.2.src p.2.size l n))).map Prod.fst

/-! ## The bulk copy (R235 to R237) -/

/-- The addresses of a unit of a KCP. -/
def unitAddrs (c : PCmd) (row unit : Nat) : DWord × DWord :=
  let x := c.c.toNat
  let ss := x / 2 ^ 40 % 2 ^ 24
  let ds := x / 2 ^ 20 % 2 ^ 20
  (c.b + BitVec.ofNat 64 (16 * (row * ss + unit)), c.a + BitVec.ofNat 64 (16 * (row * ds + unit)))

def bulkRows (c : PCmd) : Nat := c.c.toNat / 2 ^ 12 % 256 + 1
def bulkUnits (c : PCmd) : Nat := c.c.toNat % 2 ^ 12 + 1
def bulkGlade (c : PCmd) : Option DWord :=
  match c.op with
  | .kcp a => if modBits a.mod 9 9 = 1 then some c.d else none
  | _ => none

/-- What an access of a command shows in the residency record, and in the caches where its address has been translated anew (R421, R426, R433). -/
def noteHeld (s : State) (t : Team) (held : List Trans) (ea : DWord) (l : Loc) : State :=
  if held.any fun x => x.covers t.vd ea.toNat then recordGranule s t.vd l else noteAccess s t ea l

/-- The glade of a KCP that has lost data gets FAULTED = 1 (R197, R433). -/
def spoilBulk (s : State) (key : Nat) (t : Team) (c : PCmd) : State :=
  match (bulkGlade c).bind (gladeHome s key) with
  | some (k, off) => markFaulted s t.core k off
  | none => s

/-- The walk of a unit's address that its command holds no translation for (R420, R433). -/
def noteUnit (s : State) (t : Team) (held : List Trans) (ea : DWord) : State :=
  if held.any fun x => x.covers t.vd ea.toNat then s else noteWalk s t ea

/-- One unit of the running KCP: a read, a write at a later time, a report of 4 units; after the last unit its kf count falls. A unit that has
no place any more, of a command restored, writes nothing and marks the glade FAULTED (R433); its walks have read their entries (R420). -/
def bulkUnit (s : State) (key : Nat) (t : Team) (c : PCmd) (src dst : DWord) : State :=
  match heldLoc s t c.held src ⟨true, false⟩, heldLoc s t c.held dst ⟨false, true⟩ with
  | some l, some m =>
    let (s1, bs, bad) := load (noteHeld (noteHeld s t c.held src l) t c.held dst m) t.core l 16
    let s2 := engineStore (laterCt s1 t.core) (key, c.no) t dst m bs bad
    if bad then spoilBulk s2 key t c
    else match bulkGlade c with
      | some ga => (reportTo s2 key ga 4).1
      | none => s2
  | some _, none => spoilBulk (noteUnit (noteUnit s t c.held src) t c.held dst) key t c
  | none, _ => spoilBulk (noteUnit s t c.held src) key t c

/-- The next unit of the running KCP: its units are performed one after another, row by row, where R235 leaves the order of those that do not
overlap open (log 59). -/
def bulkStep (s : State) (key : Nat) : State :=
  match s.team? key with
  | none => s
  | some t =>
    match (if t.resident then t.running else none) with
    | none => s
    | some r =>
      let (src, dst) := unitAddrs r.cmd r.row r.unit
      let last := r.unit + 1 = bulkUnits r.cmd ∧ r.row + 1 = bulkRows r.cmd
      (bulkUnit s key t r.cmd src dst).modTeam key fun t =>
        if last then recheckTeam (kfDec { t with running := none } r.cmd.flag)
        else if r.unit + 1 = bulkUnits r.cmd then { t with running := some { r with row := r.row + 1, unit := 0 } }
        else { t with running := some { r with unit := r.unit + 1 } }

/-- The running KCP's remaining units, all of them. -/
def bulkFinish (s : State) (key : Nat) : Nat → State
  | 0 => s
  | n + 1 => bulkFinish (bulkStep s key) key n

def bulkLeft (r : Bulk) : Nat := (bulkRows r.cmd - r.row) * bulkUnits r.cmd - r.unit

def bulkDone (s : State) (key : Nat) : State :=
  match (s.team? key).bind Team.running with
  | some r => bulkFinish s key (bulkLeft r)
  | none => s

/-! ## Owned destination lines (R199, R236, R259, R260) -/

/-- What owns a line that an agent wants to write. -/
inductive Owner where
  | copy (key id : Nat)
  | bulk (key : Nat)
  | engine (key : Nat)
  deriving DecidableEq, Repr

/-- The 32-byte places that a drain or a swap writes, in the order of its rows (R259, R260). -/
def writePlaces (t : Team) (c : PCmd) : List DWord :=
  let run (ea : DWord) (n : Nat) : List DWord := (List.range (n / 32)).map fun i => ea + BitVec.ofNat 64 (32 * i)
  match c.op with
  | .mdrain a => ((List.range 128).map fun m =>
      run (c.a + BitVec.ofNat 64 (m * (c.b.toNat % 2 ^ 32))) (rowBytes (fslOf t (modBits a.mod 5 3)).elem)).flatten
  | .mswap a => if modBits a.mod 5 4 = 1 then [] else run c.a 65600
  | _ => []

/-- Those of them that are in rows still to be written. -/
def writesLeft (t : Team) (c : PCmd) : List DWord :=
  (writePlaces t c).drop (c.prog * match c.op with
    | .mdrain a => rowBytes (fslOf t (modBits a.mod 5 3)).elem / 32
    | _ => 16)

/-- The sectors that a drain or a swap writes, each of them whole. -/
def engineSectors (s : State) (t : Team) (c : PCmd) : List Nat :=
  (writePlaces t c).filterMap fun ea => (heldLoc s t c.held ea ⟨false, true⟩).map sectorKey

/-- The lines that a granted drain or swap writes. -/
def engineLines (s : State) (t : Team) (c : PCmd) : List Nat :=
  (writePlaces t c).filterMap fun ea => (heldLoc s t c.held ea ⟨false, true⟩).map lineKey

/-- The lines that a running KCP still writes. -/
def bulkLines (s : State) (t : Team) (r : Bulk) : List Nat :=
  ((List.range (bulkRows r.cmd)).map fun row => (List.range (bulkUnits r.cmd)).filterMap fun u =>
    (heldLoc s t r.cmd.held (unitAddrs r.cmd row u).2 ⟨false, true⟩).map lineKey).flatten

/-- The owner that a store of an agent waits for, other than the agent's own copies; a saved team owns no line (R433). -/
def ownerOf (s : State) (ag : Agent) (l : Loc) : Option Owner :=
  (s.teams.filter fun p => p.2.resident).findSome? fun p =>
    let mine (c : Copy) : Bool := match ag, c.tid with
      | .thread k tid, some i => k == p.1 && tid == i
      | _, _ => false
    match p.2.copies.find? fun q => !mine q.2 && lineKey q.2.dst == lineKey l with
    | some q => some (.copy p.1 q.1)
    | none =>
      if p.2.running.any fun r => (bulkLines s p.2 r).contains (lineKey l) then some (.bulk p.1)
      else if p.2.granted.any fun g => (engineLines s p.2 g.2).contains (lineKey l) then some (.engine p.1)
      else none

/-- A unit completes its command, and the waits that the count ends go on: an access of the team that waited for a drain's writes takes a later time
than theirs (R338). -/
def unitDone (s : State) (key : Nat) (u : UnitKind) : State :=
  let s1 := match u, s.team? key with
    | .drain, some t => if t.granted.any fun g => g.1 == u then laterCt (completeGranted s key u) t.core else s
    | _, _ => completeGranted s key u
  s1.modTeam key recheckTeam

/-- The owner's write is performed. -/
def performOwner (s : State) : Owner → State
  | .copy k id => performCopiesTo s k id
  | .bulk k => bulkDone s k
  | .engine k => unitDone s k .drain

/-- An access of a core that has waited for a write to its line takes a time greater than that write's (R338). -/
def afterWrite (s : State) (core : Nat) (l : Loc) : State := raiseCt s core ((timesOf s l).wts + 1)

def isWrite : AccOp → Bool
  | .load _ _ | .kload _ _ => false
  | _ => true

/-- The outstanding accesses of an agent. -/
def outOf (s : State) : Agent → List Access
  | .thread k tid => ((s.thread? k tid).map Thread.out).getD []
  | .stream k => ((s.team? k).map fun t => t.stream.out).getD []

/-- The oldest outstanding access of an agent is performed; a store waits first for the owner of its line (R180, R199, R333). -/
def performOldest (s : State) (ag : Agent) : State :=
  match outOf s ag, s.team? (agentTeam ag) with
  | ac :: rest, some t =>
    match (if isWrite ac.op then ownerOf s ag ac.loc else none) with
    | some o => afterWrite (performOwner s o) t.core ac.loc
    | none =>
      let (s1, r) := performAt s t ag ac
      match ag with
      | .thread k tid =>
        s1.modTeam k fun t =>
          match AMap.find t.threads tid with
          | none => t
          | some th => { t with threads := AMap.set t.threads tid (recheck t (decFlag (giveData { th with out := rest } ac r) ac.flag)) }
      | .stream k =>
        s1.modTeam k fun t =>
          let t1 := { t with stream := { t.stream with out := rest } }
          let t2 := match ac.op, r with
            | .kload kj wid, some (x, false) =>
              { t1 with k := AMap.set t1.k kj.toNat (if wid = 2 then BitVec.ofInt 64 (toVal true 32 x) else BitVec.ofNat 64 x) }
            | .kload _ _, some (_, true) => ufault t1 cPOISON ac.va ac.pc 0
            | _, _ => t1
          recheckStream (kfDec t2 ac.flag)
  | _, _ => s

/-- Owners that can stand before a write. -/
def ownerCount (s : State) : Nat := (s.teams.map fun p => p.2.copies.length + 3).sum

/-- Every outstanding access of a thread is performed, owners of its lines first. -/
def landThread (s : State) (k tid : Nat) : State := landAll performOldest s (.thread k tid) ((outOf s (.thread k tid)).length * (1 + ownerCount s))

/-- Everything that has issued lands: accesses, copies whose read is performed, granted engine commands (R428 step 2, R449). -/
def landTeam (s : State) (key : Nat) : State :=
  match s.team? key with
  | none => s
  | some t =>
    let s1 := t.threads.foldl (fun s p => landThread s key p.1) s
    let s2 := landAll performOldest s1 (.stream key) (t.stream.out.length * (1 + ownerCount s1))
    let s3 := (t.copies.filter fun p => p.2.data.isSome).foldl (fun s p => performCopy s key p.1) s2
    unitDone (unitDone s3 key .array) key .drain

/-- Termination of a gang (R449): accesses land, the rest is discarded, its node ends, a notice is posted. -/
def terminateGang (s : State) (gk : Nat) (code code2 : BitVec 8) (teamid tid : Nat) (datum : DWord) (endsNode : Bool) : State :=
  match s.gang? gk with
  | none => s
  | some g =>
    let s1 := g.teams.foldl landTeam s
    let seq := ((g.teams.head?.bind s.team?).map Team.grid).getD 0
    let s2 := dropGang s1 gk
    let s3 := if endsNode then endNode s2 g.launch g.node 8 else s2
    postNotice (settleAll s3) (noticeBytes 1 code code2 g.vd teamid seq tid datum s.growth)

/-- A fault or a TRAP is delivered to a thread (R271): a double fault, the halt of its virtual device, or the handler's entry. DESIGN CHOICE (log 71):
WHERE of the KIND 2 notice is the sr.teamid of the thread's team. -/
def deliver (s : State) (key tid : Nat) (code trapno src : BitVec 8) (resume datum : DWord) : State :=
  match s.team? key with
  | none => s
  | some t =>
    match AMap.find t.threads tid with
    | none => s
    | some th =>
      if isLive th then
        terminateGang (s.modThread key tid fun th => { th with dead := true }) t.gang cDOUBLE code t.teamid tid datum true
      else if code = cMASKED ∧ th.arch.mode then
        postNotice (s.modVd t.vd fun v => { v with halted := true })
          (noticeBytes 2 code 0 t.vd t.teamid t.grid tid datum s.growth)
      else (meetCr s t.core (crKey t.vd 0x002)).modThread key tid fun th => enterHandler th (s.vd t.vd).fvec code trapno src resume datum

/-- The operations whose wait after the commit point is a tail (R294). -/
def isTailOp (i : Instr) : Bool :=
  match i.code with
  | some (0, n) => [0x47, 0x4A, 0x4C].contains n
  | some (1, n) => [0x08, 0x11, 0x1C, 0x21, 0x22, 0x23].contains n
  | _ => false

/-- A committed expansion that stands in its tail (R294). -/
def Expansion.tailing (x : Expansion) : Bool := x.committed && x.ops.any isTailOp

/-- Whether an access of a thread is outstanding that is no buffered store of a guest instruction: those are performed in their own time, behind which
later guest instructions issue (R292). -/
def awaitsAccess (th : Thread) : Bool := th.out.any fun ac => !ac.buffered

/-- The guest boundary before an expansion that has not committed (R294): the commit buffer and its loads are dropped, and its registers, with
the errors they hold (R453), are those of the boundary; the stores of earlier guest instructions stay. One that has committed is left, in its tail
where its last operation has one. -/
def rollback (th : Thread) : Thread :=
  let th1 := { th with pending := th.pending.filter fun p => p.rank != 1, rep := none, spawn := none }
  match th1.expansion with
  | some x =>
    if x.committed then { th1 with expansion := none, tail := if x.tailing then some { addr := th.arch.pc, pix := th.arch.pix } else th.tail }
    else { th1 with expansion := none, wait := none, arch := x.saved, bad := x.bad, out := th.out.filter Access.buffered }
  | none => th1

/-- The tail record stands for the guest instruction at which the thread stands (R294). -/
def inTail (th : Thread) : Bool := th.tail == some { addr := th.arch.pc, pix := th.arch.pix }

/-- The commit point of a thread's expansion (R289): the buffered stores are issued; a tail record of another instruction is cleared
(R294). -/
def commitThread (th : Thread) : Thread :=
  match th.expansion with
  | none => th
  | some x =>
    { th with expansion := some { x with committed := true, stores := [] }, out := th.out ++ x.stores,
              tail := if inTail th then th.tail else none }

/-- What a check that fails has done for a team: see `noteFault`. -/
def noteTeamFault (s : State) (key : Nat) (code : BitVec 8) (datum : DWord) : State :=
  match s.team? key with
  | some t => noteFault s t.vd t.core (code, datum)
  | none => s

/-- A fault of the thread's own instruction (R271, R294): rank 1, resume is sr.gpc. -/
def faultThread (s : State) (key tid : Nat) (code : BitVec 8) (datum : DWord) : State :=
  let s1 := (noteTeamFault s key code datum).modThread key tid rollback
  match s1.thread? key tid with
  | none => s1
  | some th => deliver s1 key tid code 0 0 th.arch.pc datum

/-- The pending-wait record of the instruction at which the thread stands (R219), and the thread without it. -/
def keptHere (th : Thread) : Option Kept := th.kept.find? fun kp => kp.pc == th.arch.pc
def dropKept (th : Thread) : Thread := { th with kept := th.kept.filter fun kp => kp.pc != th.arch.pc }

/-- The clause that ERET resumes in: the one that the last delivery interrupted, where CR.FPC lies in it (R76, R276, log 14). DESIGN CHOICE (log 66):
an AFLAG or BFLAG of 12 to 15, which a CSRW can put in CR.FCLS, is taken as it stands: what counts on such a flag counts on none of the twelve. -/
def resumeClause (th : Thread) : Clause :=
  let pc := th.cr.fpc
  let x := th.cr.fcls.toNat
  let a : Option (BitVec 4) := if x / 2 ^ 12 % 2 = 1 then some (BitVec.ofNat 4 (x / 2 ^ 8)) else none
  let b : Option (BitVec 4) := if x / 2 ^ 20 % 2 = 1 then some (BitVec.ofNat 4 (x / 2 ^ 16)) else none
  let base : Clause := match th.cut with
    | some k =>
      if k.pc = pc then k.clause
      else if k.clause.due = false ∧ k.clause.loose = false ∧ k.clause.start.toNat < pc.toNat ∧ pc.toNat ≤ k.clause.stop.toNat then
        { k.clause with due := pc == k.clause.stop }
      else { due := false, loose := true }
    | none => { due := false, loose := true }
  { base with aflag := a, bflag := b }

/-- The return from an exception (R276); the boundary it comes to follows an instruction with S = 1 where it had a live record (R428). -/
def returnFault (th : Thread) (live : Option LiveRec) : Thread :=
  let f := th.cr.fstat
  { th with
    wait := none, spot := none, safe := live,
    cr := { th.cr with fstat := f &&& ~~~128#32 },
    arch := { th.arch with
      pc := th.cr.fpc, mode := f.getLsbD 4, pix := f.truncate 3, prio := th.cr.fcls.truncate 8, clause := resumeClause th } }

/-! ## Barriers (R215, R216, R233) -/

/-- A thread's wait on a barrier's phase has returned: where it read K as it stood at a KBAR before that phase's, it reads it as that phase's KBAR
left it (R36). -/
def seesPhase (t : Team) (tid b : Nat) (tok : BitVec 4) : Team :=
  match AMap.find (AMap.get {} t.barriers b).marks tok.toNat with
  | some m => { t with kold := t.kold.map fun v =>
      if v.mark.no < m.no ∧ ((AMap.find v.seen tid).elim 0 KMark.no) < m.no then { v with seen := AMap.set v.seen tid m } else v }
  | none => t

/-- The threads that wait on a barrier's phase. -/
def phaseWaiters (t : Team) (b : Nat) (tok : BitVec 4) : List Nat :=
  (t.threads.filter fun p => match p.2.wait with
    | some (.barrier j x _ _) => j == b && x == tok
    | _ => false).map Prod.fst

/-- A barrier phase ends: waiters on its token go on. -/
def releaseBarrier (t : Team) (b : Nat) (tok : BitVec 4) : Team :=
  let t := (phaseWaiters t b tok).foldl (fun t i => seesPhase t i b tok) t
  let st := match t.stream.wait with
    | some (.barrier j x len) => if j = b ∧ x = tok then passStream t.stream len else t.stream
    | _ => t.stream
  { t with
    stream := st,
    kold := t.kold.filter fun v => v.b != b,
    threads := t.threads.map fun p =>
      let mine (w : Wait) : Bool := match w with
        | .barrier j x _ _ => j == b && x == tok
        | _ => false
      let th := { p.2 with kept := endKept mine (.value 0) p.2.kept }
      (p.1,
        match th.wait with
        | some (.barrier j x _ len) => if j = b ∧ x = tok then passOp th len th.after else th
        | _ => th) }

/-- The release test of R216 and R233. -/
def tryRelease (t : Team) (b : Nat) (x : Barrier) : Team :=
  if x.opened ∧ x.arr = x.n ∧ (x.u = false ∨ x.uarr) then
    let y := { x with phase := x.phase + 1, arr := 0, uarr := false, opened := false, who := [],
                      marks := if x.uarr then x.marks else AMap.del x.marks x.phase.toNat }
    releaseBarrier { t with barriers := AMap.set t.barriers b y } b x.phase
  else { t with barriers := AMap.set t.barriers b x }

/-- A thread arrival (R216, R234): none is BARRIER_MISMATCH. -/
def arriveBarrier (t : Team) (tid b : Nat) (n : Nat) (u : Bool) : Option (Team × BitVec 4) :=
  let x := AMap.get {} t.barriers b
  let who := tid :: x.who
  if n = 0 ∨ 1024 < n then none
  else if x.opened then
    if n ≠ x.n ∨ u ≠ x.u then none else some (tryRelease t b { x with arr := x.arr + 1, who := who }, x.phase)
  else if (x.uarr ∧ u = false) ∨ (u ∧ t.stream.retired) then none
  else some (tryRelease t b { x with opened := true, n := n, u := u, arr := x.arr + 1, who := who }, x.phase)

/-- The access of a barrier operation (R216, R332): its time exceeds those of the barrier's earlier operations, and CT rises to it; a release
so raises CT to the time of the phase's last arrival (R339). -/
def touchBarrier (s : State) (k b : Nat) : State :=
  match s.team? k with
  | none => s
  | some t =>
    let x := AMap.get {} t.barriers b
    let at' := maxD (ctOf s t.core) (x.time + 1)
    raiseCt (s.setTeam k { t with barriers := AMap.set t.barriers b { x with time := at' } }) t.core at'

/-! ## How an operation runs -/

/-- What an operation's effect comes to. -/
inductive Res where
  /-- It is complete: the agent goes on past it. -/
  | done (s : State)
  /-- It has set the agent's place or wait itself. -/
  | jump (s : State)
  /-- It waits or has more to do: the agent stays at it. -/
  | stay (s : State)
  /-- It waits at its issue, for room in its flag or for a copy of its own thread that it must follow (R26, R199): it is checked again. -/
  | hold (s : State)
  | fault (code : BitVec 8) (datum : DWord)
  /-- A fault after checks that have done something: the walks of places that passed theirs (R420). -/
  | faultAt (s : State) (code : BitVec 8) (datum : DWord)

/-- A last operation that takes effect after its expansion's commit point, which is still to come (R289, R290). -/
def atCommit (th : Thread) (cls opc : Nat) : Bool :=
  match th.expansion with
  | some x => !x.committed && decide (x.ops.length ≤ 1) && lastOnly cls opc
  | none => false

/-- The state after the commit point, as a last operation finds it: one that follows the thread's earlier accesses has the buffered stores
performed first (R293). -/
def commitState (s : State) (k tid cls opc : Nat) : State :=
  let s1 := s.modThread k tid commitThread
  if drainsFirst cls opc then landThread s1 k tid else s1

/-- A thread in an expansion past its commit point, whose last operation is none of R294's list and so completes before anything interrupts it. -/
def Thread.pastCommit (th : Thread) : Bool := th.wait.isNone && th.expansion.any fun x => x.committed && !x.tailing

/-- An operation that does not end at once: its live record is kept for its end (R78); a last operation of R294's list after its commit point
is in its tail. -/
def enterTail (live : Option LiveRec) (th : Thread) : Thread :=
  let th1 := { th with after := live }
  match th.expansion with
  | some x => if x.tailing then { th1 with tail := some { addr := th.arch.pc, pix := th.arch.pix } } else th1
  | none => th1

/-- The operands as an operation reads them: c of a PACK2 to 16-bit elements (R158) and the scale operand of a slot without scales (R160)
are not read. -/
def readArgs (t : Team) (cls opc : Nat) (a : Args) : Args :=
  let el (fs : Nat) : Nat := (fslOf t fs).elem
  match cls, opc with
  | 0, 0xAD => if modBits a.mod 9 6 = 0 ∧ (el (modBits a.mod 2 0) = 1 ∨ el (modBits a.mod 2 0) = 2) then { a with sc := .none } else a
  | 0, 0xAB | 0, 0xAC => if (fslOf t (modBits a.mod 9 7)).scale = 0 then { a with sb := .none } else a
  | _, _ => a

/-- What becomes of an operation's effect. -/
def finishOp (s : State) (k tid : Nat) (a : Args) : Res → Out
  | .done s' => .next (s'.modThread k tid fun th => passOp th (8 * a.words) a.live)
  | .jump s' | .hold s' => .next (s'.modThread k tid (enterTail a.live))
  | .stay s' => .next { s'.modThread k tid (enterTail a.live) with stalled := true }
  | .fault code d => .next (faultThread s k tid code d)
  | .faultAt s' code d => .next (faultThread s' k tid code d)

/-- The effect of a last operation at its commit point (R289): its checks are made before that point, its effect after it, in one step; one that
still waits at its issue has not come to that point.
One whose effect meets a fault that its checks did not find, because the buffered stores have made it, faults in its tail (log 44). -/
def commitOp (s : State) (k tid cls opc : Nat) (a : Args) (body : Ctx → Res) : Out :=
  let s1 := commitState s k tid cls opc
  match s1.team? k, s1.thread? k tid with
  | some t, some th => finishOp s1 k tid a (body { s := s1, key := k, team := t, tid := tid, th := th })
  | _, _ => .next s1

/-- A thread operation (R79, R24, R15, R285): a fault pending for it (R213, R446), decode faults, interlock, guard, effect. DESIGN CHOICE (log 65):
every operation that reads a register in error faults, PREF with its base too (R453), which raises no execution fault otherwise (R187). -/
def runThread (cls opc : Nat) (a : Args) (s : State) (body : Ctx → Res) : Out :=
  match s.turn with
  | .stream _ => .fault .noAgent
  | .thread k tid =>
    match s.team? k, s.thread? k tid with
    | some t, some th =>
      match th.pending.find? fun p => p.rank == 1 with
      | some p => .next (faultThread s k tid p.code p.datum)
      | none =>
        let c : Ctx := { s := s, key := k, team := t, tid := tid, th := th }
        match decodeFault c cls opc a th.expansion.isNone with
        | some (code, d) => .next (faultThread s k tid code d)
        | none =>
          if atCommit th cls opc && awaitsAccess th then .next (performOldest s (.thread k tid))
          else if !guardTrue th a.guard then
            .next ((if atCommit th cls opc then commitState s k tid cls opc else s).modThread k tid fun th => passOp th (8 * a.words) a.live)
          else if interlocked th.out th.arch cls opc a then .next (performOldest s (.thread k tid))
          else
            let ks := ((shapeOf cls opc a.mod).map fun x => srcKeys th.arch x (readArgs t cls opc a)).getD []
            match softError c ks with
            | some (code, d) => .next (faultThread s k tid code d)
            | none =>
              if atCommit th cls opc then
                match body c with
                | .done _ | .jump _ => commitOp s k tid cls opc a body
                | r => finishOp s k tid a r
              else finishOp s k tid a (body c)
    | _, _ => .fault .noAgent

/-- An operation that only changes its thread. -/
def runReg (cls opc : Nat) (a : Args) (s : State) (f : Ctx → Thread) : Out :=
  runThread cls opc a s fun c => .done (c.s.modThread c.key c.tid fun _ => f c)

/-- A fault of the uniform stream at its own instruction (R225). -/
def faultStream (s : State) (key : Nat) (code : BitVec 8) (datum : DWord) : State :=
  (noteTeamFault s key code datum).modTeam key fun t => ufault t code datum t.stream.pc 0

/-- The K registers that queued MSTATs will write (R248). -/
def mstatKeys (t : Team) : List Nat :=
  (t.matrix ++ (t.entry.map Entry.cmd).toList).filterMap fun c =>
    match c.op with
    | .mstat a => (match a.dst with
      | .k j => some (4000 + j.toNat)
      | _ => none)
    | _ => none

/-- The K registers that outstanding loads and queued MSTATs will write (R224, R248). -/
def kPending (t : Team) : List Nat := (t.stream.out.map accessKeys).flatten ++ mstatKeys t

/-- What a uniform operation's effect comes to, on its team alone or on the state. -/
def runStream (opc : Nat) (a : Args) (s : State) (posted : Bool) (body : Nat → Team → Res) : Out :=
  match s.turn with
  | .thread _ _ => .fault .noAgent
  | .stream k =>
    match s.team? k with
    | none => .fault .noAgent
    | some t =>
      if t.stream.retired || t.stream.stopped then .fault .noAgent
      else match kdecodeFault s t opc a with
        | some (code, d) => .next (faultStream s k code d)
        | none =>
          if !posted && !qTrue t a.guard then .next (s.modTeam k fun t => { t with stream := passStream t.stream (8 * a.words) })
          else if interlocked t.stream.out {} 2 opc a then .next (performOldest s (.stream k))
          else
            let ks := match shapeOf 2 opc a.mod with
              | some sh => argKeys {} sh a
              | none => []
            if (kPending t).any ks.contains || (opc == 0x13 && !(mstatKeys t).isEmpty) then .next { s with stalled := true }
            else match body k t with
              | .done s' => .next (s'.modTeam k fun t => { t with stream := passStream t.stream (8 * a.words) })
              | .jump s' | .hold s' => .next s'
              | .stay s' => .next { s' with stalled := true }
              | .fault code d => .next (faultStream s k code d)
              | .faultAt s' code d => .next (faultStream s' k code d)

/-- A uniform operation that writes one K register (R226, R227). -/
def runK (opc : Nat) (a : Args) (s : State) (f : Team → DWord) : Out :=
  runStream opc a s false fun k t => .done (s.setTeam k (kwrite t a.dst (f t)))

/-- A value the spec leaves undefined (log 5), and the state after taking it. -/
def freeVal (s : State) : Word × State := (Config.freeWord s.free, { s with free := s.free + 1 })

/-- A 64-bit one. -/
def freeVal64 (s : State) : DWord × State := (Config.freeWord (s.free + 1) ++ Config.freeWord s.free, { s with free := s.free + 2 })

/-- An event of the world leaves a state. -/
def event (s : State) : Out := .next s

end Sys2Proof.Machine
end

