-- ==== Sys2Proof/Machine/Alloc.lean ====
section
/-! DEFINITION. What threads and teams take on a core and give back: slot runs, register rows, scratchpad, tags, canopy slots, glade
directory entries (R11, R169, R201, R205, R309, R402, R414), new threads, and spawn bins (R311, R312). -/

namespace Sys2Proof.Machine

/-- Teams that hold resources of a core. -/
def teamsOn (s : State) (core : Nat) : List (Nat × Team) :=
  s.teams.filter fun p => p.2.resident && !p.2.retired && p.2.core == core

/-- Slot runs held on a core. -/
def usedRuns (s : State) (core : Nat) : List Nat := ((teamsOn s core).map fun p => p.2.runs.map Prod.snd).flatten

/-- Free runs of a partition of a core, within the quota of a virtual device. -/
def freeRuns (s : State) (vd core part : Nat) : List Nat :=
  let v := s.vd vd
  ((List.range v.slotRuns).map fun i => v.slotBase + i).filter fun r => r % 4 == part && !(usedRuns s core).contains r

/-- The run that a group takes (R309). -/
def pickRun (s : State) (vd core p0 g : Nat) : Option Nat :=
  [0, 1, 2, 3].findSome? fun i => (freeRuns s vd core ((p0 + g + i) % 4)).head?

/-- The partition with the most free slots, the lowest-numbered on a tie (R309). -/
def firstPart (s : State) (core : Nat) : Nat :=
  let free (p : Nat) : Nat := 32 - ((usedRuns s core).filter fun r => r % 4 == p).length
  [1, 2, 3].foldl (fun best p => if free best < free p then p else best) 0

/-- Register rows that a virtual device's threads hold on a core (R11, R414). -/
def usedRows (s : State) (vd core : Nat) : Nat :=
  (((teamsOn s core).filter fun p => p.2.vd == vd).map fun p => p.2.threads.length * p.2.lrec.regs8).sum

/-- The row ranges held on a core: for each virtual device and quota base, the rows from that base that its threads take (R11, R414). -/
def rowRanges (s : State) (core : Nat) : List (Nat × Nat) :=
  ((teamsOn s core).map fun p => (p.2.vd, p.2.rowBase)).eraseDups.map fun k =>
    (256 * k.2, 256 * k.2 + (((teamsOn s core).filter fun p => p.2.vd == k.1 && p.2.rowBase == k.2).map fun p => p.2.threads.length * p.2.lrec.regs8).sum)

/-- The rows of a virtual device's quota on a core that no thread holds, of the 65,536 that the core has (R11, R402): rows that a gang still
holds from before a VD_CONFIG are not free. -/
def freeRows (s : State) (vd core : Nat) : Nat :=
  let v := s.vd vd
  let held := rowRanges s core
  let within (r : Nat × Nat) : Nat := min r.2 (256 * (v.rowBase + v.rowUnits)) - max r.1 (256 * v.rowBase)
  min (256 * v.rowUnits - (held.map within).sum) (65536 - (held.map fun r => r.2 - r.1).sum)

/-- The window of R169: the lowest 64-byte-aligned place of the quota where the bytes are free. -/
def pickWindow (s : State) (vd core size : Nat) : Option Nat :=
  let v := s.vd vd
  let lo := 4096 * v.scrBase
  let hi := lo + 4096 * v.scrUnits
  let held := ((teamsOn s core).filter fun p => p.2.lrec.scratch != 0).map fun p => (p.2.winBase, p.2.winBase + p.2.lrec.scratch)
  let fits (b : Nat) : Bool := decide (lo ≤ b) && decide (b + size ≤ hi) && held.all fun w => decide (b + size ≤ w.1) || decide (w.2 ≤ b)
  ((lo :: held.map Prod.snd).filter fits).foldl (fun best b => match best with
    | none => some b
    | some x => some (min x b)) none

/-- The tag range of R201. -/
def pickTags (s : State) (core n : Nat) : Option Nat :=
  let held (j : Nat) : Bool := (teamsOn s core).any fun p => decide (p.2.tagBase ≤ j) && decide (j < p.2.tagBase + p.2.lrec.tags)
  (List.range (65 - n)).find? fun b => (List.range n).all fun i => !held (b + i)

/-- Free canopy slots of a cluster (R244). -/
def freeCanopy (s : State) (cluster : Nat) : Nat :=
  512 - ((s.teams.filter fun p => p.2.resident && !p.2.retired && clusterOf p.2.core == cluster).map fun p => p.2.lrec.canopy).sum

/-- Live glades of a core's directory (R205). -/
def liveGlades (s : State) (core : Nat) : Nat := ((teamsOn s core).map fun p => p.2.glades.length).sum

/-- The images that a virtual device binds. -/
def boundImages (s : State) (vd : Nat) : List Nat := ((s.vd vd).bind.map Prod.snd).eraseDups

def hasImage (s : State) (cluster h : Nat) (done : Bool) : Bool :=
  (AMap.get [] s.slots cluster).any fun p => p.2.handle == h && !(done && p.2.copying)

/-- Every image that a gang's virtual device binds is resident in the clusters of its teams: its placement step can come (R383, R403). -/
def imagesReady (s : State) (gk vd : Nat) : Bool :=
  s.teams.all fun p => p.2.gang != gk || p.2.retired || (boundImages s vd).all fun h => hasImage s (clusterOf p.2.core) h true

/-- The placement step of a team's gang has come, so that its agents run (R383, R403). -/
def gangPlaced (s : State) (t : Team) : Bool := ((s.gang? t.gang).map Gang.placed).getD true

/-- What a team needs of a core (R402): groups of 32 threads, threads, and glade directory entries. -/
structure Need where
  groups : List Nat
  threads : Nat
  glades : Nat
  deriving DecidableEq, Repr

/-- Runs for some groups, in increasing group (R309). -/
def pickRuns (s : State) (vd core p0 : Nat) (held : List Nat) : List Nat → Option (AMap Nat)
  | [] => some []
  | g :: rest =>
    match ([0, 1, 2, 3].findSome? fun i => ((freeRuns s vd core ((p0 + g + i) % 4)).filter fun r => !held.contains r).head?) with
    | none => none
    | some r => (pickRuns s vd core p0 (r :: held) rest).map fun m => AMap.set m g r

/-- Whether a core has room for a team (R402). -/
def roomOn (s : State) (vd core : Nat) (r : LaunchRec) (n : Need) : Bool :=
  decide ((teamsOn s core).length < 16) &&
  (pickRuns s vd core (firstPart s core) [] n.groups).isSome &&
  decide (n.threads * r.regs8 ≤ freeRows s vd core) &&
  (pickTags s core r.tags).isSome && (pickWindow s vd core r.scratch).isSome &&
  decide (liveGlades s core + n.glades ≤ 256)

/-- A thread at its creation (R12, R308): its slot, entry address and personality. -/
def freshThread (slot : Nat) (entry : DWord) (pix : BitVec 3) : Thread :=
  { slot := slot, arch := { pc := entry, pix := pix } }

/-- The slot of a thread in the run of its group (R309). -/
def slotIn (run tid : Nat) : Nat := 32 * run + tid % 32

/-- A thread leaves its team (R129): its halts end, its slot, rows and window are free; its copies go on, counted on no flag, and its
system writes await their acknowledgment with the launch (R404). -/
def removeThread (s : State) (key tid : Nat) : State :=
  let s0 := endHalts s fun h => h.team == key && h.tid == tid
  let s1 := match s0.team? key, s0.thread? key tid with
    | some t, some th => leaveWrites s0 t.launch th.unacked
    | _, _ => s0
  s1.modTeam key fun t =>
    let ths := AMap.del t.threads tid
    let runs := if ths.any fun p => p.1 / 32 == tid / 32 then t.runs else AMap.del t.runs (tid / 32)
    let orphan (c : Copy) : Copy := if c.tid = some tid then { c with tid := some (1024 * (t.nextCopy + 1) + tid), flag := none } else c
    { t with threads := ths, runs := runs, copies := t.copies.map fun p => (p.1, orphan p.2) }

/-! ## Performance counters (R487) -/

/-- Key of a counter of a virtual device on a core. -/
def perfKey (vd core n : Nat) : Nat := (vd * 768 + core) * 65536 + n

/-- A number of events of a virtual device on a core. -/
def addPerf (s : State) (vd core n : Nat) (x : DWord) : State :=
  let key := perfKey vd core n
  { s with perf := AMap.set s.perf key (AMap.get 0 s.perf key + x) }

/-- A count of an event of a virtual device on a core. -/
def countPerf (s : State) (vd core n : Nat) : State := addPerf s vd core n 1

/-! ## Spawn bins -/

/-- The lowest free sr.tid of a team (R133). -/
def freeTid (t : Team) : Option Nat := (List.range 1024).find? fun j => (AMap.find t.threads j).isNone

/-- A thread made from a request (R133): none when a tid, a run or rows are missing. -/
def spawnThread (s : State) (key : Nat) (entry : DWord) (pix : BitVec 3) (r : Request) : Option State :=
  match s.team? key with
  | none => none
  | some t =>
    match freeTid t with
    | none => none
    | some tid =>
      if freeRows s t.vd t.core < t.lrec.regs8 then none
      else
        let g := tid / 32
        match (AMap.find t.runs g).or (pickRun s t.vd t.core t.p0 g) with
        | none => none
        | some run =>
          let th := freshThread (slotIn run tid) entry pix
          let th1 := { th with arch := { th.arch with v := [(0, r.a), (1, r.b), (2, r.by')] } }
          some (s.setTeam key { t with threads := AMap.set t.threads tid th1, runs := AMap.set t.runs g run })

/-- Threads for requests in arrival order, as far as there is room: the requests that stay. -/
def spawnAll (s : State) (key : Nat) (entry : DWord) (pix : BitVec 3) : List Request → State × List Request
  | [] => (s, [])
  | r :: rest =>
    match spawnThread s key entry pix r with
    | none => (s, r :: rest)
    | some s1 => spawnAll s1 key entry pix rest

/-- Whether a thread of a team, or its stream (none), is stopped by a HALTT or a debugger (R279, R281). -/
def isHalted (s : State) (k : Nat) (tid : Option Nat) : Bool :=
  ((s.team? k).map Team.dbgStop).getD false || s.halts.any fun h => h.targets.contains (k, tid)

/-- A thread at a guest boundary or an interruption point, or in a wait (R33, R284): one that a HALTT names has stopped there (R279).
A committed EXIT in its drain is in such a wait (log 58). -/
def atPoint (th : Thread) : Bool :=
  match th.expansion with
  | none => true
  | some x => x.committed && (th.wait.isSome || th.rep.isSome)

def hasStopped (s : State) (k tid : Nat) (th : Thread) : Bool := isHalted s k (some tid) && atPoint th

/-- The cycle of a bin's first request. -/
def binFirst (b : Bin) : Nat := (b.reqs.head?.map Request.cycle).getD b.since

/-- The bins of a core, oldest first request first (R311). DESIGN CHOICE (log 68): of two whose first requests were issued in one cycle, that of the
team of the lower key comes first, and in one team the bin taken earlier. -/
def binsOn (s : State) (core : Nat) : List (Nat × Bin) :=
  let all := ((s.teams.filter fun p => p.2.core == core && p.2.resident).map fun p => p.2.bins.map fun b => (p.1, b)).flatten
  let le (x y : Nat × Bin) : Bool := decide (binFirst x.2 ≤ binFirst y.2)
  all.foldl (fun acc x => acc.takeWhile (le · x) ++ x :: acc.dropWhile (le · x)) []

/-- A request among those of its bin: in arrival order, those of one cycle by the spawner's slot (R312). -/
def addRequest (rs : List Request) (r : Request) : List Request :=
  let later (x : Request) : Bool := x.cycle == r.cycle && decide (r.slot < x.slot)
  rs.takeWhile (fun x => !later x) ++ r :: rs.dropWhile fun x => !later x

/-- A team's bin of an entry address and personality. -/
def ownBin (t : Team) (entry : DWord) (pix : BitVec 3) : Option Bin := t.bins.find? fun x => x.entry == entry && x.pix == pix

/-- A bin that a request takes (R311). -/
def takeBin (s : State) (key : Nat) (entry : DWord) (pix : BitVec 3) (r : Request) : State :=
  s.modTeam key fun t => { t with bins := t.bins ++ [{ entry := entry, pix := pix, reqs := [r], since := s.cycle }] }

/-- Whether a request issued before another (R311, R312). -/
def issuedBefore (x r : Request) : Bool := decide (x.cycle < r.cycle) || (x.cycle == r.cycle && decide (x.slot < r.slot))

/-- The SPAWNs of a core that wait for a bin to be free, in the order in which they issued (R311), by team and thread. One whose thread is stopped
takes none meanwhile, nor one whose team has taken a bin of its key since, which it joins. -/
def spawnWaiters (s : State) (core : Nat) : List (Nat × Nat × SpawnWait) :=
  let all := ((teamsOn s core).filter fun p => !(s.vd p.2.vd).halted).flatMap fun p => p.2.threads.filterMap fun q =>
    if q.2.dead || q.2.preempted || hasStopped s p.1 q.1 q.2 then none
    else (q.2.spawn.filter fun w => (ownBin p.2 w.entry q.2.arch.pix).isNone).map fun w => (p.1, q.1, w)
  all.foldl (fun acc x => acc.takeWhile (fun y => !issuedBefore x.2.2.req y.2.2.req) ++ x :: acc.dropWhile fun y => !issuedBefore x.2.2.req y.2.2.req) []

/-- A thread whose SPAWN has a bin goes on; in a template the expansion has so come to its commit point (R289). -/
def passSpawn (len : Nat) (th : Thread) : Thread := passOp (if th.expansion.any fun x => !x.committed then commitThread th else th) len th.after

/-- A SPAWN that waits takes a bin that is free: it is complete, and counted as issued (R311, R487). -/
def grantSpawn (s : State) (core : Nat) (x : Nat × Nat × SpawnWait) : State :=
  match s.team? x.1, s.thread? x.1 x.2.1 with
  | some t, some th =>
    if 16 ≤ (binsOn s core).length || (ownBin t x.2.2.entry th.arch.pix).isSome then s
    else
      let s1 := (takeBin s x.1 x.2.2.entry th.arch.pix x.2.2.req).modThread x.1 x.2.1 (passSpawn x.2.2.len)
      countPerf (countPerf s1 t.vd core 0x200) t.vd core 0x100
  | _, _ => s

/-- The SPAWNs that wait take the bins that are free (R311). -/
def grantSpawns (s : State) (core : Nat) : State := (spawnWaiters s core).foldl (fun s x => grantSpawn s core x) s

/-- A bin is flushed (R312): requests without room stay, and the timer restarts; a bin that is emptied goes to a SPAWN that waits (R311). -/
def flushBin (s : State) (key : Nat) (b : Bin) : State :=
  let (s1, left) := spawnAll s key b.entry b.pix b.reqs
  let same (x : Bin) : Bool := x.entry == b.entry && x.pix == b.pix
  if left.isEmpty then
    grantSpawns (s1.modTeam key fun t => { t with bins := t.bins.filter fun x => !same x }) (((s.team? key).map Team.core).getD 0)
  else s1.modTeam key fun t => { t with bins := t.bins.map fun x => if same x then { x with reqs := left, since := s.cycle } else x }

/-- Bins flushed one after another until one is empty. -/
def flushUntil (s : State) (core : Nat) : List (Nat × Bin) → State
  | [] => s
  | (k, b) :: rest => if (binsOn s core).length < 16 then s else flushUntil (flushBin s k b) core rest

/-- A SPAWN of the core that waits for a bin to be free issued before a request (R311). -/
def spawnBefore (s : State) (core : Nat) (r : Request) : Bool := (spawnWaiters s core).any fun x => issuedBefore x.2.2.req r

/-- A request enters a bin (R311); none where the SPAWN waits at issue, with the flushes made. One that has waited (`again`) takes a bin
that has become free other than by a flush, after those that issued before it, and flushes none. -/
def placeRequest (s : State) (key : Nat) (entry : DWord) (pix : BitVec 3) (r : Request) (again : Bool) : State × Bool :=
  match s.team? key with
  | none => (s, false)
  | some t =>
    let same (x : Bin) : Bool := x.entry == entry && x.pix == pix
    match t.bins.find? same with
    | some b =>
      if 32 ≤ b.reqs.length then (flushBin s key b, false)
      else
        let b1 := { b with reqs := addRequest b.reqs r }
        let s1 := s.setTeam key { t with bins := t.bins.map fun x => if same x then b1 else x }
        (if b1.reqs.length = 32 then flushBin s1 key b1 else s1, true)
    | none =>
      let s0 := if again then s else grantSpawns s t.core
      let s1 := if again then s0 else flushUntil s0 t.core (binsOn s0 t.core)
      if (binsOn s1 t.core).length < 16 ∧ spawnBefore s1 t.core r = false then (takeBin s1 key entry pix r, true)
      else (s1, false)

end Sys2Proof.Machine
end

