-- ==== Sys2Proof/Machine/Control.lean ====
section
/-! DEFINITION. Control transfers, loops, REP, waits and SPAWN of class 00 (R119 to R135). -/

namespace Sys2Proof.Machine

/-- The target of R119: an offset from the instruction's own word. -/
def targetOf (c : Ctx) (a : Args) : DWord := c.th.arch.pc + (a.aux.getD 0)

/-- The ALIGN check of R120 on an address operand, natively only (R295). -/
def jumpTo (c : Ctx) (a : Args) (f : Thread → Thread) : Res :=
  let x := read64 c a.sa
  if c.th.expansion.isNone && x.toNat % 8 != 0 then .fault cALIGN x
  else .jump (c.s.modThread c.key c.tid fun th => goTo (f th) x a.live)

/-- BRA, BRX, CALL, CALLX, RET (R120). -/
def execBra (a : Args) (s : State) : Out :=
  runThread 0 0x40 a s fun c => .jump (c.s.modThread c.key c.tid fun th => goTo th (targetOf c a) a.live)
def execBrx (a : Args) (s : State) : Out := runThread 0 0x41 a s fun c => jumpTo c a id
def execCall (a : Args) (s : State) : Out :=
  runThread 0 0x42 a s fun c =>
    .jump (c.s.modThread c.key c.tid fun th => goTo (write64 th a.dst (returnAddr c.th a)) (targetOf c a) a.live)
def execCallx (a : Args) (s : State) : Out :=
  runThread 0 0x43 a s fun c => jumpTo c a fun th => write64 th a.dst (returnAddr c.th a)
def execRet (a : Args) (s : State) : Out := runThread 0 0x44 a s fun c => jumpTo c a id

/-- lc0 or lc1. -/
def getLoop (th : Thread) (j : Nat) : Loop := if j = 0 then th.arch.lc0 else th.arch.lc1
def setLoop (th : Thread) (j : Nat) (l : Loop) : Thread :=
  if j = 0 then { th with arch := { th.arch with lc0 := l } } else { th with arch := { th.arch with lc1 := l } }

/-- LOOP (R122, R295). -/
def execLoop (a : Args) (s : State) : Out :=
  runThread 0 0x45 a s fun c =>
    let n := read32 c a.sa
    let l : Loop := { count := n, start := returnAddr c.th a, stop := targetOf c a }
    if n = 0 then
      (if c.th.expansion.isSome then .done (c.s.modThread c.key c.tid fun th => setLoop th a.dst.toNum l)
       else .jump (c.s.modThread c.key c.tid fun th => goTo (setLoop th a.dst.toNum l) (targetOf c a) a.live))
    else .done (c.s.modThread c.key c.tid fun th => setLoop th a.dst.toNum l)

/-- LEND (R123). -/
def execLend (a : Args) (s : State) : Out :=
  runThread 0 0x46 a s fun c =>
    let j := a.dst.toNum
    let l := getLoop c.th j
    if l.count.toNat ≤ 1 then .done (c.s.modThread c.key c.tid fun th => setLoop th j { l with count := 0 })
    else .jump (c.s.modThread c.key c.tid fun th => goTo (setLoop th j { l with count := l.count - 1 }) l.start a.live)

/-- Element size of REP (R125). -/
def repSize (a : Args) : Nat := (intTy .i32 a.mod).width / 8

/-- The checks of one element of a REP (R126, R127): the place it writes, and the address and place it reads; or its fault, and the state after the
walk of a source that has passed (R420). -/
def repElement (c : Ctx) (a : Args) (r : Rep) : Except (State × FaultInfo) (Loc × Option (DWord × Loc)) :=
  let sz := repSize a
  let next := c.th.arch.rnext
  let smode := c.th.arch.mode
  let src := r.a + (next - r.d)
  if next.toNat % sz ≠ 0 then .error (c.s, cALIGN, next)
  else if modBits a.mod 3 0 = 1 then
    if src.toNat % sz ≠ 0 then .error (c.s, cALIGN, src)
    else match resolve c.s c.team smode src sz ⟨true, false⟩ with
      | .error e => .error (c.s, e)
      | .ok l =>
        match resolve c.s c.team smode next sz ⟨false, true⟩ with
        | .error e => .error (noteWalk c.s c.team src, e)
        | .ok m => .ok (m, some (src, l))
  else match resolve c.s c.team smode next sz ⟨false, true⟩ with
    | .error e => .error (c.s, e)
    | .ok m => .ok (m, none)

/-- The data of an element: of a copy, a load (R126), poisoned or not (R127). -/
def repData (c : Ctx) (a : Args) (r : Rep) : Option (DWord × Loc) → State × (List Byte × Bool)
  | some (va, l) => let (s1, d) := load c.s c.team.core l (repSize a); (noteAccess s1 c.team va l, d)
  | none => (c.s, (leBytes (repSize a) r.a.toNat, false))

/-- A fault at an element: the REP counts on its flag no more (R26, R127). -/
def repFault (c : Ctx) (s : State) (code : BitVec 8) (d : DWord) : Res :=
  .jump (faultThread (s.modThread c.key c.tid fun th => { decFlag th th.repFlag with repFlag := none }) c.key c.tid code d)

/-- One element of a REP that runs: its line is freed of the copies it must follow (R199), with a time greater than their writes' (R338), then it is
read and written. -/
def repStep (c : Ctx) (a : Args) (r : Rep) : Res :=
  match repElement c a r with
  | .error (s1, code, d) => repFault c s1 code d
  | .ok (m, src) =>
    let sz := repSize a
    let at' (l : Loc) (write : Bool) : Option (Nat × Loc) := (copyHazard c.team c.tid l sz write).map fun id => (id, l)
    match (src.bind fun x => at' x.2 false).or (at' m true), ownerOf c.s (.thread c.key c.tid) m with
    | some (id, l), _ => .jump (afterWrite (performCopiesTo c.s c.key id) c.team.core l)
    | none, some o => .jump (afterWrite (performOwner c.s o) c.team.core m)
    | none, none =>
      let (s1, bs, bad) := repData c a r src
      if bad then repFault c s1 cPOISON ((src.map Prod.fst).getD 0)
      else
        let ac : Access := { op := .store bs, loc := m, size := sz, va := c.th.arch.rnext, flag := none, port := locPort m, no := c.team.nextCopy }
        let s2 := landStore (noteAccess s1 c.team c.th.arch.rnext m) c.team (.thread c.key c.tid) ac bs false
        let step (th : Thread) : Thread :=
          { th with arch := { th.arch with rc := th.arch.rc - 1, rnext := th.arch.rnext + BitVec.ofNat 64 sz } }
        if c.th.arch.rc = 1 then .done (s2.modThread c.key c.tid fun th => { step (decFlag th th.repFlag) with repFlag := none })
        else .jump (s2.modThread c.key c.tid step)

/-- REP issues: its operands are read (R32, R36); a fresh one takes its count and address, one that resumes goes on (R126, R127). Unless an
earlier issue of it still counts, it counts on flag set B. One with S = 1 is a safe point between its elements (R128). -/
def repIssue (c : Ctx) (a : Args) : Res :=
  let b := read32 c a.sb
  let d := read64 c a.dst
  let x : DWord := if modBits a.mod 3 0 = 1 ∨ repSize a = 8 then read64 c a.sa else (read32 c a.sa).zeroExtend 64
  let fresh := c.th.arch.rc = 0
  let goesOn := !fresh && c.th.repFlag.isSome
  if fresh ∧ b = 0 then .done (c.s.modThread c.key c.tid fun th => { th with arch := { th.arch with rnext := d } })
  else if !goesOn && flagFull c.th (flagB c.th) then .hold (c.s.modThread c.key c.tid fun th => roomWait th c.s.cycle (flagB th))
  else
    .jump (c.s.modThread c.key c.tid fun th =>
      let th1 := if goesOn then th else { incFlag (decFlag th th.repFlag) (flagB th) with repFlag := flagB th }
      { th1 with
        rep := some { op := .rep a, a := x, d := d }, safe := if th.expansion.isNone then a.live else none,
        arch := { th1.arch with rc := if fresh then b else th.arch.rc, rnext := if fresh then d else th.arch.rnext } })

/-- REP (R125 to R128): its issue, and then one element a step. Its DST is a pair that is only read: the "As destination" column of R69 and
R35 speak of results, so K registers, specials and immediates are admitted (log 45). -/
def execRep (a : Args) (s : State) : Out :=
  runThread 0 0x47 a s fun c =>
    match c.th.rep with
    | none => repIssue c a
    | some r => repStep c a r

/-- EXIT (R129): the exit drain begins; EXIT_DRAIN_COMPLETE ends the thread. -/
def execExit (a : Args) (s : State) : Out :=
  runThread 0 0x48 a s fun c =>
    .jump (c.s.modThread c.key c.tid fun th => { th with wait := some .exit, waitFrom := c.s.cycle })

/-- YIELD (R130). -/
def execYield (a : Args) (s : State) : Out :=
  runReg 0 0x49 a s fun c => { c.th with yielded := some (c.s.cycle + 16), held := false, dirty := 0 }

/-- A thread enters a wait. -/
def startWait (c : Ctx) (w : Wait) : Res := .jump (c.s.modThread c.key c.tid fun th => { th with wait := some w, waitFrom := c.s.cycle })

/-- A kept wait goes on (R219). -/
def resumeWait (c : Ctx) (kp : Kept) : State :=
  c.s.modThread c.key c.tid fun th => { dropKept th with wait := some kp.wait, waitFrom := c.s.cycle }

/-- NAP (R131): a deadline kept over an interruption stands. -/
def execNap (a : Args) (s : State) : Out :=
  runThread 0 0x4A a s fun c =>
    match keptHere c.th with
    | some ⟨pc, .nap g len, r⟩ =>
      if g.toNat ≤ c.s.growth.toNat then .done (c.s.modThread c.key c.tid dropKept)
      else .jump (resumeWait c ⟨pc, .nap g len, r⟩)
    | _ =>
      let n := read32 c a.sa
      if n = 0 then .done c.s else startWait c (.nap (c.s.growth + n.zeroExtend 64) (opLen c.th a))

/-- The request of a SPAWN: as it issued, where it waits for a bin (R133, R311). -/
def spawnRequest (c : Ctx) (a : Args) : Request :=
  (c.th.spawn.map SpawnWait.req).getD
    { a := read32 c a.sa, b := read32 c a.sb, by' := BitVec.ofNat 32 c.tid, cycle := c.s.cycle, slot := c.th.slot }

/-- SPAWN (R133, R311). -/
def execSpawn (a : Args) (s : State) : Out :=
  runThread 0 0x4B a s fun c =>
    let r := spawnRequest c a
    match placeRequest c.s c.key (targetOf c a) c.th.arch.pix r c.th.spawn.isSome with
    | (s1, true) => .done s1
    | (s1, false) =>
      .stay (s1.modThread c.key c.tid fun th =>
        { th with spawn := if (ownBin c.team (targetOf c a) c.th.arch.pix).isSome then none
                           else some { req := r, entry := targetOf c a, len := 8 * a.words } })

/-- The n of WAITF and SETF (R132). -/
def flagLimit (a : Args) : Nat :=
  match a.sb with
  | .imm i => i.toNat
  | _ => 0

/-- WAITF (R132). -/
def execWaitf (a : Args) (s : State) : Out :=
  runThread 0 0x4C a s fun c =>
    let j : BitVec 4 := BitVec.ofNat 4 a.sa.toNum
    if flagCount c.th j ≤ flagLimit a then .done c.s else startWait c (.flag j (flagLimit a) (opLen c.th a))

/-- SETF (R132). -/
def execSetf (a : Args) (s : State) : Out :=
  runReg 0 0x4D a s fun c => setPred c.th a.dst.toNum (decide (flagCount c.th (BitVec.ofNat 4 a.sa.toNum) ≤ flagLimit a))

/-- Whether a personality index is bound in the context of a virtual device (R283, R381). -/
def isBound (v : VDev) (x : Nat) : Bool := x == 0 || (decide (x < 8) && (AMap.find v.bind x).isSome)

/-- PXCALL (R134). -/
def execPxcall (a : Args) (s : State) : Out :=
  runThread 0 0x4E a s fun c =>
    let b := (read32 c a.sb).toNat
    let x := read64 c a.sa
    if !isBound (c.s.vd c.team.vd) b then .fault cILLEGAL 0
    else
      let ret := returnAddr c.th a ||| (c.th.arch.pix.zeroExtend 64 <<< 61)
      .jump (c.s.modThread c.key c.tid fun th => goToPix (write64 th a.dst ret) x (BitVec.ofNat 3 b) a.live)

/-- PXRET (R135). -/
def execPxret (a : Args) (s : State) : Out :=
  runThread 0 0x4F a s fun c =>
    let x := read64 c a.sa
    if x.toNat / 2 ^ 52 % 2 ^ 9 ≠ 0 then .fault cADDR x
    else if !isBound (c.s.vd c.team.vd) (x.toNat / 2 ^ 61) then .fault cILLEGAL 0
    else
      .jump (c.s.modThread c.key c.tid fun th =>
        goToPix th (BitVec.ofNat 64 (x.toNat % 2 ^ 52)) (BitVec.ofNat 3 (x.toNat / 2 ^ 61)) a.live)

end Sys2Proof.Machine
end

