-- ==== Sys2Proof/Machine/Memory.lean ====
section
/-! DEFINITION. Loads, stores, atomics, PREF and SYNCH (R167 to R192): the checks at issue, after which the access is outstanding
until it is performed. -/

namespace Sys2Proof.Machine

/-- Bytes of a width code (R174). -/
def widSize : Nat → Nat
  | 1 | 2 => 1
  | 3 | 4 => 2
  | 5 => 8
  | 6 => 16
  | _ => 4

/-- A destination named through the window is the register it names at issue (R17). -/
def fixDst (ar : Arch) : Sel → Sel
  | .n i => .big (BitVec.ofNat 32 (ar.wbase.toNat + i.toNat))
  | d => d

/-- Base plus displacement (R175). -/
def effective (c : Ctx) (a : Args) : DWord := read64 c a.sa + a.aux.getD 0

/-- The own-window offset of LDS and STS (R175), and the generic address that names it. -/
def windowOff (c : Ctx) (a : Args) : Word := read32 c a.sa + (a.aux.getD 0).truncate 32
def windowAddr (off : Word) : DWord := (0x800 : BitVec 12) ++ off.zeroExtend 52

/-- A checked access issues: the flag rule of R26, the copies of R199, then it is outstanding. A store of an expansion before its
commit point is buffered (R288). -/
def issue (c : Ctx) (ac : Access) (write : Bool) : Res :=
  if flagFull c.th ac.flag then .hold (c.s.modThread c.key c.tid fun th => roomWait th c.s.cycle ac.flag)
  else match copyHazard c.team c.tid ac.loc ac.size write with
    | some id => .hold (afterWrite (performCopiesTo c.s c.key id) c.team.core ac.loc)
    | none =>
      let s0 := noteAccess c.s c.team ac.va ac.loc
      let s1 := if ac.port.isSome then s0.modTeam c.key fun t => { t with nextCopy := t.nextCopy + 1 } else s0
      let ac : Access := { ac with no := if ac.port.isSome then c.team.nextCopy else 0 }
      .done (s1.modThread c.key c.tid fun th =>
        match th.expansion, ac.op with
        | some x, .store _ =>
          if x.committed then { th with out := th.out ++ [{ ac with buffered := true }] }
          else { th with expansion := some { x with stores := x.stores ++ [{ ac with buffered := true }] } }
        | _, _ => incFlag { th with out := th.out ++ [ac] } ac.flag)

/-- A load or store at a generic address; HINT 3 of an LD is .nol1 (R174). `datum` is what R490 names in a fault of LDS and STS. -/
def runAccess (opc : Nat) (a : Args) (s : State) (addr : Ctx → DWord) (datum : Ctx → DWord) (mk : Ctx → AccOp) (size : Nat)
    (w : Want) : Out :=
  runThread 1 opc a s fun c =>
    let ea := addr c
    match resolveAs c.s c.team c.th.arch.mode ea size size w (datum c) with
    | .error (code, d) => .fault code d
    | .ok l =>
      issue c { op := mk c, loc := l, size := size, va := ea, flag := if w.write then flagB c.th else flagA c.th, port := locPort l,
                nol1 := opc == 0x00 && modBits a.mod 6 5 == 3 } w.write

/-- The bytes that a store writes (R176). -/
def storeBytes (c : Ctx) (wid : Nat) (x : Sel) : List Byte :=
  match wid with
  | 5 => leBytes 8 (read64 c x).toNat
  | 6 => match regNo c.th.arch x with
    | some j => leBytes 8 (vPair c.th.arch j).toNat ++ leBytes 8 (vPair c.th.arch (j + 2)).toNat
    | none => leBytes 16 0
  | _ => leBytes (widSize wid) (read32 c x).toNat

def widOf (a : Args) : Nat := modBits a.mod 9 7

/-- LD, ST, LDS, STS (R181). -/
def execLd (a : Args) (s : State) : Out :=
  runAccess 0x00 a s (fun c => effective c a) (fun c => effective c a) (fun c => .load (fixDst c.th.arch a.dst) (widOf a))
    (widSize (widOf a)) ⟨true, false⟩
def execSt (a : Args) (s : State) : Out :=
  runAccess 0x01 a s (fun c => effective c a) (fun c => effective c a) (fun c => .store (storeBytes c (widOf a) a.sb))
    (widSize (widOf a)) ⟨false, true⟩
def execLds (a : Args) (s : State) : Out :=
  runAccess 0x02 a s (fun c => windowAddr (windowOff c a)) (fun c => (windowOff c a).zeroExtend 64)
    (fun c => .load (fixDst c.th.arch a.dst) (widOf a)) (widSize (widOf a)) ⟨true, false⟩
def execSts (a : Args) (s : State) : Out :=
  runAccess 0x03 a s (fun c => windowAddr (windowOff c a)) (fun c => (windowOff c a).zeroExtend 64)
    (fun c => .store (storeBytes c (widOf a) a.sb)) (widSize (widOf a)) ⟨false, true⟩

/-- The host-page rule of R186: whether an atomic operation is refused there. `op` is none for CAS. -/
def hostDenied (s : State) (t : Team) (ea : DWord) (op : Option Nat) (ty : ElTy) : Bool :=
  if ea.toNat < 2 ^ 52 then
    match translate s t.vd t.core ea.toNat with
    | .ok x =>
      match portOf (x.pa ea.toNat) with
      | some p => decide (p < 2) && (!(AMap.get {} s.ports p).atomicOp ||
          (match op with
           | none => false
           | some 0 => !ty.isInt
           | some 6 => false
           | some _ => true))
      | none => false
    | .error _ => false
  else false

/-- An ATOM, RED or CAS: read and write permission, then the rule of R186 in the place of PROT_WRITE (R178). -/
def runAtomic (opc : Nat) (a : Args) (s : State) (op : Option Nat) (ty : ElTy) (size : Nat) (onA : Bool) (mk : Ctx → AccOp) : Out :=
  runThread 1 opc a s fun c =>
    let ea := effective c a
    let denied := hostDenied c.s c.team ea op ty
    match resolve c.s c.team c.th.arch.mode ea size ⟨true, true⟩ with
    | .error (code, d) => if code = cGATE && denied then .fault cPROTW d else .fault code d
    | .ok l =>
      if denied then .fault cPROTW ea
      else issue c { op := mk c, loc := l, size := size, va := ea, flag := if onA then flagA c.th else flagB c.th, port := locPort l } true

/-- The type of ATOM and RED (R182). -/
def atomTy (a : Args) : ElTy := if modBits a.mod 9 9 = 1 then ElTy.ofCode (modBits a.mod 8 5) else .i32
def atomOp (a : Args) : Nat := modBits a.mod 4 1

/-- The operand b of an atomic, of its type's width. -/
def atomArg (c : Ctx) (wide : Bool) (x : Sel) : DWord := if wide then read64 c x else (read32 c x).zeroExtend 64

/-- ATOM and RED (R182 to R184). DEDUCED (log 47): the limit of R176 on the destinations of loads (v and n) is not theirs, so R69 gives ATOM and CAS
e0 to e7 and sr.fflags too. -/
def execAtom (a : Args) (s : State) : Out :=
  let t := atomTy a
  runAtomic 0x04 a s (some (atomOp a)) t (t.width / 8) true fun c =>
    .atom (fixDst c.th.arch a.dst) (atomOp a) t (atomArg c (t.width == 64) a.sb)
def execRed (a : Args) (s : State) : Out :=
  let t := atomTy a
  runAtomic 0x06 a s (some (atomOp a)) t (t.width / 8) false fun c => .atom .none (atomOp a) t (atomArg c (t.width == 64) a.sb)

/-- CAS (R185). -/
def execCas (a : Args) (s : State) : Out :=
  let wide := modBits a.mod 9 9 == 1
  runAtomic 0x05 a s none (if wide then .n64 else .n32) (if wide then 8 else 4) true fun c =>
    .cas (fixDst c.th.arch a.dst) wide (atomArg c wide a.sb) (atomArg c wide a.sc)

/-- PREF (R187): no architected effect. -/
def execPref (a : Args) (s : State) : Out := runReg 1 0x07 a s fun c => c.th

/-- A thread's copies to system pages. -/
def systemCopies (t : Team) (tid : Nat) : List (Nat × Copy) := t.copies.filter fun p => p.2.tid == some tid && p.2.port.isSome

/-- Whether a thread's system writes are all acknowledged (R191): its stores and its copies to system pages, and its fence markers. -/
def drained (t : Team) (tid : Nat) (th : Thread) : Bool := th.unacked.isEmpty && th.markers.isEmpty && (systemCopies t tid).isEmpty

/-- Fence markers, one to each port that has unacknowledged writes of a thread, with the next numbers of its core (R191, R342). -/
def sendMarkers (s : State) (core : Nat) (ports : List Nat) : State × List (Nat × Nat) :=
  ports.foldl (fun (s, ms) p => let (s1, n) := takeSeq s core p; (s1, ms ++ [(p, n)])) (s, [])

/-- SYNCH (R191): the drain, then the next tick. Its copies to system pages are performed before its markers go out. -/
def execSynch (a : Args) (s : State) : Out :=
  runThread 1 0x08 a s fun c =>
    match systemCopies c.team c.tid with
    | p :: _ => .jump (performCopiesTo c.s c.key p.1)
    | [] =>
      let (s1, ms) := sendMarkers c.s c.team.core (c.th.unacked.map SysWrite.port).eraseDups
      .jump (s1.modThread c.key c.tid fun th =>
        let th1 := { th with markers := ms, waitFrom := c.s.cycle }
        { th1 with wait := some (if drained c.team c.tid th1 then .tick c.s.growth (opLen th a) else .drain (opLen th a)) })

end Sys2Proof.Machine
end

