-- ==== Sys2Proof/Machine/Sync.lean ====
section
/-! DEFINITION. Copies, copy tags, glades, team barriers and RVX (R195 to R219). -/

namespace Sys2Proof.Machine

/-! ## Glade addresses (R206) -/

/-- The address checks of R206: the home team of a glade, its window offset, and whether it is a gang peer's. -/
def gladeAddr (s : State) (key : Nat) (t : Team) (ea : DWord) (peerOk : Bool) : Except FaultInfo (Nat × Team × Nat × Bool) :=
  let low := ea.toNat % 2 ^ 52
  match ea.toNat / 2 ^ 52 with
  | 0x800 =>
    if 2 ^ 19 ≤ low ∨ t.lrec.scratch < low + 16 then .error (cSCRATCH, ea)
    else if low % 16 ≠ 0 then .error (cALIGN, ea)
    else .ok (key, t, low, false)
  | 0x900 =>
    let rank := low / 2 ^ 19 % 16
    let off := low % 2 ^ 19
    if 2 ^ 23 ≤ low ∨ t.lrec.gsize ≤ rank then .error (cGANG, ea)
    else match gangTeam s t.gang rank with
      | none => .error (cGANG, ea)
      | some (k, p) =>
        if p.retired then .error (cGANG, ea)
        else if p.lrec.scratch < off + 16 then .error (cSCRATCH, ea)
        else if off % 16 ≠ 0 then .error (cALIGN, ea)
        else if k ≠ key ∧ peerOk = false then .error (cADDR, ea)
        else .ok (k, p, off, k != key)
  | _ => .error (cADDR, ea)

/-- A glade operation on an address checked (R206): it follows the thread's earlier copies that touch bytes 0 to 7 (R199); REMOTE_OK, poison,
well-formedness; then its own effect on the glade found. -/
def runGlade (opc : Nat) (a : Args) (s : State) (ea : Ctx → DWord) (peerOk rvxOp : Bool)
    (body : Ctx → Nat → Team → Nat → GWord → Res) : Out :=
  runThread 1 opc a s fun c =>
    match gladeAddr c.s c.key c.team (ea c) peerOk with
    | .error (code, d) => .fault code d
    | .ok (k, t, off, peer) =>
    match copyHazard c.team c.tid (winLoc t off) 8 true with
    | some id => .hold (afterWrite (performCopiesTo c.s c.key id) c.team.core (winLoc t off))
    | none =>
      let g := gRead c.s t off
      if peer && !g.remote then .fault cGLADE (ea c)
      else if locPoisoned c.s (winLoc t off) 8 then .fault cPOISON (ea c)
      else if !gUsable t off g rvxOp then .fault cGLADE (ea c)
      else body c k t off g

/-! ## Glades -/

/-- No waiter and no open phase progress (R208). -/
def gladeQuiet (t : Team) (key off : Nat) (g : GWord) : Bool :=
  waiters t key off == 0 && g.apend == g.ainit && g.spend == 0 && (AMap.get {} t.glades off).resid == 0 && !g.rvx

/-- Releasing a live glade (R208): its directory bits are written to bytes 8 to 15, WAITERS 0. -/
def dropGlade (s : State) (k off : Nat) (t : Team) : State :=
  let high := (AMap.get {} t.glades off).resid * 2 ^ 16
  let s1 := s.modTeam k fun t => { t with glades := AMap.del t.glades off }
  touch (writeBytes s1 (winLoc t (off + 8)) (leBytes 8 high)) t.core (winLoc t off) true

/-- A glade made live (R208, R306). -/
def makeGlade (s : State) (core k off ainit : Nat) (remote : Bool) : State :=
  let s1 := s.modTeam k fun t => { t with glades := AMap.set t.glades off {} }
  match s1.team? k with
  | some t => gWrite s1 core t off { hi := 0, rvx := false, faulted := false, remote := remote, spend := 0, apend := ainit, ainit := ainit, phase := 0 }
  | none => s1

/-- GINIT (R208); a release writes bytes 8 to 15 too, and so follows the thread's copies that touch them (R199). -/
def execGinit (a : Args) (s : State) : Out :=
  runThread 1 0x18 a s fun c =>
    let ea := read64 c a.sa
    match gladeAddr c.s c.key c.team ea false with
    | .error (code, d) => .fault code d
    | .ok (k, t, off, _) =>
    match copyHazard c.team c.tid (winLoc t off) (if modBits a.mod 8 8 = 1 then 16 else 8) true with
    | some id => .hold (afterWrite (performCopiesTo c.s c.key id) c.team.core (winLoc t off))
    | none =>
      let g := gRead c.s t off
      let live := (AMap.find t.glades off).isSome
      let busy := live && gWellFormed g && !g.faulted && !gladeQuiet t k off g
      if locPoisoned c.s (winLoc t off) 8 then .fault cPOISON ea
      else if modBits a.mod 8 8 = 1 then
        if !live || busy then .fault cGLADE ea else .done (dropGlade c.s k off t)
      else
        let b := (read32 c a.sb).toNat
        if b = 0 ∨ 4095 < b ∨ (live = false ∧ 256 ≤ liveGlades c.s t.core) ∨ busy then .fault cGLADE ea
        else .done (makeGlade c.s c.team.core k off b (modBits a.mod 9 9 == 1))

/-- The 28-bit signed range of SECT_PEND (R209). -/
def spendOk (x : Int) : Bool := decide (-(2 ^ 27 : Int) ≤ x) && decide (x < (2 ^ 27 : Int))

/-- GEXP (R209). -/
def execGexp (a : Args) (s : State) : Out :=
  runGlade 0x19 a s (fun c => read64 c a.sa) true false fun c k _ off g =>
    let x := g.spend + (read32 c a.sb).toInt
    if spendOk x then .done (completeIfDone c.s c.team.core k off { g with spend := x }) else .fault cGLADE (read64 c a.sa)

/-- The arrival of R210 on a glade found usable. -/
def arriveGlade (s : State) (core k off : Nat) (g : GWord) (b : Nat) (spend : Int) : Option State :=
  if b = 0 ∨ g.apend < b ∨ spendOk spend = false then none
  else some (completeIfDone s core k off { g with spend := spend, apend := g.apend - b })

/-- GARV (R210). -/
def execGarv (a : Args) (s : State) : Out :=
  runGlade 0x1A a s (fun c => read64 c a.sa) false false fun c k _ off g =>
    let sp := if modBits a.mod 9 9 = 1 then g.spend + (read32 c a.sc).toInt else g.spend
    match arriveGlade c.s c.team.core k off g (read32 c a.sb).toNat sp with
    | none => .fault cGLADE (read64 c a.sa)
    | some s1 => .done (s1.modThread c.key c.tid fun th => write32 th a.dst (BitVec.ofNat 32 g.phase))

/-- GARVR (R211): with CPO the thread's copies are performed first. -/
def execGarvr (a : Args) (s : State) : Out :=
  runGlade 0x1B a s (fun c => read64 c a.sa) true false fun c k _ off g =>
    match (if modBits a.mod 9 9 = 1 then c.team.copies.find? fun p => p.2.tid == some c.tid else none) with
    | some p => .hold (performCopiesTo c.s c.key p.1)
    | none =>
      match arriveGlade c.s c.team.core k off g (read32 c a.sb).toNat g.spend with
      | none => .fault cGLADE (read64 c a.sa)
      | some s1 => .done s1

def tokenOf (w : Word) : BitVec 4 := w.truncate 4

/-- GWAIT and GTEST (R212). -/
def execGwait (a : Args) (s : State) : Out :=
  runGlade 0x1C a s (fun c => read64 c a.sa) false false fun c k _ off g =>
    let tok := tokenOf (read32 c a.sb)
    let c1 : Ctx := { c with s := touch c.s c.team.core (winLoc c.team off) true }
    if g.phase ≠ tok.toNat then .done c1.s
    else startWait c1 (.glade (read64 c a.sa) k off tok (opLen c.th a))
def execGtest (a : Args) (s : State) : Out :=
  runGlade 0x1D a s (fun c => read64 c a.sa) false false fun c _ _ off g =>
    .done ((touch c.s c.team.core (winLoc c.team off) true).modThread c.key c.tid fun th =>
      setPred th a.dst.toNum (g.phase != (tokenOf (read32 c a.sb)).toNat))

/-! ## Copies -/

/-- The glade checks of a copy (R196): steps 3 to 5. -/
def copyGlade (s : State) (key : Nat) (t : Team) (ea : DWord) (tagged : Bool) : Option FaultInfo :=
  match gladeAddr s key t ea true with
  | .error e => some e
  | .ok (_, p, off, peer) =>
    let g := gRead s p off
    if peer then (if tagged then none else some (cGLADE, ea))
    else if (AMap.find p.glades off).isNone || g.faulted || g.rvx then some (cGLADE, ea) else none

/-- CP (R195 to R197); its destination's line is recalled from the core that holds it exclusive (R338). -/
def execCp (a : Args) (s : State) : Out :=
  runThread 1 0x10 a s fun c =>
    let dst := read64 c a.sa
    let src := read64 c a.sb
    let ga := read64 c a.sc
    let sz := 4 * 2 ^ modBits a.mod 9 8
    let tg := modBits a.mod 7 7 == 1
    let gl := modBits a.mod 6 6 == 1
    let sm := c.th.arch.mode
    match resolve c.s c.team sm src sz ⟨true, false⟩, resolve c.s c.team sm dst sz ⟨false, true⟩,
        (if gl then copyGlade c.s c.key c.team ga tg else none) with
    | .error (code, d), _, _ => .fault code d
    | _, .error (code, d), _ => .faultAt (noteWalk c.s c.team src) code d
    | _, _, some (code, d) => .faultAt (noteWalk (noteWalk c.s c.team src) c.team dst) code d
    | .ok l, .ok m, none =>
      let tag := a.dst.toNum
      let n := (AMap.get {} c.team.tags tag).count
      if flagFull c.th (flagB c.th) then .hold (c.s.modThread c.key c.tid fun th => roomWait th c.s.cycle (flagB th))
      else if tg && decide (4095 ≤ n) then .stay c.s
      else
        let cp : Copy := { tid := some c.tid, src := l, dst := m, srcVa := src, dstVa := dst, size := sz,
                           tag := if tg then some tag else none, glade := if gl then some ga else none, flag := flagB c.th,
                           epoch := c.th.epoch, port := locPort m, data := none }
        let s1 := noteAccess (noteAccess c.s c.team src l) c.team dst m
        let s2 := s1.modTeam c.key fun t =>
          { t with copies := AMap.set t.copies t.nextCopy cp, nextCopy := t.nextCopy + 1,
                   tags := if tg then AMap.set t.tags tag { AMap.get {} t.tags tag with count := n + 1 } else t.tags }
        .done ((recallLine s2 m).modThread c.key c.tid fun th => incFlag th (flagB th))

/-- CPW (R202). -/
def execCpw (a : Args) (s : State) : Out :=
  runThread 1 0x11 a s fun c =>
    let m := read64 c a.sa
    if tagsClear c.team m then .done c.s else startWait c (.tags m (opLen c.th a))

/-- The bits of a mask of tags for which `f` holds. -/
def tagBits (t : Team) (m : DWord) (f : Tag → Bool) : DWord :=
  BitVec.ofNat 64 ((tagSelected t m).foldl (fun acc j => if f (AMap.get {} t.tags j) then acc + 2 ^ j else acc) 0)

/-- CPT and CPF (R202). -/
def execCpt (a : Args) (s : State) : Out :=
  runReg 1 0x14 a s fun c => write64 c.th a.dst (tagBits c.team (read64 c a.sa) fun g => g.count != 0)
def execCpf (a : Args) (s : State) : Out :=
  runThread 1 0x13 a s fun c =>
    let m := read64 c a.sa
    let s1 := c.s.modTeam c.key fun t =>
      { t with tags := (tagSelected t m).foldl (fun ts j => AMap.set ts j { AMap.get {} ts j with fault := false }) t.tags }
    .done (s1.modThread c.key c.tid fun th => write64 th a.dst (tagBits c.team m Tag.fault))

/-- A deferred arrival is applied as a GARV of count 1; where a check fails the glade becomes FAULTED (R203). -/
def applyArrival (s : State) (key : Nat) (ga : DWord) : State :=
  match gladeHome s key ga with
  | none => s
  | some (k, off) =>
    match s.team? k with
    | none => s
    | some t =>
      let g := gRead s t off
      if gUsable t off g false && !locPoisoned s (winLoc t off) 8 then
        match arriveGlade s t.core k off g 1 g.spend with
        | some s1 => s1
        | none => markFaulted s t.core k off
      else markFaulted s t.core k off

/-- CPA (R203). -/
def execCpa (a : Args) (s : State) : Out :=
  runGlade 0x12 a s (fun c => read64 c a.sa) false false fun c _ _ _ _ =>
    let ga := read64 c a.sa
    let sel := tagSelected c.team (read64 c a.sb)
    let ids := (c.team.copies.filter fun p => match p.2.tag with
      | some j => sel.contains j
      | none => false).map Prod.fst
    if ids.isEmpty then .done (applyArrival c.s c.key ga)
    else .done (c.s.modTeam c.key fun t =>
      { t with arrivals := AMap.set t.arrivals t.nextArrival { glade := ga, copies := ids, mask := read64 c a.sb, tid := c.tid, no := t.nextCopy },
               nextArrival := t.nextArrival + 1, nextCopy := t.nextCopy + 1 })

/-- CFENCE (R200). -/
def execCfence (a : Args) (s : State) : Out := runReg 1 0x15 a s fun c => { c.th with epoch := c.th.epoch + 1 }

/-! ## Barriers (R215, R216) -/

/-- A thread's arrival on a barrier, its access and its effect (R216, R332): the state and the token; none is BARRIER_MISMATCH. -/
def threadArrives (c : Ctx) (a : Args) : Option (State × BitVec 4) :=
  let j := a.sa.toNum
  let s1 := touchBarrier c.s c.key j
  (arriveBarrier ((s1.team? c.key).getD c.team) c.tid j (read32 c a.sb).toNat (modBits a.mod 9 9 == 1)).map fun r => (s1.setTeam c.key r.1, r.2)

def phaseOf (s : State) (k j : Nat) : BitVec 4 := ((s.team? k).map fun t => (AMap.get {} t.barriers j).phase).getD 0

/-- BARA. -/
def execBara (a : Args) (s : State) : Out :=
  runThread 1 0x20 a s fun c =>
    match threadArrives c a with
    | none => .fault cBARRIER (BitVec.ofNat 64 a.sa.toNum)
    | some (s1, tok) => .done (s1.modThread c.key c.tid fun th => write32 th a.dst (tok.zeroExtend 32))

/-- BARW. -/
def execBarw (a : Args) (s : State) : Out :=
  runThread 1 0x21 a s fun c =>
    let j := a.sa.toNum
    let tok := tokenOf (read32 c a.sb)
    let c1 : Ctx := { c with s := touchBarrier c.s c.key j }
    if (AMap.get {} c.team.barriers j).phase ≠ tok then .done (c1.s.modTeam c.key fun t => seesPhase t c.tid j tok) else startWait c1 (.barrier j tok false (opLen c.th a))

/-- BARS: the arrival, then the wait; a kept arrival is not made again (R219). -/
def execBars (a : Args) (s : State) : Out :=
  runThread 1 0x22 a s fun c =>
    match keptHere c.th with
    | some kp =>
      match kp.result with
      | some _ =>
        let s1 := match kp.wait with
          | .barrier j tok _ _ => c.s.modTeam c.key fun t => seesPhase t c.tid j tok
          | _ => c.s
        .done (s1.modThread c.key c.tid dropKept)
      | none => .jump (resumeWait c kp)
    | none =>
      match threadArrives c a with
      | none => .fault cBARRIER (BitVec.ofNat 64 a.sa.toNum)
      | some (s1, tok) =>
        if phaseOf s1 c.key a.sa.toNum ≠ tok then .done (s1.modTeam c.key fun t => seesPhase t c.tid a.sa.toNum tok)
        else .jump (s1.modThread c.key c.tid fun th =>
          { th with wait := some (.barrier a.sa.toNum tok true (opLen c.th a)), waitFrom := c.s.cycle })

/-! ## RVX (R217, R218) -/

/-- Whether an RVX may arrive, and the directory entry and glade word it leaves before completion. -/
def rvxArrive (gl : Glade) (g : GWord) (op ty : Nat) (cfix : Word) (me : Share) : Option (Glade × GWord) :=
  let fixed := op = 0 ∨ op = 7
  if g.apend = 0 then none
  else if g.rvx then
    if gl.op ≠ op ∨ gl.ty ≠ ty ∨ (fixed ∧ gl.c ≠ cfix) then none
    else some ({ gl with shares := gl.shares ++ [me] }, { g with apend := g.apend - 1 })
  else if g.apend ≠ g.ainit ∨ g.spend ≠ 0 ∨ gl.resid ≠ 0 then none
  else some ({ gl with op := op, ty := ty, c := cfix, shares := [me] }, { g with rvx := true, apend := g.apend - 1 })

/-- RVX. A kept arrival is not made again (R219); its thread takes what its phase gave it, or the fault of a glade that has become FAULTED (R213). -/
def execRvx (a : Args) (s : State) : Out :=
  let fresh := runGlade 0x23 a s (fun c => read64 c a.sb) false true fun c k t off g =>
    let cc := read32 c a.sc
    let me : Share := { tid := c.tid, a := read32 c a.sa, c := cc }
    match rvxArrive (AMap.get {} t.glades off) g (modBits a.mod 9 6) (modBits a.mod 5 4) cc me with
    | none => .fault cGLADE (read64 c a.sb)
    | some (gl, g1) =>
      let w : Wait := .exchange (read64 c a.sb) off (BitVec.ofNat 4 g.phase) (fixDst c.th.arch a.dst) (opLen c.th a)
      let s1 := (c.s.modTeam k fun t => { t with glades := AMap.set t.glades off gl }).modThread c.key c.tid fun th =>
        { th with wait := some w, waitFrom := c.s.cycle, after := a.live }
      .jump (completeIfDone s1 c.team.core k off g1)
  match s.turn with
  | .thread k tid =>
    match (s.thread? k tid).bind keptHere with
    | none => fresh
    | some _ =>
      runThread 1 0x23 a s fun c =>
        match keptHere c.th with
        | some ⟨pc, .exchange ea off tok d len, none⟩ => .jump (resumeWait c ⟨pc, .exchange ea off tok d len, none⟩)
        | some ⟨_, .exchange _ _ _ d _, some (.value r)⟩ => .done (c.s.modThread c.key c.tid fun th => write32 (dropKept th) d r)
        | some ⟨_, .exchange ea _ _ _ _, some .faulted⟩ => .faultAt (c.s.modThread c.key c.tid dropKept) cGLADE ea
        | _ => .done c.s
  | .stream _ => fresh

end Sys2Proof.Machine
end

