-- ==== Sys2Proof/Machine/Uniform.lean ====
section
/-! DEFINITION. The uniform stream's own instructions (R226 to R235): K arithmetic, KLD and KST, control, KBAR, KWAIT, KEXIT, and the
issue of posted commands. -/

namespace Sys2Proof.Machine

/-! ## K arithmetic (R226, R227) -/

def execKadd (a : Args) (s : State) : Out := runK 0x00 a s fun t => kread s t a.sa + kread s t a.sb
def execKsub (a : Args) (s : State) : Out := runK 0x01 a s fun t => kread s t a.sa - kread s t a.sb
def execKmul (a : Args) (s : State) : Out := runK 0x02 a s fun t => kread s t a.sa * kread s t a.sb
def execKand (a : Args) (s : State) : Out := runK 0x03 a s fun t => kread s t a.sa &&& kread s t a.sb
def execKor (a : Args) (s : State) : Out := runK 0x04 a s fun t => kread s t a.sa ||| kread s t a.sb
def execKxor (a : Args) (s : State) : Out := runK 0x05 a s fun t => kread s t a.sa ^^^ kread s t a.sb

/-- KSHL: 0 from a count of 64 on. -/
def execKshl (a : Args) (s : State) : Out :=
  runK 0x06 a s fun t =>
    let n := (kread s t a.sb).toNat
    if 64 ≤ n then 0 else kread s t a.sa <<< n

/-- KSHR and KSHR.sa. -/
def execKshr (a : Args) (s : State) : Out :=
  runK 0x07 a s fun t =>
    let n := (kread s t a.sb).toNat
    let x := kread s t a.sa
    if modBits a.mod 9 9 = 1 then x.sshiftRight (min n 64) else if 64 ≤ n then 0 else x >>> n

def execKmov (a : Args) (s : State) : Out := runK 0x08 a s fun t => kread s t a.sa

/-- KLI and KLI.hi. -/
def execKli (a : Args) (s : State) : Out :=
  runK 0x09 a s fun t =>
    let x := kread s t a.sa
    if modBits a.mod 9 9 = 1 then (x.truncate 32 : Word) ++ ((kread s t a.dst).truncate 32 : Word) else x

/-- KCMP (R227). -/
def execKcmp (a : Args) (s : State) : Out :=
  runStream 0x0C a s false fun k t =>
    let x := (kread s t a.sa).toNat
    let y := (kread s t a.sb).toNat
    let sg := modBits a.mod 4 4 == 0
    let r := intCond (modBits a.mod 3 0) (toVal sg 64 x) (toVal sg 64 y) x y
    let m : BitVec 8 := 1#8 <<< a.dst.toNum
    .done (s.setTeam k { t with q := if r then t.q ||| m else t.q &&& ~~~m })

/-! ## Loads and stores (R230) -/

/-- The flag sets of a stream (R224). -/
def kflagFull (t : Team) : Option (BitVec 4) → Bool
  | some j => decide (63 ≤ AMap.get 0 t.kf j.toNat)
  | none => false

/-- An access of the stream: checks, the lines that its KCPs and drains own (R236, R259), then it is outstanding. -/
def kAccess (opc : Nat) (a : Args) (s : State) (mk : Team → AccOp) (size : Nat) (w : Want) : Out :=
  runStream opc a s false fun k t =>
    let ea := kread s t a.sa + a.aux.getD 0
    match resolve s t false ea size w with
    | .error (code, d) => .fault code d
    | .ok l =>
      let flag := if w.write then t.stream.clause.bflag else t.stream.clause.aflag
      if kflagFull t flag then .stay s
      else if t.running.any fun r => (bulkLines s t r).contains (lineKey l) then .jump (afterWrite (bulkDone s k) t.core l)
      else if t.granted.any fun g => (engineLines s t g.2).contains (lineKey l) then .jump (afterWrite (unitDone s k .drain) t.core l)
      else
        let ac : Access := { op := mk t, loc := l, size := size, va := ea, flag := flag, port := locPort l, pc := t.stream.pc }
        .done ((noteAccess s t ea l).modTeam k fun t =>
          kfInc { t with stream := { t.stream with out := t.stream.out ++ [ac] } } flag)

/-- KLD (R230). -/
def execKld (a : Args) (s : State) : Out :=
  let wid := modBits a.mod 9 7
  let kd : BitVec 6 := match a.dst with
    | .k j => j
    | _ => 0
  kAccess 0x0A a s (fun _ => .kload kd wid) (if wid = 0 then 8 else 4) ⟨true, false⟩

/-- KST (R230). -/
def execKst (a : Args) (s : State) : Out :=
  let n := if modBits a.mod 9 7 = 0 then 8 else 4
  kAccess 0x0B a s (fun t => .store (leBytes n (kread s t a.sb).toNat)) n ⟨false, true⟩

/-! ## Control (R231 to R234) -/

/-- The stream's target (R119). -/
def kTarget (t : Team) (a : Args) : DWord := t.stream.pc + a.aux.getD 0

def execKbr (a : Args) (s : State) : Out :=
  runStream 0x10 a s false fun k t => .jump (s.setTeam k { t with stream := streamGo t.stream (kTarget t a) })

def execKcall (a : Args) (s : State) : Out :=
  runStream 0x11 a s false fun k t =>
    let t1 := kwrite t a.dst (t.stream.pc + BitVec.ofNat 64 (8 * a.words))
    .jump (s.setTeam k { t1 with stream := streamGo t.stream (kTarget t a) })

def execKret (a : Args) (s : State) : Out :=
  runStream 0x12 a s false fun k t =>
    let x := kread s t a.sa
    if x.toNat % 8 ≠ 0 then .fault cALIGN x else .jump (s.setTeam k { t with stream := streamGo t.stream x })

/-- A KBAR arrives (R233). The threads that have not yet arrived on the barrier read the K registers as they are now until they have, or until
their wait on a later KBAR's phase has returned (R36). -/
def arriveKbar (t : Team) (j : Nat) : Team :=
  let b := AMap.get {} t.barriers j
  let n := t.kbars + 1
  let m : KMark := { no := n, k := t.k }
  tryRelease { t with kbars := n, kold := t.kold ++ [{ b := j, mark := m }] } j
    { b with uarr := true, marks := AMap.set b.marks b.phase.toNat m }

/-- KBAR and KBAR.w (R233). -/
def execKbar (a : Args) (s : State) : Out :=
  runStream 0x13 a s false fun k t =>
    let j := a.sa.toNum
    let b := AMap.get {} t.barriers j
    if (b.opened && !b.u) || b.uarr then .fault cBARRIER (BitVec.ofNat 64 j)
    else
      let t1 := arriveKbar t j
      if modBits a.mod 9 9 = 1 ∧ (AMap.get {} t1.barriers j).phase = b.phase then
        .jump (touchBarrier (s.setTeam k { t1 with stream := { t1.stream with wait := some (.barrier j b.phase (8 * a.words)) } }) k j)
      else .done (touchBarrier (s.setTeam k t1) k j)

/-- KWAIT (R232). -/
def execKwait (a : Args) (s : State) : Out :=
  runStream 0x14 a s false fun k t =>
    let j := a.sa.toNum
    let n := (kread s t a.sb).toNat
    if AMap.get 0 t.kf j ≤ n then .done s
    else .jump (s.setTeam k { t with stream := { t.stream with wait := some (.flag (BitVec.ofNat 4 j) n (8 * a.words)) } })

/-- KEXIT (R234). The datum of its BARRIER_MISMATCH is the lowest-numbered of the barriers that fail its check (log 59). -/
def execKexit (a : Args) (s : State) : Out :=
  runStream 0x16 a s false fun k t =>
    if (t.kf.all fun p => p.2 == 0) && t.bulk.isEmpty && t.running.isNone && t.matrix.isEmpty then
      match t.barriers.find? fun p => p.2.opened && p.2.u && !p.2.uarr with
      | some p => .fault cBARRIER (BitVec.ofNat 64 p.1)
      | none => .jump (s.setTeam k { t with stream := { t.stream with retired := true } })
    else .stay s

/-! ## Posted commands (R229) -/

/-- A command enters its queue: operands read, its guard resolved, its flag counted; it waits at issue while the queue is full or the
count is at 63 (R26). DESIGN CHOICE (log 48): a KCP that has left the head and runs still holds one of the 16 entries of its queue. -/
def post (opc : Nat) (op : Instr) (a : Args) (s : State) (q : QueueKind) (flagOf : Clause → Option (BitVec 4)) : Out :=
  runStream opc a s true fun k t =>
    let flag := flagOf t.stream.clause
    let full := match q with
      | .bulk => decide (16 ≤ t.bulk.length + (if t.running.isSome then 1 else 0))
      | .matrix => decide (16 ≤ t.matrix.length)
    if full || kflagFull t flag then .stay s
    else
      let c : PCmd := { op := op, no := t.nextCopy, addr := t.stream.pc, d := kread s t a.sc, a := kread s t (match q with | .bulk => a.dst | .matrix => a.sa),
                        b := kread s t (match q with | .bulk => a.sa | .matrix => a.sb), c := kread s t (match q with | .bulk => a.sb | .matrix => .none),
                        guard := qTrue t a.guard, flag := flag }
      let t1 := match q with
        | .bulk => { t with bulk := t.bulk ++ [c], nextCopy := t.nextCopy + 1 }
        | .matrix => { t with matrix := t.matrix ++ [c], nextCopy := t.nextCopy + 1 }
      .done (s.setTeam k (kfInc t1 flag))

/-- KCP (R235). -/
def execKcp (a : Args) (s : State) : Out := post 0x15 (.kcp a) a s .bulk Clause.bflag

end Sys2Proof.Machine
end

