-- ==== Sys2Proof/Machine/Matrix.lean ====
section
/-! DEFINITION. Matrix instructions (R245 to R260) and the events of the two queues of posted commands: the head of a queue (R229, R237,
R246 to R248), MACQ grants (R256), scale lines (R255), the reservation table (R261), and completions (R263). -/

namespace Sys2Proof.Machine

/-! ## Issue (R245, R246) -/

def noFlag (_ : Clause) : Option (BitVec 4) := none

def execMacq (a : Args) (s : State) : Out := post 0x20 (.macq a) a s .matrix noFlag
def execMrel (a : Args) (s : State) : Out := post 0x21 (.mrel a) a s .matrix noFlag
def execMzero (a : Args) (s : State) : Out := post 0x22 (.mzero a) a s .matrix noFlag
def execMldb (a : Args) (s : State) : Out := post 0x23 (.mldb a) a s .matrix Clause.bflag
def execMfreeb (a : Args) (s : State) : Out := post 0x24 (.mfreeb a) a s .matrix noFlag
def execMma (a : Args) (s : State) : Out := post 0x25 (.mma a) a s .matrix Clause.bflag
def execMscl (a : Args) (s : State) : Out := post 0x26 (.mscl a) a s .matrix noFlag
def execMdrain (a : Args) (s : State) : Out := post 0x27 (.mdrain a) a s .matrix Clause.bflag
def execMswap (a : Args) (s : State) : Out := post 0x28 (.mswap a) a s .matrix Clause.bflag
def execMstat (a : Args) (s : State) : Out := post 0x29 (.mstat a) a s .matrix Clause.aflag

/-! ## The bytes a command touches -/

/-- Steps 1 to 3 of R178 on a place of `n` bytes: the space and its range. -/
def spaceFault (s : State) (t : Team) (ea : DWord) (n : Nat) : Option FaultInfo :=
  if ea.toNat < 2 ^ 52 then none
  else match resolveAs s t false ea n 1 ⟨true, false⟩ ea with
    | .error e => some e
    | .ok _ => none

/-- What the checks of a command come to: the first fault, after the walks of the places that have passed (R420), or the state and the translations
held (R237, R423). -/
abbrev Checked := Except (State × FaultInfo) (State × List Trans)

/-- The checks of places of `n` bytes each, in order. -/
def checkPlaces (n : Nat) (w : Want) : State → Team → List Trans → List DWord → Checked
  | s, _, held, [] => .ok (s, held)
  | s, t, held, ea :: rest =>
    match resolveAs s t false ea n 1 w ea with
    | .error e => .error (s, e)
    | .ok l =>
      let s1 := noteAccess s t ea l
      let held1 := if decide (ea.toNat < 2 ^ 52) && !(held.any fun x => x.covers t.vd ea.toNat) then
          (match translate s1 t.vd t.core ea.toNat with
           | .ok x => x :: held
           | .error _ => held)
        else held
      checkPlaces n w s1 t held1 rest

/-- The places of `rows` rows of `units` units of `n` bytes, at a pitch in bytes. -/
def boxPlaces (ea : DWord) (rows pitch units n : Nat) : List DWord :=
  ((List.range rows).map fun r => (List.range units).map fun u => ea + BitVec.ofNat 64 (r * pitch + n * u)).flatten

/-- The scale bytes that an MMA reads (R254). -/
def scalePlaces (t : Team) (c : PCmd) (fa fb : Nat) : List DWord :=
  let d := mmaDesc c.b
  let sc := scalesOf t c
  let row (base sh : DWord) (lg k0 : Nat) : List DWord :=
    ((List.range 128).map fun m => ((List.range d.passes).map fun c => scaleAddr base sh lg m (k0 + 32 * c)).eraseDups).flatten
  (if (fslOf t fa).scale = 1 then row sc.sba sc.spa (fslOf t fa).lg 0 else []) ++
  (if (fslOf t fb).scale = 1 then row sc.sbb sc.spb (fslOf t fb).lg (32 * d.first) else [])

/-- The tiles and the canopy slots that a command acts on (R247). -/
def cmdTiles (c : PCmd) : List Nat :=
  match c.op with
  | .macq a | .mrel a => (List.range (modBits a.mod 5 2 + 1)).map fun i => modBits a.mod 9 6 + i
  | .mzero a | .mma a | .mdrain a | .mswap a | .mstat a => [accOf a]
  | _ => []

/-- Whether slots hold 16 bits an element. -/
def wide (elem : Nat) : Bool := elem == 1 || elem == 2

/-- The other slot of a 16-bit tile that a slot is a half of (R249). -/
def otherHalf (t : Team) (j : Nat) : List Nat :=
  match AMap.find t.canopy j with
  | some .second => [j - 1]
  | some (.tile e _ _) => if wide e then [j + 1] else []
  | none => []

/-- An MLDB acts on its slots and on those that it leaves empty, an MFREEB on the tile that its slot holds. -/
def cmdSlots (t : Team) (c : PCmd) : List Nat :=
  let pair (j : Nat) (w : Bool) : List Nat := if w then [j, j + 1] else [j]
  match c.op with
  | .mldb a =>
    let js := pair (c.b.toNat % 512) (wide (fslOf t (modBits a.mod 9 7)).elem)
    js ++ (js.map (otherHalf t)).flatten
  | .mfreeb _ => match AMap.find t.canopy c.a.toNat with
    | some (.tile e _ _) => pair c.a.toNat (wide e)
    | _ => [c.a.toNat]
  | .mma a => pair (c.b.toNat % 512) (wide (fslOf t (modBits a.mod 2 0)).elem)
  | _ => []

/-- The sectors in which a command reads, from memory or from the window: as commands write whole sectors, their bytes meet where their sectors do
(R247). -/
def cmdReads (s : State) (t : Team) (c : PCmd) : List Nat :=
  let sectors (eas : List DWord) : List Nat := eas.filterMap fun ea => (heldLoc s t c.held ea ⟨true, false⟩).map sectorKey
  match c.op with
  | .mldb a =>
    let n := rowBytes (fslOf t (modBits a.mod 9 7)).elem / 32
    sectors (boxPlaces c.a 128 (c.b.toNat / 2 ^ 16 % 2 ^ 24) n 32)
  | .mma a =>
    let d := mmaDesc c.b
    let n := d.passes * chunkBytes (fslOf t (modBits a.mod 5 3)).elem / 8
    ((boxPlaces (BitVec.ofNat 64 (c.a.toNat % 2 ^ 32)) 128 d.pitch n 8).map fun o => sectorKey (winLoc t o.toNat)) ++
      sectors (scalePlaces t c (modBits a.mod 5 3) (modBits a.mod 2 0))
  | .mswap a =>
    if modBits a.mod 5 4 = 0 then [] else sectors (boxPlaces (if modBits a.mod 5 4 = 1 then c.a else c.b) 1 0 2050 32)
  | _ => []

/-- The commands of the matrix queue that have left its head and have not completed. -/
def underway (t : Team) : List PCmd := (t.entry.map Entry.cmd).toList ++ t.granted.map Prod.snd ++ t.loads

/-- The wait of R247 of a command at the head. -/
def headWaits (s : State) (t : Team) (c : PCmd) : Bool :=
  (underway t).any fun e =>
    (cmdTiles e).any (cmdTiles c).contains || (cmdSlots t e).any (cmdSlots t c).contains ||
    (let w := engineSectors s t e
     !w.isEmpty && (cmdReads s t c).any w.contains)

/-- The unit that a command goes to through the reservation table (R247, R262). -/
def unitOf (c : PCmd) : Option UnitKind :=
  match c.op with
  | .mma _ | .mzero _ => some .array
  | .mdrain _ | .mswap _ => some .drain
  | _ => none

/-! ## Checks at the head -/

/-- Whether a tile is held (R241). -/
def tileHeld (t : Team) (j : Nat) : Bool := (AMap.find t.tiles j).isSome

/-- The memory checks of a command in R178's order: ranges, alignment of the address and of a pitch, pages. -/
def memChecks (s : State) (t : Team) (eas : List DWord) (n : Nat) (aligned : Option DWord) (w : Want) : Checked :=
  match eas.findSome? fun ea => spaceFault s t ea n with
  | some e => .error (s, e)
  | none =>
    match aligned with
    | some d => .error (s, cALIGN, d)
    | none => checkPlaces n w s t [] eas

/-- The first of some operands that is not a multiple of `n` (R490). -/
def misaligned (n : Nat) (xs : List DWord) : Option DWord := xs.find? fun x => x.toNat % n != 0

/-- MLDB (R249). -/
def checkMldb (s : State) (t : Team) (c : PCmd) (fs : Nat) : Checked :=
  let b := c.b.toNat
  let j := b % 512
  let sl := fslOf t fs
  let pitch := b / 2 ^ 16 % 2 ^ 24
  if b / 2 ^ 40 ≠ 0 ∨ b / 2 ^ 9 % 2 ^ 7 ≠ 0 then .error (s, cMATRIX, c.b)
  else if t.lrec.canopy ≤ j ∨ (wide sl.elem ∧ t.lrec.canopy ≤ j + 1) then .error (s, cCANOPY, BitVec.ofNat 64 j)
  else if !sl.ok ∨ sl.elem = 0 then .error (s, cFORMAT, BitVec.ofNat 64 fs)
  else memChecks s t (boxPlaces c.a 128 pitch (rowBytes sl.elem / 32) 32) 32 (misaligned 32 [c.a, BitVec.ofNat 64 pitch]) ⟨true, false⟩

/-- The tile that a slot of the canopy holds. -/
def canopyTile (t : Team) (j : Nat) : Option (Nat × Bool) :=
  match AMap.find t.canopy j with
  | some (.tile e p _) => some (e, p)
  | _ => none

/-- MMA (R251, R254, R265). -/
def checkMma (s : State) (t : Team) (c : PCmd) (acc fa fb : Nat) : Checked :=
  let b := c.b.toNat
  let d := mmaDesc c.b
  let a := c.a.toNat % 2 ^ 32
  let off : DWord := BitVec.ofNat 64 a
  let sa := fslOf t fa
  let sb := fslOf t fb
  let idx (j : Nat) : DWord := BitVec.ofNat 64 j
  if !tileHeld t acc then .error (s, cMATRIX, idx acc)
  else if b / 2 ^ 48 ≠ 0 ∨ b / 2 ^ 13 % 2 ^ 19 ≠ 0 ∨ 4 < d.first + d.passes then .error (s, cMATRIX, c.b)
  else if sa.scale = 1 ∧ 24 < (scalesOf t c).spa.toNat then .error (s, cMATRIX, (scalesOf t c).spa)
  else if sb.scale = 1 ∧ 24 < (scalesOf t c).spb.toNat then .error (s, cMATRIX, (scalesOf t c).spb)
  else match if t.lrec.canopy ≤ d.slot then none else canopyTile t d.slot with
    | none => .error (s, cCANOPY, idx d.slot)
    | some (e, poison) =>
      if e ≠ sb.elem then .error (s, cCANOPY, idx d.slot)
      else if !sa.ok ∨ sa.elem = 0 then .error (s, cFORMAT, idx fa)
      else if !sb.ok ∨ sb.elem = 0 ∨ wide sa.elem ≠ wide sb.elem then .error (s, cFORMAT, idx fb)
      else if t.lrec.scratch < a + 127 * d.pitch + d.passes * chunkBytes sa.elem then .error (s, cSCRATCH, off)
      else match misaligned 8 [off, idx d.pitch] with
        | some x => .error (s, cALIGN, x)
        | none =>
          match memChecks s t (scalePlaces t c fa fb) 1 none ⟨true, false⟩ with
          | .error x => .error x
          | .ok r =>
            if poison then .error (r.1, cPOISON, idx d.slot)
            else if (tileOf t acc).poison then .error (r.1, cPOISON, idx acc)
            else .ok r

/-- A tile that is named by a drain or a swap: held, and not poisoned where the command reads it (R258, R265). -/
def tileFault (t : Team) (acc : Nat) (reads : Bool) : Option FaultInfo :=
  if reads && (tileOf t acc).poison then some (cPOISON, BitVec.ofNat 64 acc) else none

/-- MDRAIN (R259). -/
def checkMdrain (s : State) (t : Team) (c : PCmd) (acc fs : Nat) : Checked :=
  let sl := fslOf t fs
  let pitch := c.b.toNat % 2 ^ 32
  if !tileHeld t acc then .error (s, cMATRIX, BitVec.ofNat 64 acc)
  else if !sl.ok then .error (s, cFORMAT, BitVec.ofNat 64 fs)
  else match memChecks s t (boxPlaces c.a 128 pitch (rowBytes sl.elem / 16) 16) 16 (misaligned 32 [c.a, BitVec.ofNat 64 pitch]) ⟨false, true⟩ with
    | .error e => .error e
    | .ok r => match tileFault t acc true with
      | some e => .error (r.1, e)
      | none => .ok r

/-- MSWAP (R260): the ranges of both images, their alignment, then their pages, the image written first (R246, log 49). -/
def checkMswap (s : State) (t : Team) (c : PCmd) (acc op : Nat) : Checked :=
  let image (ea : DWord) : List DWord := boxPlaces ea 1 0 4100 16
  let st := if op = 1 then [] else image c.a
  let ld := if op = 0 then [] else image (if op = 1 then c.a else c.b)
  if !tileHeld t acc then .error (s, cMATRIX, BitVec.ofNat 64 acc)
  else match (st ++ ld).findSome? fun ea => spaceFault s t ea 16 with
    | some e => .error (s, e)
    | none =>
      match memChecks s t st 16 (misaligned 64 (if op = 2 then [c.a, c.b] else [c.a])) ⟨false, true⟩ with
      | .error e => .error e
      | .ok (s1, h1) =>
        match memChecks s1 t ld 16 none ⟨true, false⟩ with
        | .error e => .error e
        | .ok (s2, h2) => match tileFault t acc (op != 1) with
          | some e => .error (s2, e)
          | none => .ok (s2, h1 ++ h2)

/-- MFREEB (R250). -/
def checkMfreeb (t : Team) (c : PCmd) : Option FaultInfo :=
  if t.lrec.canopy ≤ c.a.toNat ∨ AMap.find t.canopy c.a.toNat = some .second then some (cCANOPY, c.a) else none

/-- The checks of a matrix command (R246). -/
def headCheck (s : State) (t : Team) (c : PCmd) : Checked :=
  let held (a : Args) : Checked := if tileHeld t (accOf a) then .ok (s, []) else .error (s, cMATRIX, BitVec.ofNat 64 (accOf a))
  match c.op with
  | .macq a => if !t.tiles.isEmpty then .error (s, cMATRIX, BitVec.ofNat 64 (accOf a)) else .ok (s, [])
  | .mrel _ => match (cmdTiles c).find? fun j => !tileHeld t j with
    | some j => .error (s, cMATRIX, BitVec.ofNat 64 j)
    | none => .ok (s, [])
  | .mzero a | .mstat a => held a
  | .mldb a => checkMldb s t c (modBits a.mod 9 7)
  | .mfreeb _ => match checkMfreeb t c with
    | some e => .error (s, e)
    | none => .ok (s, [])
  | .mma a => checkMma s t c (accOf a) (modBits a.mod 5 3) (modBits a.mod 2 0)
  | .mdrain a => checkMdrain s t c (accOf a) (modBits a.mod 5 3)
  | .mswap a => checkMswap s t c (accOf a) (modBits a.mod 5 4)
  | _ => .ok (s, [])

/-! ## The reservation table (R256, R261) -/

/-- The order of R256: cycle, then core, placement, sr.grid, sr.teamid. -/
def sooner (a b : Nat × Nat × Team) : Bool :=
  let key (x : Nat × Nat × Team) : List Nat := [x.1, x.2.2.core, x.2.2.order, x.2.2.grid, x.2.2.teamid]
  (key a).lex (key b) (· < ·)

/-- The soonest of some teams, each with its cycle. -/
def soonest (xs : List (Nat × Nat × Team)) : Option (Nat × Team) :=
  (xs.foldl (fun best x => match best with
    | none => some x
    | some b => if sooner x b then some x else some b) none).map Prod.snd

/-- The matrix priority of an entry at a cycle (R261). -/
def matrixPrio (cycle : Nat) (t : Team) (e : Entry) : Nat := if e.aged ∨ e.since + 4096 ≤ cycle then 8 else t.lrec.gprio

/-- The entry that a free unit is granted (R261). -/
def nextEntry (s : State) (cluster : Nat) (u : UnitKind) : Option (Nat × Team × Entry) :=
  let ts := teamsIn s cluster
  if ts.any fun p => p.2.granted.any fun g => g.1 == u then none
  else
    let es := ts.filterMap fun p => (p.2.entry.filter fun e => unitOf e.cmd == some u).map fun e => (p.1, p.2, e)
    let top := (es.map fun x => matrixPrio s.cycle x.2.1 x.2.2).foldl max 0
    match soonest ((es.filter fun x => matrixPrio s.cycle x.2.1 x.2.2 == top).map fun x => (x.2.2.since, x.1, x.2.1)) with
    | some (k, t) => t.entry.map fun e => (k, t, e)
    | none => none

/-- A free unit of a cluster is granted its next entry (R261); a command that writes memory takes its destination lines from the cores that hold them
(R338). -/
def grantNext (s : State) (cluster : Nat) (u : UnitKind) : State :=
  match nextEntry s cluster u with
  | some (k, t, e) => (recallKeys s (engineLines s t e.cmd)).setTeam k { t with entry := none, granted := t.granted ++ [(u, e.cmd)] }
  | none => s

/-- A command enters its team's entry of the table, behind those for which its unit is free already; one that finds the unit idle is granted at
once (R261). -/
def enterTable (s : State) (k : Nat) (c : PCmd) : State :=
  match s.team? k, unitOf c with
  | some t, some u =>
    grantNext ((grantNext s (clusterOf t.core) u).modTeam k fun t => { t with entry := some { cmd := c, since := s.cycle } }) (clusterOf t.core) u
  | _, _ => s

/-! ## The head of the matrix queue -/

/-- A failed command (R237, R246): its count falls, what stands behind it is discarded, the stream takes the fault. -/
def failMatrix (s : State) (k : Nat) (c : PCmd) (rest : List PCmd) (code : BitVec 8) (datum : DWord) : State :=
  (noteTeamFault s k code datum).modTeam k fun t =>
    let t1 := discardAll (kfDec t c.flag) rest
    recheckTeam (ufault { t1 with matrix := [] } code datum (nextPc t1) c.addr)

/-- A command that has passed its checks leaves the head, or waits there (R247, R248, R255, R256). -/
def dispatch (s : State) (k : Nat) (t : Team) (c : PCmd) (rest : List PCmd) : State :=
  let out : Team := { t with matrix := rest }
  let c1 := { c with since := s.cycle }
  let stay : State := s.setTeam k { t with matrix := { c1 with checked := true } :: rest }
  let enter (c : PCmd) : State := enterTable (s.setTeam k out) k c
  match c.op with
  | .macq _ | .mstat _ => stay
  | .mrel _ => s.setTeam k { out with tiles := (cmdTiles c).foldl AMap.del t.tiles }
  | .mscl a =>
    let sc := t.scales
    s.setTeam k { out with scales := if modBits a.mod 9 9 = 1 then { sc with sbb := c.a, spb := c.b } else { sc with sba := c.a, spa := c.b } }
  | .mldb _ | .mfreeb _ => s.setTeam k { out with loads := t.loads ++ [c1] }
  | .mma a =>
    let m := { c with scales := some (scalesOf t c) }
    if (fslOf t (modBits a.mod 5 3)).scale = 1 ∨ (fslOf t (modBits a.mod 2 0)).scale = 1 then
      s.setTeam k { t with matrix := { m with since := s.cycle, checked := true } :: rest }
    else enter m
  | _ => enter c

/-- Whether the head of the matrix queue can be handled: its guard is known at issue (R229), R247 holds it back no more, its table entry
is free (R261). -/
def matrixHeadReady (s : State) (t : Team) : Bool :=
  match t.matrix with
  | [] => false
  | c :: _ => t.resident && (!c.guard || (!c.checked && !headWaits s t c && ((unitOf c).isNone || t.entry.isNone)))

def matrixHead (s : State) (k : Nat) : State :=
  match s.team? k with
  | none => s
  | some t =>
    match t.matrix with
    | [] => s
    | c :: rest =>
      if !matrixHeadReady s t then s
      else if !c.guard then s.modTeam k fun t => recheckTeam (kfDec { t with matrix := rest } c.flag)
      else match headCheck s t c with
        | .error (s1, code, d) => failMatrix s1 k c rest code d
        | .ok (s1, held) => dispatch s1 k ((s1.team? k).getD t) { c with held := held } rest

/-! ## The head of the bulk-copy queue (R237) -/

/-- The checks of R206 that a KCP's arrival and reports meet: the place of its glade, or the fault. -/
def bulkGladeSound (s : State) (k : Nat) (t : Team) (ea : DWord) : Except FaultInfo (Nat × Nat × GWord) :=
  match gladeAddr s k t ea true with
  | .error e => .error e
  | .ok (h, p, off, peer) =>
    let g := gRead s p off
    if peer && !g.remote then .error (cGLADE, ea)
    else if locPoisoned s (winLoc p off) 8 then .error (cPOISON, ea)
    else if !gUsable p off g false then .error (cGLADE, ea)
    else .ok (h, off, g)

/-- A failed KCP (R237): FAULTED where its glade passes R206, its count, the commands behind it, the stream's fault. -/
def failBulk (s : State) (k : Nat) (t : Team) (c : PCmd) (rest : List PCmd) (code : BitVec 8) (datum : DWord) : State :=
  let s1 := match (bulkGlade c).map fun ea => bulkGladeSound s k t ea with
    | some (.ok (h, off, _)) => markFaulted s t.core h off
    | _ => s
  (noteTeamFault s1 k code datum).modTeam k fun t =>
    let t1 := discardAll (kfDec t c.flag) rest
    recheckTeam (ufault { t1 with bulk := [] } code datum (nextPc t1) c.addr)

/-- The alignment of both addresses, then the ranges and pages of both boxes (R237): the source as a read, the destination as a write. DESIGN CHOICE
(log 49): the source box is checked wholly before the destination's. -/
def bulkPages (s : State) (t : Team) (c : PCmd) : Checked :=
  let x := c.c.toNat
  match misaligned 16 [c.a, c.b] with
  | some d => .error (s, cALIGN, d)
  | none =>
  match memChecks s t (boxPlaces c.b (bulkRows c) (16 * (x / 2 ^ 40 % 2 ^ 24)) (bulkUnits c) 16) 16 none ⟨true, false⟩ with
  | .error e => .error e
  | .ok (s1, h1) =>
    match memChecks s1 t (boxPlaces c.a (bulkRows c) (16 * (x / 2 ^ 20 % 2 ^ 20)) (bulkUnits c) 16) 16 none ⟨false, true⟩ with
    | .error e => .error e
    | .ok (s2, h2) => .ok (s2, h1 ++ h2)

/-- A KCP of a stream starts when the one before it has ended: they run one at a time. -/
def bulkHeadReady (t : Team) : Bool :=
  match t.bulk with
  | [] => false
  | c :: _ => t.resident && (!c.guard || t.running.isNone)

/-- The head of the bulk-copy queue; a KCP that starts takes its destination lines from the cores that hold them (R338). -/
def bulkHead (s : State) (k : Nat) : State :=
  match s.team? k with
  | none => s
  | some t =>
    match t.bulk with
    | [] => s
    | c :: rest =>
      if !bulkHeadReady t then s
      else if !c.guard then s.modTeam k fun t => recheckTeam (kfDec { t with bulk := rest } c.flag)
      else match bulkPages s t c with
        | .error (s1, code, d) => failBulk s1 k t c rest code d
        | .ok (s1, held) =>
          let run : Bulk := { cmd := { c with held := held }, row := 0, unit := 0 }
          let start (s : State) : State := (recallKeys s (bulkLines s t run)).modTeam k fun t => { t with bulk := rest, running := some run }
          match bulkGlade c with
          | none => start s1
          | some ea =>
            match bulkGladeSound s1 k t ea with
            | .error (code, d) => failBulk s1 k t c rest code d
            | .ok (h, off, g) =>
              let n := bulkRows c * bulkUnits c
              if n % 2 ≠ 0 then failBulk s1 k t c rest cGLADE ea
              else match arriveGlade s1 t.core h off g 1 (g.spend + (n / 2 : Nat)) with
                | some s2 => start s2
                | none => failBulk s1 k t c rest cGLADE ea

/-! ## Events of the queues and units -/

/-- POSTED_COMMAND_HEAD (R229). -/
def execPostedCommandHead (team : Nat) (q : QueueKind) (s : State) : Out :=
  match q with
  | .bulk => event (bulkHead s team)
  | .matrix => event (matrixHead s team)

/-- The MACQ of a cluster that is next to be granted (R256): its team and its tiles. -/
def nextMacq (s : State) (cluster : Nat) : Option (Nat × Team × List Nat) :=
  let waiting := (teamsIn s cluster).filterMap fun p =>
    match p.2.matrix with
    | c :: _ => match c.op with
      | .macq _ => if c.checked then some (c.since, p.1, p.2) else none
      | _ => none
    | [] => none
  match soonest waiting with
  | some (k, t) =>
    let free := 16 - ((teamsIn s cluster).map fun p => p.2.tiles.length).sum
    let want := (t.matrix.head?.map cmdTiles).getD []
    if want.length ≤ free then some (k, t, want) else none
  | none => none

/-- MACQ_GRANT (R242, R256). -/
def execMacqGrant (cluster : Nat) (s : State) : Out :=
  match nextMacq s cluster with
  | some (k, t, want) =>
    event (s.setTeam k { t with matrix := t.matrix.drop 1, tiles := want.foldl (fun m j => AMap.set m j {}) t.tiles })
  | none => event s

/-- The MMA at a team's head that waits for its scale lines. -/
def waitingMma (t : Team) : Option (PCmd × List PCmd × Args) :=
  match t.matrix with
  | c :: rest => match c.op with
    | .mma a => if c.checked && t.resident then some (c, rest, a) else none
    | _ => none
  | [] => none

/-- SCALE_LINES_PRESENT (R255, R265). -/
def execScaleLinesPresent (team : Nat) (s : State) : Out :=
  match s.team? team with
  | none => event s
  | some t =>
    match waitingMma t with
    | none => event s
    | some (c, rest, a) =>
      let (s1, hot) := (scalePlaces t c (modBits a.mod 5 3) (modBits a.mod 2 0)).foldl (fun (s, hot) ea =>
        let (s1, _, p) := engineRead s t (scaleCache t) c.held ea 1 1
        (s1, Option.or hot p)) (s, none)
      match hot with
      | some ea => event (failMatrix s1 team c rest cPOISON ea)
      | none => event (enterTable (s1.modTeam team fun t => { t with matrix := rest }) team c)

/-- RESERVATION_GRANT (R261). -/
def execReservationGrant (cluster : Nat) (u : UnitKind) (s : State) : Out := event (grantNext s cluster u)

/-- RESERVATION_AGING (R261). -/
def execReservationAging (team : Nat) (s : State) : Out :=
  event (s.modTeam team fun t =>
    match t.entry with
    | some e => if e.since + 4096 ≤ s.cycle then { t with entry := some { e with aged := true } } else t
    | none => t)

/-- The team of a cluster whose command a unit runs. -/
def unitTeam (s : State) (cluster : Nat) (u : UnitKind) : Option Nat :=
  ((teamsIn s cluster).find? fun p => p.2.granted.any fun g => g.1 == u).map Prod.fst

/-- MMA_COMPLETE (R263) and DRAIN_UNIT_COMPLETE (R259, R260). -/
def execMmaComplete (cluster : Nat) (s : State) : Out :=
  match unitTeam s cluster .array with
  | some k => event (unitDone s k .array)
  | none => event s
def execDrainUnitComplete (cluster : Nat) (s : State) : Out :=
  match unitTeam s cluster .drain with
  | some k => event (unitDone s k .drain)
  | none => event s

/-- The command that the canopy loader of a cluster runs next: in the order of dispatch (R262). -/
def nextLoad (s : State) (cluster : Nat) : Option (Nat × Team × PCmd) :=
  match soonest ((teamsIn s cluster).filterMap fun p => p.2.loads.head?.map fun c => (c.since, p.1, p.2)) with
  | some (k, t) => t.loads.head?.map fun c => (k, t, c)
  | none => none

/-- A canopy tile becomes empty, with both halves of a 16-bit one (R250). -/
def canopyFree (cn : AMap Canopy) (j : Nat) : AMap Canopy :=
  match AMap.find cn j with
  | some (.tile e _ _) => if wide e then AMap.del (AMap.del cn j) (j + 1) else AMap.del cn j
  | _ => cn

/-- Rows of an MLDB read, `n` more at most (R249, R262). -/
def mldbRead (s : State) (t : Team) (c : PCmd) (fs : Nat) : Nat → State × PCmd
  | 0 => (s, c)
  | n + 1 => if 128 ≤ c.prog then (s, c) else let (s1, c1) := mldbRow s t c fs; mldbRead s1 t c1 fs n

/-- The loader of a cluster goes on with a team's command, by `n` rows at most. -/
def loadStep (s : State) (k : Nat) (t : Team) (c : PCmd) (n : Nat) : State :=
  match c.op with
  | .mldb a =>
    let (s1, c1) := mldbRead s t c (modBits a.mod 9 7) n
    s1.modTeam k fun t => { t with loads := c1 :: t.loads.drop 1 }
  | _ => s

/-- A command of the loader is done (R249, R250). -/
def loadDone (s : State) (k : Nat) (t : Team) (c : PCmd) : State :=
  let pop (t : Team) : Team := { t with loads := t.loads.drop 1 }
  match c.op with
  | .mldb a =>
    let (s1, c1) := mldbRead s t c (modBits a.mod 9 7) 128
    s1.modTeam k fun t => recheckTeam (kfDec (mldbApply (pop t) c1 (modBits a.mod 9 7)) c.flag)
  | _ => s.modTeam k fun t => { pop t with canopy := canopyFree t.canopy c.a.toNat }

/-- CANOPY_LOAD_COMPLETE (R249, R250). -/
def execCanopyLoadComplete (cluster : Nat) (s : State) : Out :=
  match nextLoad s cluster with
  | some (k, t, c) => event (loadDone s k t c)
  | none => event s

/-- The MSTAT at the head of a team's queue. -/
def waitingMstat (t : Team) : Option (PCmd × List PCmd × Args) :=
  match t.matrix with
  | c :: rest => match c.op with
    | .mstat a => if c.checked && t.resident then some (c, rest, a) else none
    | _ => none
  | [] => none

/-- MSTAT_WRITE (R248, R258). -/
def execMstatWrite (team : Nat) (s : State) : Out :=
  match s.team? team with
  | none => event s
  | some t =>
    match waitingMstat t with
    | none => event s
    | some (c, rest, a) =>
      let tile := tileOf t (accOf a)
      let t1 := kwrite { t with matrix := rest } a.dst (tile.status.zeroExtend 64)
      let t2 := if modBits a.mod 5 5 = 1 then { t1 with tiles := AMap.set t1.tiles (accOf a) { tile with status := 0 } } else t1
      event (s.setTeam team (recheckTeam (kfDec t2 c.flag)))

/-- KCP_COMPLETE (R236): of a team that is resident. -/
def execKcpComplete (team : Nat) (s : State) : Out :=
  if ((s.team? team).map Team.resident).getD false then event (bulkDone s team) else event s

end Sys2Proof.Machine
end

