-- ==== Sys2Proof/Machine/System.lean ====
section
/-! DEFINITION. Control registers and system instructions (R267 to R281, R298). -/

namespace Sys2Proof.Machine

/-- The busy or fault bits of a core's 64 tags (R201, R269). -/
def coreTags (s : State) (core : Nat) (f : Tag → Bool) : DWord :=
  BitVec.ofNat 64 ((s.teams.filter fun p => p.2.resident && !p.2.retired && p.2.core == core).foldl (fun acc p =>
    (List.range p.2.lrec.tags).foldl (fun acc j =>
      if f (AMap.get {} p.2.tags j) then Nat.lor acc (2 ^ (p.2.tagBase + j)) else acc) acc) 0)

/-- CR.HDATA (R279): the state of a stopped thread of the virtual device on the core. -/
def haltData (s : State) (vd core : Nat) (sel : Word) : Word :=
  let slot := sel.toNat / 65536
  let item := sel.toNat % 65536
  let found := s.teams.findSome? fun p =>
    if p.2.vd = vd ∧ p.2.core = core ∧ p.2.resident then
      (p.2.threads.find? fun q => q.2.slot == slot && hasStopped s p.1 q.1 q.2).map fun q => (p.2, q.1, q.2)
    else none
  match found with
  | none => 0
  | some (t, tid, th) =>
    if item < 256 then (if item < 8 * t.lrec.regs8 then vReg th.arch item else 0)
    else match item with
      | 256 => th.arch.p.zeroExtend 32
      | 257 => th.arch.fflags.zeroExtend 32
      | 258 => th.arch.pc.truncate 32
      | 259 => (th.arch.pc >>> 32).truncate 32
      | 260 => th.cr.fstat
      | 261 => BitVec.ofNat 32 tid
      | _ => 0

/-- The value of a control register (R269). -/
def crRead (c : Ctx) (n : Nat) : DWord :=
  let v := c.s.vd c.team.vd
  let cr := c.th.cr
  match n with
  | 0x000 => v.feat.zeroExtend 64
  | 0x001 => BitVec.ofNat 64 (c.team.vd + v.part * 256)
  | 0x002 => v.fvec
  | 0x003 => c.team.lrec.evec
  | 0x004 => v.dumpbase
  | 0x010 => cr.fstat.zeroExtend 64
  | 0x011 => cr.fpc
  | 0x012 => cr.faddr
  | 0x013 => cr.fscr
  | 0x014 => cr.fcls.zeroExtend 64
  | 0x020 => c.team.ufpc
  | 0x021 => c.team.ufcmd
  | 0x022 => c.team.wdlim
  | 0x030 => coreTags c.s c.team.core fun g => g.count != 0
  | 0x031 => coreTags c.s c.team.core Tag.fault
  | 0x032 => cr.hsel.zeroExtend 64
  | 0x033 => (haltData c.s c.team.vd c.team.core cr.hsel).zeroExtend 64
  | 0x040 => if v.perfctl then 1 else 0
  | 0x041 => if v.dbgctl then 1 else 0
  | _ => 0

/-- A grid's CR.EVEC written (R269): in its teams, and in its node for gangs still to be placed. -/
def setEvec (s : State) (t : Team) (x : DWord) : State :=
  let s1 := { s with teams := s.teams.map fun p =>
    (p.1, if p.2.launch = t.launch ∧ p.2.node = t.node then { p.2 with lrec := { p.2.lrec with evec := x } } else p.2) }
  modNode s1 t.launch t.node fun nd => { nd with lrec := { nd.lrec with evec := x } }

/-- A control register written; reserved bits stay 0 (R5, R269, R270). -/
def crWrite (c : Ctx) (n : Nat) (x : DWord) : State :=
  let w : Word := x.truncate 32
  let cr (f : FaultRegs → FaultRegs) : State := c.s.modThread c.key c.tid fun th => { th with cr := f th.cr }
  match n with
  | 0x002 => c.s.modVd c.team.vd fun v => { v with fvec := x }
  | 0x003 => setEvec c.s c.team x
  | 0x004 => c.s.modVd c.team.vd fun v => { v with dumpbase := x }
  | 0x010 => cr fun r => { r with fstat := w &&& 0xFF00FFF7 }
  | 0x011 => cr fun r => { r with fpc := x }
  | 0x012 => cr fun r => { r with faddr := x }
  | 0x013 => cr fun r => { r with fscr := x }
  | 0x014 => cr fun r => { r with fcls := w &&& 0x001F1FFF }
  | 0x022 => c.s.modTeam c.key fun t => { t with wdlim := x }
  | 0x032 => cr fun r => { r with hsel := w }
  | 0x040 => c.s.modVd c.team.vd fun v => { v with perfctl := x.getLsbD 0 }
  | _ => c.s

/-- Whether a control register has 64 bits. -/
def crWide (n : Nat) : Bool := ((crRow n).map Prod.fst).getD false

/-- The key of a register whose CSRW is an access in the total order: one of team or virtual-device scope (R269, R275). -/
def crPlace (c : Ctx) (n : Nat) : Option Nat :=
  match n with
  | 0x002 | 0x004 | 0x040 => some (crKey c.team.vd n)
  | 0x022 => some (2 * c.key + 1)
  | _ => none

/-- A copy of the thread that is not complete: CSRR and CSRW issue after the completion of every earlier instruction, copies among them (R275;
DEDUCED, log 67). -/
def ownCopy (c : Ctx) : Option Nat := (c.team.copies.find? fun p => p.2.tid == some c.tid).map Prod.fst

/-- CSRR and CSRW (R275). -/
def execCsrr (a : Args) (s : State) : Out :=
  runThread 1 0xE0 a s fun c =>
    match ownCopy c with
    | some id => .hold (performCopiesTo c.s c.key id)
    | none =>
      let n := a.mod.toNat
      let s1 := (crPlace c n).elim c.s (meetCr c.s c.team.core)
      .done (s1.modThread c.key c.tid fun th => if crWide n then write64 th a.dst (crRead c n) else write32 th a.dst ((crRead c n).truncate 32))
def execCsrw (a : Args) (s : State) : Out :=
  runThread 1 0xE1 a s fun c =>
    match ownCopy c with
    | some id => .hold (performCopiesTo c.s c.key id)
    | none =>
      let n := a.mod.toNat
      let s1 := crWrite c n (if crWide n then read64 c a.sa else (read32 c a.sa).zeroExtend 64)
      .done ((crPlace c n).elim s1 (touchCr s1 c.team.core))

/-- TRAP (R277): a transfer, whose live record makes a safe point at its target (R75, R121). -/
def execTrap (a : Args) (s : State) : Out :=
  runThread 1 0xE2 a s fun c =>
    let s1 := deliver c.s c.key c.tid 0 (BitVec.ofNat 8 (modBits a.mod 7 0)) 0 (returnAddr c.th a) (read64 c a.sa)
    .jump (s1.modThread c.key c.tid fun th => { th with safe := a.live })

/-- ERET (R276). -/
def execEret (a : Args) (s : State) : Out :=
  runThread 1 0xE3 a s fun c => .jump (c.s.modThread c.key c.tid fun th => returnFault th a.live)

/-- EMRET (R298). -/
def execEmret (a : Args) (s : State) : Out :=
  runThread 1 0xE4 a s fun c =>
    let epc := c.th.arch.epc
    let base := epc.toNat % 2 ^ 52
    let x := epc.toNat / 2 ^ 61
    if epc.toNat / 2 ^ 52 % 2 ^ 9 ≠ 0 then .fault cADDR epc
    else if !isBound (c.s.vd c.team.vd) x then .fault cILLEGAL 0
    else
      let pc := if modBits a.mod 0 0 = 1 then base else (base + c.th.arch.elen.toNat) % 2 ^ 52
      .jump (c.s.modThread c.key c.tid fun th => goToPix th (BitVec.ofNat 64 pc) (BitVec.ofNat 3 x) a.live)

/-- Translations of a virtual device that a shootdown of a page removes: those that meet it (R278). -/
def shotBy (vd : Nat) (sz va : Nat) (x : Trans) : Bool :=
  x.vd == vd &&
  (sz == 3 ||
    let lg := match sz with
      | 0 => 16 | 1 => 21 | _ => 30
    let lo := va / 2 ^ lg * 2 ^ lg
    decide (x.va < lo + 2 ^ lg) && decide (lo < x.va + 2 ^ x.lg))

/-- Translations leave every cache of the package (R422). -/
def clearTlbs (s : State) (f : Trans → Bool) : State := { s with tlb := s.tlb.map fun p => (p.1, p.2.filter fun x => !f x) }

/-- TLBINV (R278, R422): the walked translations that it covers are the old ones of a shootdown, whether a cache still holds them or not. -/
def execTlbinv (a : Args) (s : State) : Out :=
  runThread 1 0xE5 a s fun c =>
    let sz := modBits a.mod 1 0
    let va := read64 c a.sa
    if sz ≠ 3 ∧ 2 ^ 52 ≤ va.toNat then .fault cADDR va
    else
      let gone := c.s.walked.filter (shotBy c.team.vd sz va.toNat)
      .done { clearTlbs c.s (shotBy c.team.vd sz va.toNat) with
        shoot := c.s.shoot ++ gone.map fun x => { team := c.key, tid := c.tid, old := x } }

/-- The posted commands of a team that hold translations: those that have passed their checks. -/
def heldBy (t : Team) : List Trans :=
  let cmds := (t.running.map Bulk.cmd).toList ++ t.matrix ++ t.granted.map Prod.snd ++ t.loads ++ (t.entry.map Entry.cmd).toList
  (cmds.map PCmd.held).flatten

/-- Whether a removed translation still stands in the way of a shootdown's completion (R196, R390, R391, R423): outstanding
accesses, copies, engine commands, and expansions not committed with the stores they have checked. -/
def stillHeld (s : State) (old : Trans) : Bool :=
  let on (va : DWord) : Bool := decide (va.toNat < 2 ^ 52) && old.covers old.vd va.toNat
  s.teams.any fun p => p.2.vd == old.vd && p.2.resident &&
    (p.2.copies.any (fun q => on q.2.srcVa || on q.2.dstVa) || (heldBy p.2).contains old ||
     p.2.stream.out.any (fun ac => on ac.va) ||
     p.2.threads.any fun q => q.2.out.any (fun ac => on ac.va) ||
       (match q.2.expansion with
        | some x => !x.committed && (on q.2.arch.pc || x.stores.any fun ac => on ac.va)
        | none => false))

/-- Decoded lines of a frame become invalid in every cluster, and its code lines in every core (R390). -/
def dropLines (s : State) (old : Trans) : State :=
  let inPage (a : Nat) : Bool := decide (old.frame ≤ a) && decide (a < old.frame + 2 ^ old.lg)
  { s with lines := s.lines.map fun p => (p.1, p.2.filter fun x => !inPage x.pa),
           icode := s.icode.map fun p => (p.1, p.2.filter fun x => !inPage (64 * x.1)) }

/-- A shootdown completes (R390, R391, R423): what walks find of the page from then on is its new entry. -/
def endShot (s : State) (old : Trans) : State :=
  let s1 := dropLines s old
  if s1.tlb.any fun p => p.2.contains old then s1 else { s1 with walked := s1.walked.filter fun x => x != old }

/-- TLBSYNC (R278, R422). -/
def execTlbsync (a : Args) (s : State) : Out :=
  runThread 1 0xE6 a s fun c =>
    let mine := c.s.shoot.filter fun h => h.team == c.key && h.tid == c.tid
    if mine.any fun h => stillHeld c.s h.old then .stay c.s
    else
      let s1 := { c.s with shoot := c.s.shoot.filter fun h => !(h.team == c.key && h.tid == c.tid) }
      .done (mine.foldl (fun s h => endShot s h.old) s1)

/-- Whether a performance counter exists (R487). -/
def perfExists (n : Nat) : Bool :=
  let e := n / 4096 % 16
  let cause := n / 256 % 16
  let i := n % 256
  match e with
  | 0 => decide (cause < 6) && i == 0
  | 1 => decide (cause < 10) && decide (i < 4)
  | 2 | 3 | 4 | 5 | 6 => decide (cause < 10) && i == 0
  | 7 => decide (cause < 10) && decide (i < 16)
  | _ => false

/-- Whether a counter is of a unit that the cores of a cluster share: matrix array, drain unit, canopy loader. -/
def perfShared (n : Nat) : Bool := decide (0x3000 ≤ n) && decide (n < 0x6000)

/-- The core under which a counter is kept: the first of its cluster for a shared unit. -/
def perfCore (core n : Nat) : Nat := if perfShared n then core / 4 * 4 else core

/-- The number under which the cycles of a virtual device's residence on a unit's core, or on a shared unit's cluster, are counted. -/
def perfTotal (n : Nat) : Nat := if perfShared n then 0x8000 else 0

/-- The counter of a cause of the unit and instance of a counter. -/
def perfCause (n cause : Nat) : Nat := n / 4096 * 4096 + cause * 256 + n % 256

/-- Of the cycles that a virtual device has been resident beside a unit, those that no read has yet put under a cause of the unit's instance. -/
def cyclesLeft (s : State) (vd core n : Nat) : Nat :=
  (AMap.get 0 s.perf (perfKey vd core (perfTotal n))).toNat -
    ((List.range 10).map fun cause => (AMap.get 0 s.perf (perfKey vd core (perfCause n cause))).toNat).sum

/-- Some cycles of a unit put under causes, each cycle under exactly one (R487): which, the model leaves open (log 10). -/
def shareCycles (vd core n : Nat) : Nat → List Nat → State → State
  | _, [], s => s
  | left, [cause], s => addPerf s vd core (perfCause n cause) (BitVec.ofNat 64 left)
  | left, cause :: rest, s =>
    let (x, s1) := freeVal64 s
    let here := x.toNat % (left + 1)
    shareCycles vd core n (left - here) rest (addPerf s1 vd core (perfCause n cause) (BitVec.ofNat 64 here))

/-- PERFR (R280, R487). The core totals are counted. Which cause a cycle of an engine counts toward depends on timing that the model leaves out: a
read first puts every cycle that has gone by since the last one under causes (log 10). -/
def execPerfr (a : Args) (s : State) : Out :=
  runThread 1 0xE7 a s fun c =>
    let n := (read32 c a.sa).toNat % 65536
    let core := perfCore c.team.core n
    let s0 := meetCr c.s c.team.core (crKey c.team.vd 0x040)
    let give (s : State) (x : DWord) : Res := .done (s.modThread c.key c.tid fun th => write64 th a.dst x)
    if !perfExists n then give s0 0
    else
      let s1 := if n < 0x1000 then s0 else shareCycles c.team.vd core n (cyclesLeft s0 c.team.vd core n) (List.range 10) s0
      give s1 (AMap.get 0 s1.perf (perfKey c.team.vd core n))

/-- BRKPT (R281). -/
def execBrkpt (a : Args) (s : State) : Out :=
  runThread 1 0xE8 a s fun c =>
    if (c.s.vd c.team.vd).dbgctl then
      let s1 := c.s.modTeam c.key fun t => { t with dbgStop := true }
      .done { s1 with breaks := (c.key, modBits a.mod 7 0, c.th.arch.pc) :: s1.breaks }
    else .done c.s

/-- The threads and streams in a scope of HALTT, without the issuer (R279): those there are when it is performed; a thread that a bin's flush
creates later is none of them (log 57). -/
def haltTargets (c : Ctx) (sc : Nat) : List (Nat × Option Nat) :=
  let inScope (p : Nat × Team) : Bool := gangPlaced c.s p.2 && match sc with
    | 0 => p.1 == c.key
    | 1 => p.2.gang == c.team.gang
    | _ => p.2.core == c.team.core && p.2.vd == c.team.vd && p.2.resident && !p.2.retired
  ((c.s.teams.filter inScope).map fun p =>
    (p.1, (none : Option Nat)) :: (p.2.threads.filter fun q => !(p.1 == c.key && q.1 == c.tid)).map fun q => (p.1, some q.1)).flatten

/-- A target still runs an expansion that has not come to a boundary, an interruption point or a wait. -/
def stillRuns (s : State) : Nat × Option Nat → Bool
  | (k, some tid) => ((s.thread? k tid).map fun th => !atPoint th).getD false
  | (_, none) => false

/-- HALTT (R279): the stop is in force at once; the instruction ends when every target has stopped. One that waits goes on with the stop that it has
begun, which its address and scope name. -/
def execHaltt (a : Args) (s : State) : Out :=
  runThread 1 0xE9 a s fun c =>
    let scope := modBits a.mod 1 0
    let mine (h : Halt) : Bool := h.team == c.key && h.tid == c.tid && h.pc == c.th.arch.pc && h.scope == scope && !h.complete
    let targets := match c.s.halts.find? mine with
      | some h => h.targets
      | none => haltTargets c scope
    let s1 := if c.s.halts.any mine then c.s
      else { c.s with halts := { team := c.key, tid := c.tid, pc := c.th.arch.pc, scope := scope, targets := targets } :: c.s.halts }
    if targets.any (stillRuns s1) then .stay s1
    else .done { s1 with halts := s1.halts.map fun h => if mine h then { h with complete := true } else h }

/-- HALTT.go (R279). -/
def execHalttGo (a : Args) (s : State) : Out :=
  runThread 1 0xE9 a s fun c => .done (endHalts c.s fun h => h.team == c.key && h.tid == c.tid)

end Sys2Proof.Machine
end

