-- ==== Sys2Proof/Machine/Image.lean ====
section
/-! DEFINITION. Fetching instruction bytes (R80), the decoded-operation cache (R385 to R391), and personality images as a running thread
sees them: extractors (R368), the match (R371), templates and their operations (R373 to R376). -/

namespace Sys2Proof.Machine

/-! ## Fetch -/

/-- The translation that a fetch or a lookup goes through (R80, R389 to R391): while a page that held execute is given write, a valid decoded
line keeps the old one (`hit`). -/
def fetchTrans (s : State) (vd core va : Nat) (hit : Trans → Bool) : Except FaultInfo Trans :=
  let d : DWord := BitVec.ofNat 64 va
  match shotExec s vd core va with
  | some o => if hit o then .ok o else .error (cPROTX, d)
  | none =>
    match translate s vd core va with
    | .error e => .error e
    | .ok x => if !x.x || shotWrite s vd core va then .error (cPROTX, d) else .ok x

/-- The checks of a lookup of a decoded line (R387, R390): the physical address. -/
def lookPlace (s : State) (vd core : Nat) (va : DWord) (hit : Trans → Bool) : Except FaultInfo Nat :=
  if 2 ^ 52 ≤ va.toNat then .error (cADDR, va)
  else (fetchTrans s vd core va.toNat hit).map fun x => x.pa va.toNat

/-- The line of code that a core's L1 instruction cache holds (R327). -/
def codeLine (s : State) (core line : Nat) : Option (List Byte) := AMap.find (AMap.get [] s.icode core) line

/-- The checks of a fetch of one byte (R80): the physical address. -/
def fetchPlace (s : State) (vd core : Nat) (va : DWord) : Except FaultInfo Nat :=
  if 2 ^ 52 ≤ va.toNat then .error (cADDR, va)
  else match fetchTrans s vd core va.toNat fun _ => false with
    | .error e => .error e
    | .ok x =>
      let pa := x.pa va.toNat
      if gateClosed s vd core x pa then .error (cGATE, va)
      else if (codeLine s core (pa / 64)).isNone && s.poison.contains (sectorKey (.phys pa)) then .error (cPOISON, va)
      else .ok pa

/-- A byte of code as a core fetches it: from its instruction cache, which stores do not change, else from the line's home (R327, R336). -/
def codeByte (s : State) (core pa : Nat) : Byte :=
  match codeLine s core (pa / 64) with
  | some bs => bs.getD (pa % 64) 0
  | none => cellGet s.mem pa

/-- A line of code comes into a core's instruction cache: 4 ways of 256 sets; a full set gives up its lowest line (R327, log 40). A line with a
poisoned sector is not kept, so that its bytes stay poisoned to a fetch (R80, R455). -/
def cacheCode (s : State) (core pa : Nat) : State :=
  let n := pa / 64
  if pa ≥ 2 ^ 42 ∨ (codeLine s core n).isSome ∨ locPoisoned s (.phys (64 * n)) 64 then s
  else
    let s1 := reachGranule s (.phys pa)
    let m := AMap.get [] s1.icode core
    let mates := m.filter fun p => p.1 % 256 == n % 256
    let m1 := match mates with
      | v :: _ :: _ :: _ :: _ => AMap.del m v.1
      | _ => m
    { s1 with icode := AMap.set s1.icode core (AMap.set m1 n (cellsGet s1.mem (64 * n) 64)) }

/-- The caches, the homing and the residency record of a core's fetch at an address (R421, R426), and its instruction cache (R327). -/
def noteFetch (s : State) (vd core : Nat) (va : DWord) : State :=
  match fetchPlace s vd core va with
  | .error _ => s
  | .ok pa =>
    let s1 := fillTlb s vd core va.toNat
    let s2 := match translate s1 vd core va.toNat with
      | .ok x => noteHome s1 x (.phys pa)
      | .error _ => s1
    cacheCode (recordGranule s2 vd (.phys pa)) core pa

/-- The 8-byte word at an address of the native stream. -/
def fetchWord (s : State) (vd core : Nat) (va : DWord) : Except FaultInfo DWord :=
  (fetchPlace s vd core va).map fun pa => leWord ((List.range 8).map fun i => codeByte s core (pa + i))

/-- The words of the native instruction or header at an address: with it, its extension word and live record, whose fetch faults come before an
ILLEGAL_OP of its other fields (R286, R379). -/
def fetchWords (s : State) (vd core : Nat) (va : DWord) (due stream : Bool) : Except FaultInfo (List DWord) :=
  match fetchWord s vd core va with
  | .error e => .error e
  | .ok w =>
    let more := if bitsOf w 63 62 = 3 ∨ ownBad w due stream then 0 else bitsOf w 36 36 + bitsOf w 37 37
    (List.range more).foldl (fun acc i =>
      match acc with
      | .error e => .error e
      | .ok ws =>
        match fetchWord s vd core (va + BitVec.ofNat 64 (8 * (i + 1))) with
        | .error e => .error e
        | .ok x => .ok (ws ++ [x])) (.ok [w])

/-- Whether an instruction belongs to a class that an agent's stream decodes (R67). -/
def classFits (i : Instr) (stream : Bool) : Bool :=
  match i.code with
  | some (2, _) => stream
  | some _ => !stream
  | none => true

/-- A clause header is no guest instruction (R284). -/
def isHeader : Instr → Bool
  | .clauseHeader _ => true
  | _ => false

/-- The instruction that fetched words hold, for a stream (R67); where a header is due, nothing else (R75). -/
def readWords (ws : List DWord) (due stream : Bool) : Option Instr :=
  match decodeWords ws with
  | .error _ => none
  | .ok (i, _) => if (due && !isHeader i) || !classFits i stream then none else some i

/-! ## Images -/

/-- The byte of an image at an offset. -/
def imgByte (b : List Byte) (o : Nat) : Nat := ((b[o]?).getD 0).toNat
/-- A little-endian value of `n` bytes of an image. -/
def imgNat (b : List Byte) (o n : Nat) : Nat := leNat ((b.drop o).take n)

/-- The header of R366. -/
structure ImgHead where
  bodyLen : Nat
  align : Nat
  minLen : Nat
  maxLen : Nat
  nextr : Nat
  nplane : Nat
  ntmpl : Nat
  extOff : Nat
  planeOff : Nat
  tmplOff : Nat
  deriving DecidableEq, Repr

def imgHead (b : List Byte) : ImgHead :=
  { bodyLen := imgNat b 8 4, align := imgByte b 12, minLen := imgByte b 13, maxLen := imgByte b 14, nextr := imgByte b 15,
    nplane := imgNat b 16 2, ntmpl := imgNat b 18 2, extOff := imgNat b 20 4, planeOff := imgNat b 24 4, tmplOff := imgNat b 28 4 }

/-- A field extractor (R368). -/
structure Extractor where
  pos0 : Nat
  l0 : Nat
  pos1 : Nat
  l1 : Nat
  sx : Bool
  shl : Nat
  add : Nat
  deriving DecidableEq, Repr

def extOf (x : Nat) : Extractor :=
  { pos0 := x / 2 ^ 57, l0 := x / 2 ^ 52 % 32 + 1, pos1 := x / 2 ^ 45 % 128, l1 := x / 2 ^ 40 % 32, sx := x / 2 ^ 39 % 2 == 1,
    shl := x / 2 ^ 36 % 8, add := x % 2 ^ 32 }

def extractor (b : List Byte) (j : Nat) : Extractor := extOf (imgNat b ((imgHead b).extOff + 8 * j) 8)

/-- The value of an extractor on a guest window (R368). -/
def extValue (e : Extractor) (w : Nat) : Word :=
  let n := e.l0 + e.l1
  let raw := w / 2 ^ e.pos1 % 2 ^ e.l1 * 2 ^ e.l0 + w / 2 ^ e.pos0 % 2 ^ e.l0
  let v : Int := if e.sx ∧ raw / 2 ^ (n - 1) % 2 = 1 then (raw : Int) - 2 ^ n else raw
  BitVec.ofInt 32 (v * 2 ^ e.shl + e.add)

/-- The bytes of the window that an extractor references (R368). -/
def extBytes (e : Extractor) : List Nat :=
  let run (pos l : Nat) : List Nat := if l = 0 then [] else (List.range ((pos + l - 1) / 8 + 1 - pos / 8)).map fun i => pos / 8 + i
  run e.pos0 e.l0 ++ run e.pos1 e.l1

/-- The 64-bit value of an extractor (R368). -/
def ext64 (e : Extractor) (w : Nat) : DWord := if e.sx then (extValue e w).signExtend 64 else (extValue e w).zeroExtend 64

/-- A guest window with some of its bytes fetched. -/
def fetchGuest (s : State) (vd core : Nat) (gpc : DWord) (is : List Nat) (w : AMap Byte) : Except FaultInfo (AMap Byte) :=
  is.foldl (fun acc i =>
    match acc with
    | .error e => .error e
    | .ok w =>
      if (AMap.find w i).isSome then .ok w
      else match fetchPlace s vd core (gpc + BitVec.ofNat 64 i) with
        | .error e => .error e
        | .ok pa => .ok (AMap.set w i (codeByte s core pa))) (.ok w)

def windowNat (w : AMap Byte) : Nat := (w.map fun p => p.2.toNat * 2 ^ (8 * p.1)).sum

/-- What the match planes find (R371). -/
inductive Match where
  | illegal
  | miss (len : Nat)
  | template (i len : Nat)
  deriving DecidableEq, Repr

/-- A plane header (R369) and a plane entry (R370). -/
def planeOf (b : List Byte) (p : Nat) : Nat × Nat × Nat :=
  let x := imgNat b ((imgHead b).planeOff + 16 * p) 8
  (x / 2 ^ 32, x / 2 ^ 8 % 32, x % 16)

/-- The walk of the match planes (R371): at most 8 planes (R372). -/
def walkPlanes (s : State) (vd core : Nat) (b : List Byte) (gpc : DWord) :
    Nat → Nat → AMap Byte → Except FaultInfo (Match × AMap Byte)
  | 0, _, w => .ok (.illegal, w)
  | n + 1, p, w =>
    let (off, idx, iw) := planeOf b p
    let e := extractor b idx
    match fetchGuest s vd core gpc (extBytes e) w with
    | .error x => .error x
    | .ok w1 =>
      let x := imgNat b (off + 8 * ((extValue e (windowNat w1)).toNat % 2 ^ iw)) 8
      match x / 2 ^ 60 with
      | 1 => walkPlanes s vd core b gpc n (x % 65536) w1
      | 2 => .ok (.template (x % 65536) (x / 2 ^ 56 % 16 + 1), w1)
      | 3 => .ok (.miss (x / 2 ^ 56 % 16 + 1), w1)
      | _ => .ok (.illegal, w1)

/-- Steps 1 to 3 of R286: the match and the guest window, every byte of the instruction fetched. -/
def guestMatch (s : State) (vd core : Nat) (b : List Byte) (gpc : DWord) : Except FaultInfo (Match × Nat) :=
  if gpc.toNat % 2 ^ (imgHead b).align ≠ 0 then .ok (.illegal, 0)
  else match walkPlanes s vd core b gpc 8 0 [] with
    | .error e => .error e
    | .ok (.illegal, w) => .ok (.illegal, windowNat w)
    | .ok (m, w) =>
      let len := match m with
        | .miss l | .template _ l => l
        | .illegal => 0
      match fetchGuest s vd core gpc (List.range len) w with
      | .error e => .error e
      | .ok w1 => .ok (m, windowNat w1 % 2 ^ (8 * len))

/-! ## Templates -/

/-- A 12-bit selector in a position of a kind (R375). -/
def tmplSel (b : List Byte) (w : Nat) (cls : Nat) (kind : PosKind) (imm : Nat) (x : Nat) : Sel :=
  let v (j : Nat) : Word := extValue (extractor b j) w
  let o := x / 32 % 16
  let j := x % 32
  match x / 512 with
  | 0 => (parseSel cls kind x).getD .none
  | 1 => .t (BitVec.ofNat 3 x)
  | 2 =>
    let n := (v j).toNat + o
    if n < 256 then .v (BitVec.ofNat 8 n) else .big (BitVec.ofNat 32 n)
  | 3 => .val (v j) (extractor b j).sx
  | 4 => .ext (BitVec.ofNat 48 imm)
  | 5 => .num ((v j).toNat + o)
  | _ => .none

/-- The guard of an operation word (R374, R375). -/
def tmplGuard (b : List Byte) (w x : Nat) : Guard :=
  let g := x / 2 ^ 102 % 64
  let pj := if x / 2 ^ 100 % 2 = 1 then (extValue (extractor b (g % 16)) w).toNat % 16 else g % 16
  if g / 32 % 2 = 0 then .always else .on (BitVec.ofNat 4 pj) (g / 16 % 2 == 1)

/-- The auxiliary value of an operation word (R376). -/
def tmplAux (b : List Byte) (w x : Nat) : Option DWord :=
  let imm := x % 2 ^ 48
  match x / 2 ^ 50 % 4 with
  | 1 => some ((BitVec.ofNat 48 imm).signExtend 64)
  | 2 => some (ext64 (extractor b (imm % 32)) w <<< (imm / 256 % 8))
  | _ => none

/-- The class and opcode of an operation word, and its fields on a guest window (R374). -/
def tmplOp (b : List Byte) (w x : Nat) : Option Instr :=
  let cls := x / 2 ^ 126
  let opc := x / 2 ^ 118 % 256
  let m : BitVec 10 := BitVec.ofNat 10 (x / 2 ^ 108)
  let imm := x % 2 ^ 48
  match shapeOf cls opc m with
  | none => none
  | some sh =>
    let sel (k : PosKind) (lo : Nat) : Sel := tmplSel b w cls k imm (x / 2 ^ lo % 4096)
    Instr.ofCode cls opc
      { mod := m, guard := tmplGuard b w x, live := none, dst := sel sh.dst 88, sa := sel sh.sa 76, sb := sel sh.sb 64,
        sc := sel sh.sc 52, aux := tmplAux b w x }

/-- The operations of a template on a guest window (R373). -/
def tmplOps (b : List Byte) (w i : Nat) : List Instr :=
  let off := imgNat b ((imgHead b).tmplOff + 4 * i) 4
  let n := imgNat b off 8 / 2 ^ 32 % 8 + 1
  (List.range n).filterMap fun k => tmplOp b w (imgNat b (off + 16 + 16 * k) 16)

/-- The image that a virtual device binds at an index (R381). -/
def imageAt (s : State) (vd pix : Nat) : Option Image := (AMap.find (s.vd vd).bind pix).bind (AMap.find s.images)

/-! ## The decoded-operation cache -/

/-- PSEL of R385: the image's slot in a cluster, 15 for the native personality. -/
def pselOf (s : State) (vd cluster pix : Nat) : Nat :=
  if pix = 0 then 15
  else match AMap.find (s.vd vd).bind pix with
    | none => 14
    | some h => (((AMap.get [] s.slots cluster).find? fun p => p.2.handle == h && !p.2.copying).map Prod.fst).getD 14

/-- The guest instruction at an address as a fill decodes it (R286 steps 1 to 3, R388), with its length in bytes. -/
def decodeGuest (s : State) (vd core : Nat) (img : Option Image) (gpc : DWord) : Except FaultInfo (Nat × Decoded) :=
  match img with
  | none => .ok (1, .illegal)
  | some img =>
    match guestMatch s vd core img.body gpc with
    | .error e => .error e
    | .ok (.illegal, _) => .ok (1, .illegal)
    | .ok (.miss len, w) => .ok (len, .miss len w)
    | .ok (.template i len, w) => .ok (len, .run len (tmplOps img.body w i))

/-- The native instruction or header at an address as a fill decodes it (R388). -/
def decodeNative (s : State) (vd core : Nat) (pc : DWord) : Except FaultInfo (Nat × Decoded) :=
  if pc.toNat % 8 ≠ 0 then .ok (8, .illegal)
  else (fetchWords s vd core pc false false).map fun ws =>
    match readWords ws false false with
    | some i => (8 * ws.length, .run (8 * ws.length) [i])
    | none => (8, .illegal)

/-- The instruction at an address under a personality, with the image that it decodes by. -/
def decodeAt (s : State) (vd core pix : Nat) (img : Option Image) (pc : DWord) : Except FaultInfo (Nat × Decoded) :=
  if pix = 0 then decodeNative s vd core pc else decodeGuest s vd core img pc

/-- Whether a guest address is illegal whatever stands there (R372): no byte is referenced, so no fetch fault comes before (R134, R286). DEDUCED
(log 63): nor does a fault of the lookup. -/
def blindIllegal (s : State) (t : Team) (th : Thread) : Bool :=
  th.arch.pix != 0 && (match decodeGuest s t.vd t.core (imageAt s t.vd th.arch.pix.toNat) th.arch.pc with
    | .ok (_, .illegal) => true
    | _ => false)

/-- The image that a line under a slot's number is expanded with: the one in the slot (R383, R385), or, while none is in it, the one bound. -/
def slotImage (s : State) (cluster psel vd pix : Nat) : Option Image :=
  if psel = 14 then imageAt s vd pix
  else ((AMap.find (AMap.get [] s.slots cluster) psel).filter fun x => !x.copying).bind fun x => AMap.find s.images x.handle

/-- Operation slots that an instruction takes (R386); a header stands with the first instruction of its clause (R379). -/
def slotsUsed : Decoded → Nat
  | .run _ ops => (ops.filter fun i => !isHeader i).length
  | _ => 1

/-- A line ends after a control transfer and after a marker (R386). -/
def endsLine : Decoded → Bool
  | .run _ ops => (ops.getLast?.bind Instr.code).any fun c => isTransfer c.1 c.2
  | _ => true

/-- The instructions of a line that begins at an address (R386): those that begin in its 64-byte line, while their operations fit in 16 slots
and their bytes can be fetched; `slots` are left. -/
def lineCode (s : State) (vd core pix : Nat) (img : Option Image) : Nat → Nat → DWord → List Decoded
  | 0, _, _ => []
  | n + 1, slots, pc =>
    match decodeAt s vd core pix img pc with
    | .error _ => []
    | .ok (len, d) =>
      let next := pc + BitVec.ofNat 64 len
      if slots < slotsUsed d then []
      else if endsLine d ∨ next.toNat / 64 ≠ pc.toNat / 64 then [d]
      else d :: lineCode s vd core pix img n (slots - slotsUsed d) next

/-- The valid line of a cluster under a tag (R385). -/
def lineOf (s : State) (cluster psel pa : Nat) : Option Line :=
  (AMap.get [] s.lines cluster).find? fun l => l.psel == psel && l.pa == pa

/-- The set of a line: the exclusive or of the entry address's bytes and PSEL (R385). -/
def lineSet (psel pa : Nat) : Nat := (List.range 6).foldl (fun acc i => Nat.xor acc (pa / 2 ^ (8 * i) % 256)) psel

/-- The lines of a cluster with one more: the least recently used of a full set of 16 gives way (R385). -/
def addLine (ls : List Line) (l : Line) : List Line :=
  let rest := ls.filter fun x => !(x.psel == l.psel && x.pa == l.pa)
  let mates := rest.filter fun x => lineSet x.psel x.pa == lineSet l.psel l.pa
  match (if mates.length < 16 then none else leastBy Line.used mates) with
  | some v => l :: rest.filter fun x => x.id != v.id
  | none => l :: rest

/-- What a thread finds in the decoded-operation cache (R387). -/
inductive Looked where
  | fault (code : BitVec 8) (datum : DWord)
  | miss (psel pa : Nat)
  | hit (at' : Spot) (d : Decoded)
  deriving DecidableEq, Repr

/-- The instruction at a position that is still valid. -/
def atSpot (s : State) (cluster : Nat) (p : Spot) : Option Decoded :=
  ((AMap.get [] s.lines cluster).find? fun l => l.id == p.line).bind fun l => l.code[p.ix]?

/-- A thread's next decoded instruction: that of its position, or of a line whose entry address is its own (R387). An address that is illegal
whatever stands there is so before the lookup's faults (R134, R372). -/
def lookUp (s : State) (t : Team) (th : Thread) : Looked :=
  let cl := clusterOf t.core
  let psel := pselOf s t.vd cl th.arch.pix.toNat
  match th.spot.bind fun p => (atSpot s cl p).map fun d => (p, d) with
  | some (p, d) => .hit p d
  | none =>
    match lookPlace s t.vd t.core th.arch.pc fun x => (lineOf s cl psel (x.pa th.arch.pc.toNat)).isSome with
    | .error (code, d) => if blindIllegal s t th then .fault cILLEGAL 0 else .fault code d
    | .ok pa =>
      match lineOf s cl psel pa with
      | some l => match l.code with
        | d :: _ => .hit { line := l.id, ix := 0 } d
        | [] => .miss psel pa
      | none => .miss psel pa

/-- A thread holds a position: a line found by a lookup is the most recently used. -/
def takeSpot (s : State) (k tid cluster : Nat) (p : Spot) : State :=
  let s1 := if p.ix = 0 then
      { s with lines := AMap.set s.lines cluster ((AMap.get [] s.lines cluster).map fun l => if l.id = p.line then { l with used := s.cycle } else l) }
    else s
  s1.modThread k tid fun th => { th with spot := some p }

end Sys2Proof.Machine
end

