-- ==== Sys2Proof/Machine/Guest.lean ====
section
/-! DEFINITION. Clause headers (R76) and the expansion of guest instructions: decode (R286), template misses (R297), the commit point
(R289) and its buffered stores (R292). -/

namespace Sys2Proof.Machine

/-! ## Clause headers -/

/-- The clause that a header at an address opens (R74, R75). -/
def clauseOf (h : Header) (pc : DWord) : Clause :=
  { due := false, loose := false, start := pc, stop := pc + BitVec.ofNat 64 (8 * (h.count.toNat + 1)), aflag := h.aflag, bflag := h.bflag }

/-- A thread reaches a header (R76). -/
def headThread (s : State) (th : Thread) (h : Header) : Thread :=
  let th1 := { th with spot := nextSpot th, arch := { th.arch with clause := clauseOf h th.arch.pc, pc := th.arch.pc + 8, prio := h.prio } }
  if maskClear th.f h.wait then th1 else { th1 with wait := some (.clause h.wait), waitFrom := s.cycle }

/-- A stream reaches a header: WAIT names kf, PRIO is ignored (R224). -/
def headStream (t : Team) (h : Header) : Team :=
  let st := { t.stream with clause := clauseOf h t.stream.pc, pc := t.stream.pc + 8 }
  if maskClear t.kf h.wait then { t with stream := st } else { t with stream := { st with wait := some (.clause h.wait) } }

/-- CLAUSE_HEADER (R76); inside another clause's words, and where it is malformed, it is illegal (R75). -/
def execClauseHeader (h : Header) (s : State) : Out :=
  match s.turn with
  | .thread k tid =>
    match s.thread? k tid with
    | none => .fault .noAgent
    | some th =>
      if !h.ok || !(th.arch.clause.due || th.arch.clause.loose) then .next (faultThread s k tid cILLEGAL 0)
      else .next (s.modThread k tid fun th => headThread s th h)
  | .stream k =>
    match s.team? k with
    | none => .fault .noAgent
    | some t =>
      if !h.ok || !(t.stream.clause.due || t.stream.clause.loose) then .next (faultStream s k cILLEGAL 0)
      else .next (s.modTeam k fun t => headStream t h)

/-! ## Guest instructions -/

/-- The frame of a template miss (R297). -/
def missFrame (th : Thread) (b : List Byte) (w len : Nat) : Thread :=
  let n := (imgHead b).nextr
  let e : AMap Word := (List.range 8).map fun i => (i, if i < n then extValue (extractor b i) w else 0)
  { th with arch := { th.arch with
      e := e, egw0 := BitVec.ofNat 64 w, egw1 := BitVec.ofNat 64 (w / 2 ^ 64), elen := BitVec.ofNat 32 len,
      epc := BitVec.ofNat 64 (th.arch.pix.toNat * 2 ^ 61) ||| th.arch.pc } }

/-- The transfer to the emulation vector, counted; no vector is an ILLEGAL_OP at the guest instruction (R297). -/
def templateMiss (s : State) (k : Nat) (t : Team) (tid : Nat) (b : List Byte) (w len : Nat) : State :=
  let s1 := s.modThread k tid fun th => missFrame th b w len
  if t.lrec.evec = 0 then faultThread s1 k tid cILLEGAL 0
  else (countPerf s1 t.vd t.core 0x300).modThread k tid fun th => goToPix th t.lrec.evec 0 none

/-- t0 to t7 as an expansion finds them: undefined (R285, log 5). -/
def freeTemps (s : State) : AMap Word := (List.range 8).map fun i => (i, Config.freeWord (s.free + i))

/-- The decode faults of a template's operations, in operation order (R286 step 4). -/
def opsFault (c : Ctx) (ops : List Instr) : Option FaultInfo :=
  ops.findSome? fun i =>
    match i.code, i.args with
    | some (cls, opc), some a => decodeFault c cls opc a false
    | _, _ => some (cILLEGAL, 0)

/-- A decoded guest instruction begins: the whole expansion, or the last operation alone in its tail (R287, R294). -/
def beginExpansion (s : State) (k tid : Nat) (ops : List Instr) (len : Nat) : State :=
  let s1 := { s with free := s.free + 8 }
  s1.modThread k tid fun th =>
    let ar := { th.arch with t := freeTemps s }
    let tail := inTail th
    { th with
      safe := none, arch := ar,
      expansion := some { ops := if tail then ops.drop (ops.length - 1) else ops, len := len, saved := th.arch, bad := th.bad, stores := [],
                          checked := tail, committed := tail } }

/-- The kept wait of a guest's EXIT, which has committed and at which the thread stands again (log 57). -/
def keptExit (th : Thread) : Bool := (keptHere th).any fun kp => kp.wait == .exit

/-- A decoded guest instruction issues (R286 steps 2 to 4, R297); an EXIT that a notice has taken out of its drain goes on with it (R294). -/
def issueGuest (s : State) (k tid : Nat) (t : Team) (th : Thread) (d : Decoded) : State :=
  if keptExit th then s.modThread k tid fun th => { dropKept th with wait := some .exit, waitFrom := s.cycle, safe := none }
  else match d with
  | .illegal => faultThread s k tid cILLEGAL 0
  | .miss len w =>
    match imageAt s t.vd th.arch.pix.toNat with
    | some img => templateMiss s k t tid img.body w len
    | none => faultThread s k tid cILLEGAL 0
  | .run len ops =>
    match opsFault { s := s, key := k, team := t, tid := tid, th := th } ops with
    | some (code, d) => faultThread s k tid code d
    | none => if ops.isEmpty then faultThread s k tid cILLEGAL 0 else beginExpansion s k tid ops len

/-- The fills of a cluster. -/
def setFills (s : State) (cluster : Nat) (fs : List Fill) : State := { s with fills := AMap.set s.fills cluster fs }

/-- A thread's lookup misses (R387, R388): a fill begins, or its core joins one; each is counted (R487). -/
def startFill (s : State) (t : Team) (th : Thread) (psel pa : Nat) : State :=
  let cl := clusterOf t.core
  let fs := AMap.get [] s.fills cl
  let same (f : Fill) : Bool := f.psel == psel && f.pa == pa
  let s1 := match fs.find? same with
    | some f =>
      if f.cores.contains t.core then s
      else countPerf (setFills s cl (fs.map fun f => if same f then { f with cores := f.cores ++ [t.core] } else f)) t.vd t.core 0x500
    | none =>
      let f : Fill := { psel := psel, pa := pa, va := th.arch.pc.toNat, vd := t.vd, pix := th.arch.pix.toNat, cores := [t.core], returned := false }
      countPerf (setFills s cl (fs ++ [f])) t.vd t.core 0x400
  { s1 with stalled := true }

/-- A guest instruction that misses: its own fetch faults are met first (R80, R286); one that is illegal where no line can be written, since its
first byte cannot be fetched and it references none, is so at once (R372). -/
def missGuest (s : State) (k tid : Nat) (t : Team) (th : Thread) (psel pa : Nat) : State :=
  match decodeAt s t.vd t.core th.arch.pix.toNat (imageAt s t.vd th.arch.pix.toNat) th.arch.pc, fetchPlace s t.vd t.core th.arch.pc with
  | .error (code, d), _ => faultThread (noteFetch s t.vd t.core th.arch.pc) k tid code d
  | .ok (_, .illegal), .error _ => faultThread s k tid cILLEGAL 0
  | .ok _, _ => startFill s t th psel pa

/-- GUEST_INSTRUCTION_DECODE (R286, R387): the checks in order; earlier accesses of the thread are performed first, but for the buffered stores of its
guest instructions, which the later ones follow in order (R292). -/
def execGuestInstructionDecode (s : State) : Out :=
  match s.turn with
  | .stream _ => .fault .noAgent
  | .thread k tid =>
    match s.team? k, s.thread? k tid with
    | some t, some th =>
      if th.arch.pix = 0 ∨ th.expansion.isSome then event s
      else if awaitsAccess th then event (performOldest s (.thread k tid))
      else if (imageAt s t.vd th.arch.pix.toNat).isNone then event (faultThread s k tid cILLEGAL 0)
      else match lookUp s t th with
        | .fault code d => event (faultThread s k tid code d)
        | .miss psel pa => event (missGuest s k tid t th psel pa)
        | .hit p d => event (issueGuest (takeSpot s k tid (clusterOf t.core) p) k tid t th d)
    | _, _ => .fault .noAgent

/-- Whether an expansion has come to its commit point: its last operation's checks have passed and every load has returned. -/
def canCommit (th : Thread) : Bool :=
  match th.expansion with
  | some x => x.checked && !x.committed && !awaitsAccess th && !(th.pending.any fun p => p.rank == 1)
  | none => false

/-- COMMIT_POINT (R289): an expansion whose last operation has taken effect is over; one whose last operation takes effect after this point
goes on to it. -/
def execCommitPoint (s : State) : Out :=
  match s.turn with
  | .stream _ => .fault .noAgent
  | .thread k tid =>
    match s.thread? k tid with
    | none => .fault .noAgent
    | some th =>
      match th.expansion with
      | none => event s
      | some x =>
        if canCommit th then
          event (s.modThread k tid fun th => if x.ops.isEmpty then passGuest (commitThread th) x.len else commitThread th)
        else if x.checked && !x.committed && awaitsAccess th then event (performOldest s (.thread k tid))
        else event s

/-- BUFFERED_STORE_PERFORMED (R292). -/
def execBufferedStorePerformed (ag : Agent) (s : State) : Out :=
  match outOf s ag with
  | ac :: _ => if ac.buffered then event (performOldest s ag) else event s
  | [] => event s

end Sys2Proof.Machine
end

