-- ==== Sys2Proof/Machine/Events.lean ====
section
/-! DEFINITION. Events of the threads and cores: completions of accesses and copies (R180, R197, R203, R342), windows (R18, R19), waits
that time ends (R129 to R131, R191), spawn bins (R312), notices, the deadlock detector and the watchdog (R273, R323, R444, R452), fills
(R388), and the passing of time (R9, R330). -/

namespace Sys2Proof.Machine

/-! ## Accesses and copies -/

/-- The oldest outstanding access of an agent, of a kind, is performed. -/
def performIf (s : State) (ag : Agent) (f : Access → Bool) : State :=
  match outOf s ag with
  | ac :: _ => if f ac then performOldest s ag else s
  | [] => s

/-- LOAD_DATA_RETURN (R180) and STORE_PERFORMED (R25). -/
def execLoadDataReturn (ag : Agent) (s : State) : Out := event (performIf s ag fun ac => returnsData ac.op)
def execStorePerformed (ag : Agent) (s : State) : Out := event (performIf s ag fun ac => !returnsData ac.op)

/-- A copy whose write can be performed now: nothing of its thread must come first (R200). -/
def copyReady (t : Team) (id : Nat) : Bool :=
  t.resident && (match AMap.find t.copies id with
    | some c => !copyBlocked t id c
    | none => false)

/-- COPY_WRITE_PERFORMED (R197). -/
def execCopyWritePerformed (team copy : Nat) (s : State) : Out :=
  event (match s.team? team with
    | some t => if copyReady t copy then performCopy s team copy else s
    | none => s)

/-- A deferred arrival whose copies have all been performed. -/
def arrivalReady (t : Team) (j : Nat) : Bool :=
  t.resident && (match AMap.find t.arrivals j with
    | some a => a.copies.all fun i => (AMap.find t.copies i).isNone
    | none => false)

/-- CPA_ARRIVAL (R203). -/
def execCpaArrival (team arrival : Nat) (s : State) : Out :=
  event (match s.team? team with
    | some t =>
      match arrivalReady t arrival, AMap.find t.arrivals arrival with
      | true, some a => applyArrival (s.setTeam team { t with arrivals := AMap.del t.arrivals arrival }) team a.glade
      | _, _ => s
    | none => s)

/-- Copies of a core that the coalescer still holds: no read made, and no earlier copy of the thread that a CFENCE puts before it. -/
def heldCopies (s : State) (core : Nat) : List (Nat × Nat × Copy) :=
  ((teamsOn s core).map fun p => (p.2.copies.filter fun q => q.2.data.isNone &&
    !(p.2.copies.any fun r => decide (r.1 < q.1) && r.2.tid == q.2.tid && decide (r.2.epoch < q.2.epoch))).map fun q =>
      (p.1, q.1, q.2)).flatten

/-- COALESCER_MERGE (R198): the held copies' line operations issue: their reads are made. -/
def execCoalescerMerge (core : Nat) (s : State) : Out :=
  event ((heldCopies s core).foldl (fun s x =>
    match s.team? x.1 with
    | some t =>
      let (s1, d) := copyRead s t x.2.2
      s1.modTeam x.1 fun t => { t with copies := AMap.set t.copies x.2.1 { x.2.2 with data := some d } }
    | none => s) s)

/-! ## Acknowledgments (R191, R342) -/

/-- Every system write that awaits acknowledgment changed, or acknowledged (none): those of agents, of saved ones, and of retired teams. -/
def mapWrites (s : State) (f : SysWrite → Option SysWrite) : State :=
  let entry (r : Replay) : Replay :=
    match r.write with
    | some w => if r.acked then r else match f w with
      | some x => { r with write := some x }
      | none => { r with acked := true }
    | none => r
  { s with
    teams := s.teams.map fun p => (p.1, { p.2 with
      threads := p.2.threads.map fun q => (q.1, { q.2 with unacked := q.2.unacked.filterMap f }),
      stream := { p.2.stream with unacked := p.2.stream.unacked.filterMap f }, replays := p.2.replays.map entry }),
    launches := s.launches.map fun p => (p.1, { p.2 with unacked := p.2.unacked.filterMap f }) }

/-- The system writes that await acknowledgment, and those of them that have not arrived. -/
def unackedWrites (s : State) : List SysWrite := (s.teams.map fun p => teamWrites p.2).flatten ++ (s.launches.map fun p => p.2.unacked).flatten
def onTheWay (s : State) : List SysWrite := (unackedWrites s).filter fun w => !w.arrived

/-- Order of two numbers of a counter of 32 bits (R342). -/
def seqLe (a b : Nat) : Bool := decide ((b + 2 ^ 32 - a) % 2 ^ 32 < 2 ^ 31)

def sameWay (a b : SysWrite) : Bool := a.core == b.core && a.port == b.port

/-- Two writes of a port that share a byte. -/
def writesMeet (a b : SysWrite) : Bool :=
  a.port == b.port && decide (a.pa < b.pa + b.old.length) && decide (b.pa < a.pa + a.old.length)

/-- A write arrives at its destination: after the lower-numbered ones of its core and port, or, under Relaxed Ordering, after those of them that
it overlaps (R342, R343). Where one of them overlaps a write of another core, all that the port holds arrive (log 50). -/
def arriveWrite (s : State) (w : SysWrite) : State :=
  let loose := (AMap.get {} s.ports w.port).relaxed
  let goes (x : SysWrite) : Bool := sameWay x w && seqLe x.seq w.seq && (!loose || x.seq == w.seq || writesMeet x w)
  let way := onTheWay s
  let all := (way.filter goes).any fun x => way.any fun y => !sameWay x y && writesMeet x y
  mapWrites s fun x => some (if (if all then x.port == w.port else goes x) then { x with arrived := true } else x)

/-- Writes, the latest access first; those of other lines keep their order. -/
def newestFirst (ws : List SysWrite) : List SysWrite :=
  ws.foldr (fun w acc => acc.takeWhile (fun y => decide (w.time.toNat < y.time.toNat)) ++ w :: acc.dropWhile fun y => decide (w.time.toNat < y.time.toNat)) []

/-- Memory as its owner sees it: without the writes that have not arrived (R343), or without those that a link discards (R478). -/
def withoutWrites (m : List Host.Cell) (ws : List SysWrite) : List Host.Cell := (newestFirst ws).foldl (fun m w => cellsSet m w.pa w.old) m

/-- The system writes of an agent, or of the retired teams of a launch, in issue order. -/
def writesOf (s : State) : Agent → List SysWrite
  | .thread k tid => ((s.thread? k tid).map Thread.unacked).getD []
  | .stream k => match s.team? k with
    | some t => t.stream.unacked
    | none => ((AMap.find s.launches k).map Launch.unacked).getD []

/-- Traffic has passed over a port's link: its retries no longer fail in a row (R478). -/
def linkWorks (s : State) (port : Nat) : State :=
  if port < 2 then s
  else match AMap.find s.links (port - 2) with
    | some x => if x.failed = 0 then s else { s with links := AMap.set s.links (port - 2) { x with failed := 0 } }
    | none => s

/-- The bytes under a write with those that a later write has put there. -/
def keepOver (m : List Host.Cell) (w x : SysWrite) : SysWrite :=
  { x with old := (x.old.zip (List.range x.old.length)).map fun b =>
      if w.pa ≤ x.pa + b.2 ∧ x.pa + b.2 < w.pa + w.old.length then cellGet m (x.pa + b.2) else b.1 }

/-- A write to a peer that is to be acknowledged stays where a link that goes down discards earlier writes under it (R478, log 50). -/
def standsOver (s : State) (w : SysWrite) : State :=
  let under (x : SysWrite) : Bool := decide (x.time.toNat < w.time.toNat) && writesMeet x w
  if w.port < 2 || !(unackedWrites s).any under then s
  else
    let m := withoutWrites s.mem ((unackedWrites s).filter fun x => decide (w.time.toNat < x.time.toNat))
    mapWrites s fun x => some (if under x then keepOver m w x else x)

/-- A system write is acknowledged, and has so arrived (R342). -/
def ackWrite (s : State) (w : SysWrite) : State :=
  linkWorks (mapWrites (standsOver (arriveWrite s w) w) fun x => if sameWay x w && x.seq == w.seq then none else some x) w.port

/-- SYSTEM_WRITE_ACK: the destination acknowledges the agent's oldest write (R342), which has so arrived. -/
def execSystemWriteAck (ag : Agent) (s : State) : Out :=
  match writesOf s ag with
  | w :: _ => event (ackWrite s w)
  | [] => event s

/-- MARKER_ACK (R342): the port has acknowledged the thread's fence marker, and so every lower-numbered write of its core. -/
def execMarkerAck (ag : Agent) (s : State) : Out :=
  match ag with
  | .stream _ => event s
  | .thread k tid =>
    match s.team? k, s.thread? k tid with
    | some t, some th =>
      match th.markers with
      | (p, n) :: _ =>
        let before (x : SysWrite) : Bool := x.core == t.core && x.port == p && seqLe x.seq n
        let s1 := ((unackedWrites s).filter before).foldl standsOver (((onTheWay s).filter before).foldl arriveWrite s)
        event ((linkWorks (mapWrites s1 fun x => if before x then none else some x) p).modThread k tid fun th => { th with markers := th.markers.drop 1 })
      | [] => event s
    | _, _ => event s

/-- Whether a thread's SYNCH drain is complete. -/
def synchReady (t : Team) (tid : Nat) (th : Thread) : Bool :=
  match th.wait with
  | some (.drain _) => drained t tid th
  | _ => false

/-- SYNCH_DRAIN_COMPLETE (R191): the wait for the next tick begins. -/
def execSynchDrainComplete (ag : Agent) (s : State) : Out :=
  match ag with
  | .stream _ => event s
  | .thread k tid =>
    match s.team? k, s.thread? k tid with
    | some t, some th =>
      match th.wait with
      | some (.drain len) =>
        if drained t tid th then event (s.modThread k tid fun th => { th with wait := some (.tick s.growth len) }) else event s
      | _ => event s
    | _, _ => event s

/-! ## Windows (R16 to R19) -/

/-- A thread that needs a window of its partition: in RGN's wait, or awake with WVALID and none held. -/
def needsWindow (th : Thread) : Bool :=
  match th.wait with
  | some (.region _ _) => true
  | none => th.arch.wvalid && !th.held && th.yielded.isNone
  | _ => false

/-- A thread in a wait state of R318: a restage on wake is one. -/
def inWait (th : Thread) : Bool := th.wait.isSome || needsWindow th

/-- Windows held in an issue partition of a core. -/
def windowsHeld (s : State) (core part : Nat) : Nat :=
  ((teamsOn s core).map fun p => (p.2.threads.filter fun q => q.2.held && q.2.slot / 32 % 4 == part).length).sum

def windowFree (s : State) (t : Team) (th : Thread) : Bool := decide (windowsHeld s t.core (th.slot / 32 % 4) < 256)

/-- A window is granted and staged (R18): RGN, which waits for it, so passes, with WBASE and WVALID set (R117). -/
def grantWindow (cycle : Nat) (th : Thread) : Thread :=
  let th1 := match th.wait with
    | some (.region base len) => let x := passOp th len th.after; { x with arch := { x.arch with wbase := base, wvalid := true } }
    | _ => th
  { th1 with held := true, dirty := 0, wait := some .staging, waitFrom := cycle }

/-- WINDOW_GRANT (R18). -/
def execWindowGrant (ag : Agent) (s : State) : Out :=
  match ag with
  | .stream _ => event s
  | .thread k tid =>
    match s.team? k, s.thread? k tid with
    | some t, some th =>
      if needsWindow th && windowFree s t th then event (s.modThread k tid (grantWindow s.cycle)) else event s
    | _, _ => event s

/-- WINDOW_STAGED (R18). -/
def execWindowStaged (ag : Agent) (s : State) : Out :=
  match ag with
  | .stream _ => event s
  | .thread k tid =>
    event (s.modThread k tid fun th =>
      match th.wait with
      | some .staging => { th with wait := none, held := true }
      | _ => th)

/-- A wait of more than 256 cycles with a window held (R19); the staging of that window takes 9 (R18). -/
def losesWindow (s : State) (th : Thread) : Bool :=
  th.held && th.wait.isSome && th.wait != some .staging && decide (th.waitFrom + 256 < s.cycle)

/-- WINDOW_LOSS (R19): WBASE and WVALID stay. -/
def execWindowLoss (ag : Agent) (s : State) : Out :=
  match ag with
  | .stream _ => event s
  | .thread k tid => event (s.modThread k tid fun th => if losesWindow s th then { th with held := false, dirty := 0 } else th)

/-! ## Waits that time ends -/

def napOver (s : State) (th : Thread) : Bool :=
  match th.wait with
  | some (.nap g _) => decide (g.toNat ≤ s.growth.toNat)
  | _ => false

/-- NAP_DEADLINE (R131). -/
def execNapDeadline (ag : Agent) (s : State) : Out :=
  match ag with
  | .stream _ => event s
  | .thread k tid =>
    event (s.modThread k tid fun th =>
      match th.wait with
      | some (.nap g len) => if g.toNat ≤ s.growth.toNat then passOp th len th.after else th
      | _ => th)

def yieldOver (s : State) (th : Thread) : Bool := th.yielded.any fun c => decide (c ≤ s.cycle)

/-- YIELD_EXPIRY (R130). -/
def execYieldExpiry (ag : Agent) (s : State) : Out :=
  match ag with
  | .stream _ => event s
  | .thread k tid => event (s.modThread k tid fun th => if yieldOver s th then { th with yielded := none } else th)

/-- The pending event that is delivered first (R444); with LIVE = 1, one that doubles the fault (R445), unless it was left to wait for the handler's
dismissal (R444, R463). -/
def topPending (th : Thread) : Option Pending :=
  let ok (p : Pending) : Bool := decide (2 ≤ p.rank) && (!isLive th || ((p.rank == 2 || p.rank == 4) && !p.held))
  [2, 3, 4, 5].findSome? fun r => th.pending.find? fun p => p.rank == r && ok p

/-- A thread's exit drain is over: no event is pending that takes it out of that wait (R273, R318). -/
def exitReady (th : Thread) : Bool := th.wait == some .exit && th.out.isEmpty && (topPending th).isNone

/-- EXIT_DRAIN_COMPLETE (R129, R448). -/
def execExitDrainComplete (ag : Agent) (s : State) : Out :=
  match ag with
  | .stream _ => event s
  | .thread k tid =>
    match s.team? k, s.thread? k tid with
    | some t, some th =>
      if !exitReady th then event s
      else
        let s1 := removeThread s k tid
        if th.arch.mode && isLive th then
          event (terminateGang s1 t.gang ((th.cr.fstat >>> 24).truncate 8) 0 t.teamid tid th.cr.faddr true)
        else event s1
    | _, _ => event s

/-- CT_DRIFT (R330): 8 cycles pass; the deadlock detector's count of a gang starts or ends (R323). -/
def gangBlocked (s : State) (gk : Nat) (g : Gang) : Bool :=
  let ts := g.teams.filterMap fun k => (s.team? k).map fun t => (k, t)
  let ths := (ts.map fun p => p.2.threads.map Prod.snd).flatten
  g.placed && !g.saved && g.stopAt.isNone && !ths.isEmpty &&
  (ths.all fun th => th.pending.isEmpty && !th.dead && (match th.wait with
    | some (.glade _ _ _ _ _) | some (.barrier _ _ _ _) | some (.exchange _ _ _ _ _) => true
    | _ => false)) &&
  (ts.all fun p =>
    p.2.gang == gk && p.2.ufault.isEmpty && !p.2.dbgStop &&
    (p.2.stream.retired || p.2.stream.stopped || (match p.2.stream.wait with
      | some (.barrier _ _ _) => true
      | _ => false)) &&
    (p.2.copies.all fun q => q.2.glade.isNone) && p.2.arrivals.isEmpty &&
    (p.2.bulk.all fun c => (bulkGlade c).isNone) && ((p.2.running.map fun r => (bulkGlade r.cmd).isNone).getD true) &&
    (p.2.bins.all fun b => b.reqs.isEmpty) &&
    !s.halts.any fun h => h.targets.any fun x => x.1 == p.1)

/-- A team's engines go on while time passes (R236, R253, R262): some rows of what its units, its cluster's loader and its bulk-copy engine
have in hand (log 2). -/
def engineDrift (s : State) (k : Nat) : State :=
  match s.team? k with
  | none => s
  | some t =>
    if !t.resident || t.retired then s
    else
      let s1 := t.granted.foldl (fun s g => unitStep s k g.1 8) s
      let s2 := match (if t.loads.isEmpty then none else nextLoad s1 (clusterOf t.core)) with
        | some (j, u, c) => if j = k then loadStep s1 k u c 8 else s1
        | none => s1
      if (t.running.map bulkLeft).any fun n => decide (8 < n) then bulkFinish s2 k 8 else s2

/-- The cycles of a drift counted for every virtual device resident on a core, and for those on a cluster (R487). -/
def countCycles (s : State) : State :=
  let cores := ((s.teams.filter fun p => p.2.resident && !p.2.retired && gangPlaced s p.2).map fun p => (p.2.vd, p.2.core)).eraseDups
  let s1 := cores.foldl (fun s x => addPerf s x.1 x.2 0 8) s
  ((cores.map fun x => (x.1, perfCore x.2 0x3000)).eraseDups).foldl (fun s x => addPerf s x.1 x.2 (perfTotal 0x3000) 8) s1

def execCtDrift (s : State) : Out :=
  let s0 := countCycles ((s.teams.map Prod.fst).foldl engineDrift s)
  let s1 := { s0 with cycle := s.cycle + 8 }
  event { s1 with gangs := s1.gangs.map fun p =>
    (p.1, { p.2 with blocked := if gangBlocked s1 p.1 p.2 then some (p.2.blocked.getD s1.cycle) else none }) }

/-- Whether the gang of a team is asked to stop (R428). -/
def stopping (s : State) (t : Team) : Bool := ((s.gang? t.gang).map fun g => g.stopAt.isSome).getD false

/-- The growth ring's tick is due: its reference gives 100 MHz whatever the core clock (R9). -/
def tickDue (s : State) : Bool := decide (s.ticked + s.clock / 100 ≤ s.cycle)

/-- A team's watchdog at a tick (R451, R452): its count rises while the team is placed and no debugger has stopped it; it expires where the count has
come to the limit. -/
def tickWatchdog (t : Team) (placed : Bool) (g : DWord) : Team :=
  let n := if placed && !t.dbgStop then t.wdcnt + 1 else t.wdcnt
  { t with wdcnt := n, wdDue := t.wdDue.or (if placed && t.wdlim != 0 && decide (t.wdlim.toNat ≤ n.toNat) then some g else none) }

/-- GROWTH_RING_TICK (R9): watchdog counts rise and watchdogs expire (R451, R452); SYNCHs that wait for the tick end (R191), and a thread asked to
stop then stops (R428). -/
def execGrowthRingTick (s : State) : Out :=
  let g := s.growth + 1
  let tick (stop : Bool) (th : Thread) : Thread := match th.wait with
    | some (.tick g0 len) => if g0.toNat < g.toNat then { passOp th len th.after with preempted := stop } else th
    | _ => th
  event <| endStopHalts { s with
    growth := g,
    ticked := if tickDue s then s.ticked + s.clock / 100 else s.cycle,
    teams := s.teams.map fun p =>
      (p.1, if p.2.resident && !p.2.retired then
          { tickWatchdog p.2 (gangPlaced s p.2) g with
            threads := p.2.threads.map fun q => (q.1, tick (stopping s p.2) q.2) }
        else p.2) }

/-! ## Spawn bins (R312) -/

def binDue (s : State) (x : Nat × Bin) : Bool :=
  ((s.team? x.1).map fun t => t.resident && decide (x.2.since + t.lrec.spawntmr ≤ s.cycle)).getD false

/-- SPAWN_TIMER_EXPIRY: `bin` counts the core's bins, oldest first request first. -/
def execSpawnTimerExpiry (core bin : Nat) (s : State) : Out :=
  match (binsOn s core)[bin]? with
  | some (k, b) => if binDue s (k, b) then event (flushBin s k b) else event s
  | none => event s

/-- Every thread of a team waits or is stopped (R312). -/
def allWaiting (s : State) (k : Nat) (t : Team) : Bool :=
  t.threads.all fun p => inWait p.2 || p.2.dead || hasStopped s k p.1 p.2

/-- SPAWN_TEAM_WAITING. DESIGN CHOICE (log 68): the bins of the team are flushed in the order in which it took them. -/
def execSpawnTeamWaiting (team : Nat) (s : State) : Out :=
  match s.team? team with
  | none => event s
  | some t => if t.resident && allWaiting s team t then event (t.bins.foldl (fun s b => flushBin s team b) s) else event s

/-! ## Notices and detectors -/

/-- The thread of a team with the lowest sr.tid whose LIVE is 0 (R273, R452). -/
def quietThread (t : Team) : Option Nat := (leastBy Prod.fst (t.threads.filter fun p => !isLive p.2 && !p.2.dead)).map Prod.fst

/-- UNIFORM_FAULT_DELIVERY (R273): the fault becomes pending for the thread it is delivered to; a team without threads is terminated. -/
def execUniformFaultDelivery (team : Nat) (s : State) : Out :=
  match s.team? team with
  | none => event s
  | some t =>
    match t.ufault with
    | [] => event s
    | u :: rest =>
      if t.threads.isEmpty then event (terminateGang s t.gang u.code 0 t.teamid 0xFFFFFFFF u.datum true)
      else match quietThread t with
        | none => event s
        | some tid =>
          event ((s.setTeam team { t with ufault := rest }).modThread team tid fun th => addPending th 3 u.code u.datum)

/-- A watchdog that has expired (R452). -/
def watchdogDue (t : Team) : Bool := t.resident && !t.retired && t.wdDue.isSome

/-- WATCHDOG (R452): the datum is growth at the tick of the expiry. DESIGN CHOICE (log 71): the notice of a termination has TID 0xFFFF_FFFF, also where a
thread of the team holds the live WATCHDOG record. -/
def execWatchdog (s : State) : Out :=
  match s.teams.find? fun p => watchdogDue p.2 with
  | none => event s
  | some (team, t) =>
      let d := t.wdDue.getD 0
      let s1 := s.setTeam team { t with wdDue := none }
      let gone := terminateGang s1 t.gang cWATCHDOG 0 t.teamid 0xFFFFFFFF d true
      if t.threads.any fun p => isLive p.2 && p.2.cr.fstat.toNat / 2 ^ 24 == 0x1C then event gone
      else match quietThread t with
        | none => event gone
        | some tid => event ((s1.modTeam team fun t => { t with wdcnt := 0 }).modThread team tid fun th => addPending th 5 cWATCHDOG d)

/-- The datum of RENDEZVOUS_DEADLOCK (R324). -/
def deadlockDatum : Wait → DWord
  | .glade ea _ _ _ _ => ea
  | .exchange ea _ _ _ _ => ea
  | .barrier b _ _ _ => BitVec.ofNat 64 b
  | _ => 0

/-- Since when a gang has been blocked (R323). -/
def blockedSince (s : State) (g : Gang) : Option Nat :=
  g.blocked.map fun b => (g.teams.filterMap s.team?).foldl (fun m t => t.threads.foldl (fun m p => max m p.2.waitFrom) m) b

def deadlocked (s : State) (gk : Nat) (g : Gang) : Bool :=
  gangBlocked s gk g && (match blockedSince s g with
    | some b => decide (b + 4096 ≤ s.cycle)
    | none => false)

/-- RENDEZVOUS_DEADLOCK (R323, R324): every waiting thread takes it. -/
def execRendezvousDeadlock (s : State) : Out :=
  match s.gangs.find? fun p => deadlocked s p.1 p.2 with
  | none => event s
  | some (gang, g) =>
      let victims := (g.teams.filterMap fun k => (s.team? k).map fun t => t.threads.map fun p => (k, p.1)).flatten.eraseDups
      event ((victims.foldl (fun u v =>
        match s.thread? v.1 v.2 with
        | some th => deliver u v.1 v.2 cRENDEZVOUS 0 2 th.arch.pc ((th.wait.map deadlockDatum).getD 0)
        | none => u) s).modGang gang fun g => { g with blocked := none })

/-- The SRC of a notice's rank (R270, R444). -/
def srcOf (rank : Nat) : BitVec 8 := if rank = 3 then 1 else 2

/-- A pending event held by a thread with LIVE = 1 that another thread of the team can take (R445). -/
def movablePending (t : Team) (th : Thread) : Option (Pending × Nat) :=
  if !isLive th then none
  else match th.pending.find? fun p => p.rank == 3 || p.rank == 5, quietThread t with
    | some p, some tid => some (p, tid)
    | _, _ => none

/-- ASYNC_NOTICE_DELIVERY (R444): the notice is delivered, the instruction at the boundary not executed. -/
def execAsyncNoticeDelivery (ag : Agent) (s : State) : Out :=
  match ag with
  | .stream _ => event s
  | .thread k tid =>
    match s.team? k, s.thread? k tid with
    | some t, some th =>
      match topPending th with
      | some p =>
        if th.pastCommit || !(atPoint th || (th.expansion.map fun x => x.checked).getD false) then event s
        else
          let s1 := s.modThread k tid fun th => rollback { th with pending := th.pending.erase p }
          event (deliver s1 k tid p.code 0 (srcOf p.rank) (((s1.thread? k tid).map fun th => th.arch.pc).getD 0) p.datum)
      | none =>
        match movablePending t th with
        | some (p, other) =>
          event ((s.modThread k tid fun th => { th with pending := th.pending.erase p }).modThread k other
            fun th => { th with pending := th.pending ++ [{ p with held := false }] })
        | none => event s
    | _, _ => event s

/-! ## Fills of the decoded-operation cache (R388) -/

/-- FETCH_RETURN. -/
def execFetchReturn (cluster fill : Nat) (s : State) : Out :=
  let fs := AMap.get [] s.fills cluster
  event (match fs[fill]? with
    | some f => setFills s cluster (fs.set fill { f with returned := true })
    | none => s)

/-- Bytes of the instructions of a line. -/
def codeBytes (ds : List Decoded) : Nat :=
  (ds.map fun d => match d with
    | .run n _ => n
    | .miss n _ => n
    | .illegal => 1).sum

/-- DOC_FILL_COMPLETE (R386, R388): the core whose miss began the fill fetches and decodes the line's instructions, and every core that
waits has the line. A guest's is expanded with the image in the slot that the line is for. No line is written where the entry instruction cannot be
fetched, its page has moved, or the slot holds no image any more. -/
def execDocFillComplete (cluster fill : Nat) (s : State) : Out :=
  let fs := AMap.get [] s.fills cluster
  match fs[fill]? with
  | some f =>
    if !f.returned then event s
    else
      let s0 := setFills s cluster (fs.eraseIdx fill)
      let core := f.cores.headD 0
      let va : DWord := BitVec.ofNat 64 f.va
      let img := slotImage s cluster f.psel f.vd f.pix
      match fetchPlace s f.vd core va, (if f.psel < 14 && img.isNone then [] else lineCode s f.vd core f.pix img 64 16 va) with
      | .ok pa, d :: ds =>
        if pa ≠ f.pa then event s0
        else
          let s1 := noteFetch (noteFetch s0 f.vd core va) f.vd core (va + BitVec.ofNat 64 (codeBytes (d :: ds) - 1))
          let l : Line := { id := s1.nextKey, psel := f.psel, pa := pa, used := s1.cycle, code := d :: ds }
          event { s1 with nextKey := s1.nextKey + 1, lines := AMap.set s1.lines cluster (addLine (AMap.get [] s1.lines cluster) l) }
      | _, _ => event s0
  | none => event s

end Sys2Proof.Machine
end

