-- ==== Sys2Proof/Machine/Float.lean ====
section
/-! DEFINITION. The floating-point, packed and conversion instructions of class 00 (R137 to R165). -/

namespace Sys2Proof.Machine

/-- RND and FTZ of R140. -/
def fRnd (a : Args) : Rnd := { mode := modBits a.mod 9 8, ftz := modBits a.mod 7 7 == 1 }
def fFtz (a : Args) : Bool := modBits a.mod 7 7 == 1
def fSub (a : Args) : Nat := modBits a.mod 3 0

/-- A float result: its bits to the destination, its flags into sr.fflags (R142, R165). -/
def giveF (th : Thread) (d : Sel) (r : FR) : Thread := raiseF (write32 th d (BitVec.ofNat 32 r.bits)) r.flags

/-- in() of R142 on an operand. -/
def fIn (c : Ctx) (a : Args) (x : Sel) : Nat := flushIn (fFtz a) (read32 c x).toNat

/-- An f32 operation on its flushed operands. -/
def runF (opc : Nat) (a : Args) (s : State) (f : Nat → Nat → Nat → FR) : Out :=
  runReg 0 opc a s fun c => giveF c.th a.dst (f (fIn c a a.sa) (fIn c a a.sb) (fIn c a a.sc))

def execFadd (a : Args) (s : State) : Out := runF 0x80 a s fun x y _ => opAdd .f32 (fRnd a) x y
def execFsub (a : Args) (s : State) : Out := runF 0x81 a s fun x y _ => opSub .f32 (fRnd a) x y
def execFmul (a : Args) (s : State) : Out := runF 0x82 a s fun x y _ => opMul .f32 (fRnd a) x y
def execFfma (a : Args) (s : State) : Out := runF 0x83 a s fun x y z => opFma .f32 (fRnd a) x y z
def execFmin (a : Args) (s : State) : Out := runF 0x84 a s fun x y _ => opMinMax .f32 false (fSub a == 1) x y
def execFmax (a : Args) (s : State) : Out := runF 0x85 a s fun x y _ => opMinMax .f32 true (fSub a == 1) x y

/-- FCMP (R146). -/
def execFcmp (a : Args) (s : State) : Out :=
  runReg 0 0x86 a s fun c =>
    let (r, fl) := floatCond (fSub a) (fIn c a a.sa) (fIn c a a.sb)
    let th := if modBits a.mod 6 6 = 1 then setPred c.th a.dst.toNum r
      else write32 c.th a.dst (if r then 0xFFFFFFFF else 0)
    raiseF th fl

/-- FSEL (R147). -/
def execFsel (a : Args) (s : State) : Out :=
  runReg 0 0x87 a s fun c =>
    let (r, fl) := floatCond (fSub a) (fIn c a a.sc) 0
    raiseF (write32 c.th a.dst (if r then read32 c a.sa else read32 c a.sb)) fl

/-- FCLASS (R148). -/
def execFclass (a : Args) (s : State) : Out :=
  runReg 0 0x88 a s fun c => write32 c.th a.dst (BitVec.ofNat 32 (2 ^ classBit (fIn c a a.sa)))

def execFrnd (a : Args) (s : State) : Out := runF 0x89 a s fun x _ _ => opRound (fRnd a).mode x

/-- FSCALE (R143): b is an integer. -/
def execFscale (a : Args) (s : State) : Out :=
  runReg 0 0x8A a s fun c => giveF c.th a.dst (opScale (fRnd a) (fIn c a a.sa) (read32 c a.sb).toInt)

def execFrcp (a : Args) (s : State) : Out := runF 0x90 a s fun x _ _ => opRcp (fRnd a) x
def execFrsq (a : Args) (s : State) : Out := runF 0x91 a s fun x _ _ => opRsqrt (fRnd a) x
def execFsqrt (a : Args) (s : State) : Out := runF 0x92 a s fun x _ _ => opSqrt (fRnd a) x
def execFdiv (a : Args) (s : State) : Out := runF 0x93 a s fun x y _ => opDiv (fRnd a) x y
def execFexp2 (a : Args) (s : State) : Out := runF 0x94 a s fun x _ _ => opTrans 0 (fFtz a) x
def execFlog2 (a : Args) (s : State) : Out := runF 0x95 a s fun x _ _ => opTrans 1 (fFtz a) x
def execFsin (a : Args) (s : State) : Out := runF 0x96 a s fun x _ _ => opTrans 2 (fFtz a) x
def execFcos (a : Args) (s : State) : Out := runF 0x97 a s fun x _ _ => opTrans 3 (fFtz a) x
def execFtanh (a : Args) (s : State) : Out := runF 0x98 a s fun x _ _ => opTrans 4 (fFtz a) x
def execFsigm (a : Args) (s : State) : Out := runF 0x99 a s fun x _ _ => opTrans 5 (fFtz a) x

/-- The packed format of XB (R152). -/
def pkTy (a : Args) : ElTy := if modBits a.mod 6 6 = 1 then .bf16 else .f16

/-- A packed operation (R152). -/
def runPk (opc : Nat) (a : Args) (s : State) (f : Nat → Nat → Nat → FR) : Out :=
  runReg 0 opc a s fun c =>
    giveF c.th a.dst (packed f (readPk c a.sa).toNat (readPk c a.sb).toNat (readPk c a.sc).toNat)

/-- The rounding mode of a packed operation. -/
def pkRnd (a : Args) : Rnd := { mode := modBits a.mod 9 8 }

def execPkadd (a : Args) (s : State) : Out := runPk 0xA0 a s fun x y _ => opAdd (pkTy a) (pkRnd a) x y
def execPkmul (a : Args) (s : State) : Out := runPk 0xA1 a s fun x y _ => opMul (pkTy a) (pkRnd a) x y
def execPkfma (a : Args) (s : State) : Out := runPk 0xA2 a s fun x y z => opFma (pkTy a) (pkRnd a) x y z
def execPkmin (a : Args) (s : State) : Out := runPk 0xA3 a s fun x y _ => opMinMax (pkTy a) false (fSub a == 1) x y
def execPkmax (a : Args) (s : State) : Out := runPk 0xA4 a s fun x y _ => opMinMax (pkTy a) true (fSub a == 1) x y

/-! ## Conversions -/

/-- The value of a float operand of a format (R138, R155): element 0, an f32 flushed under .ftz. -/
def convIn (t : ElTy) (ftz : Bool) (x : Nat) : FV := decodeF t (if t = .f32 then flushIn ftz x else elemCode t x)

/-- A float-to-float conversion (R57, R58): = and X are exact and write the canonical NaN. -/
def convF (src dst : ElTy) (r : Rnd) (v : FV) : FR :=
  let r1 : Rnd := { r with ftz := r.ftz && dst == .f32 }
  if convKind src dst = .narrow then
    if v.isNan then nanResult dst r (if v.isSnan then fNV else 0) else toFormat dst r1 v
  else if v.isNan then { bits := canonNan dst, flags := if v.isSnan then fNV else 0, isNan := true }
  else toFormat dst { mode := r.mode, ftz := r1.ftz } v

/-- Slot index, whether a slot is named, its word, and the rounding of a conversion under it (R153, R157). -/
def cvtFs (a : Args) : Nat := a.sc.toNum % 8
def cvtFsv (a : Args) : Bool := a.sc.toNum / 8 % 2 == 1
def cvtFtz (a : Args) : Bool := a.sc.toNum / 16 % 2 == 1

/-- The FORMAT_SLOT check of R64. -/
def slotFault (j : Nat) (ok : Bool) : Option FaultInfo := if ok then none else some (cFORMAT, BitVec.ofNat 64 j)

/-- A conversion under the slot that its SC names, if any. -/
def runCvt (opc : Nat) (a : Args) (s : State) (f : Ctx → Option Slot → Rnd → Thread) : Out :=
  runThread 0 opc a s fun c =>
    let rnd := modBits a.mod 1 0
    if cvtFsv a then
      let sl := fslOf c.team (cvtFs a)
      match slotFault (cvtFs a) sl.ok with
      | some (code, d) => .fault code d
      | none => .done (c.s.modThread c.key c.tid fun _ => f c (some sl) { sl.rounding rnd with ftz := cvtFtz a })
    else .done (c.s.modThread c.key c.tid fun _ => f c none { mode := rnd, ftz := cvtFtz a })

/-- CVT (R154 to R157). -/
def execCvt (a : Args) (s : State) : Out :=
  runCvt 0xA8 a s fun c sl r =>
    let sc := a.sc.toNum
    let ed := sc / 64 % 2 == 1
    let xs := sc / 32 % 2 == 1
    let x := (read32 c a.sa).toNat
    let side (code : Nat) : ElTy := match sl with
      | some w => if code = 0 then elemTy w.elem else ElTy.ofCode code
      | none => ElTy.ofCode code
    let dst := side (modBits a.mod 9 6)
    let src := side (modBits a.mod 5 2)
    if xs && ed then write32 c.th a.dst (BitVec.ofNat 32 (x % 256))
    else if ed then
      let (q, fl) := toE8M0 r.mode (convIn src r.ftz x)
      raiseF (write32 c.th a.dst (BitVec.ofNat 32 q)) fl
    else if xs then giveF c.th a.dst (fromE8M0 r.ftz (x % 256))
    else giveF c.th a.dst (convF src dst r (convIn src r.ftz x))

/-- CVTI (R154 to R157). -/
def execCvti (a : Args) (s : State) : Out :=
  runCvt 0xA9 a s fun c sl r =>
    let sat := a.sc.toNum / 32 % 2 == 1
    let dst := ElTy.ofCode (modBits a.mod 9 6)
    let src := match sl with
      | some w => elemTy w.elem
      | none => ElTy.ofCode (modBits a.mod 5 2)
    if src.isInt then writeInt c.th dst a.dst (extendTo dst.signed dst.width (intToInt src dst sat (readTy c src a.sa)))
    else
      let (z, fl) := floatToInt dst sat r.mode (convIn src r.ftz (read32 c a.sa).toNat)
      raiseF (writeInt c.th dst a.dst (extendTo dst.signed dst.width z)) fl

/-- CVTF (R154 to R157). -/
def execCvtf (a : Args) (s : State) : Out :=
  runCvt 0xAA a s fun c sl r =>
    let src := ElTy.ofCode (modBits a.mod 5 2)
    let dst := match sl with
      | some w => elemTy w.elem
      | none => ElTy.ofCode (modBits a.mod 9 6)
    giveF c.th a.dst (intToFloat dst { r with ftz := r.ftz && dst == .f32 } (toVal src.signed src.width (readTy c src a.sa)))

/-- QNT (R160 to R162). DEDUCED (log 46): its c is a packed source of the slot's elements, so an immediate goes to each of them (R69). -/
def execQnt (a : Args) (s : State) : Out :=
  runThread 0 0xAB a s fun c =>
    let fs := modBits a.mod 9 7
    let pos := modBits a.mod 5 4
    let sl := fslOf c.team fs
    let t := elemTy sl.elem
    let x := (read32 c a.sa).toNat
    match slotFault fs (sl.ok && sl.elem != 0 && decide (pos < 32 / cellWidth t)) with
    | some (code, d) => .fault code d
    | none =>
      if modBits a.mod 6 6 = 1 then
        let (q, fl) := qntScale t x
        .done (c.s.modThread c.key c.tid fun th => raiseF (write32 th a.dst (BitVec.ofNat 32 q)) fl)
      else
        let k := if sl.scale = 0 then 127 else (read32 c a.sb).toNat % 256
        let v := decodeF .f32 x
        let r := sl.rounding 0
        let q : FR :=
          if k = 255 then nanResult t r fNV
          else if v.isNan then nanResult t r (if v.isSnan then fNV else 0)
          else toFormat t r (v.scale (127 - (k : Int)))
        let w := elemSet (cellWidth t) pos (readPack c (cellWidth t) a.sc).toNat q.bits
        .done (c.s.modThread c.key c.tid fun th => raiseF (write32 th a.dst (BitVec.ofNat 32 w)) q.flags)

/-- DQNT (R163). A signalling NaN element raises NV, as the conversion of a signalling NaN does (R44). DEDUCED (log 46): a is a packed source
of the slot's elements (R69). -/
def execDqnt (a : Args) (s : State) : Out :=
  runThread 0 0xAC a s fun c =>
    let fs := modBits a.mod 9 7
    let pos := modBits a.mod 5 4
    let sl := fslOf c.team fs
    let t := elemTy sl.elem
    match slotFault fs (sl.ok && sl.elem != 0 && decide (pos < 32 / cellWidth t)) with
    | some (code, d) => .fault code d
    | none =>
      let k := if sl.scale = 0 then 127 else (read32 c a.sb).toNat % 256
      let v := decodeF t (elemCode t (elemGet (cellWidth t) pos (readPack c (cellWidth t) a.sa).toNat))
      let r := sl.rounding 0
      let q : FR :=
        if k = 255 then nanResult .f32 r fNV
        else if v.isNan then nanResult .f32 r (if v.isSnan then fNV else 0)
        else toFormat .f32 r (v.scale ((k : Int) - 127))
      .done (c.s.modThread c.key c.tid fun th => giveF th a.dst q)

/-- PACK2 (R158). DEDUCED (log 46): its c is a packed source of 8-bit elements (R69). -/
def execPack2 (a : Args) (s : State) : Out :=
  runThread 0 0xAD a s fun c =>
    let ty := modBits a.mod 9 6
    let rnd := modBits a.mod 5 4
    let hi := modBits a.mod 3 3
    let fs := modBits a.mod 2 0
    let sl := fslOf c.team fs
    let t := if ty = 0 then elemTy sl.elem else ElTy.ofCode ty
    let r : Rnd := if ty = 0 then sl.rounding rnd else { mode := rnd }
    let wide := cellWidth t = 16
    match slotFault fs (ty != 0 || (sl.ok && sl.elem != 0 && !(decide wide && hi == 1))) with
    | some (code, d) => .fault code d
    | none =>
      let x := convF .f32 t r (convIn .f32 false (read32 c a.sa).toNat)
      let y := convF .f32 t r (convIn .f32 false (read32 c a.sb).toNat)
      let base := if wide then 0 else (readPack c 8 a.sc).toNat
      let w := elemSet (cellWidth t) (2 * hi + 1) (elemSet (cellWidth t) (2 * hi) base x.bits) y.bits
      .done (c.s.modThread c.key c.tid fun th => raiseF (write32 th a.dst (BitVec.ofNat 32 w)) (x.flags ||| y.flags))

/-- UNPK (R159). DEDUCED (log 46): a is a packed source of the type's elements (R69). -/
def execUnpk (a : Args) (s : State) : Out :=
  runReg 0 0xAE a s fun c =>
    let t := ElTy.ofCode (modBits a.mod 9 6)
    let hi := modBits a.mod 0 0
    let one (i : Nat) : FR := convF t .f32 {} (decodeF t (elemCode t (elemGet (cellWidth t) i (readPack c (cellWidth t) a.sa).toNat)))
    let x := one (2 * hi)
    let y := one (2 * hi + 1)
    raiseF (write64 c.th a.dst (BitVec.ofNat 64 (x.bits + 2 ^ 32 * y.bits))) (x.flags ||| y.flags)

/-- FFLAG (R164). DESIGN CHOICE (log 9): where d is sr.fflags itself, the old value written to d is what stands. -/
def execFflag (a : Args) (s : State) : Out :=
  runReg 0 0xAF a s fun c =>
    let old := c.th.arch.fflags
    let x : BitVec 5 := (read32 c a.sa).truncate 5
    let new := match fSub a with
      | 0 => old
      | 1 => old ||| x
      | 2 => old &&& ~~~x
      | _ => x
    write32 { c.th with arch := { c.th.arch with fflags := new } } a.dst (old.zeroExtend 32)

end Sys2Proof.Machine
end

