-- ==== Sys2Proof/Machine/Integer.lean ====
section
/-! DEFINITION. The integer, predicate, index and window instructions of class 00 (R94 to R118). -/

namespace Sys2Proof.Machine

/-- The type of an instruction of R95. -/
def intTyOf (opc : Nat) (a : Args) : ElTy :=
  match intRow opc with
  | some r => intTy r.dflt a.mod
  | none => .b32

/-- value(x) of R41 under a type. -/
def intVal (c : Ctx) (t : ElTy) (x : Sel) : Int := toVal t.signed t.width (readTy c t x)

/-- arith of R97: exact, then wrapped or saturated. -/
def runArith (opc : Nat) (a : Args) (s : State) (f : ElTy → Int → Int → Int → Int) : Out :=
  let t := intTyOf opc a
  runReg 0 opc a s fun c =>
    writeInt c.th t a.dst (intResult t (modBits a.mod 4 4 == 1) (f t (intVal c t a.sa) (intVal c t a.sb) (intVal c t a.sc)))

/-- An operation on bit patterns of the type's width (R105, R107, R109, R110). -/
def runBits (opc : Nat) (a : Args) (s : State) (f : ElTy → Ctx → Nat → Nat) : Out :=
  let t := intTyOf opc a
  runReg 0 opc a s fun c => writeInt c.th t a.dst (f t c (readTy c t a.sa))

/-- A 32-bit result. -/
def runWord (opc : Nat) (a : Args) (s : State) (f : Ctx → Nat) : Out :=
  runReg 0 opc a s fun c => write32 c.th a.dst (BitVec.ofNat 32 (f c))

def execIadd (a : Args) (s : State) : Out := runArith 0x00 a s fun _ x y _ => x + y
def execIsum (a : Args) (s : State) : Out := runArith 0x01 a s fun _ x y z => x + y + z

/-- IADDC (R98). -/
def execIaddc (a : Args) (s : State) : Out :=
  let t := intTyOf 0x02 a
  runReg 0 0x02 a s fun c =>
    let n := readTy c t a.sa + readTy c t a.sb + bitNat (pred c.th a.sc.toNum)
    setPred (writeInt c.th t a.dst (n % 2 ^ t.width)) a.sc.toNum (decide (2 ^ t.width ≤ n))

def execIsub (a : Args) (s : State) : Out := runArith 0x03 a s fun _ x y _ => x - y
def execImul (a : Args) (s : State) : Out := runArith 0x04 a s fun _ x y _ => x * y
def execImulh (a : Args) (s : State) : Out := runArith 0x05 a s fun t x y _ => x * y / 2 ^ t.width
def execImad (a : Args) (s : State) : Out := runArith 0x06 a s fun _ x y z => x * y + z

/-- IMADW (R99). -/
def execImadw (a : Args) (s : State) : Out :=
  let t := intTyOf 0x07 a
  runReg 0 0x07 a s fun c =>
    let z := toVal t.signed 64 (read64 c a.sc).toNat
    write64 c.th a.dst (BitVec.ofInt 64 (intVal c t a.sa * intVal c t a.sb + z))

def execIdiv (a : Args) (s : State) : Out := runArith 0x08 a s fun t x y _ => intDiv t x y
def execIrem (a : Args) (s : State) : Out := runArith 0x09 a s fun t x y _ => intRem t x y
def execImin (a : Args) (s : State) : Out := runArith 0x0A a s fun _ x y _ => min x y
def execImax (a : Args) (s : State) : Out := runArith 0x0B a s fun _ x y _ => max x y
def execIabs (a : Args) (s : State) : Out := runArith 0x0C a s fun _ x _ _ => if x < 0 then -x else x
def execIneg (a : Args) (s : State) : Out := runArith 0x0D a s fun _ x _ _ => -x

/-- The condition of R101 on an instruction's a and b. -/
def condOf (c : Ctx) (t : ElTy) (a : Args) : Bool :=
  intCond (modBits a.mod 3 0) (intVal c t a.sa) (intVal c t a.sb) (readTy c t a.sa) (readTy c t a.sb)

/-- ICMP (R102). -/
def execIcmp (a : Args) (s : State) : Out :=
  let t := intTyOf 0x0E a
  runReg 0 0x0E a s fun c => writeInt c.th t a.dst (if condOf c t a then 2 ^ 64 - 1 else 0)

/-- ISEL (R103). -/
def execIsel (a : Args) (s : State) : Out :=
  let t := intTyOf 0x0F a
  runReg 0 0x0F a s fun c =>
    let n := a.sc.toNum
    let test := pred c.th (n % 16) != (n / 16 % 2 == 1)
    writeInt c.th t a.dst (if test then readTy c t a.sa else readTy c t a.sb)

/-- LEA (R104). -/
def execLea (a : Args) (s : State) : Out :=
  runReg 0 0x10 a s fun c =>
    let b : DWord := if (intTyOf 0x10 a).signed then (read32 c a.sb).signExtend 64 else (read32 c a.sb).zeroExtend 64
    write64 c.th a.dst (read64 c a.sa + b <<< modBits a.mod 3 0)

def execAnd (a : Args) (s : State) : Out := runBits 0x11 a s fun t c x => Nat.land x (readTy c t a.sb)
def execOr (a : Args) (s : State) : Out := runBits 0x12 a s fun t c x => Nat.lor x (readTy c t a.sb)
def execXor (a : Args) (s : State) : Out := runBits 0x13 a s fun t c x => Nat.xor x (readTy c t a.sb)
def execAndn (a : Args) (s : State) : Out := runBits 0x14 a s fun t c x => x - Nat.land x (readTy c t a.sb)

/-- LUT (R106). -/
def execLut (a : Args) (s : State) : Out :=
  let t : ElTy := if modBits a.mod 9 9 = 1 then .n64 else .b32
  runReg 0 0x15 a s fun c =>
    writeInt c.th t a.dst (tableFn (modBits a.mod 7 0) t.width (readTy c t a.sa) (readTy c t a.sb) (readTy c t a.sc))

def execShl (a : Args) (s : State) : Out := runBits 0x16 a s fun t c x => shiftL t.width x (read32 c a.sb).toNat
def execShr (a : Args) (s : State) : Out := runBits 0x17 a s fun t c x => shiftR t.width x (read32 c a.sb).toNat
def execSar (a : Args) (s : State) : Out := runBits 0x18 a s fun t c x => shiftA t.width x (read32 c a.sb).toNat
def execRotl (a : Args) (s : State) : Out := runBits 0x19 a s fun t c x => rotL t.width x (read32 c a.sb).toNat

/-- FUNL and FUNR (R108). -/
def execFunl (a : Args) (s : State) : Out :=
  runWord 0x1A a s fun c =>
    ((read32 c a.sa).toNat * 2 ^ 32 + (read32 c a.sb).toNat) * 2 ^ ((read32 c a.sc).toNat % 32) / 2 ^ 32 % 2 ^ 32
def execFunr (a : Args) (s : State) : Out :=
  runWord 0x1B a s fun c =>
    ((read32 c a.sa).toNat * 2 ^ 32 + (read32 c a.sb).toNat) / 2 ^ ((read32 c a.sc).toNat % 32) % 2 ^ 32

/-- MIXH (R112). -/
def execMixh (a : Args) (s : State) : Out :=
  runWord 0x1C a s fun c => mixRounds (modBits a.mod 1 0 + 1) (read32 c a.sa).toNat (read32 c a.sb).toNat

/-- BEXT and BINS (R109). -/
def execBext (a : Args) (s : State) : Out := runBits 0x20 a s fun t c x => bitExtract t.signed t.width x (readTy c t a.sb)
def execBins (a : Args) (s : State) : Out := runBits 0x21 a s fun t c x => bitInsert t.width x (readTy c t a.sb) (readTy c t a.sc)

/-- BREV, POPC, CLZ, CTZ (R110). -/
def execBrev (a : Args) (s : State) : Out := runBits 0x22 a s fun t _ x => bitReverse t.width x
def execPopc (a : Args) (s : State) : Out :=
  runWord 0x23 a s fun c => popCount (intTyOf 0x23 a).width (readTy c (intTyOf 0x23 a) a.sa)
def execClz (a : Args) (s : State) : Out :=
  runWord 0x24 a s fun c => leadingZeros (intTyOf 0x24 a).width (readTy c (intTyOf 0x24 a) a.sa)
def execCtz (a : Args) (s : State) : Out :=
  runWord 0x25 a s fun c => trailingZeros (intTyOf 0x25 a).width (readTy c (intTyOf 0x25 a) a.sa)

/-- BPERM (R111). -/
def execBperm (a : Args) (s : State) : Out :=
  runWord 0x26 a s fun c => bytePerm (read32 c a.sa).toNat (read32 c a.sb).toNat (read32 c a.sc).toNat

/-- PSET (R113). -/
def execPset (a : Args) (s : State) : Out :=
  let t := intTyOf 0x28 a
  runReg 0 0x28 a s fun c =>
    let n := a.sc.toNum
    let x := condOf c t a
    let u := pred c.th (n % 16) != (n / 64 % 2 == 1)
    setPred c.th a.dst.toNum (match n / 16 % 4 with
      | 0 => x
      | 1 => x && u
      | 2 => x || u
      | _ => x != u)

/-- PLUT (R106). -/
def execPlut (a : Args) (s : State) : Out :=
  runReg 0 0x29 a s fun c =>
    setPred c.th a.dst.toNum
      (tableBit (modBits a.mod 7 0) (pred c.th a.sa.toNum) (pred c.th a.sb.toNum) (pred c.th a.sc.toNum))

/-- P2V and V2P (R114). -/
def execP2v (a : Args) (s : State) : Out :=
  runReg 0 0x2A a s fun c => write32 c.th a.dst (c.th.arch.p.zeroExtend 32 &&& read32 c a.sa)
def execV2p (a : Args) (s : State) : Out :=
  runReg 0 0x2B a s fun c =>
    let x : BitVec 16 := (read32 c a.sa).truncate 16
    let m : BitVec 16 := (read32 c a.sb).truncate 16
    { c.th with arch := { c.th.arch with p := (c.th.arch.p &&& ~~~m) ||| (x &&& m) } }

/-- IXSET (R115). -/
def execIxset (a : Args) (s : State) : Out :=
  runThread 0 0x2C a s fun c =>
    let x := read32 c a.sa
    let y := read32 c a.sb
    if 255 < x.toNat ∨ 256 < y.toNat then .fault cINDEX (x.zeroExtend 64)
    else
      let ix : Index := { base := x.truncate 8, bound := y.truncate 9 }
      .done (c.s.modThread c.key c.tid fun th => { th with arch := { th.arch with x := AMap.set th.arch.x a.dst.toNum ix } })

/-- The register that an index access reaches (R22): the bound check, then the allocation check. -/
def indexed (c : Ctx) (j : Nat) (o : Word) : Except FaultInfo Nat :=
  let ix : Index := AMap.get {} c.th.arch.x j
  let n := ix.base.toNat + o.toNat
  if ix.bound.toNat ≤ o.toNat then .error (cINDEX, o.zeroExtend 64)
  else if 8 * c.team.lrec.regs8 ≤ n then .error (cREG, BitVec.ofNat 64 n)
  else .ok n

/-- LDIX (R116). -/
def execLdix (a : Args) (s : State) : Out :=
  runThread 0 0x2D a s fun c =>
    match indexed c a.sa.toNum (read32 c a.sb) with
    | .error (code, d) => .fault code d
    | .ok n =>
      match softError c [n] with
      | some (code, d) => .fault code d
      | none => .done (c.s.modThread c.key c.tid fun th => write32 th a.dst (vReg th.arch n))

/-- STIX (R116). -/
def execStix (a : Args) (s : State) : Out :=
  runThread 0 0x2E a s fun c =>
    match indexed c a.sa.toNum (read32 c a.sb) with
    | .error (code, d) => .fault code d
    | .ok n => .done (c.s.modThread c.key c.tid fun th => setReg th n (read32 c a.sc))

/-- RGN (R117): with a window held it is used again, and staged; with none, the wait of R18 begins, whose grant sets WBASE and WVALID. -/
def execRgn (a : Args) (s : State) : Out :=
  runThread 0 0x30 a s fun c =>
    if modBits a.mod 9 9 = 1 then
      .done (c.s.modThread c.key c.tid fun th =>
        { th with held := false, dirty := 0, arch := { th.arch with wvalid := false } })
    else
      let base : BitVec 8 := BitVec.ofNat 8 (8 * modBits a.mod 4 0)
      .jump (c.s.modThread c.key c.tid fun th =>
        if th.held then
          let th1 := passOp th (8 * a.words) a.live
          { th1 with dirty := 0, wait := some .staging, waitFrom := c.s.cycle, arch := { th1.arch with wbase := base, wvalid := true } }
        else { th with wait := some (.region base (8 * a.words)), waitFrom := c.s.cycle })

/-- RGNW (R118). -/
def execRgnw (a : Args) (s : State) : Out :=
  runReg 0 0x31 a s fun c => if c.th.arch.wvalid then { c.th with dirty := 0 } else c.th

end Sys2Proof.Machine
end

