-- ==== Sys2Proof/Machine/ImageCheck.lean ====
section
/-! DEFINITION. The loader's check of a personality image (R372, R378): the byte offset of the first failing field. -/

namespace Sys2Proof.Machine

/-- The first failing check of a list: each is whether it holds, and the offset of its field. -/
def firstBad (xs : List (Bool × Nat)) : Option Nat := (xs.find? fun x => !x.1).map Prod.snd

/-- Step 1: the header (R366). -/
def checkHead (b : List Byte) : Option Nat :=
  let h := imgHead b
  firstBad [
    (imgNat b 0 4 == 0x50454C59, 0), (imgNat b 4 2 == 1, 4), (imgNat b 6 2 == 0, 6),
    (h.bodyLen % 16 == 0 && decide (128 ≤ h.bodyLen) && decide (h.bodyLen ≤ 524288), 8),
    (decide (h.align ≤ 3), 12), (decide (1 ≤ h.minLen) && decide (h.minLen ≤ 16), 13),
    (decide (h.minLen ≤ h.maxLen) && decide (h.maxLen ≤ 16), 14), (decide (h.nextr ≤ 32), 15),
    (decide (1 ≤ h.nplane) && decide (h.nplane ≤ 4096), 16), (decide (h.ntmpl ≤ 16383), 18), (h.extOff % 8 == 0, 20),
    (h.planeOff % 16 == 0, 24), (h.tmplOff % 4 == 0, 28), (imgNat b 64 64 == 0, 64)]

/-- A region: what it holds, its start, its size, and the field that names it. -/
structure Region where
  kind : Nat
  start : Nat
  size : Nat
  field : Nat
  deriving DecidableEq, Repr

/-- Whether a region lies within the body. DESIGN CHOICE (log 70): a table without entries may stand anywhere. -/
def inBody (h : ImgHead) (r : Region) : Bool := r.size == 0 || (decide (128 ≤ r.start) && decide (r.start + r.size ≤ h.bodyLen))

def regionsMeet (a b : Region) : Bool :=
  decide (0 < a.size) && decide (0 < b.size) && decide (a.start < b.start + b.size) && decide (b.start < a.start + a.size) &&
  !(a.kind == b.kind && a.start == b.start && a.size == b.size)

def tableRegions (h : ImgHead) : List Region :=
  [⟨0, h.extOff, 8 * h.nextr, 20⟩, ⟨1, h.planeOff, 16 * h.nplane, 24⟩, ⟨2, h.tmplOff, 4 * h.ntmpl, 28⟩]

def planeRegion (b : List Byte) (h : ImgHead) (p : Nat) : Region :=
  let (off, _, iw) := planeOf b p
  ⟨3, off, 8 * 2 ^ iw, h.planeOff + 16 * p + 4⟩

def tmplOffset (b : List Byte) (h : ImgHead) (i : Nat) : Nat := imgNat b (h.tmplOff + 4 * i) 4
def tmplCount (b : List Byte) (off : Nat) : Nat := imgNat b off 8 / 2 ^ 32 % 8 + 1

def tmplRegion (b : List Byte) (h : ImgHead) (i : Nat) : Region :=
  let off := tmplOffset b h i
  let field := h.tmplOff + 4 * i
  if h.bodyLen < off + 16 then ⟨4, off, 16, field⟩ else ⟨4, off, 16 + 16 * tmplCount b off, field⟩

/-- The lowest offset at which two regions begin to overlap (log 36). -/
def firstOverlap : List Region → Option Nat → Option Nat
  | [], best => best
  | r :: rest, best => firstOverlap rest ((rest.filter (regionsMeet r)).foldl (fun m q =>
      some (min (max q.start r.start) (m.getD (max q.start r.start)))) best)

/-- Step 2: places and overlaps. -/
def checkRegions (b : List Byte) : Option Nat :=
  let h := imgHead b
  let tables := tableRegions h
  match tables.find? fun r => !inBody h r with
  | some r => some r.field
  | none =>
    let planes := (List.range h.nplane).map fun p => (planeRegion b h p, (planeOf b p).2.2, h.planeOff + 16 * p)
    match planes.findSome? fun x => if 12 < x.2.1 then some x.2.2 else if inBody h x.1 then none else some x.1.field with
    | some f => some f
    | none =>
      let tmpls := (List.range h.ntmpl).map (tmplRegion b h)
      match tmpls.find? fun r => !inBody h r with
      | some r => some r.field
      | none => firstOverlap (tables ++ planes.map Prod.fst ++ tmpls) none

/-- Step 3: one extractor (R368), its fields from the lowest bit up; a length over 32 is found at L0M1 (log 36). -/
def checkExtractor (b : List Byte) (h : ImgHead) (j : Nat) : Option Nat :=
  let at' := h.extOff + 8 * j
  let e := extractor b j
  firstBad [
    (imgNat b at' 8 / 2 ^ 32 % 16 == 0, at' + 4), (e.l1 == 0 || decide (e.pos1 + e.l1 ≤ 128), at' + 5),
    (decide (e.l0 + e.l1 ≤ 32), at' + 6), (decide (e.pos0 + e.l0 ≤ 128), at' + 7)]

/-- Step 4: one plane header (R369). -/
def checkPlane (b : List Byte) (h : ImgHead) (p : Nat) : Option Nat :=
  let at' := h.planeOff + 16 * p
  let x := imgNat b at' 8
  let (off, idx, _) := planeOf b p
  firstBad [
    (x / 16 % 16 == 0, at'), (decide (idx < h.nextr), at' + 1), (x / 2 ^ 13 % 2 ^ 19 == 0, at' + 1), (off % 8 == 0, at' + 4),
    (imgNat b (at' + 8) 8 == 0, at' + 8)]

/-- Step 4: one plane entry (R370). -/
def checkEntry (b : List Byte) (h : ImgHead) (at' : Nat) : Option Nat :=
  let x := imgNat b at' 8
  let kind := x / 2 ^ 60
  let target := x % 65536
  let len := x / 2 ^ 56 % 16 + 1
  firstBad [
    (match kind with
     | 1 => decide (target < h.nplane)
     | 2 => decide (target < h.ntmpl)
     | _ => target == 0, at'),
    (x / 65536 % 2 ^ 40 == 0, at' + 2),
    (if kind = 2 ∨ kind = 3 then decide (h.minLen ≤ len) && decide (len ≤ h.maxLen) else len == 1, at' + 7),
    (decide (kind < 4), at' + 7)]

def checkEntries (b : List Byte) (h : ImgHead) (p : Nat) : Option Nat :=
  let (off, _, iw) := planeOf b p
  (List.range (2 ^ iw)).findSome? fun i => checkEntry b h (off + 8 * i)

/-- One past the highest byte that some extractors reference. -/
def reach (b : List Byte) (js : List Nat) : Nat := ((js.map fun j => extBytes (extractor b j)).flatten.map fun i => i + 1).foldl max 0

/-- The extractors of a template's EXTMASK (R373). -/
def maskOf (b : List Byte) (h : ImgHead) (i : Nat) : List Nat :=
  let m := imgNat b (tmplOffset b h i) 4
  (List.range 32).filter fun j => m / 2 ^ j % 2 == 1

/-- Step 5: every path from a plane, with the bytes referenced so far (R372). DESIGN CHOICE (log 70): the offset reported (R378) is that of TARGET of
the PLANE entry which a path over 8 planes meets in the eighth, and of LENM1 of the entry that is too short for its path. -/
def checkPaths (b : List Byte) (h : ImgHead) : Nat → Nat → Nat → Option Nat
  | 0, _, _ => none
  | n + 1, p, far =>
    let (off, idx, iw) := planeOf b p
    let far1 := max far (reach b [idx])
    (List.range (2 ^ iw)).findSome? fun i =>
      let at' := off + 8 * i
      let x := imgNat b at' 8
      let len := x / 2 ^ 56 % 16 + 1
      match x / 2 ^ 60 with
      | 1 => if n = 0 then some at' else checkPaths b h n (x % 65536) far1
      | 2 => if len < max far1 (reach b ((maskOf b h (x % 65536)).filter fun j => decide (j < h.nextr))) then some (at' + 7) else none
      | 3 => if len < far1 then some (at' + 7) else none
      | _ => none

/-- Operations that a template never holds, and those that stand last (R290). -/
def neverIn (cls opc : Nat) : Bool :=
  match cls with
  | 0 => opc == 0x30 || opc == 0x31
  | 1 => [0xE3, 0xE4, 0xE5, 0xE6, 0xE9].contains opc
  | _ => true

def isLoadOp (cls opc : Nat) : Bool := cls == 1 && [0x00, 0x02, 0x07].contains opc
def isStoreOp (cls opc : Nat) : Bool := cls == 1 && [0x01, 0x03].contains opc
def isAtomicOp (cls opc : Nat) : Bool := cls == 1 && [0x04, 0x05, 0x06].contains opc

/-- The class and opcode of an operation word. -/
def opAt (x : Nat) : Nat × Nat := (x / 2 ^ 126, x / 2 ^ 118 % 256)

/-- Whether a selector may stand in a position of a kind (R375): a position that is not used holds 0. DESIGN CHOICE (log 70): of a class-4 selector beside
an AUXSRC of 1 or 2, the selector is the field that fails. -/
def selOk (cls : Nat) (mask : List Nat) (auxsrc : Nat) (isDst : Bool) (kind : PosKind) (x : Nat) : Bool :=
  let j := x % 32
  match kind with
  | .unused | .zero => x == 0
  | _ =>
    match x / 512 with
    | 0 => (match parseSel cls kind x with
        | some s => s.okFor kind
        | none => false)
    | 1 => decide (x % 512 < 8) && (Sel.t (BitVec.ofNat 3 x)).okFor kind
    | 2 => mask.contains j && (Sel.v 0).okFor kind
    | 3 => !isDst && decide (x % 512 < 32) && mask.contains j && (Sel.val 0 false).okFor kind
    | 4 => !isDst && x == 0x800 && auxsrc == 0 && (Sel.ext 0).okFor kind
    | 5 => mask.contains j && (match kind with
        | .num _ => true
        | _ => false)
    | _ => false

/-- Whether a selector may stand in a position of an operation that is not known (R375): its class is allocated, and it names no extractor outside
EXTMASK. -/
def selAny (mask : List Nat) (auxsrc : Nat) (isDst : Bool) (x : Nat) : Bool :=
  match x / 512 with
  | 0 => true
  | 1 => decide (x % 512 < 8)
  | 2 | 5 => mask.contains (x % 32)
  | 3 => !isDst && decide (x % 512 < 32) && mask.contains (x % 32)
  | 4 => !isDst && x == 0x800 && auxsrc == 0
  | _ => false

/-- The positions that an operation may have: those of its MOD; where that is not allocated, those of each MOD of its opcode that is. -/
def shapesOf (cls opc : Nat) (m : BitVec 10) : List Shape :=
  match shapeOf cls opc m with
  | some s => [s]
  | none => ((List.range 1024).filterMap fun i => shapeOf cls opc (BitVec.ofNat 10 i)).eraseDups

/-- The bits of SC that a conversion does not use, all 0 (R153, R157): they fail at SC, whatever else of its MOD does. -/
def cvtScOk (opc : Nat) (m : BitVec 10) (sc : Nat) : Bool :=
  let fsv := sc / 8 % 2 == 1
  let ed := sc / 64 % 2 == 1
  let xs := sc / 32 % 2 == 1
  sc / 128 == 0 && (fsv || sc % 8 == 0) && (sc / 16 % 2 == 0 || fsv || modBits m 9 6 == 9 || modBits m 5 2 == 9) &&
  (opc == 0xA8 || !ed) && (opc != 0xAA || !xs) && !(opc == 0xA8 && fsv && (ed || xs))

/-- Step 6: one operation word, its fields from the lowest bit up; the offset is that within the word. A selector that no allocated MOD of the operation
admits fails where it stands, before the MOD. The SC of a conversion holds modifier bits, no number (R96, R153, R375). -/
def checkOpWord (mask : List Nat) (x : Nat) (last : Bool) (before : List (Nat × Nat)) : Option Nat :=
  let (cls, opc) := opAt x
  let m : BitVec 10 := BitVec.ofNat 10 (x / 2 ^ 108)
  let imm := x % 2 ^ 48
  let auxsrc := x / 2 ^ 50 % 4
  let sh := if cls < 2 then shapeOf cls opc m else none
  let shapes := if cls < 2 then shapesOf cls opc m else []
  let dummy : Args := { mod := m, guard := .always, live := none, dst := .none, sa := .none, sb := .none, sc := .num (x / 2 ^ 52 % 512), aux := none }
  let pos (f : Shape → PosKind) (isDst : Bool) (lo : Nat) : Bool :=
    if shapes.isEmpty then selAny mask auxsrc isDst (x / 2 ^ lo % 4096)
    else shapes.any fun s => selOk cls mask auxsrc isDst (f s) (x / 2 ^ lo % 4096)
  let auxFits : Bool := shapes.isEmpty || shapes.any fun s => match s.aux with
    | .never => auxsrc == 0
    | .may => true
    | .must => auxsrc != 0
  let scOk : Bool := !(cls == 0 && [0xA8, 0xA9, 0xAA].contains opc) || cvtScOk opc m (x / 2 ^ 52 % 4096)
  let placed : Bool :=
    !neverIn cls opc && (last || !lastOnly cls opc) && !(isLoadOp cls opc && before.any fun p => isStoreOp p.1 p.2) &&
    !(isAtomicOp cls opc && (!last || before.any fun p => isStoreOp p.1 p.2))
  firstBad [
    (auxsrc != 2 || (mask.contains (imm % 32) && imm / 32 % 8 == 0), 0), (auxsrc != 2 || imm / 2 ^ 11 == 0, 1),
    (x / 2 ^ 48 % 4 == 0, 6), (auxsrc != 3 && auxFits, 6),
    (pos Shape.sc false 52 && scOk, 6), (pos Shape.sb false 64, 8), (pos Shape.sa false 76, 9), (pos Shape.dst true 88, 11),
    (x / 2 ^ 100 % 2 == 0 || (x / 2 ^ 107 % 2 == 1 && mask.contains (x / 2 ^ 102 % 16)), 12),
    ((x / 2 ^ 101 % 2 == 1) == last, 12),
    (decide (2 ≤ cls) || (Instr.ofCode cls opc dummy).isNone || (sh.isSome && extraOk cls opc dummy), 13),
    (decide (2 ≤ cls) || ((Instr.ofCode cls opc dummy).isSome && placed), 14), (decide (cls < 2), 15)]

/-- Step 6: the operation words of a template, each with those before it. -/
def checkOps (b : List Byte) (mask : List Nat) (off n : Nat) : Nat → List (Nat × Nat) → Option Nat
  | 0, _ => none
  | k + 1, before =>
    let i := n - (k + 1)
    let at' := off + 16 + 16 * i
    let x := imgNat b at' 16
    match checkOpWord mask x (i + 1 == n) before with
    | some o => some (at' + o)
    | none => checkOps b mask off n k (before ++ [opAt x])

/-- Step 6: one template (R373). -/
def checkTemplate (b : List Byte) (h : ImgHead) (i : Nat) : Option Nat :=
  let off := tmplOffset b h i
  let x := imgNat b off 8
  let n := tmplCount b off
  match firstBad [
      (off % 16 == 0, h.tmplOff + 4 * i), (x % 2 ^ 32 / 2 ^ h.nextr == 0, off), (x / 2 ^ 35 == 0, off + 4),
      (imgNat b (off + 8) 8 == 0, off + 8)] with
  | some f => some f
  | none => checkOps b (maskOf b h i) off n n []

/-- The whole check (R378): none where the image is accepted. -/
def imageCheck (b : List Byte) : Option Nat :=
  let h := imgHead b
  (checkHead b).orElse fun _ =>
  (checkRegions b).orElse fun _ =>
  ((List.range h.nextr).findSome? (checkExtractor b h)).orElse fun _ =>
  ((List.range h.nplane).findSome? (checkPlane b h)).orElse fun _ =>
  ((List.range h.nplane).findSome? (checkEntries b h)).orElse fun _ =>
  (checkPaths b h 8 0 0).orElse fun _ =>
  (List.range h.ntmpl).findSome? (checkTemplate b h)

end Sys2Proof.Machine
end

