-- ==== Sys2Proof/Machine/Context.lean ====
section
/-! DEFINITION. The context image (R430, R431): its replay entries and thread records as the spec lays them out, and its sections, whose
bytes the spec leaves open (log 26), written to the context area of a virtual device (R413). -/

namespace Sys2Proof.Machine

/-! ## Replay entries (R430) -/

/-- The 48 bytes of an entry. -/
def entryBytes (kind size : Nat) (tag : Option Nat) (flg who : Nat) (src dst : DWord) (glade : Option DWord) (desc row unit : Nat) : List Byte :=
  leBytes 1 kind ++ leBytes 1 size ++ leBytes 1 (tag.getD 0xFF) ++ leBytes 1 (flg + bitNat glade.isSome) ++ leBytes 4 who ++
  leBytes 8 src.toNat ++ leBytes 8 dst.toNat ++ leBytes 8 (glade.getD 0).toNat ++ leBytes 8 desc ++ leBytes 4 row ++ leBytes 4 unit

/-- Kind 1: a copy unit; WHO is the sr.tid of its thread, which may have exited since. -/
def copyEntry (c : Copy) : List Byte :=
  entryBytes 1 (if c.size = 4 then 2 else if c.size = 8 then 3 else 4) c.tag 0 ((c.tid.map fun i => i % 1024).getD 0xFFFFFFFF) c.srcVa c.dstVa c.glade 0 0 0

/-- Kind 2: what is left of a KCP. -/
def bulkEntry (r : Bulk) : List Byte :=
  entryBytes 2 0 none 0 0xFFFFFFFF r.cmd.b r.cmd.a (bulkGlade r.cmd) r.cmd.c.toNat r.row r.unit

/-- Kind 3: a deferred arrival. -/
def arrivalEntry (a : Arrival) : List Byte := entryBytes 3 0 none 0 a.tid 0 a.mask (some a.glade) 0 0 0

/-- The register number that a destination names. -/
def dstNumber (th : Option Thread) (d : Sel) : Nat := ((th.bind fun th => regNo th.arch d).getD d.toNum)

/-- Kinds 4 and 5: a system reply and an acknowledgment awaited. -/
def replyEntry (t : Team) (r : Replay) : List Byte :=
  match r.access, r.write with
  | some ac, _ =>
    let d : Sel := match ac.op with
      | .atom d _ _ _ | .cas d _ _ _ | .load d _ => d
      | _ => .none
    entryBytes 4 0 none (if r.reply.isSome then 2 else 0) r.tid (BitVec.ofNat 64 (dstNumber (AMap.find t.threads r.tid) d)) ac.va none
      ((r.reply.map fun x => leNat x.1).getD 0) 0 0
  | none, some w => entryBytes 5 0 none (if r.acked then 2 else 0) r.tid 0 w.va none (w.seq % 2 ^ 32 + 2 ^ 32 * (w.port % 256)) 0 0
  | none, none => []

/-- A list in the order of the numbers of its entries; entries of one number keep their order. -/
def byNumber (xs : List (Nat × List Byte)) : List (List Byte) :=
  (xs.foldr (fun x acc => acc.takeWhile (fun y => decide (y.1 < x.1)) ++ x :: acc.dropWhile fun y => decide (y.1 < x.1)) []).map Prod.snd

/-- The replay entries of a team, in the order in which their operations were issued. -/
def replayEntries (t : Team) : List (List Byte) :=
  byNumber (
    (t.replays.map fun r => (((r.access.map Access.no).or (r.write.map SysWrite.no)).getD 0, replyEntry t r)) ++
    (t.copies.map fun p => (p.1, copyEntry p.2)) ++ (t.running.map fun r => (r.cmd.no, bulkEntry r)).toList ++
    t.arrivals.map fun p => (p.2.no, arrivalEntry p.2))

/-! ## Thread records (R431) -/

/-- The live record of a thread at the boundary after an instruction with S = 1, of any personality: the next instruction has not issued, though a
header's WAIT, a window's staging or its flag may hold it (R26, R78, R284, R428). -/
def boundarySafe (th : Thread) : Option LiveRec :=
  if th.expansion.isSome then none
  else match th.wait with
    | none | some (.clause _) | some .staging | some (.room _) => th.safe
    | some _ => none

/-- A safe-point save (R432): the thread stands at such a boundary under the native personality (R301). -/
def safeSave (th : Thread) : Option LiveRec := if th.arch.pix = 0 then boundarySafe th else none

def loopBytes (keep : Bool) (l : Loop) : List Byte :=
  if keep then leBytes 4 l.count.toNat ++ leBytes 8 l.start.toNat ++ leBytes 8 l.stop.toNat else leBytes 20 0

/-- The pending wait: kind 1 BARS, 2 RVX, 3 a NAP alone (log 26), its token, contribution and object. PEND holds the latest arrival, and NAP the latest
deadline. -/
def pendBytes (t : Team) (tid : Nat) (ks : List Kept) : List Byte :=
  (ks.findSome? fun k => match k.wait with
    | .barrier b tok _ _ => some (leBytes 1 1 ++ leBytes 1 tok.toNat ++ leBytes 6 0 ++ leBytes 8 b)
    | .exchange ea off tok _ _ =>
      let a := (((AMap.get {} t.glades off).shares.find? fun x => x.tid == tid).map Share.a).getD 0
      some (leBytes 1 2 ++ leBytes 1 tok.toNat ++ leBytes 2 0 ++ leBytes 4 a.toNat ++ leBytes 8 ea.toNat)
    | _ => none).getD
  (if ks.any fun k => match k.wait with
      | .nap _ _ => true
      | _ => false
    then leBytes 1 3 ++ leBytes 15 0 else leBytes 16 0)

def napOf (ks : List Kept) : DWord :=
  (ks.findSome? fun k => match k.wait with
    | .nap g _ => some g
    | _ => none).getD 0

/-- A thread record: 256 bytes, and 32 for each group of registers saved. -/
def threadRecord (t : Team) (tid : Nat) (th : Thread) : List Byte :=
  let ar := th.arch
  let safe := safeSave th
  let all : BitVec 32 := BitVec.ofNat 32 (2 ^ t.lrec.regs8 - 1)
  let vm : BitVec 32 := (safe.map fun l => l.vmask &&& all).getD all
  let pm : BitVec 16 := (safe.map LiveRec.pmask).getD (-1)
  leBytes 4 tid ++ leBytes 1 (if safe.isSome then 0 else 1) ++ leBytes 1 t.lrec.regs8 ++ leBytes 1 (ar.pix.toNat + 8 * bitNat ar.mode) ++
  leBytes 1 (128 * bitNat ar.wvalid + ar.wbase.toNat / 8) ++ leBytes 8 ar.pc.toNat ++ leBytes 4 vm.toNat ++ leBytes 2 pm.toNat ++
  leBytes 2 ar.p.toNat ++ ((List.range 12).map fun j => BitVec.ofNat 8 (AMap.get 0 th.f j)) ++ leBytes 4 ar.fflags.toNat ++
  ((List.range 4).map fun j => let x := AMap.get {} ar.x j; leBytes 4 (x.base.toNat + 65536 * x.bound.toNat)).flatten ++
  loopBytes ((safe.map LiveRec.lc0).getD true) ar.lc0 ++ loopBytes ((safe.map LiveRec.lc1).getD true) ar.lc1 ++
  leBytes 4 ar.rc.toNat ++ leBytes 4 0 ++ leBytes 8 ar.rnext.toNat ++
  ((List.range 8).map fun j => leBytes 4 (AMap.get 0 ar.e j).toNat).flatten ++
  leBytes 8 ar.egw0.toNat ++ leBytes 8 ar.egw1.toNat ++ leBytes 8 ar.epc.toNat ++ leBytes 4 ar.elen.toNat ++
  leBytes 4 th.cr.fcls.toNat ++
  leBytes 4 th.cr.fstat.toNat ++ leBytes 4 th.cr.hsel.toNat ++ leBytes 8 th.cr.fpc.toNat ++ leBytes 8 th.cr.faddr.toNat ++ leBytes 8 th.cr.fscr.toNat ++
  (match th.tail with
   | some x => leBytes 1 1 ++ leBytes 1 x.pix.toNat ++ leBytes 6 0 ++ leBytes 8 x.addr.toNat
   | none => leBytes 16 0) ++
  pendBytes t tid th.kept ++ leBytes 8 (napOf th.kept).toNat ++ leBytes 8 (clausePack ar.clause ar.prio).toNat ++
  ((List.range 32).filter fun g => vm.getLsbD g).flatMap fun g => (List.range 8).flatMap fun i => leBytes 4 (vReg ar (8 * g + i)).toNat

/-! ## Sections (R431); their layouts are the model's (log 26) -/

def countedBytes (xs : List (List Byte)) : List Byte := leBytes 4 xs.length ++ xs.flatten

/-- A flag of a clause or a command: 16 for none. -/
def flagByte (o : Option (BitVec 4)) : List Byte := leBytes 1 ((o.map BitVec.toNat).getD 16)

/-- A queue entry with its resolved guard (R239, R264). -/
def cmdBytes (c : PCmd) : List Byte :=
  let (cls, opc) := c.op.code.getD (0, 0)
  leBytes 1 cls ++ leBytes 1 opc ++ leBytes 2 ((c.op.args.map fun a => a.mod.toNat).getD 0) ++ leBytes 1 (bitNat c.guard) ++ flagByte c.flag ++
  leBytes 2 0 ++ leBytes 8 c.addr.toNat ++ leBytes 8 c.a.toNat ++ leBytes 8 c.b.toNat ++ leBytes 8 c.c.toNat ++ leBytes 8 c.d.toNat

/-- The uniform stream of R239. -/
def streamBytes (t : Team) : List Byte :=
  let st := t.stream
  (List.range 64).flatMap (fun j => leBytes 8 (AMap.get 0 t.k j).toNat) ++ leBytes 1 t.q.toNat ++
  (List.range 12).flatMap (fun j => leBytes 1 (AMap.get 0 t.kf j)) ++ leBytes 8 st.pc.toNat ++
  flagByte st.clause.aflag ++ flagByte st.clause.bflag ++ leBytes 1 (bitNat st.retired + 2 * bitNat st.stopped) ++
  (match st.wait with
   | some (.clause m) => leBytes 1 1 ++ leBytes 1 0 ++ leBytes 2 m.toNat
   | some (.flag j n _) => leBytes 1 2 ++ leBytes 1 j.toNat ++ leBytes 2 n
   | some (.barrier b tok _) => leBytes 1 3 ++ leBytes 1 b ++ leBytes 2 tok.toNat
   | none => leBytes 4 0) ++
  countedBytes (t.bulk.map cmdBytes) ++ countedBytes (t.matrix.map cmdBytes)

def barrierBytes (b : Barrier) : List Byte :=
  leBytes 1 b.phase.toNat ++ leBytes 1 (bitNat b.opened + 2 * bitNat b.u + 4 * bitNat b.uarr) ++ leBytes 2 b.n ++ leBytes 2 b.arr ++ leBytes 2 0

def gladeBytes (off : Nat) (g : Glade) : List Byte :=
  leBytes 4 off ++ leBytes 1 g.resid ++ leBytes 1 g.op ++ leBytes 2 g.ty ++ leBytes 4 g.c.toNat ++
  countedBytes (g.shares.map fun x => leBytes 4 x.tid ++ leBytes 4 x.a.toNat ++ leBytes 4 x.c.toNat)

def binBytes (b : Bin) : List Byte :=
  leBytes 8 b.entry.toNat ++ leBytes 4 b.pix.toNat ++ leBytes 4 b.since ++
  countedBytes (b.reqs.map fun r => leBytes 4 r.a.toNat ++ leBytes 4 r.b.toNat ++ leBytes 4 r.by'.toNat)

def tileBytes (j : Nat) (x : Tile) : List Byte :=
  leBytes 4 j ++ leBytes 2 x.status.toNat ++ leBytes 2 (bitNat x.poison) ++ (List.range 16384).flatMap fun i => leBytes 4 (AMap.get 0 x.el i).toNat

def canopyBytes (j : Nat) : Canopy → List Byte
  | .tile e p rows => leBytes 4 j ++ leBytes 2 e ++ leBytes 2 (bitNat p) ++ rows.flatten
  | .second => leBytes 4 j ++ leBytes 4 0xFFFF

/-- The image of a team that is saved (R431). -/
def teamImage (t : Team) : List Byte :=
  leBytes 4 t.rank ++ leBytes 4 t.teamid ++ leBytes 8 t.grid ++ leBytes 8 t.wdlim.toNat ++ leBytes 8 t.wdcnt.toNat ++
  leBytes 8 t.ufpc.toNat ++ leBytes 8 t.ufcmd.toNat ++
  streamBytes t ++ (List.range 16).flatMap (fun j => barrierBytes (AMap.get {} t.barriers j)) ++
  countedBytes (t.glades.map fun p => gladeBytes p.1 p.2) ++ countedBytes (t.bins.map binBytes) ++
  (List.range t.lrec.tags).flatMap (fun j => let g := AMap.get {} t.tags j; leBytes 2 (g.count + 32768 * bitNat g.fault)) ++
  leBytes 8 t.scales.sba.toNat ++ leBytes 8 t.scales.sbb.toNat ++ leBytes 8 t.scales.spa.toNat ++ leBytes 8 t.scales.spb.toNat ++
  countedBytes (t.tiles.map fun p => tileBytes p.1 p.2) ++ countedBytes (t.canopy.map fun p => canopyBytes p.1 p.2) ++
  t.savedWindow ++ countedBytes (replayEntries t) ++ leBytes 8 t.savedCt.toNat ++
  countedBytes (t.threads.map fun p => threadRecord t p.1 p.2)

/-- The image of a gang: a header of 64 bytes, and its teams in rank order. -/
def gangImage (g : Gang) (ts : List Team) : List Byte :=
  let body := ts.flatMap teamImage
  leBytes 4 g.vd ++ leBytes 4 ((ts.head?.map Team.grid).getD 0) ++ leBytes 4 g.node ++ leBytes 4 g.number ++ leBytes 4 ts.length ++ leBytes 4 0 ++
  leBytes 8 body.length ++ leBytes 32 0 ++ body

/-! ## The context area -/

/-- The lowest place of a context area at which an image of `n` bytes fits beside those of the other saved gangs (log 26). -/
def imagePlace (s : State) (vd n : Nat) : Option Nat :=
  let v := s.vd vd
  let held := s.gangs.filterMap fun p => if p.2.vd = vd ∧ p.2.saved then p.2.image else none
  let fits (a : Nat) : Bool := decide (a + n ≤ v.ctxBase + v.ctxLen) && inExtents v a n &&
    held.all fun w => decide (a + n ≤ w.1) || decide (w.1 + w.2 ≤ a)
  leastBy id ((v.ctxBase :: held.map fun w => (w.1 + w.2 + 63) / 64 * 64).filter fits)

/-- The image of a gang written to the context area of its virtual device (R428 step 3); it takes the place of what the area's bytes held. -/
def writeImage (s : State) (gk : Nat) : State :=
  match s.gang? gk with
  | none => s
  | some g =>
    let bs := gangImage g (g.teams.filterMap s.team?)
    match imagePlace s g.vd bs.length with
    | none => s.modGang gk fun g => { g with image := none }
    | some a =>
      let hit (x : Nat) : Bool := decide (a ≤ x) && decide (x < a + bs.length)
      { s.modGang gk fun g => { g with image := some (a, bs.length) } with
        mem := cellsPut s.mem a bs, poison := s.poison.filter fun k => !(k % 2 == 0 && hit (k / 2 * 32) && hit (k / 2 * 32 + 31)) }

end Sys2Proof.Machine
end

