-- ==== Sys2Proof/Machine/Sched.lean ====
section
/-! DEFINITION. The scheduler: nodes and residency (R399, R426, R427), blocks and placement (R401 to R403, R306 to R309), retirement
(R310), completion (R404, R405), time-sharing (R416, R417), pre-emption, save and restore (R428 to R434), granule moves (R425). -/

namespace Sys2Proof.Machine

/-! ## Virtual devices -/

def overlap1 (a n b m : Nat) : Bool := decide (a < b + m) && decide (b < a + n)

/-- Virtual devices of one partition whose ranges intersect (R414). -/
def vdOverlap (a b : VDev) : Bool :=
  a.part == b.part &&
  (overlap1 a.slotBase a.slotRuns b.slotBase b.slotRuns || overlap1 a.rowBase a.rowUnits b.rowBase b.rowUnits ||
    overlap1 a.scrBase a.scrUnits b.scrBase b.scrUnits)

/-- Created by VD_CONFIG (a QUANTUM of 0 is refused, R415). -/
def configured (v : VDev) : Bool := v.quantum != 0

/-- WCSB, WCST and the effective quantum (R416). -/
def wcsb (v : VDev) : Nat := 32 * (256 * v.rowUnits) + 64 * (64 * v.scrUnits) + 256 * (32 * v.slotRuns) + 2359296
def wcst (v : VDev) : Nat := (wcsb v + 16 * 2700 - 1) / (16 * 2700)
def qeff (v : VDev) : Nat := max v.quantum (wcst v + 20)

def vdGangs (s : State) (vd : Nat) : List (Nat × Gang) := s.gangs.filter fun p => p.2.vd == vd

/-- A gang of a virtual device stands on the cores. -/
def contextOn (s : State) (vd : Nat) : Bool := (vdGangs s vd).any fun p => !p.2.saved

/-- Runnable (R417). -/
def vdRunnable (s : State) (vd : Nat) : Bool :=
  !(vdGangs s vd).isEmpty ||
  s.launches.any fun l => l.2.vd == vd && l.2.nodes.any fun n => n.2.ending.isNone && (n.2.state == .waitRes || n.2.state == .placing)

/-- The record that the resident fraction is of (R426, R427): the one being built, or, before its first access, the one that the virtual
device was switched in with. -/
def recordOf (v : VDev) : List Nat := if v.record.isEmpty then v.incoming else v.record

/-- Recorded granules in T0, and the resident fraction test of R427. -/
def inT0 (s : State) (v : VDev) : Nat := ((recordOf v).filter s.t0.contains).length

/-- A granule of the record that its engine could still bring to T0. -/
def canBring (s : State) (g : Nat) : Bool :=
  !s.t0.contains g && (decide ((t0Of s (granSlice g)).length < 8192) || !(evictable s (granSlice g)).isEmpty)

def residentFraction (s : State) (v : VDev) : Nat := if (recordOf v).isEmpty then 100 else 100 * inT0 s v / (recordOf v).length

def residencyOk (s : State) (vd : Nat) : Bool :=
  let v := s.vd vd
  let th := if v.thresh = 255 then 75 else v.thresh
  decide (th * (recordOf v).length ≤ 100 * inT0 s v) || !(recordOf v).any (canBring s)

/-! ## Decisions (R417) -/

/-- A gang is asked to stop (R428 step 1): threads in waits other than a system drain, and stopped threads, stop at once. -/
def stopsAtOnce (th : Thread) : Bool :=
  match th.wait with
  | some (.drain _) | some (.tick _ _) => false
  | none => needsWindow th
  | some _ => true

/-- A thread stops where it stands: an expansion not yet committed is rolled back (R428). -/
def stopHere (th : Thread) : Thread :=
  { (if atPoint th then th else rollback th) with preempted := true }

/-- A gang that waits for its first placement step gives back what it holds, and one that waits for that of its restore stops where it stands
(log 62); the halts of a gang's threads end at this step (R470). -/
def requestStop (s : State) (gk : Nat) : State :=
  match s.gang? gk with
  | none => s
  | some g =>
    if g.saved || g.stopAt.isSome then s
    else if g.fresh then dropGang s gk
    else
      let s1 := s.modGang gk fun g => { g with stopAt := some s.cycle, blocked := none }
      endHalts (g.teams.foldl (fun s k => s.modTeam k fun t =>
        { t with threads := t.threads.map fun p =>
            (p.1, if !g.placed || stopsAtOnce p.2 || hasStopped s k p.1 p.2 then stopHere p.2 else p.2) }) s1) fun h => g.teams.contains h.team

/-- A granule that a virtual device gives up as it leaves: one of its extents or of its record that no other resident one records. -/
def givesUp (s : State) (vd g : Nat) : Bool :=
  let v := s.vd vd
  (inExtents v (65536 * g) 65536 || v.incoming.contains g) && !s.vds.any fun p => p.1 != vd && p.2.resident && p.2.incoming.contains g

/-- A virtual device is switched out: its gangs are pre-empted, its granules unpinned and, where dirtied, written to T1 (R426, R428). DESIGN CHOICE (log
12): a granule so written stays in T0, clean. -/
def switchOut (s : State) (vd : Nat) : State :=
  let s1 := (vdGangs s vd).foldl (fun s p => requestStop s p.1) s
  { s1.modVd vd fun v => { v with resident := false, entering := false, incoming := [] } with
    pinned := s1.pinned.filter fun g => !givesUp s1 vd g, dirtyGran := s1.dirtyGran.filter fun g => !givesUp s1 vd g }

/-- A virtual device is switched in: a new quantum; FEAT and ROOT take effect, at once where no gang of its context is left on the cores (R268, R415); its
record is cleared, to be rebuilt, and the granules of the one before are pinned as they come to T0 (R426). -/
def switchIn (s : State) (vd : Nat) : State :=
  let s1 := enterConfig (s.modVd vd fun v =>
    { v with resident := true, entering := true, quantumFrom := s.growth.toNat, dueFeat := v.nextFeat.or v.dueFeat, nextFeat := none,
             dueRoot := v.nextRoot.or v.dueRoot, nextRoot := none, record := [], incoming := v.record })
  { s1 with pinned := s1.pinned ++ ((s1.vd vd).incoming.filter fun g => s1.t0.contains g && !s1.pinned.contains g) }

/-- A quantum has ended; it is counted from the completion of the switch-in (R417). -/
def quantumOver (s : State) (v : VDev) : Bool := !v.entering && decide (v.quantumFrom + 100 * qeff v ≤ s.growth.toNat)

/-- The candidates in order: WEIGHT 0 last, then VT, then number. -/
def insertCand (s : State) (x : Nat) : List Nat → List Nat
  | [] => [x]
  | y :: r =>
    let key (n : Nat) : Nat × Nat × Nat := let v := s.vd n; (if v.weight = 0 then 1 else 0, v.vt, n)
    let a := key x
    let b := key y
    if a.1 < b.1 ∨ (a.1 = b.1 ∧ (a.2.1 < b.2.1 ∨ (a.2.1 = b.2.1 ∧ x < y))) then x :: y :: r else y :: insertCand s x r

/-- decide(x) of R417. -/
def decide417 (s : State) (x : Nat) : State :=
  let vx := s.vd x
  let used := if vx.entering then 0 else (s.growth.toNat - vx.quantumFrom) / 100
  let s1 := if vx.resident then s.modVd x fun v => { v with vt := v.vt + used * 256 / max v.weight 1 } else s
  let here := (s1.vds.filter fun p => p.2.part == vx.part && configured p.2).map Prod.fst
  let runnable := here.filter (vdRunnable s1)
  let yields (n : Nat) : Bool := (s1.vd n).weight == 0 && runnable.any fun u => u != n && vdOverlap (s1.vd n) (s1.vd u) && decide (0 < (s1.vd u).weight)
  let keep := here.filter fun n => n != x && (s1.vd n).resident && !quantumOver s1 (s1.vd n) && !yields n
  let cand := (runnable.filter fun n => !keep.contains n).foldr (insertCand s1) []
  let chosen := cand.foldl (fun ch n =>
    if yields n || ch.any fun u => vdOverlap (s1.vd n) (s1.vd u) then ch else ch ++ [n]) keep
  let s2 := (here.filter fun n => (s1.vd n).resident && !chosen.contains n).foldl switchOut s1
  let s3 := (chosen.filter fun n => !(s1.vd n).resident).foldl switchIn s2
  if vx.resident && chosen.contains x then s3.modVd x fun v => { v with quantumFrom := s.growth.toNat } else s3

/-- QUANTUM_EXPIRY (R417). -/
def execQuantumExpiry (s : State) : Out :=
  match s.vds.find? fun p => p.2.resident && quantumOver s p.2 with
  | some (vd, _) => event (decide417 s vd)
  | none => event s

/-- A PART_SET in progress that changes the quadrants of a partition: placement has stopped there (R412 step 1). -/
def partFrozen (s : State) (part : Nat) : Bool :=
  match s.partSet with
  | some c => quadrants s.config part != quadrants (leNat ((c.bytes.drop 8).take 1)) part
  | none => false

/-- Gangs of overlapping virtual devices still stand on the cores: nothing is placed or restored beside them (R414). -/
def displaced (s : State) (vd : Nat) : Bool :=
  s.gangs.any fun p => p.2.vd != vd && !p.2.saved && vdOverlap (s.vd vd) (s.vd p.2.vd)

/-! ## Blocks of clusters (R402, R489) -/

/-- Rows and columns of a shape. -/
def shapeDims : Nat → Nat × Nat
  | 0 => (1, 1) | 1 => (1, 2) | 2 => (1, 3) | _ => (2, 2)

/-- The blocks of a shape in a partition, lowest first cluster first. -/
def blocksOf (s : State) (vd shape : Nat) : List (List Nat) :=
  let (h, w) := shapeDims shape
  (((s.partQuads vd).map fun die => ((List.range (7 - h)).map fun i => (List.range (9 - w)).map fun j =>
    ((List.range h).map fun a => (List.range w).map fun b => 48 * die + 8 * (i + a) + (j + b)).flatten).flatten).flatten).filter
      fun b => b.all fun c => !s.retiredSet.contains c

def imageBytes (s : State) (h : Nat) : Nat := ((AMap.find s.images h).map fun i => i.body.length).getD 0

/-- Images of a cluster that a resident team's virtual device binds. -/
def inUse (s : State) (cluster : Nat) : List Nat := ((teamsIn s cluster).map fun p => boundImages s p.2.vd).flatten

/-- The slots of a cluster after one more image of a virtual device is brought to it (R383): the least recently used free ones give way. -/
def bringImage (s : State) (cluster vd h stamp : Nat) (m : AMap ImgSlot) : Nat → Option (AMap ImgSlot)
  | 0 => none
  | n + 1 =>
    let total := (m.map fun p => imageBytes s p.2.handle).sum
    match if m.length < 8 ∧ total + imageBytes s h ≤ 524288 then (List.range 8).find? fun i => (AMap.find m i).isNone else none with
    | some i => some (AMap.set m i { handle := h, copying := true, used := stamp })
    | none =>
      let free := m.filter fun p => !(inUse s cluster ++ boundImages s vd).contains p.2.handle
      match free.foldl (fun best p => match best with
        | none => some p
        | some b => if p.2.used < b.2.used then some p else some b) none with
      | some p => bringImage s cluster vd h stamp (AMap.del m p.1) n
      | none => none

/-- The slots of a cluster once a virtual device's images are, or are being, brought to it: none where they have no room. -/
def slotsFor (s : State) (cluster vd stamp : Nat) : Option (AMap ImgSlot) :=
  let m := (AMap.get [] s.slots cluster).map fun p =>
    (p.1, if (boundImages s vd).contains p.2.handle then { p.2 with used := stamp } else p.2)
  ((boundImages s vd).filter fun h => !hasImage s cluster h false).foldl (fun acc h => acc.bind fun m => bringImage s cluster vd h stamp m 9) (some m)

/-- The clusters of a block with a virtual device's images: lines of a slot that changes hands become invalid (R383). -/
def installImages (s : State) (vd : Nat) (block : List Nat) : State :=
  block.foldl (fun s c =>
    match slotsFor s c vd s.nextKey with
    | none => s
    | some m =>
      let old := AMap.get [] s.slots c
      let kept (i : Nat) : Bool := (AMap.find old i).map ImgSlot.handle == (AMap.find m i).map ImgSlot.handle
      { s with slots := AMap.set s.slots c m,
               lines := AMap.set s.lines c ((AMap.get [] s.lines c).filter fun x => decide (8 ≤ x.psel) || kept x.psel) }) s

/-! ## Room -/

/-- What a fresh team needs (R402). -/
def freshNeed (r : LaunchRec) : Need :=
  { groups := List.range ((r.nthreads + 31) / 32), threads := r.nthreads, glades := (r.glinit.filter fun g => g.toNat / 2 ^ 19 % 4096 != 0).length }

/-- What a saved team needs: its groups with live threads, its glades (R309, R433). -/
def savedNeed (t : Team) : Need := { groups := t.runs.map Prod.fst, threads := t.threads.length, glades := t.glades.length }

/-- Cores for the ranks of a gang on a block (R402): the needs of its ranks in order. -/
def coresFor (s : State) (vd : Nat) (r : LaunchRec) (block : List Nat) (needs : List Need) : Option (List Nat) :=
  (needs.zip (List.range needs.length)).foldl (fun acc x =>
    acc.bind fun cores =>
      let cl := block.getD (x.2 % block.length) 0
      let mates := (cores.filter fun c => clusterOf c == cl).length
      if freeCanopy s cl < (mates + 1) * r.canopy then none
      else (((List.range 4).map fun i => 4 * cl + i).find? fun c => !cores.contains c && roomOn s vd c r x.1).map fun c => cores ++ [c]) (some [])

/-- Free accumulator tiles of a cluster. -/
def freeTiles (s : State) (cluster : Nat) : Nat := 16 - ((teamsIn s cluster).map fun p => p.2.tiles.length).sum

/-- The block and the cores of a gang: blocks that hold every image first (R402). `tiles` are what its ranks hold (R433). -/
def findBlock (s : State) (vd : Nat) (r : LaunchRec) (needs : List Need) (tiles : List Nat) : Option (List Nat × List Nat) :=
  let fits (b : List Nat) : Option (List Nat × List Nat) :=
    if b.all fun c => (slotsFor s c vd 0).isSome then
      (coresFor s vd r b needs).bind fun cores =>
        let want (c : Nat) : Nat := ((cores.zip tiles).filter fun x => clusterOf x.1 == c).map Prod.snd |>.sum
        if b.all fun c => decide (want c ≤ freeTiles s c) then some (b, cores) else none
    else none
  let bs := blocksOf s vd r.shape
  let full (b : List Nat) : Bool := b.all fun c => (boundImages s vd).all fun h => hasImage s c h true
  ((bs.filter full).findSome? fits).or (bs.findSome? fits)

/-- Whether a gang fits the empty partition (R398 check 4, R434). -/
def placeable (s : State) (vd : Nat) (r : LaunchRec) : Bool :=
  let v := s.vd vd
  let (h, w) := shapeDims r.shape
  let c := h * w
  decide ((r.nthreads + 31) / 32 ≤ v.slotRuns) && decide (r.nthreads * r.regs8 ≤ 256 * v.rowUnits) &&
  decide (r.scratch ≤ 4096 * v.scrUnits) && decide (r.gsize ≤ 4 * c) && decide ((r.gsize + c - 1) / c * r.canopy ≤ 512) &&
  !(blocksOf s vd r.shape).isEmpty

/-! ## Placement (R306 to R309, R402) -/

/-- Bytes of a stretch of the scratchpads that a placement hands over: nothing has written them (R308, R432, log 4). -/
def clearWindow (s : State) (core base size : Nat) : State :=
  let lo := core * 2 ^ 19 + base
  let hit (a : Nat) : Bool := decide (lo ≤ a) && decide (a < lo + size)
  { s with scratch := s.scratch.filter fun c => !hit c.1,
           poison := s.poison.filter fun k => !(k % 2 == 1 && hit (k / 2 * 32)) }

/-- A team at its placement (R308, R309). -/
def freshTeam (s : State) (gk vd launch node rank : Nat) (core : Nat) (r : LaunchRec) (grid teamid : Nat) : Team :=
  let p0 := firstPart s core
  let runs := (pickRuns s vd core p0 [] (freshNeed r).groups).getD []
  let ths : AMap Thread := (List.range r.nthreads).map fun j =>
    (j, freshThread (slotIn (AMap.get 0 runs (j / 32)) j) r.tentry (BitVec.ofNat 3 r.pix))
  { gang := gk, rank := rank, teamid := teamid, grid := grid, vd := vd, core := core, launch := launch, node := node, lrec := r,
    p0 := p0, runs := runs, order := s.nextKey, threads := ths,
    stream := { pc := r.uentry, retired := r.uentry == 0 },
    k := (r.kinit.zip (List.range 16)).map fun x => (x.2, x.1),
    winBase := (pickWindow s vd core r.scratch).getD 0, rowBase := (s.vd vd).rowBase, tagBase := (pickTags s core r.tags).getD 0, wdlim := r.wdlim }

/-- The glades of GLINIT made live (R306). -/
def applyGlinit (s : State) (k : Nat) (r : LaunchRec) : State :=
  r.glinit.foldl (fun s g =>
    let x := g.toNat
    let n := x / 2 ^ 19 % 4096
    if n = 0 then s else makeGlade s (((s.team? k).map Team.core).getD 0) k (x % 2 ^ 19) n (x / 2 ^ 31 == 1)) s

/-- A gang's placement step counted by its node (R399): the next gang's number follows, or the node drains. -/
def countGang (s : State) (launch node : Nat) : State :=
  modNode s launch node fun nd =>
    let last := nd.lrec.nteams ≤ (nd.next + 1) * nd.lrec.gsize
    { nd with next := nd.next + 1, since := s.cycle, aged := false, state := if last then .draining else .placing }

/-- A gang placed on some cores (R308): all of its teams, with the CT of its predecessors (R400), which is no less than that of the host's writes
before its launch word (R407). Where an image is still to be copied the gang holds its resources, and its placement step comes later (R383, R403). -/
def placeGang (s : State) (launch node : Nat) (x : Launch) (nd : Node) (block cores : List Nat) : State :=
  let r := nd.lrec
  let gk := s.nextKey
  let keys := (List.range r.gsize).map fun g => gk + 1 + g
  let ct := (nd.deps.map fun j => (AMap.get {} x.nodes j).ct).foldl maxD x.ct
  let s1 := installImages s x.vd block
  let s2 := ((keys.zip cores).zip (List.range r.gsize)).foldl (fun s y =>
    let t := freshTeam { s with nextKey := gk } gk x.vd launch node y.2 y.1.2 r x.grid (nd.next * r.gsize + y.2)
    let sa := clearWindow (raiseCt s y.1.2 ct) y.1.2 t.winBase r.scratch
    { sa with teams := AMap.set sa.teams y.1.1 t }) s1
  let ready := imagesReady s2 gk x.vd
  let g : Gang := { vd := x.vd, launch := launch, node := node, number := nd.next, teams := keys, block := block.headD 0, placed := ready, fresh := !ready }
  let s3 := { s2 with gangs := AMap.set s2.gangs gk g, nextKey := gk + 1 + r.gsize }
  let s4 := keys.foldl (fun s k => applyGlinit s k r) s3
  if ready then countGang s4 launch node else s4

/-- The gang of a node that waits for its images (R403). -/
def copyingGang (s : State) (l n : Nat) : Option (Nat × Gang) := s.gangs.find? fun p => p.2.fresh && p.2.launch == l && p.2.node == n

/-- One whose images have all come: its placement step is made. -/
def copiedGang (s : State) (l n : Nat) : Option Nat := ((copyingGang s l n).filter fun p => imagesReady s p.1 p.2.vd).map Prod.fst

/-- The placement step of a gang whose images have been copied. -/
def finishPlacement (s : State) (gk launch node : Nat) : State :=
  countGang (s.modGang gk fun g => { g with placed := true, fresh := false }) launch node

/-- An older launch, by sr.grid, whose counter of 32 bits wraps (R394, R401). DESIGN CHOICE (log 69): of two queues' launches with one sr.grid, the one
accepted earlier, whose key is less. -/
def olderLaunch (l : Nat) (x : Launch) (m : Nat) (y : Launch) : Bool :=
  if x.grid = y.grid then decide (l < m) else seqLe x.grid y.grid

/-- The nodes of a virtual device in PLACING whose next gangs come before a given one's in the order of R401. -/
def earlier (s : State) (l n : Nat) (x : Launch) (nd : Node) : List (Nat × Nat × Node) :=
  (s.launches.map fun p => if p.2.vd = x.vd then (p.2.nodes.filter fun q =>
      q.2.state == .placing && q.2.ending.isNone && !(p.1 == l && q.1 == n) &&
      (decide (nd.lrec.gprio < q.2.lrec.gprio) || (q.2.lrec.gprio == nd.lrec.gprio &&
        (if p.1 = l then decide (q.1 < n) else olderLaunch p.1 p.2 l x)))).map fun q => (p.1, q.1, q.2) else []).flatten

/-- The block and cores of a fresh gang. -/
def freshBlock (s : State) (vd : Nat) (r : LaunchRec) : Option (List Nat × List Nat) :=
  findBlock s vd r (List.replicate r.gsize (freshNeed r)) []

/-- The block and cores of a node's next gang, if it can be placed now: no earlier gang fits, and none has waited too long (R401). A gang that
waits for its images already holds its place. -/
def placement (s : State) (l n : Nat) : Option (Launch × Node × List Nat × List Nat) :=
  match AMap.find s.launches l with
  | none => none
  | some x =>
    match AMap.find x.nodes n with
    | none => none
    | some nd =>
      if nd.state != .placing || nd.ending.isSome || !(s.vd x.vd).resident || (s.vd x.vd).configDue || partFrozen s (s.vd x.vd).part || displaced s x.vd ||
          (copyingGang s l n).isSome || (earlier s l n x nd).any (fun e => e.2.2.aged || decide (e.2.2.since + 4096 ≤ s.cycle) ||
            ((copyingGang s e.1 e.2.1).isNone && (freshBlock s x.vd e.2.2.lrec).isSome)) then none
      else (freshBlock s x.vd nd.lrec).map fun b => (x, nd, b.1, b.2)

/-- PLACEMENT_STEP (R402, R403). -/
def execPlacementStep (launch node : Nat) (s : State) : Out :=
  match copiedGang s launch node, placement s launch node with
  | some gk, _ => event (finishPlacement s gk launch node)
  | none, some (x, nd, block, cores) => event (placeGang s launch node x nd block cores)
  | none, none => event s

/-- PLACEMENT_AGING (R401). -/
def execPlacementAging (launch node : Nat) (s : State) : Out :=
  event (modNode s launch node fun nd =>
    if nd.state == .placing && nd.ending.isNone && decide (nd.since + 4096 ≤ s.cycle) then { nd with aged := true } else nd)

/-- The index PIX of a node's record no longer names the image that the record was checked against (R305, R399). -/
def rebound (s : State) (vd : Nat) (nd : Node) : Bool := nd.lrec.pix != 0 && (imageAt s vd nd.lrec.pix).map Image.digest != nd.image

/-- Whether a node in WAITRES can leave it: a rebound index, or the threshold reached (R399, R427). -/
def waitResReady (s : State) (x : Launch) (nd : Node) : Bool :=
  nd.state == .waitRes && nd.ending.isNone && (rebound s x.vd nd || ((s.vd x.vd).resident && residencyOk s x.vd))

/-- A node enters PLACING; one whose gang could not be placed even in the empty partition ends (R399, R434). -/
def enterPlacing (s : State) (launch node : Nat) (x : Launch) (nd : Node) : State :=
  if placeable s x.vd nd.lrec then modNode s launch node fun nd => { nd with state := .placing, since := s.cycle }
  else settleAll (modNode s launch node fun nd => { nd with state := .placing, since := s.cycle, ending := some 3 })

/-- RESIDENCY_THRESHOLD (R399, R427). -/
def execResidencyThreshold (launch node : Nat) (s : State) : Out :=
  match AMap.find s.launches launch with
  | none => event s
  | some x =>
    match AMap.find x.nodes node with
    | none => event s
    | some nd =>
      if !waitResReady s x nd then event s
      else if rebound s x.vd nd then
        event (settleAll (modNode s launch node fun nd => { nd with state := .done, status := 2 }))
      else event (enterPlacing s launch node x nd)

/-- IMAGE_SLOT_COPY_DONE (R383). -/
def execImageSlotCopyDone (cluster slot : Nat) (s : State) : Out :=
  let m := AMap.get [] s.slots cluster
  event (match AMap.find m slot with
    | some x => { s with slots := AMap.set s.slots cluster (AMap.set m slot { x with copying := false }) }
    | none => s)

/-! ## Retirement and completion -/

/-- The conditions of R310. -/
def retireReady (t : Team) : Bool :=
  t.resident && !t.retired && t.threads.isEmpty && t.stream.retired && (t.bins.all fun b => b.reqs.isEmpty) && t.copies.isEmpty &&
  t.bulk.isEmpty && t.running.isNone && t.matrix.isEmpty && t.stream.out.isEmpty && t.entry.isNone && t.granted.isEmpty && t.loads.isEmpty &&
  t.arrivals.isEmpty

/-- TEAM_RETIRE (R310): the last team of a gang retires the gang, with the CT that its cores then have (R400). -/
def execTeamRetire (team : Nat) (s : State) : Out :=
  match s.team? team with
  | none => event s
  | some t =>
    if !retireReady t then event s
    else
      let s1 := s.setTeam team { t with retired := true, glades := [], tiles := [], canopy := [], tags := [], barriers := [] }
      match s1.gang? t.gang with
      | some g =>
        if g.teams.all fun k => ((s1.team? k).map Team.retired).getD true then
          let ct := (g.teams.filterMap s1.team?).foldl (fun m u => maxD m (ctOf s u.core)) 0
          event (settleAll (dropGang (modNode s1 t.launch t.node fun nd => { nd with ct := maxD nd.ct ct }) t.gang))
        else event s1
      | none => event s1

/-- The launch's STATUS and NODE (R405). -/
def launchStatus (x : Launch) : Nat × Nat :=
  match x.early with
  | some st => (st, 0)
  | none => ((x.nodes.find? fun p => p.2.status != 0 && p.2.status != 7).map fun p => (p.2.status, p.1)).getD (0, 0)

/-- A completion entry (R405). -/
def completionBytes (phase : Nat) (stamp : DWord) (x : Launch) : List Byte :=
  let (st, nd) := launchStatus x
  leBytes 8 (x.tag * 2 ^ 48 + st * 2 ^ 40 + nd * 2 ^ 32 + x.grid % 2 ^ 32) ++ leBytes 8 (phase * 2 ^ 63 + stamp.toNat % 2 ^ 63)

/-- A management command ends (R480): its results, STATUS, then DONE = 1. -/
def complete (s : State) (c : Cmd) (results : List (Nat × List Byte)) (code detail : Nat) : State :=
  let m1 := results.foldl (fun m r => cellsSet m (c.entry + r.1) r.2) s.mem
  let m2 := cellsSet m1 (c.entry + 56) (leBytes 4 (code + 256 * detail))
  { s with mem := cellsSet m2 (c.entry + 60) (leBytes 4 1) }

/-- A drain whose launches are all done and written ends (R396). -/
def finishDrain (s : State) (qn : Nat) : State :=
  match AMap.find s.queues qn with
  | none => s
  | some q =>
    match q.draining with
    | none => s
    | some c =>
      if s.launches.any fun p => p.2.queue == qn then s
      else complete { s with queues := AMap.set s.queues qn { q with draining := none, cancelled := 0 } } c [(0x20, leBytes 4 q.cancelled)] 0 0

/-- Whether the next completion entry of a queue is that of a launch, and every system write of the launch is acknowledged (R404). -/
def completionReady (s : State) (launch : Nat) : Bool :=
  match AMap.find s.launches launch with
  | none => false
  | some x => x.unacked.isEmpty && ((AMap.find s.queues x.queue).map fun q => q.doneOrder.head? == some launch).getD false

/-- COMPLETION_ENTRY_WRITE (R404): it waits for acknowledgments, and, with STALL set, while the ring is full. -/
def execCompletionEntryWrite (launch : Nat) (s : State) : Out :=
  match AMap.find s.launches launch with
  | none => event s
  | some x =>
    match AMap.find s.queues x.queue with
    | none => event s
    | some q =>
      if q.doneOrder.head? ≠ some launch ∨ !x.unacked.isEmpty then event s
      else if (q.w + 2 ^ 32 - q.chead) % 2 ^ 32 = q.entries then
        event { s with queues := AMap.set s.queues x.queue { q with stall := true } }
      else
        let phase := if q.w / q.entries % 2 = 0 then 1 else 0
        let mem := cellsSet s.mem (q.ring + 16 * (q.w % q.entries)) (completionBytes phase s.growth x)
        let cancelled := if (launchStatus x).1 = 9 then 1 else 0
        let q1 := { q with w := (q.w + 1) % 2 ^ 32, stall := false, doneOrder := q.doneOrder.drop 1, cancelled := q.cancelled + cancelled }
        let s1 := { s with mem := mem, queues := AMap.set s.queues x.queue q1, launches := AMap.del s.launches launch,
                           msix := match q.msix with
                             | some v => (q.port, v) :: s.msix
                             | none => s.msix }
        event (finishDrain (settleAll s1) x.queue)

/-! ## Pre-emption (R428 to R432) -/

/-- A thread has stopped: at a boundary after an instruction with S = 1, in a wait, or by the time limit. -/
def threadStopped (s : State) (k tid : Nat) (th : Thread) : Bool :=
  th.preempted || th.dead || stopsAtOnce th || hasStopped s k tid th || (boundarySafe th).isSome

/-- A thread that the time limit of a stop request stops (R428 step 1); an expansion past its commit point that has no tail completes first. -/
def stopTimedOut (s : State) (k : Nat) (th : Thread) : Bool :=
  match (s.team? k).bind fun t => s.gang? t.gang with
  | some g => !th.preempted && th.wait.isNone && !th.pastCommit && (match g.stopAt with
      | some c => decide (c + 1024 ≤ s.cycle)
      | none => false)
  | none => false

/-- PREEMPT_STOP_TIMEOUT (R428): an expansion not yet committed is rolled back; a REP stops between its elements, in its tail under a
template (R128, R294). The thread's halts end (R470). -/
def execPreemptStopTimeout (ag : Agent) (s : State) : Out :=
  match ag with
  | .stream _ => event s
  | .thread k tid =>
    event <| endStopHalts (s.modThread k tid fun th =>
      if stopTimedOut s k th then
        { (if th.expansion.isSome then rollback th else th) with preempted := true, safe := if th.expansion.isSome then none else th.safe }
      else th)

/-- The drain bound of 20 µs (R428), in cycles at 2.7 GHz (log 15). -/
def drainBound : Nat := 54000

def boundPassed (s : State) (g : Gang) : Bool :=
  match g.stopAt with
  | some c => decide (c + drainBound ≤ s.cycle)
  | none => false

/-- Replay entries of kinds 4 and 5 of a thread at the drain bound (R429, R430). -/
def boundReplays (tid : Nat) (th : Thread) : List Replay :=
  ((th.out.filter fun ac => ac.port.isSome && returnsData ac.op && isWrite ac.op).map fun ac =>
    { kind := 4, tid := tid, access := some ac, write := none, reply := none, acked := false }) ++
  (match th.wait with
   | some (.drain _) => th.unacked.map fun w => { kind := 5, tid := tid, access := none, write := some w, reply := none, acked := false }
   | _ => [])

/-- DRAIN_BOUND_EXPIRY (R428, R429): system replies and acknowledgments still awaited become replay entries; a SYNCH is saved at its
start. -/
def execDrainBoundExpiry (gang : Nat) (s : State) : Out :=
  match s.gang? gang with
  | none => event s
  | some g =>
    if !boundPassed s g then event s
    else event <| endStopHalts (g.teams.foldl (fun s k => s.modTeam k fun t =>
      let strip (th : Thread) : Thread :=
        let th1 := { th with out := th.out.filter fun ac => !(ac.port.isSome && returnsData ac.op && isWrite ac.op) }
        match th.wait with
        | some (.drain _) | some (.tick _ _) => { th1 with wait := none, unacked := [], markers := [], preempted := true }
        | _ => th1
      { t with replays := t.replays ++ (t.threads.map fun p => boundReplays p.1 p.2).flatten,
               threads := t.threads.map fun p => (p.1, strip p.2) }) s)

/-- A thread that has stopped after its gang was asked to, in a wait, by a HALTT or past an instruction with S = 1, stays so until the save (R428 step
1), and its own halts end (R470). -/
def settleStop (s : State) (k tid : Nat) : State :=
  match s.team? k, s.thread? k tid with
  | some t, some th => if stopping s t && threadStopped s k tid th && !th.preempted then endStopHalts (s.modThread k tid stopHere) else s
  | _, _ => s

/-- Every thread of a stopping gang has stopped (R428 step 1). -/
def saveReady (s : State) (g : Gang) : Bool :=
  g.stopAt.isSome && !g.saved &&
  (g.teams.filterMap fun k => (s.team? k).map fun t => (k, t)).all fun p =>
    p.2.threads.all fun q => threadStopped s p.1 q.1 q.2 && ((q.2.expansion.map fun x => x.committed).getD true)

/-- The started MLDB of a team: the head of its cluster's loader (R264, R428). -/
def finishLoad (s : State) (k : Nat) : State :=
  match (s.team? k).bind fun t => nextLoad s (clusterOf t.core) with
  | some (j, t, c) => if j = k then loadDone s k t c else s
  | none => s

/-- A thread as its record holds it (R431, R432): its window is given up, and its place in a line; an interrupted wait resumes at its
instruction (R219), in the tail record under a template (R294); a clause's WAIT is kept, though the record's CLAUSE has no field for it (log 56);
its live record, if it stands at a safe point, limits the save. -/
def savedThread (th : Thread) : Thread :=
  let stays : Bool := match th.wait with
    | some (.clause _) | some .exit => true
    | _ => false
  let tailing := (th.expansion.map Expansion.tailing).getD false
  { th with held := false, dirty := 0, yielded := none, preempted := false, rep := none, spot := none, spawn := none, after := none, markers := [],
            safe := boundarySafe th, wait := if stays then th.wait else none, kept := keepWait th, expansion := none,
            tail := if tailing then some { addr := th.arch.pc, pix := th.arch.pix } else th.tail }

/-- A command that has not been granted is an entry of its queue again, to be checked anew (R264, R433). -/
def requeued (c : PCmd) : PCmd := { c with checked := false, since := 0, held := [], prog := 0, buf := [], hot := none }

/-- The commands of a team's matrix queue that have not been granted, in the order in which they left it (R264). -/
def ungranted (t : Team) : List PCmd :=
  let left := match t.entry with
    | none => t.loads
    | some e => t.loads.takeWhile (fun c => decide (c.since ≤ e.since)) ++ e.cmd :: t.loads.dropWhile fun c => decide (c.since ≤ e.since)
  (left ++ t.matrix).map requeued

/-- A team's issued accesses, started copies, granted commands and started MLDB land (R428 step 2). -/
def quiesceTeam (s : State) (k : Nat) : State := finishLoad (landTeam s k) k

/-- The times of the lines of a team's window, by place in the window, and the times of lines with those of a window at a place: no line's fall, so that
the order of the accesses to it stands (R331, R335, R340). -/
def windowTimes (s : State) (t : Team) : AMap Times :=
  let lo := lineKey (winLoc t 0)
  s.times.filterMap fun p => if p.1 % 2 = 1 ∧ lo ≤ p.1 ∧ p.1 < lo + 2 * ((t.lrec.scratch + 63) / 64) then some ((p.1 - lo) / 2, p.2) else none
def putTimes (m : AMap Times) (core base : Nat) (ts : AMap Times) : AMap Times :=
  ts.foldl (fun m p =>
    let k := lineKey (.scr core (base + 64 * p.1))
    let x := AMap.get {} m k
    AMap.set m k { wts := maxD x.wts p.2.wts, rts := maxD x.rts p.2.rts }) m

/-- A team that has quiesced is saved and off its core (R428 steps 3 and 4, R431): each of its bins keeps the cycles left on its timer (R312); what
remains of a started KCP becomes a replay entry, translated again (R239, R433). -/
def saveTeam (s : State) (k : Nat) : State :=
  match s.team? k with
  | none => s
  | some t =>
    let lo := t.core * 2 ^ 19 + t.winBase
    s.setTeam k { t with
      resident := false, savedCt := ctOf s t.core, savedTimes := windowTimes s t, savedWindow := cellsGet s.scratch lo t.lrec.scratch,
      savedPoison := (List.range (t.lrec.scratch / 32)).filter fun i => s.poison.contains (2 * ((lo + 32 * i) / 32) + 1),
      bins := t.bins.map fun b => { b with since := t.lrec.spawntmr - (s.cycle - b.since) },
      matrix := ungranted t, entry := none, loads := [], running := t.running.map fun r => { r with cmd := { r.cmd with held := [] } },
      threads := t.threads.map fun p => (p.1, savedThread p.2) }

/-- CONTEXT_SAVE_COMPLETE (R428): every team of the gang quiesces before one is saved; no halt of the gang's threads is left (R279, R470); a node whose
last gang it was may be done (R399), and a retired cluster whose last team it was is cleared (R461). -/
def execContextSaveComplete (gang : Nat) (s : State) : Out :=
  match s.gang? gang with
  | none => event s
  | some g =>
    if !saveReady s g then event s
    else
      let s1 := g.teams.foldl saveTeam (g.teams.foldl quiesceTeam (endHalts s fun h => g.teams.contains h.team))
      let s2 := writeImage (s1.modGang gang fun g => { g with stopAt := none, blocked := none }) gang
      event (settleAll (s2.modGang gang fun g => { g with saved := true }))

/-! ## Restore (R433) -/

/-- The port writes what it has received into the entries of a saved gang's image (R429). -/
def refreshImage (s : State) (gk : Nat) : State :=
  match s.gang? gk with
  | none => s
  | some g =>
    let bs := gangImage g (g.teams.filterMap s.team?)
    match (if g.saved then g.image else none) with
    | some (a, n) => if bs.length = n then { s with mem := cellsPut s.mem a bs } else s
    | none => s

/-- SYSTEM_REPLY_ARRIVAL (R429): a resident agent's oldest system ATOM or CAS returns; else the oldest entry awaited is filled. The operation of an entry
is performed after the save, and what the restore raises CT to is no less than its time (R340). -/
def execSystemReplyArrival (ag : Agent) (s : State) : Out :=
  let sys (ac : Access) : Bool := ac.port.isSome && returnsData ac.op && isWrite ac.op
  match ag with
  | .stream _ => event s
  | .thread k tid =>
    match s.team? k with
    | none => event s
    | some t =>
      if (outOf s ag).any sys then event (performIf s ag sys)
      else match t.replays.find? fun r => r.tid == tid && ((r.kind == 4 && r.reply.isNone) || (r.kind == 5 && !r.acked)) with
        | none => event s
        | some r =>
          let put (s : State) (x : Replay) : State :=
            refreshImage (s.modTeam k fun t => { t with replays := t.replays.map fun y => if y = r then x else y }) t.gang
          match r.access with
          | some ac =>
            match performAt s t ag ac with
            | (s1, some (x, bad)) =>
              let s2 := s1.modTeam k fun t => { t with savedCt := maxD t.savedCt (timesOf s1 ac.loc).wts }
              event (put s2 { r with reply := some (leBytes ac.size x, bad) })
            | (s1, none) => event s1
          | none => match r.write with
            | some w => event (refreshImage (ackWrite s w) t.gang)
            | none => event s

/-- Every reply has arrived and every acknowledgment is marked (R429). -/
def replaysReady (t : Team) : Bool := t.replays.all fun r => if r.kind = 4 then r.reply.isSome else r.acked

/-- Values a safe-point save does not hold are undefined after the restore (R78, R432). -/
def applyLive (s : State) (alloc : Nat) (th : Thread) (l : LiveRec) : Thread :=
  let ar := th.arch
  let fw (i : Nat) : Word := Config.freeWord (s.free + i)
  let v : AMap Word := (List.range alloc).map fun j => (j, if l.vmask.getLsbD (j / 8) then vReg ar j else fw j)
  let pf : BitVec 16 := (fw 256).truncate 16
  let fl (n : Nat) : Loop := { count := fw n, start := fw (n + 1) ++ fw (n + 2), stop := fw (n + 3) ++ fw (n + 4) }
  { th with arch := { ar with v := v, p := (ar.p &&& l.pmask) ||| (pf &&& ~~~l.pmask),
                              lc0 := if l.lc0 then ar.lc0 else fl 257, lc1 := if l.lc1 then ar.lc1 else fl 262 } }

/-- A thread resumes (R433 step 4). -/
def restoreThread (s : State) (alloc run tid : Nat) (th : Thread) : Thread :=
  let th1 := { th with slot := slotIn run tid, waitFrom := s.cycle, preempted := false }
  (safeSave th1).elim th1 (applyLive s alloc th1)

/-- Threads resume one after another: the counter of free values passes those of each. -/
def restoreThreads (s : State) (k : Nat) : State :=
  match s.team? k with
  | none => s
  | some t => t.threads.foldl (fun s p =>
      { s.modThread k p.1 fun th => restoreThread s (8 * t.lrec.regs8) (AMap.get 0 t.runs (p.1 / 32)) p.1 th with free := s.free + 267 }) s

/-- A copy's replay entry: its addresses are translated again, which the caches and the residency record show (R420, R421, R426); one that faults
writes nothing, and marks its tag and glade, and the waits that its counts end go on (R318, R433). -/
def replayCopy (s : State) (k id : Nat) : State :=
  match s.team? k with
  | none => s
  | some t =>
    match AMap.find t.copies id with
    | none => s
    | some c =>
      let smode := (c.tid.bind fun j => AMap.find t.threads j).map fun th => th.arch.mode
      match resolveAs s t (smode.getD false) c.srcVa c.size 1 ⟨true, false⟩ c.srcVa, resolveAs s t (smode.getD false) c.dstVa c.size 1 ⟨false, true⟩ c.dstVa with
      | .ok l, .ok m =>
        (recallLine (noteAccess (noteAccess s t c.srcVa l) t c.dstVa m) m).modTeam k fun t =>
          { t with copies := AMap.set t.copies id { c with src := l, dst := m, port := locPort m } }
      | l, _ =>
        let s0 := noteWalk s t c.srcVa
        let sw := if l.toBool then noteWalk s0 t c.dstVa else s0
        let s1 := match c.tid with
          | some j => sw.modThread k j fun th => decFlag th c.flag
          | none => sw
        let s2 := s1.modTeam k fun t => setTagFault (decTag { t with copies := AMap.del t.copies id } c.tag) c.tag
        let s3 := match c.glade.bind (gladeHome s2 k) with
          | some (h, off) => markFaulted s2 t.core h off
          | none => s2
        s3.modTeam k recheckTeam

/-- A system reply written to its register, and its flag (R433 step 3, R446). -/
def replayReply (s : State) (k : Nat) (r : Replay) : State :=
  match r.access, r.reply with
  | some ac, some (bs, bad) => s.modThread k r.tid fun th => decFlag (giveData th ac (some (leNat bs, bad))) ac.flag
  | _, _ => s

/-- A team written back on a core (R433); the timers of its bins go on (R312), which stand beside those of the core even past its 16 (log 58). -/
def restoreTeam (s : State) (k core : Nat) : State :=
  match s.team? k with
  | none => s
  | some t =>
    let p0 := firstPart s core
    let win := (pickWindow s t.vd core t.lrec.scratch).getD 0
    let s1 := clearWindow (raiseCt s core t.savedCt) core win t.lrec.scratch
    let lo := core * 2 ^ 19 + win
    let t1 : Team := { t with
      resident := true, core := core, p0 := p0, runs := (pickRuns s t.vd core p0 [] (t.runs.map Prod.fst)).getD [],
      winBase := win, rowBase := (s.vd t.vd).rowBase, tagBase := (pickTags s core t.lrec.tags).getD 0,
      order := s.nextKey, savedWindow := [], savedPoison := [], savedTimes := [], replays := [],
      bins := t.bins.map fun b => { b with since := s.cycle + b.since - t.lrec.spawntmr } }
    let s2 := { s1 with scratch := cellsSet s1.scratch lo t.savedWindow,
                        times := putTimes s1.times core win t.savedTimes,
                        poison := (t.savedPoison.map fun i => 2 * ((lo + 32 * i) / 32) + 1) ++ s1.poison,
                        teams := AMap.set s1.teams k t1, nextKey := s1.nextKey + 1 }
    let s3 := (t.replays.filter fun r => r.kind == 4).foldl (fun s r => replayReply s k r) s2
    restoreThreads (s3.modTeam k recheckTeam) k

/-- The replay entries of a restored team issue: its copies, and what is left of its KCP, whose destination lines are taken from the cores that hold
them (R338, R433). -/
def replayTeam (s : State) (k : Nat) : State :=
  match s.team? k with
  | none => s
  | some t =>
    let s1 := (t.copies.map Prod.fst).foldl (fun s id => replayCopy s k id) s
    t.running.elim s1 fun r => recallKeys s1 (bulkLines s1 t r)

/-- The block and cores on which a saved gang can be restored now (R429, R433); the residency test is made as the restore of a switch-in
begins (R427). -/
def restorePlace (s : State) (g : Gang) : Option (List Nat × List Nat) :=
  let ts := g.teams.filterMap s.team?
  match ts.head? with
  | none => none
  | some t0 =>
    if !g.saved || !(s.vd g.vd).resident || (s.vd g.vd).configDue || partFrozen s (s.vd g.vd).part || displaced s g.vd || !ts.all replaysReady ||
        !(residencyOk s g.vd || ((s.vd g.vd).entering && contextOn s g.vd)) then none
    else findBlock s g.vd t0.lrec (ts.map savedNeed) (ts.map fun t => t.tiles.length)

/-- A saved gang whose restore the switch-in of its virtual device still waits for: one that finds no room waits on its own (R434). -/
def restoreDue (s : State) (g : Gang) : Bool :=
  let ts := g.teams.filterMap s.team?
  g.saved && ((s.vd g.vd).configDue || displaced s g.vd || partFrozen s (s.vd g.vd).part ||
    (ts.head?.bind fun t0 => findBlock s g.vd t0.lrec (ts.map savedNeed) (ts.map fun t => t.tiles.length)).isSome)

/-- A restored gang that waits for its images (R403). -/
def restoring (g : Gang) : Bool := !g.saved && !g.placed && !g.fresh

/-- A switch-in is complete when its restores are placed (R417). -/
def entered (s : State) (vd : Nat) : Bool := (s.vd vd).entering && !(vdGangs s vd).any fun p => restoreDue s p.2 || restoring p.2

/-- Whether a virtual device has become, or stopped being, runnable since the last decision. -/
def decisionDue (s : State) (vd : Nat) : Bool := configured (s.vd vd) && (s.vd vd).runnable != vdRunnable s vd

/-- SCHEDULER_DECIDE (R417): on becoming runnable, VT rises to the smallest of the partition's resident virtual devices. A switch-in that has
come to its end starts the quantum. -/
def execSchedulerDecide (s : State) : Out :=
  match s.vds.find? fun p => decisionDue s p.1 with
  | none =>
    match s.vds.find? fun p => entered s p.1 with
    | some (vd, _) => event (s.modVd vd fun v => { v with entering := false, quantumFrom := s.growth.toNat })
    | none => event s
  | some (vd, _) =>
    let r := vdRunnable s vd
    let s1 := s.modVd vd fun v => { v with runnable := r }
    if r then
      let vts := (s1.vds.filter fun p => p.2.resident && p.2.part == (s1.vd vd).part && p.1 != vd).map fun p => p.2.vt
      let lo := match vts with
        | [] => 0
        | y :: ys => ys.foldl min y
      event (decide417 (s1.modVd vd fun v => { v with vt := max v.vt lo }) vd)
    else if (s1.vd vd).resident then event (decide417 s1 vd) else event s1

/-- A restored gang whose images have all come: its placement step is made (R403, R433). -/
def restoreEnds (s : State) (gk : Nat) (g : Gang) : Bool := restoring g && g.stopAt.isNone && imagesReady s gk g.vd

/-- GANG_RESTORE (R433); where an image is still to be copied the gang holds its resources, and runs once it has come (R403). -/
def execGangRestore (gang : Nat) (s : State) : Out :=
  match s.gang? gang with
  | none => event s
  | some g =>
    if restoreEnds s gang g then event (s.modGang gang fun g => { g with placed := true })
    else match restorePlace s g with
    | none => event s
    | some (block, cores) =>
      let live := g.teams.filter fun k => (s.team? k).isSome
      let s1 := installImages s g.vd block
      let s2 := (live.zip cores).foldl (fun s x => restoreTeam s x.1 x.2) s1
      let s3 := s2.modGang gang fun g => { g with saved := false, stopAt := none, blocked := none, block := block.headD 0, image := none,
                                                  placed := imagesReady s2 gang g.vd }
      event (live.foldl replayTeam s3)

/-! ## Partitions that shrink (R434) -/

/-- A resident gang lies within its virtual device's partition and quota; a virtual device's rows on a core stand together from the base of
the quota that they were taken under (log 51). -/
def gangFits (s : State) (g : Gang) : Bool :=
  let v := s.vd g.vd
  (g.teams.filterMap s.team?).all fun t =>
    (s.partQuads g.vd).contains (dieOf t.core) && !s.retiredSet.contains (clusterOf t.core) &&
    (t.runs.all fun r => decide (v.slotBase ≤ r.2) && decide (r.2 < v.slotBase + v.slotRuns)) &&
    decide (4096 * v.scrBase ≤ t.winBase) && decide (t.winBase + t.lrec.scratch ≤ 4096 * (v.scrBase + v.scrUnits)) &&
    decide (v.rowBase ≤ t.rowBase) && decide (256 * t.rowBase + usedRows s g.vd t.core ≤ 256 * (v.rowBase + v.rowUnits))

/-- The controller's examination of a virtual device after a shrink (R434). -/
def examine (s : State) (vd : Nat) : State :=
  let out := (vdGangs s vd).filter fun p => !p.2.saved && !gangFits s p.2
  let s1 := out.foldl (fun s p => requestStop s p.1) s
  let bad := (s1.launches.map fun l => if l.2.vd = vd then
    (l.2.nodes.filter fun n => n.2.state != .done && !placeable s1 vd n.2.lrec).map fun n => (l.1, n.1) else []).flatten
  let s2 := bad.foldl (fun s x => endNode s x.1 x.2 3) s1
  let saved := (vdGangs s2 vd).filter fun p => p.2.saved && bad.contains (p.2.launch, p.2.node)
  settleAll (saved.foldl (fun s p => dropGang s p.1) s2)

/-! ## Granules (R425) -/

/-- GRANULE_MOVE_COMPLETE: the location changes in one step, where the tier has room. From T0 only an evictable granule is sent away, and T2 takes
the least recently accessed granule of a non-resident virtual device where T1 is full (R426). -/
def moveOk (s : State) (g : Nat) (tier : Tier) : Bool :=
  match tier with
  | .t0 => !s.t0.contains g && decide ((t0Of s (granSlice g)).length < 8192)
  | .t1 => ((evictable s (granSlice g)).contains g || s.t2.contains g) && decide (t1Count s (granSlice g) < 1048576)
  | .t2 =>
    let use (x : Nat) : Nat := AMap.get 0 s.granUse x
    let old := t1Of s (granSlice g) fun v => !v.resident
    decide (1048576 ≤ t1Count s (granSlice g)) && decide (0 < t2Room s (granSlice g)) && old.contains g && old.all fun x => decide (use g ≤ use x)

def execGranuleMoveComplete (granule : Nat) (tier : Tier) (s : State) : Out :=
  event (if !moveOk s granule tier then s
    else
      let out (xs : List Nat) : List Nat := xs.filter fun x => x != granule
      match tier with
      | .t0 => { s with t0 := granule :: s.t0, t2 := out s.t2, pinned := if pinsIt s granule then granule :: s.pinned else s.pinned }
      | .t1 => { s with t0 := out s.t0, t2 := out s.t2, dirtyGran := out s.dirtyGran }
      | .t2 => { s with t0 := out s.t0, t2 := granule :: s.t2, dirtyGran := out s.dirtyGran })

end Sys2Proof.Machine
end

