-- ==== Sys2Proof/Machine/Manage.lean ====
section
/-! DEFINITION. The management commands (R480 to R482) and their effects: images (R380 to R383), queues and graphs (R393 to R398),
partitions, virtual devices and tiers (R412 to R424), termination (R448), containment and retirement (R458 to R461), ports and links
(R477, R478), power and attestation (R485, R486). -/

namespace Sys2Proof.Machine

/-! ## How a command runs -/

/-- The little-endian value of `n` bytes of an entry. -/
def cNat (c : Cmd) (off n : Nat) : Nat := leNat ((c.bytes.drop off).take n)

/-- Partitions that a configuration has (R410). -/
def partCount : Nat → Nat
  | 0 => 1 | 1 => 2 | _ => 4

/-- Whether the port's role admits a command (R477, R480): a TENANT's must name a virtual device of its partitions (log 16). -/
def roleAllows (s : State) (c : Cmd) (vdn : Option Nat) : Bool :=
  let p := AMap.get {} s.ports c.port
  p.owner || (match vdn with
    | some n => configured (s.vd n) && p.parts.getLsbD (s.vd n).part
    | none => false)

/-- Whether a byte offset lies in one of some fields (offset, length). -/
def inFields (fs : List (Nat × Nat)) (o : Nat) : Bool := fs.any fun f => decide (f.1 ≤ o) && decide (o < f.1 + f.2)

/-- The first failing parameter byte (R481): a reserved byte that is not 0, or a field out of its range. -/
def paramFail (c : Cmd) (fs : List (Nat × Nat)) (checks : List (Nat × Bool)) : Option Nat :=
  let bad (o : Nat) : Bool :=
    (!inFields fs o && (c.bytes[o]?).getD 0 != 0) || checks.any fun x => x.1 == o && !x.2
  ((List.range 48).map fun i => 8 + i).find? bad

/-- A command: its role, its parameters, its effect (R480 to R482); a package whose boot has failed accepts none (R484). -/
def runCmd (c : Cmd) (s : State) (vdn : Option Nat) (fs : List (Nat × Nat)) (checks : List (Nat × Bool)) (body : State → State) : Out :=
  event (if !s.ready then s
    else if !roleAllows s c vdn then complete s c [] 0x40 0
    else match paramFail c fs checks with
      | some o => complete s c [] 0x42 o
      | none => body s)

/-- A command that ends with a status and no result. -/
def ends (s : State) (c : Cmd) (code detail : Nat) : State := complete s c [] code detail

/-- A readable run of physical addresses (R418). -/
def readable (a n : Nat) : Bool := allocated a && allocated (a + n - 1) && regionOf a == regionOf (a + n - 1)

def isPow2 (x lo hi : Nat) : Bool := decide (lo ≤ x) && decide (x ≤ hi) && 2 ^ Nat.log2 x == x

/-- The smallest number from 1 that a table does not use. -/
def freeHandle {α : Type} (m : AMap α) : Nat := ((List.range (m.length + 1)).map fun i => i + 1).find? (fun h => (AMap.find m h).isNone) |>.getD 1

/-! ## Images (R380 to R383) -/

/-- The 64 bytes of a digest: byte 0 is its most significant (R380). -/
def digestBytes (d : BitVec 512) : List Byte := (List.range 64).map fun i => BitVec.ofNat 8 (d.toNat / 2 ^ (8 * (63 - i)))

/-- IMGTAG of a digest (R380). -/
def imgTag (d : BitVec 512) : Nat := d.toNat / 2 ^ 480

/-- Whether a file is a body, or a body with a well-formed signature block (R380, R382). DESIGN CHOICE (log 73): a reserved word at 0x0C of that block that is
not 0 makes the file malformed. -/
def fileFormatOk (f : List Byte) : Bool :=
  let n := f.length
  let bl := imgNat f 8 4
  decide (128 ≤ n) && decide (bl ≤ n) && (n == bl || n == bl + 4656) &&
  (n == bl || (imgNat f bl 4 == 0x53474C59 && imgNat f (bl + 8) 4 == 4627 && imgNat f (bl + 12) 4 == 0 &&
    (f.drop (bl + 16 + 4627)).all (· == 0)))

/-- The status of a load with its detail, or the body and D (R382). -/
def checkImage (s : State) (f : List Byte) : Except (Nat × Nat) (List Byte × BitVec 512) :=
  if !fileFormatOk f then .error (0x20, 0)
  else
    let bl := imgNat f 8 4
    let body := f.take bl
    match imageCheck body with
    | some o => .error (0x21, o)
    | none =>
      let d := Config.sha3_512 body
      let signed := f.length != bl
      let key := imgNat f (bl + 4) 4
      if !signed then (if s.signedOnly then .error (0x22, 0) else .ok (body, d))
      else match AMap.find s.keys key with
        | none => .error (0x23, key % 2 ^ 24)
        | some k => if !Config.mldsaVerify k d ((f.drop (bl + 16)).take 4627) then .error (0x24, 0) else .ok (body, d)

/-- IMG_LOAD (R381, R382). -/
def execImgLoad (c : Cmd) (s : State) : Out :=
  let a := cNat c 0x08 8
  let n := cNat c 0x10 4
  let buf := cNat c 0x18 8
  runCmd c s none [(0x08, 8), (0x10, 4), (0x18, 8)] [(0x08, readable a (max n 1) && regionOf a != 1), (0x18, readable buf 128 && buf % 64 == 0)] fun s =>
    match checkImage s (cellsGet s.mem a n) with
    | .error (st, d) => ends s c st d
    | .ok (body, d) =>
      let give (s : State) (h : Nat) : State :=
        let m := cellsSet (cellsSet s.mem buf (leBytes 4 h)) (buf + 0x40) (digestBytes d)
        complete { s with mem := m } c [(0x20, leBytes 4 h)] 0 0
      match s.images.find? fun p => p.2.digest == d with
      | some p => give s p.1
      | none =>
        if 64 ≤ s.images.length then ends s c 0x2A 0
        else
          let h := freeHandle s.images
          give { s with images := AMap.set s.images h { body := body, digest := d } } h

/-- IMG_BIND (R381, R382). -/
def execImgBind (c : Cmd) (s : State) : Out :=
  let vd := cNat c 0x08 1
  let i := cNat c 0x09 1
  let h := cNat c 0x0C 4
  runCmd c s (some vd) [(0x08, 2), (0x0C, 4)] [] fun s =>
    let b := AMap.set (s.vd vd).bind i h
    if (AMap.find s.images h).isNone then ends s c 0x25 0
    else if i = 0 ∨ 7 < i then ends s c 0x26 0
    else if contextOn s vd then ends s c 0x27 0
    else if 524288 < (((b.map Prod.snd).eraseDups).map (imageBytes s)).sum then ends s c 0x28 0
    else ends (s.modVd vd fun v => { v with bind := b }) c 0 0

/-- IMG_UNBIND (R381, R382). -/
def execImgUnbind (c : Cmd) (s : State) : Out :=
  let vd := cNat c 0x08 1
  let i := cNat c 0x09 1
  runCmd c s (some vd) [(0x08, 2)] [] fun s =>
    if i = 0 ∨ 7 < i then ends s c 0x26 0
    else if contextOn s vd then ends s c 0x27 0
    else ends (s.modVd vd fun v => { v with bind := AMap.del v.bind i }) c 0 0

/-- The slots that hold an image are emptied, and their decoded lines become invalid (R383). -/
def dropSlots (s : State) (h : Nat) : State :=
  let has (cl slot : Nat) : Bool := (AMap.find (AMap.get [] s.slots cl) slot).any fun x => x.handle == h
  { s with
    lines := s.lines.map fun p => (p.1, p.2.filter fun x => !has p.1 x.psel),
    slots := s.slots.map fun p => (p.1, p.2.filter fun x => x.2.handle != h) }

/-- IMG_DROP (R381, R382). -/
def execImgDrop (c : Cmd) (s : State) : Out :=
  let h := cNat c 0x0C 4
  runCmd c s none [(0x0C, 4)] [] fun s =>
    if (AMap.find s.images h).isNone then ends s c 0x25 0
    else if s.vds.any fun p => p.2.bind.any fun b => b.2 == h then ends s c 0x29 0
    else ends (dropSlots { s with images := AMap.del s.images h } h) c 0 0

/-! ## Work queues (R393 to R396) -/

/-- QUEUE_ASSIGN (R393, R395). -/
def execQueueAssign (c : Cmd) (s : State) : Out :=
  let q := cNat c 0x08 2
  let vd := cNat c 0x0A 1
  let port := cNat c 0x0B 1
  let n := cNat c 0x0C 4
  let ring := cNat c 0x10 8
  let v := cNat c 0x18 2
  let fl := cNat c 0x1A 1
  let bound := decide (port < 2) && configured (s.vd vd) && (AMap.get {} s.ports port).parts.getLsbD (s.vd vd).part
  runCmd c s (some vd) [(0x08, 16), (0x18, 3)]
    [(0x08, decide (q < 4096)), (0x0B, bound), (0x0C, isPow2 n 16 65536),
     (0x10, readable ring (16 * n) && ring % 16 == 0 && regionOf ring != 1), (0x18, decide (v < 2048) || v == 0xFFFF),
     (0x1A, decide (fl < 2))] fun s =>
    if (AMap.find s.queues q).isSome then ends s c 0x38 0
    else
      let x : Queue := { vd := vd, port := port, ring := ring, entries := n, msix := if v = 0xFFFF then none else some v, serial := fl == 1 }
      ends { s with queues := AMap.set s.queues q x } c 0 0

/-- The launches of a queue. -/
def launchesOf (s : State) (q : Nat) : List (Nat × Launch) := s.launches.filter fun p => p.2.queue == q

/-- QUEUE_RELEASE (R393, R396). DESIGN CHOICE (log 74): the entry of a launch that is done and not yet written is dropped with the queue. -/
def execQueueRelease (c : Cmd) (s : State) : Out :=
  let q := cNat c 0x08 2
  runCmd c s none [(0x08, 2)] [(0x08, decide (q < 4096))] fun s =>
    if (launchesOf s q).any (fun p => !launchDone p.2) || (AMap.find s.queues q).any (fun x => x.draining.isSome) then ends s c 0x38 0
    else ends { s with queues := AMap.del s.queues q, launches := s.launches.filter fun p => p.2.queue != q } c 0 0

/-- The teamid of a gang's team of rank 0. -/
def firstTeamid (s : State) (g : Gang) : Nat := ((g.teams.head?.bind s.team?).map Team.teamid).getD 0

/-- A gang terminated by a command: CODE 0 and DATUM 0 (R396, R448). -/
def commandKill (s : State) (gk where' : Nat) (endsNode : Bool) : State := terminateGang s gk 0 0 where' 0xFFFFFFFF 0 endsNode

/-- The effect of QUEUE_DRAIN on a queue's nodes and gangs (R396 steps 2 and 3, R399); a gang that waits for its first placement step gives its place
back without a notice (log 62). DESIGN CHOICE (log 71): the notice of a gang that KILL ends has the sr.teamid of its rank 0 and TID 0xFFFF_FFFF. -/
def drainQueue (s : State) (q : Nat) (kill : Bool) : State :=
  let ls := launchesOf s q
  let s1 := ls.foldl (fun s l => l.2.nodes.foldl (fun s n => endNode s l.1 n.1 9) s) s
  let mine := s1.gangs.filter fun g => ls.any fun l => l.1 == g.2.launch
  let s2 := (mine.filter fun g => g.2.saved).foldl (fun s g => dropGang s g.1) s1
  let s3 := (mine.filter fun g => g.2.fresh).foldl (fun s g => dropGang s g.1) s2
  let s4 := if kill then (mine.filter fun g => !g.2.saved && !g.2.fresh).foldl (fun s g => commandKill s g.1 (firstTeamid s g.2) false) s3 else s3
  settleAll s4

/-- QUEUE_DRAIN (R396): it completes when every launch of the queue is done and its entry is written; one of a queue that drains
waits. -/
def execQueueDrain (c : Cmd) (s : State) : Out :=
  let q := cNat c 0x08 2
  let kill := cNat c 0x0A 1
  if (AMap.find s.queues q).any fun x => x.draining.isSome then event s
  else runCmd c s none [(0x08, 3)] [(0x08, decide (q < 4096) && (AMap.find s.queues q).isSome), (0x0A, decide (kill < 2))] fun s =>
    match AMap.find s.queues q with
    | none => s
    | some x =>
      let s1 := { s with queues := AMap.set s.queues q { x with draining := some c, cancelled := 0 } }
      finishDrain (drainQueue s1 q (kill == 1)) q

/-! ## Task graphs (R304 to R306, R397, R398) -/

/-- An entry address of a record: bits 63:52 and 2:0 are 0. -/
def entryOk (x : Nat) : Bool := decide (x < 2 ^ 52) && x % 8 == 0

/-- The used GLINIT entries lie in the window at distinct offsets (R306); the offset of an unused one is not checked (log 58). -/
def glinitOk (scratch : Nat) (gs : List Nat) : Bool :=
  let used := (gs.filter fun g => g / 2 ^ 19 % 4096 != 0).map fun g => g % 2 ^ 19
  (used.all fun o => o % 16 == 0 && decide (o + 16 ≤ scratch)) && used.eraseDups.length == used.length

/-- A launch record of 256 bytes (R304); none where a field is out of its range. -/
def launchRecordOf (b : List Byte) : Option LaunchRec :=
  let f (o n : Nat) : Nat := imgNat b o n
  let gsize := f 0x27 1 % 16
  let shape := f 0x27 1 / 16 % 4
  let clusters := match shape with
    | 0 => 1 | 1 => 2 | 2 => 3 | _ => 4
  let nteams := f 0x20 4
  let fw := f 0x30 2
  let gl := (List.range 4).map fun i => f (0xE0 + 4 * i) 4
  let ok := entryOk (f 0 8) && entryOk (f 8 8) && entryOk (f 0x10 8) && decide (f 0x18 4 < 8) &&
    (f 0x18 4 != 0 || f 0x1C 4 == 0) && decide (1 ≤ gsize) && decide (gsize ≤ 12) && decide (gsize ≤ 4 * clusters) && decide (f 0x27 1 < 64) &&
    decide (1 ≤ nteams) && nteams % max gsize 1 == 0 && decide (1 ≤ f 0x24 2) && decide (f 0x24 2 ≤ 1024) &&
    decide (2 ≤ f 0x26 1) && decide (f 0x26 1 ≤ 32) && f 0x28 4 % 64 == 0 && decide (f 0x28 4 ≤ 524288) && decide (f 0x2C 2 ≤ 512) &&
    decide (f 0x2E 1 ≤ 64) && decide (f 0x2F 1 < 16) && (fw == 0 || (decide (16 ≤ fw) && decide (fw ≤ 1024))) && f 0x34 4 == 0 &&
    glinitOk (f 0x28 4) gl && f 0xF0 16 == 0
  if ok then some {
    tentry := BitVec.ofNat 64 (f 0 8), uentry := BitVec.ofNat 64 (f 8 8), evec := BitVec.ofNat 64 (f 0x10 8), pix := f 0x18 4,
    imgtag := f 0x1C 4, nteams := nteams, nthreads := f 0x24 2, regs8 := f 0x26 1, shape := shape, gsize := gsize, scratch := f 0x28 4,
    canopy := f 0x2C 2, tags := f 0x2E 1, gprio := f 0x2F 1 / 2, noprog := f 0x2F 1 % 2 == 1, fairwin := if fw = 0 then 64 else fw,
    spawntmr := if f 0x32 2 = 0 then 512 else f 0x32 2, wdlim := BitVec.ofNat 64 (f 0x38 8),
    fsl := (List.range 8).map fun i => BitVec.ofNat 32 (f (0x40 + 4 * i) 4),
    kinit := (List.range 16).map fun i => BitVec.ofNat 64 (f (0x60 + 8 * i) 8), glinit := gl.map (BitVec.ofNat 32) }
  else none

/-- A node entry of a descriptor (R397). -/
structure NodeEntry where
  recAddr : Nat
  deps : List Nat

/-- A node entry: none where it breaks R397 or its record cannot be read. -/
def nodeEntryOf (b : List Byte) (i : Nat) : Option NodeEntry :=
  let o := 0x40 + 48 * i
  let r := imgNat b o 8
  let m := imgNat b (o + 16) 32
  if r % 64 == 0 && readable r 256 && imgNat b (o + 8) 8 == 0 && decide (m < 2 ^ i) then
    some { recAddr := r, deps := (List.range i).filter fun j => m / 2 ^ j % 2 == 1 }
  else none

/-- The first index, in order, at which a list of tests fails. -/
def firstFalse (xs : List Bool) : Option Nat := ((xs.zip (List.range xs.length)).find? fun x => !x.1).map Prod.snd

/-- The record's personality is bound and its IMGTAG matches (R305). -/
def personalityOk (s : State) (vd : Nat) (r : LaunchRec) : Bool :=
  r.pix == 0 || (imageAt s vd r.pix).any fun i => imgTag i.digest == r.imgtag

/-- The checks of R398: the graph, or its status and failing node. -/
def checkGraph (s : State) (vd a : Nat) : Except (Nat × Nat) Graph :=
  let hd := cellsGet s.mem a 64
  let n := imgNat hd 6 2
  if !readable a 64 || imgNat hd 0 4 != 0x47524C59 || imgNat hd 4 2 != 1 || n == 0 || decide (256 < n) || imgNat hd 8 56 != 0 ||
      !readable a (64 + 48 * n) then .error (4, 0)
  else
    let b := cellsGet s.mem a (64 + 48 * n)
    let es := (List.range n).map (nodeEntryOf b)
    match firstFalse (es.map Option.isSome) with
    | some i => .error (4, i)
    | none =>
      let rs := es.map fun e => e.bind fun x => launchRecordOf (cellsGet s.mem x.recAddr 256)
      match firstFalse (rs.map Option.isSome) with
      | some i => .error (1, i)
      | none =>
        let recs := rs.map fun r => r.getD {}
        match firstFalse (recs.map (personalityOk s vd)) with
        | some i => .error (2, i)
        | none =>
          match firstFalse (recs.map fun r => configured (s.vd vd) && placeable s vd r) with
          | some i => .error (3, i)
          | none =>
            if 65536 ≤ s.graphs.length then .error (0xA, 0)
            else .ok { vd := vd, nodes := (es.zip recs).map fun x =>
              { lrec := x.2, deps := (x.1.map NodeEntry.deps).getD [], image := (imageAt s vd x.2.pix).map Image.digest } }

/-- GRAPH_REGISTER (R398). -/
def execGraphRegister (c : Cmd) (s : State) : Out :=
  let vd := cNat c 0x08 1
  runCmd c s (some vd) [(0x08, 1), (0x10, 8)] [] fun s =>
    match checkGraph s vd (cNat c 0x10 8) with
    | .error (st, i) => ends s c st i
    | .ok g =>
      let h := freeHandle s.graphs
      complete { s with graphs := AMap.set s.graphs h g } c [(0x20, leBytes 4 h)] 0 0

/-- GRAPH_DROP (R398). -/
def execGraphDrop (c : Cmd) (s : State) : Out :=
  let h := cNat c 0x0C 4
  runCmd c s none [(0x0C, 4)] [] fun s =>
    if s.launches.any fun p => p.2.graph == h && !launchDone p.2 then ends s c 0x38 0
    else ends { s with graphs := AMap.del s.graphs h } c 0 0

/-! ## Partitions and virtual devices (R412 to R419) -/

/-- A virtual device leaves the cores and the decision is taken anew. -/
def unseat (s : State) (vd : Nat) : State := (switchOut s vd).modVd vd fun v => { v with runnable := false }

/-- Virtual devices that a map puts in a partition. -/
def mapCount (s : State) (map : List Byte) (p : Nat) : Nat :=
  (s.vds.filter fun x => configured x.2 && ((map[x.1]?).getD 0xFF).toNat == p).length

/-- The map of PART_SET is one that R412 accepts. -/
def mapOk (s : State) (config : Nat) (map : List Byte) : Bool :=
  (List.range 256).all fun n =>
    let x := ((map[n]?).getD 0xFF).toNat
    if configured (s.vd n) then decide (x < partCount config) else x == 0xFF

/-- The slices of some dies write back every line, and those that are held exclusive are recalled: each FLOOR is the largest RTS of its lines
(R412 step 3). -/
def flushSlices (s : State) (dies : List Nat) : State :=
  let slice (k : Nat) : Nat := sliceOf s (k / 2 * 64)
  let hit (k : Nat) : Bool := k % 2 == 0 && decide (k / 2 * 64 < 2 ^ 42) && dies.contains (slice k / 64)
  { s with
    holder := s.holder.filter fun x => !hit (2 * x.1),
    floor := (s.times.filter fun x => hit x.1).foldl (fun m x => AMap.set m (slice x.1) (maxD (AMap.get 0 m (slice x.1)) x.2.rts)) s.floor,
    times := s.times.filter fun x => !hit x.1 }

/-- Steps 3 to 5 of PART_SET (R412), and the examination of R434. A line's home may be another slice of these dies from then on, and the FLOOR of
its home keeps its RTS (R331, R340, log 53). -/
def repartition (s : State) (config : Nat) (map : List Byte) : State :=
  let moved (n : Nat) (v : VDev) : Bool :=
    quadrants s.config v.part != quadrants config v.part || ((map[n]?).getD 0xFF).toNat != v.part
  let vds := (s.vds.filter fun p => configured p.2).map Prod.fst
  let movers := (s.vds.filter fun p => configured p.2 && moved p.1 p.2).map Prod.fst
  let dies := (List.range 4).filter fun d => (List.range 4).any fun p =>
    (quadrants s.config p).contains d && quadrants s.config p != quadrants config p
  let s1 := flushSlices (movers.foldl unseat s) dies
  let slices := (dies.map fun d => (List.range 64).map fun i => 64 * d + i).flatten
  let s2 := { s1 with config := config, gates := gatesOf config, floor := carryFloor s1.floor slices slices,
                      vds := s1.vds.map fun p =>
                        (p.1, if configured p.2 then { p.2 with part := ((map[p.1]?).getD 0).toNat } else p.2) }
  vds.foldl examine s2

/-- PART_SET (R412): it waits until every gang of the partitions whose quadrants change is saved. -/
def execPartSet (c : Cmd) (s : State) : Out :=
  let config := cNat c 0x08 1
  let a := cNat c 0x10 8
  let map := cellsGet s.mem a 256
  if s.partSet.any fun d => d != c then event s
  else
    let s0 := { s with partSet := none }
    runCmd c s0 none [(0x08, 1), (0x10, 8)] [(0x08, decide (config < 3)), (0x10, readable a 256 && mapOk s config map)] fun s0 =>
      match (List.range 4).find? fun p => decide (64 < mapCount s0 map p) with
      | some p => ends s0 c 0x31 p
      | none =>
        let mine := s.gangs.filter fun g => quadrants s.config (s.vd g.2.vd).part != quadrants config (s.vd g.2.vd).part
        let s1 := mine.foldl (fun s g => requestStop s g.1) s0
        if mine.any fun g => !g.2.saved then { s1 with partSet := some c }
        else ends (repartition s1 config map) c 0 0

/-- The fields of a VD_CONFIG (R413, R481). -/
def vdFields (c : Cmd) (v : VDev) : VDev :=
  { v with
    part := cNat c 0x09 1, slotBase := cNat c 0x0A 1, slotRuns := cNat c 0x0B 1, rowBase := cNat c 0x0C 1, rowUnits := cNat c 0x0E 2,
    scrBase := cNat c 0x0D 1, scrUnits := cNat c 0x10 1, weight := cNat c 0x11 1, quantum := cNat c 0x12 2, thresh := cNat c 0x14 1,
    recMax := cNat c 0x18 4, nextFeat := some (BitVec.ofNat 8 (cNat c 0x15 1)), nextRoot := some (cNat c 0x20 8),
    ctxBase := cNat c 0x28 8, ctxLen := cNat c 0x30 8, halted := false }

/-- The first field out of its range, by its offset (R413). -/
def quotaFail (s : State) (v : VDev) : Option Nat :=
  let sum (b n lim : Nat) : Bool := decide (1 ≤ n) && decide (n ≤ lim) && decide (b + n ≤ lim)
  let root := v.nextRoot.getD 0
  ([(0x09, decide (v.part < partCount s.config)), (0x0A, decide (v.slotBase < 128)), (0x0B, sum v.slotBase v.slotRuns 128),
    (0x0C, decide (v.rowBase < 256)), (0x0D, decide (v.scrBase < 128)), (0x0E, sum v.rowBase v.rowUnits 256),
    (0x10, sum v.scrBase v.scrUnits 128), (0x14, decide (v.thresh ≤ 100) || v.thresh == 255),
    (0x18, decide (1 ≤ v.recMax) && decide (v.recMax ≤ 131072)), (0x20, allocated root && root % 65536 == 0),
    (0x28, allocated v.ctxBase && v.ctxBase % 65536 == 0)].find? fun x => !x.2).map Prod.fst

/-- Cores of a virtual device's partition; those of retired clusters do not count (R413, R461). -/
def partCores (s : State) (part : Nat) : Nat :=
  let qs := quadrants s.config part
  192 * qs.length - 4 * (s.retiredSet.eraseDups.filter fun c => qs.contains (c / 48)).length

/-- VD_CONFIG (R413 to R416, R434). -/
def execVdConfig (c : Cmd) (s : State) : Out :=
  let n := cNat c 0x08 1
  runCmd c s (some n) [(0x08, 14), (0x18, 4), (0x20, 24)] [] fun s =>
    let old := s.vd n
    let v := vdFields c old
    match quotaFail s v with
    | some o => ends s c 0x30 o
    | none =>
      if 64 ≤ (s.vds.filter fun p => p.1 != n && configured p.2 && p.2.part == v.part).length then ends s c 0x31 v.part
      else if v.quantum = 0 then ends s c 0x32 0
      else if v.ctxLen < partCores s v.part * (wcsb v + 65536) then ends s c 0x33 0
      else
        let clash := v.part != old.part || (s.vds.any fun p => p.1 != n && p.2.resident && vdOverlap v p.2)
        let s0 := if old.resident && clash then unseat s n else s
        let s1 := examine (s0.modVd n (vdFields c)) n
        complete s1 c [(0x1C, leBytes 4 (qeff v))] 0 0

/-- Bytes of some extents in a quadrant. -/
def bytesIn (es : List (Nat × Nat)) (q : Nat) : Nat :=
  (es.map fun e => min (e.1 + e.2) ((q + 1) * 2 ^ 40) - max e.1 (q * 2 ^ 40)).sum

/-- A quadrant's backing: its HBM and its engines' T2 (R424). -/
def backing (s : State) (q : Nat) : Nat :=
  4 * 1048576 * 65536 + ((List.range 4).map fun i => ((AMap.get [] s.tier2 (4 * q + i)).map Prod.snd).sum).sum

/-- Granules of new extents for which a slice's T1 has no place stand in its T2 (R424): the last of them. DESIGN CHOICE (log 52): where the
slice's T2 has no room for them either, while the quadrant's backing suffices, they stand in T1 past its size; extents may overlap, and a granule
of two of them stands in T2 once, though each counts it toward T1 (log 64). -/
def spillT1 (es : List (Nat × Nat)) (s : State) (slice : Nat) : State :=
  let n := min (t1Count s slice - 1048576) (t2Room s slice)
  if n = 0 then s else { s with t2 := ((t1Of s slice fun v => v.extents == es).reverse.eraseDups.take n) ++ s.t2 }

/-- VD_GRANT (R419): the extents replace those of an earlier grant (log 16). -/
def execVdGrant (c : Cmd) (s : State) : Out :=
  let n := cNat c 0x08 1
  let k := cNat c 0x09 1
  let a := cNat c 0x10 8
  let es := (List.range k).map fun i => (leNat (cellsGet s.mem (a + 16 * i) 8), leNat (cellsGet s.mem (a + 16 * i + 8) 8))
  let ok := readable a (max (16 * k) 1) && es.all fun e => decide (e.1 + e.2 ≤ 2 ^ 42) && e.1 % 65536 == 0 && e.2 % 65536 == 0
  runCmd c s (some n) [(0x08, 2), (0x10, 8)] [(0x09, decide (1 ≤ k) && decide (k ≤ 16)), (0x10, ok)] fun s =>
    let others := ((s.vds.filter fun p => p.1 != n).map fun p => p.2.extents).flatten
    match (List.range 4).find? fun q => decide (backing s q < bytesIn others q + bytesIn es q) with
    | some q => ends s c 0x34 q
    | none => ends ((List.range 16).foldl (spillT1 es) (s.modVd n fun v => { v with extents := es })) c 0 0

/-- The status word of a virtual device (R483). -/
def statusWord (s : State) (n : Nat) : Nat :=
  let v := s.vd n
  if configured v then
    qeff v * 2 ^ 48 + wcst v * 2 ^ 32 + residentFraction s v * 2 ^ 16 + bitNat v.halted * 16 + bitNat (vdRunnable s n) * 8 +
    bitNat v.resident * 4 + 2 + bitNat (decide (v.quantum < qeff v))
  else 0

/-- VD_STATUS (R481, R483). -/
def execVdStatus (c : Cmd) (s : State) : Out :=
  let n := cNat c 0x08 1
  runCmd c s (some n) [(0x08, 1)] [] fun s =>
    let v := s.vd n
    complete s c [(0x10, leBytes 8 (statusWord s n)), (0x18, leBytes 8 v.vt), (0x20, leBytes 4 (recordOf v).length),
      (0x24, leBytes 4 (inT0 s v))] 0 0

/-- TIER_ADD (R424). -/
def execTierAdd (c : Cmd) (s : State) : Out :=
  let n := cNat c 0x08 1
  let a := cNat c 0x10 8
  let len := cNat c 0x18 8
  let host := (regionOf a == 2 || regionOf a == 3) && readable a (max len 1)
  runCmd c s none [(0x08, 1), (0x10, 16)] [(0x08, decide (n < 16)), (0x10, host && a % 65536 == 0), (0x18, len % 65536 == 0)] fun s =>
    ends { s with tier2 := AMap.set s.tier2 n (AMap.get [] s.tier2 n ++ [(a, len)]) } c 0 0

/-- TLB_INVAL (R422), of a virtual device with no context on the cores (log 16). -/
def execTlbInval (c : Cmd) (s : State) : Out :=
  let n := cNat c 0x08 1
  let sz := cNat c 0x09 1
  let va := cNat c 0x10 8
  runCmd c s (some n) [(0x08, 2), (0x10, 8)]
    [(0x08, !contextOn s n), (0x09, decide (sz < 4)), (0x10, sz == 3 || decide (va < 2 ^ 52))] fun s =>
    let gone := s.walked.filter (shotBy n sz va)
    ends (gone.foldl endShot (clearTlbs s (shotBy n sz va))) c 0 0

/-! ## Termination, containment and retirement (R448, R457 to R461) -/

/-- TEAM_TERM (R448). -/
def execTeamTerm (c : Cmd) (s : State) : Out :=
  let vd := cNat c 0x08 1
  let q := cNat c 0x0A 2
  let grid := cNat c 0x0C 4
  let team := cNat c 0x10 4
  runCmd c s (some vd) [(0x08, 1), (0x0A, 2), (0x0C, 8)] [(0x0A, decide (q < 4096))] fun s =>
    let ofGrid (g : Gang) : Bool :=
      g.vd == vd && !g.fresh && (AMap.find s.launches g.launch).any (fun x => x.queue == q && x.grid % 2 ^ 32 == grid) &&
      (team == 0xFFFFFFFF || g.teams.any fun k => (s.team? k).any fun t => t.teamid == team)
    let s1 := (s.gangs.filter fun p => ofGrid p.2).foldl (fun s p =>
      commandKill s p.1 (if team = 0xFFFFFFFF then firstTeamid s p.2 else team) true) s
    ends s1 c 0 0

/-- The unit address of R454. -/
def unitDatum (cluster code ix : Nat) : DWord :=
  BitVec.ofNat 64 (0xF * 2 ^ 48 + cluster % 256 * 2 ^ 40 + code % 64 * 2 ^ 32 + ix % 2 ^ 32)

/-- A cluster is taken out of service (R461): its gangs are asked to stop; once they are saved it is cleared, and the notices follow
(`clearRetired`). -/
def retireCluster (s : State) (cl : Nat) : State :=
  if s.retiredSet.contains cl then s
  else
    let s1 := { s with retiredSet := cl :: s.retiredSet, retiring := cl :: s.retiring }
    let here := ((teamsIn s1 cl).map fun p => p.2.gang).eraseDups
    let s2 := here.foldl requestStop s1
    settleAll (((s2.vds.filter fun p => configured p.2).map Prod.fst).foldl examine s2)

/-- A replacement request, with retirement where the policy is automatic (R457, R461); the notice of KIND 5 is posted once (log 16). -/
def requestReplacement (s : State) (cl : Nat) : State := if s.autoRetire then retireCluster s cl else hardwareNotice s 5 0 cl 0

/-- The largest RTS that an L2 slice holds, of its lines and as its FLOOR (R331). -/
def sliceRts (s : State) (slice : Nat) : DWord :=
  (s.times.filter fun x => x.1 % 2 == 0 && decide (x.1 / 2 * 64 < 2 ^ 42) && sliceOf s (x.1 / 2 * 64) == slice).foldl (fun m x => maxD m x.2.rts)
    (AMap.get 0 s.floor slice)

/-- The lines that the L1s of a cluster hold exclusive are poisoned at their homes, and their WTS and RTS rise to the largest RTS that the home, the
slice, holds (R459 step 5). -/
def loseLines (s : State) (cl : Nat) : State :=
  let lost := (s.holder.filter fun p => clusterOf p.2 == cl).map Prod.fst
  lost.foldl (fun s n =>
    let r := maxD (timesOf s (.phys (64 * n))).rts (sliceRts s (sliceOf s (64 * n)))
    { s with times := AMap.set s.times (2 * n) { wts := r, rts := r } }) (poisonSectors s (lost.map fun n => [4 * n, 4 * n + 2]).flatten)

/-- What a team of an isolated cluster has issued and not performed is lost (R459 steps 1 and 2, log 61). -/
def cutOff (t : Team) : Team :=
  { t with threads := t.threads.map fun p => (p.1, { p.2 with out := [] }), stream := { t.stream with out := [] },
           copies := [], arrivals := [], running := none, granted := [] }

/-- A containment reset of a cluster (R459): gangs are terminated (one that waits for its first placement step is only given back, log 62), what the
isolated cluster held exclusive is lost before any gang's accesses land (step 5), the cluster is cleared, notices are posted. -/
def containmentReset (s : State) (cl : Nat) (code : BitVec 8) (datum : DWord) : State :=
  let waiting := (s.gangs.filter fun p => p.2.fresh && (teamsIn s cl).any fun q => q.2.gang == p.1).map Prod.fst
  let s0 := waiting.foldl dropGang s
  let hit := (teamsIn s0 cl).map fun p => (p.2.gang, p.2.teamid)
  let here := (teamsIn s0 cl).map Prod.fst
  let lost := loseLines (here.foldl (fun s k => s.modTeam k cutOff) s0) cl
  let s1 := hit.foldl (fun s x => terminateGang s x.1 cSOFT 0 x.2 0xFFFFFFFF datum true) { lost with holder := lost.holder.filter fun p => clusterOf p.2 != cl }
  let recent := (AMap.get [] s1.resets cl).filter fun t => decide (s.growth.toNat < t + 8640000000000)
  let s2 := { clearCluster s1 cl with resets := AMap.set s1.resets cl (s.growth.toNat :: recent) }
  let s3 := hardwareNotice s2 3 code cl (if code = 0 then 0 else datum)
  if recent.isEmpty then s3 else requestReplacement s3 cl

/-- CLUSTER_RESET (R458): the spec names no failing unit of a command; the low 40 bits of the datum are free (log 5). -/
def execClusterReset (c : Cmd) (s : State) : Out :=
  let cl := cNat c 0x08 2
  runCmd c s none [(0x08, 2)] [(0x08, decide (cl < 192))] fun s =>
    let (x, s1) := freeVal64 s
    ends (containmentReset s1 cl 0 (unitDatum cl 0 0 ||| (x &&& 0xFFFFFFFFFF))) c 0 0

/-- CLUSTER_RETIRE (R461). -/
def execClusterRetire (c : Cmd) (s : State) : Out :=
  let cl := cNat c 0x08 2
  runCmd c s none [(0x08, 2)] [(0x08, decide (cl < 192))] fun s => ends (retireCluster s cl) c 0 0

/-! ## Ports and links (R477, R478) -/

/-- PORT_BIND (R477). -/
def execPortBind (c : Cmd) (s : State) : Out :=
  let p := cNat c 0x08 1
  let role := cNat c 0x09 1
  let mask := cNat c 0x0A 1
  runCmd c s none [(0x08, 3)] [(0x08, decide (p < 2)), (0x09, decide (role < 2)), (0x0A, decide (mask < 16))] fun s =>
    let q := { AMap.get {} s.ports p with owner := role == 0, parts := BitVec.ofNat 4 mask }
    ends { s with ports := AMap.set s.ports p q } c 0 0

/-- The writes of a thread that a port which goes down discards (R478), by their numbers in issue order: those of a saved SYNCH that awaits their
acknowledgment, those performed and not acknowledged, those not yet performed, and those of its copies. -/
def lostWrites (port : Nat) (t : Team) (tid : Nat) (th : Thread) : List (Nat × DWord) :=
  (((t.replays.filter fun r => r.tid == tid && !r.acked).filterMap Replay.write ++ th.unacked).filter fun w => w.port == port).map (fun w => (w.no, w.va)) ++
  (th.out.filter fun ac => ac.port == some port && !returnsData ac.op).map (fun ac => (ac.no, ac.va)) ++
  (t.copies.filter fun p => p.2.port == some port && p.2.tid == some tid).map fun p => (p.1, p.2.dstVa)

/-- A thread's traffic on a port that goes down (R478): reads return poisoned, writes are discarded with one notice of the first of them,
markers acknowledged. An expansion that has buffered stores to the port goes back to its boundary, where their checks find the gate closed. -/
def cutThread (port : Nat) (t : Team) (tid : Nat) (th : Thread) : Thread :=
  let on := th.out.filter fun ac => ac.port == some port
  let th1 := on.foldl (fun th ac => decFlag (if returnsData ac.op then giveData th ac (some (0, true)) else th) ac.flag)
    { th with out := th.out.filter fun ac => ac.port != some port, unacked := th.unacked.filter fun w => w.port != port,
              markers := th.markers.filter fun m => m.1 != port }
  let th2 := match leastBy Prod.fst (lostWrites port t tid th) with
    | some w => addPending th1 2 cPOISON w.2
    | none => th1
  if (th2.expansion.any fun x => !x.committed && x.stores.any fun ac => ac.port == some port) && !th2.pending.any fun p => p.rank == 1 then
    rollback th2
  else th2

/-- Those of a command's destinations that lie behind a port. -/
def behindPort (s : State) (t : Team) (port : Nat) (c : PCmd) (eas : List DWord) : List DWord :=
  eas.filter fun ea => ((heldLoc s t c.held ea ⟨false, true⟩).bind locPort) == some port

/-- The writes to a port that the running KCP of a resident team is still to make. -/
def bulkCut (s : State) (t : Team) (port : Nat) : List DWord :=
  match (if t.resident then t.running else none) with
  | none => []
  | some r => behindPort s t port r.cmd ((List.range (bulkRows r.cmd)).map fun row => (List.range (bulkUnits r.cmd)).filterMap fun u =>
      if row < r.row ∨ (row = r.row ∧ u < r.unit) then none else some (unitAddrs r.cmd row u).2).flatten

/-- Those and the ones of the drains and swaps that have passed their checks. -/
def engineCut (s : State) (t : Team) (port : Nat) : List DWord :=
  bulkCut s t port ++ ((t.granted.map Prod.snd ++ (t.entry.map Entry.cmd).toList).map fun c => behindPort s t port c (writesLeft t c)).flatten

/-- The same for a uniform stream, with the writes `eng` that its commands are still to make: the fault is the stream's (R225, log 16). -/
def cutStream (port : Nat) (eng : List DWord) (t : Team) : Team :=
  let on := t.stream.out.filter fun ac => ac.port == some port
  let t1 := on.foldl (fun t ac => kfDec t ac.flag)
    { t with stream := { t.stream with out := t.stream.out.filter fun ac => ac.port != some port,
                                       unacked := t.stream.unacked.filter fun w => w.port != port } }
  match ((t.stream.unacked.filter fun w => w.port == port).map fun w => (w.va, t1.stream.pc)) ++ (on.map fun ac => (ac.va, ac.pc)) ++
      eng.map fun va => (va, t1.stream.pc) with
  | (va, pc) :: _ => ufault t1 cPOISON va pc 0
  | [] => t1

/-- Replay entries that await the port are answered (R429, R478). -/
def cutReplay (port : Nat) (r : Replay) : Replay :=
  if (r.access.any fun ac => ac.port == some port) && r.reply.isNone then
    { r with reply := some (leBytes ((r.access.map Access.size).getD 0) 0, true) }
  else if r.write.any fun w => w.port == port then { r with acked := true }
  else r

/-- The copies of a team on a port: reads return poisoned data; writes are discarded, with tag and glade (log 16). -/
def cutCopies (s : State) (k port : Nat) : State :=
  match s.team? k with
  | none => s
  | some t =>
    let s1 := s.setTeam k { t with copies := t.copies.map fun p =>
      (p.1, if p.2.data.isNone && locPort p.2.src == some port then { p.2 with data := some (List.replicate p.2.size 0, true) } else p.2) }
    (t.copies.filter fun p => p.2.port == some port).foldl (fun s p =>
      let c := p.2
      let s1 := match c.tid with
        | some j => s.modThread k j fun th => decFlag th c.flag
        | none => s
      let s2 := s1.modTeam k fun t => setTagFault (decTag { t with copies := AMap.del t.copies p.1 } c.tag) c.tag
      match c.glade.bind (gladeHome s2 k) with
      | some (h, off) => markFaulted s2 t.core h off
      | none => s2) s1

/-- A running KCP whose remaining writes, or some of them, a port that goes down discards marks its glade (log 16). -/
def cutBulk (s : State) (k : Nat) : State :=
  match s.team? k with
  | none => s
  | some t => t.running.elim s fun r => spoilBulk s k t r.cmd

/-- A team's traffic on a port that goes down; `eng` the writes that its started commands are still to make. -/
def cutTeam (port : Nat) (eng : List DWord) (t : Team) : Team :=
  cutStream port eng { t with
    threads := t.threads.map fun q => (q.1, cutThread port t q.1 q.2),
    replays := t.replays.map (cutReplay port) }

/-- A Lyano link goes down (R478): every unacknowledged write is discarded, whether or not it has arrived (log 50), and a page table in the peer's
memory is as it was (R389); the images of saved gangs hold what their entries have received (R429). -/
def linkDown (s : State) (link : Nat) : State :=
  let port := link + 2
  let gone := (unackedWrites s).filter fun w => w.port == port
  let mem := withoutWrites s.mem gone
  let undone := (gone.map fun w => entryLost s (.phys w.pa) (cellsGet mem w.pa w.old.length)).flatten.eraseDups
  let s2 : State := { s with
    mem := mem,
    links := AMap.set s.links link { up := false, failed := 0 },
    launches := s.launches.map fun p => (p.1, { p.2 with unacked := p.2.unacked.filter fun w => w.port != port }),
    walked := undone ++ s.walked,
    teams := s.teams.map fun p => (p.1, cutTeam port (engineCut s p.2 port) p.2) }
  let s3 := s.teams.foldl (fun u p => let v := cutCopies u p.1 port; if (bulkCut s p.2 port).isEmpty then v else cutBulk v p.1) s2
  (s3.gangs.map Prod.fst).foldl refreshImage { s3 with teams := s3.teams.map fun p => (p.1, recheckTeam p.2) }

/-- LINK_UP and LINK_DOWN (R478). -/
def execLinkUp (c : Cmd) (s : State) : Out :=
  let l := cNat c 0x08 1
  runCmd c s none [(0x08, 1)] [(0x08, decide (l < 16))] fun s => ends { s with links := AMap.set s.links l { up := true, failed := 0 } } c 0 0
def execLinkDown (c : Cmd) (s : State) : Out :=
  let l := cNat c 0x08 1
  runCmd c s none [(0x08, 1)] [(0x08, decide (l < 16))] fun s => ends (linkDown s l) c 0 0

/-! ## Power and attestation (R485, R486) -/

/-- PWR_LIMIT (R486). -/
def execPwrLimit (c : Cmd) (s : State) : Out :=
  let w := cNat c 0x08 2
  runCmd c s none [(0x08, 2)] [(0x08, decide (1200 ≤ w) && decide (w ≤ 3600))] fun s =>
    complete { s with power := w } c [(0x0C, leBytes 2 w)] 0 0

/-- The report of R485. -/
def attestReport (s : State) (nonce : List Byte) : List Byte :=
  leBytes 4 0x54414C59 ++ leBytes 4 s.images.length ++ nonce ++ digestBytes Config.firmwareDigest ++ digestBytes (Config.manifestDigest s.keys) ++
  leBytes 8 (bitNat s.signedOnly + 2 * bitNat s.autoRetire) ++ leBytes 24 ((s.retiredSet.eraseDups.map fun c => 2 ^ c).sum) ++
  leBytes 8 s.growth.toNat ++ leBytes 16 0 ++ (s.images.map fun p => digestBytes p.2.digest).flatten

/-- The signature block of a report (R380, R485). -/
def signatureBlock (d : BitVec 512) : List Byte :=
  leBytes 4 0x53474C59 ++ leBytes 4 0xFF ++ leBytes 4 4627 ++ leBytes 4 0 ++
  ((List.range 4627).map fun i => Config.mldsaSign d 0xFF i) ++ leBytes 13 0

/-- ATTEST (R485). -/
def execAttest (c : Cmd) (s : State) : Out :=
  let a := cNat c 0x10 8
  let b := cNat c 0x18 8
  let host := (regionOf b == 2 || regionOf b == 3) && readable b (256 + 64 * 64 + 4656)
  runCmd c s none [(0x10, 16)] [(0x10, readable a 64), (0x18, host)] fun s =>
    let r := attestReport s (cellsGet s.mem a 64)
    ends { s with mem := cellsSet s.mem b (r ++ signatureBlock (Config.sha3_512 r)) } c 0 0

end Sys2Proof.Machine
end

