-- ==== Sys2Proof/Machine/World.lean ====
section
/-! DEFINITION. What the world outside does: host and peer accesses (R343, R477, R478), queue and management registers (R394 to R404,
R479), errors (R453 to R457), link failures, power, boot and the debugger (R281, R478, R484, R486). -/

namespace Sys2Proof.Machine

/-! ## Accesses of the host and of peers -/

/-- A run of bytes cut at 64-byte lines, `fuel` pieces at most. -/
def linePieces : Nat → Nat → List Byte → List (Nat × List Byte)
  | 0, _, _ => []
  | n + 1, pa, bs => if bs.isEmpty then [] else (pa, bs.take (64 - pa % 64)) :: linePieces n (pa + (64 - pa % 64)) (bs.drop (64 - pa % 64))

/-- The agent of a port, among the cores by whose CT times are kept: PCI Express ports 0 and 1, then the Lyano links (R343). -/
def portCore (port : Nat) : Nat := 768 + port

/-- The owners of a line give way, at most `n` of them (R199). -/
def clearOwners (s : State) (l : Loc) : Nat → State
  | 0 => s
  | n + 1 => match ownerOf s (.stream 0) l with
    | some o => clearOwners (performOwner s o) l n
    | none => s

/-- A write of a port, performed at its homes line by line (R343, R455). -/
def portWrite (s : State) (port pa : Nat) (bs : List Byte) (bad : Bool) : State :=
  (linePieces (bs.length / 64 + 2) pa bs).foldl (fun s x =>
    store (clearOwners s (.phys x.1) (ownerCount s)) (portCore port) (.phys x.1) x.2 bad) s

/-- A read of a port: its data and whether it is poisoned (R343, R455). -/
def portRead (s : State) (port pa n : Nat) : State × (List Byte × Bool) :=
  let ps := linePieces (n / 64 + 2) pa (List.replicate n 0)
  let bad := ps.any fun x => locPoisoned s (.phys x.1) x.2.length
  (ps.foldl (fun s x => readHome s (portCore port) (.phys x.1)) s, (cellsGet s.mem pa n, bad))

/-- An operation of R183, or a CAS, of a peer (R478): owners give way, and its read and write are one access at the home (R332); on poison it
does what a device's does (log 42). -/
def portAtomic (s : State) (port pa op : Nat) (t : ElTy) (b c : DWord) : State × (List Byte × Bool) :=
  let n := t.width / 8
  let s1 := clearOwners s (.phys pa) (ownerCount s)
  let bs := readBytes s1 (.phys pa) n
  let bad := locPoisoned s1 (.phys pa) n
  let old := leNat bs
  let s2 := if op = 16 ∧ (bad ∨ old ≠ b.toNat % 2 ^ (8 * n)) then touchHome s1 (portCore port) (.phys pa)
    else storeHome s1 (portCore port) (.phys pa) (leBytes n (if op = 16 then c.toNat else atomNew op t old (b.toNat % 2 ^ (8 * n)))) false
  (s2, (bs, bad))

/-- Device memory that a port's partitions admit (R477). -/
def portReaches (s : State) (port pa n : Nat) : Bool :=
  let p := AMap.get {} s.ports port
  decide (pa + n ≤ 2 ^ 42) &&
  [pa, pa + n - 1].all fun a => (List.range (partCount s.config)).any fun i => p.parts.getLsbD i && (quadrants s.config i).contains (a / 2 ^ 40 % 4)

def answer (s : State) (r : Option (List Byte × Bool)) : State := { s with reads := r :: s.reads }

/-- A host write of device memory: outside the port's quadrants an Unsupported Request with no effect (R477). -/
def hostStore (s : State) (port pa : Nat) (bs : List Byte) (bad : Bool) : State :=
  if portReaches s port pa bs.length then portWrite s port pa bs bad else answer s none

def hostLoad (s : State) (port pa n : Nat) : State :=
  if portReaches s port pa n then let (s1, r) := portRead s port pa n; answer s1 (some r) else answer s none

/-- HOST_WRITE and HOST_READ (R343). -/
def execHostWrite (port pa : Nat) (data : List Byte) (poison : Bool) (s : State) : Out := event (hostStore s port pa data poison)
def execHostRead (port pa n : Nat) (s : State) : Out := event (hostLoad s port pa n)

/-- BAR4_ACCESS (R477, R479): a read where no data is given; a write carries the poison bit (R455). -/
def execBar4Access (port off : Nat) (data : PortData) (n : Nat) (s : State) : Out :=
  let pa := (AMap.get {} s.ports port).winbase.toNat + off
  if 2 ^ 36 < off + max n data.bytes.length then event (answer s none)
  else if data.bytes.isEmpty then event (hostLoad s port pa n)
  else event (hostStore s port pa data.bytes data.poison)

/-- LINK_REQUEST (R478): a peer's request is performed at its home; one outside device memory has no effect. -/
def execLinkRequest (link : Nat) (r : PeerReq) (s : State) : Out :=
  let port := link + 2
  let x := AMap.get { up := false } s.links link
  let s0 := { s with links := AMap.set s.links link { x with failed := 0 } }
  if !x.up then event s
  else match r with
    | .fence => event s0
    | .read pa n => if pa + n ≤ 2 ^ 42 then let (s1, v) := portRead s0 port pa n; event (answer s1 (some v)) else event (answer s0 none)
    | .write pa bs bad => if pa + bs.length ≤ 2 ^ 42 then event (portWrite s0 port pa bs bad) else event (answer s0 none)
    | .atom pa op ty b c =>
      let t := ElTy.ofCode ty
      let n := t.width / 8
      if 2 ^ 42 < pa + n ∨ pa % n ≠ 0 then event (answer s0 none)
      else let (s1, v) := portAtomic s0 port pa op t b c; event (answer s1 (some v))

/-! ## Queue registers (R393 to R395, R404) -/

/-- The queue that a port's window exposes under a number: one assigned to the port, while the port is bound to the partition of the queue's
virtual device (R393, R477). -/
def shownQueue (s : State) (port queue : Nat) : Option Queue :=
  (AMap.find s.queues queue).filter fun q => q.port == port && (AMap.get {} s.ports port).parts.getLsbD (s.vd q.vd).part

def setQueue (s : State) (n : Nat) (q : Queue) : State := { s with queues := AMap.set s.queues n q }

/-- QSTAT as a read of the window gives it (R395, R477). -/
def qstat (s : State) (port queue : Nat) : Nat :=
  match shownQueue s port queue with
  | some q => q.accepted % 2 ^ 32 * 2 ^ 32 + ((launchesOf s queue).filter fun p => !launchDone p.2).length * 2 ^ 16 +
      bitNat q.draining.isSome * 4 + bitNat q.stall * 2 + bitNat q.ovf
  | none => 0

/-- `n` bytes of BAR2 as a read gives them (R5, R393, R476): DOORBELL is write-only and reads 0, as reserved words and the block of a queue
that is not shown do. -/
def bar2Read (s : State) (port off n : Nat) : Nat :=
  let head : Nat := match shownQueue s port (off / 32) with
    | some q => q.chead
    | none => 0
  leNat (((leBytes 8 0 ++ leBytes 8 (qstat s port (off / 32)) ++ leBytes 4 head ++ leBytes 12 0).drop (off % 32)).take n)

/-- The launch of an accepted word (R394): bad words are done at once. -/
def newLaunch (s : State) (queue : Nat) (q : Queue) (grid : Nat) (w : DWord) : Launch :=
  let h := bitsOf w 19 0
  let g := (AMap.find s.graphs h).filter fun g => g.vd == q.vd
  let base : Launch := { queue := queue, vd := q.vd, grid := grid, tag := bitsOf w 63 48, graph := h }
  if bitsOf w 47 20 ≠ 0 then { base with early := some 6 }
  else match g with
    | none => { base with early := some 5 }
    | some g => { base with nodes := (List.range g.nodes.length).zip g.nodes }

/-- The largest CT of the host's ports: the writes before a launch word are seen by its gangs (R407, R409). -/
def hostTime (s : State) : DWord := maxD (ctOf s (portCore 0)) (ctOf s (portCore 1))

/-- DOORBELL (R394, R396). -/
def execDoorbell (port queue size : Nat) (w : DWord) (s : State) : Out :=
  match shownQueue s port queue with
  | none => event s
  | some q =>
    if size ≠ 8 then event s
    else if q.draining.isSome || decide (256 ≤ ((launchesOf s queue).filter fun p => !launchDone p.2).length) then
      event (setQueue s queue { q with ovf := true })
    else
      let grid := (q.accepted + 1) % 2 ^ 32
      let s1 := setQueue s queue { q with accepted := grid }
      event (settleAll { s1 with launches := AMap.set s1.launches s.nextKey { newLaunch s queue q grid w with ct := hostTime s }, nextKey := s.nextKey + 1 })

/-- CHEAD (R404): ignored where W − CHEAD would exceed the ring. -/
def execChead (port queue : Nat) (x : Word) (s : State) : Out :=
  match shownQueue s port queue with
  | none => event s
  | some q => if q.entries < (q.w + 2 ^ 32 - x.toNat) % 2 ^ 32 then event s else event (setQueue s queue { q with chead := x.toNat })

/-- QSTAT_OVF_CLEAR (R395). -/
def execQstatOvfClear (port queue : Nat) (x : DWord) (s : State) : Out :=
  match shownQueue s port queue with
  | none => event s
  | some q => if x.getLsbD 0 then event (setQueue s queue { q with ovf := false }) else event s

/-! ## Management registers (R479, R480) -/

def setPort (s : State) (n : Nat) (p : Port) : State := { s with ports := AMap.set s.ports n p }

/-- CMDTAIL (R479): an index outside the ring is ignored (log 16). -/
def execCmdtail (port : Nat) (x : Word) (s : State) : Out :=
  let p := AMap.get {} s.ports port
  event (if x.toNat < p.cmdsize.toNat then setPort s port { p with cmdtail := x } else s)

/-- EVHEAD (R479): notices that wait take the room. -/
def execEvhead (port : Nat) (x : Word) (s : State) : Out :=
  let p := AMap.get {} s.ports port
  event (if x.toNat < p.evsize.toNat then flushNotices (setPort s port { p with evhead := x }) port p.notices.length else s)

/-- MANAGEMENT_REGISTER_WRITE (R479): read-only registers, and values a register does not take, are ignored (log 16). -/
def execManagementRegisterWrite (port off : Nat) (x : DWord) (s : State) : Out :=
  let p := AMap.get {} s.ports port
  let n := x.toNat
  let w : Word := x.truncate 32
  event (match off with
    | 0x0108 => if n % 2 ^ 30 = 0 then setPort s port { p with winbase := x } else s
    | 0x1000 => if n % 64 = 0 then setPort s port { p with cmdbase := x } else s
    | 0x1008 => if isPow2 w.toNat 16 4096 then setPort s port { p with cmdsize := w } else s
    | 0x1100 => if n % 32 = 0 then setPort s port { p with evbase := x } else s
    | 0x1108 => if isPow2 w.toNat 64 65536 then flushNotices (setPort s port { p with evsize := w }) port p.notices.length else s
    | _ => s)

/-- A BAR0 register as a read gives it (R479); an offset without a register reads 0. -/
def bar0Read (s : State) (port off : Nat) : Nat :=
  let p := AMap.get {} s.ports port
  match off with
  | 0x0000 => 0x55414C5900040000
  | 0x0008 => bitNat s.ready + 2 * bitNat p.owner + 256 * s.stage
  | 0x0100 => s.growth.toNat
  | 0x0108 => p.winbase.toNat
  | 0x1000 => p.cmdbase.toNat
  | 0x1008 => p.cmdsize.toNat
  | 0x100C => p.cmdtail.toNat
  | 0x1010 => p.cmdhead.toNat
  | 0x1100 => p.evbase.toNat
  | 0x1108 => p.evsize.toNat
  | 0x110C => p.evhead.toNat
  | 0x1110 => p.evtail.toNat
  | 0x1114 => p.evlost.toNat
  | _ => 0

/-- A notice has waited 1 s (R480). -/
def dropDue (s : State) (p : Port) : Bool :=
  match p.notices with
  | (_, t) :: _ => decide (t + 100000000 ≤ s.growth.toNat)
  | [] => false

/-- NOTICE_DROP (R480). -/
def execNoticeDrop (s : State) : Out :=
  match s.ports.find? fun p => dropDue s p.2 with
  | some (port, p) => event (setPort s port { p with notices := p.notices.drop 1, evlost := p.evlost + 1 })
  | none => event s

/-! ## Errors (R453 to R457) -/

/-- The key of a unit that counts corrections, and the cluster it is, if one. -/
def unitKey : ErrUnit → Nat
  | .cluster c => c
  | .l2 i => 1000 + i
  | .mem i => 2000 + i

/-- A health notice of a unit: WHERE of a slice is a value the spec does not state (R450, R457, log 5). -/
def unitNotice (s : State) (kind : Nat) (u : ErrUnit) : State :=
  match u with
  | .cluster c => hardwareNotice s kind 0 c 0
  | _ => let (x, s1) := freeVal s; hardwareNotice s1 kind 0 x.toNat 0

/-- ERROR_CORRECTED (R457): the corrections of the hour that ends now; a notice as their number passes 64, and 1024 (log 16). -/
def execErrorCorrected (u : ErrUnit) (s : State) : Out :=
  let k := unitKey u
  let before := AMap.get [] s.corrections k
  let now := s.growth.toNat :: before.filter fun t => decide (s.growth.toNat ≤ t + 360000000000)
  let s1 := { s with corrections := AMap.set s.corrections k (now.take 1026) }
  if now.length = 65 ∧ before.length = 64 then event (unitNotice s1 6 u)
  else if now.length = 1025 ∧ before.length = 1024 then
    match u with
    | .cluster c => event (requestReplacement s1 c)
    | _ => event (unitNotice s1 5 u)
  else event s1

/-- The sectors that an error poisons: that of the place; of HBM, both of its line. -/
def poisonSector (s : State) (l : Loc) (line : Bool) : State :=
  match l with
  | .phys a => poisonSectors s (if line then [sectorKey (.phys (a / 64 * 64)), sectorKey (.phys (a / 64 * 64 + 32))] else [sectorKey l])
  | .scr _ _ => poisonSectors s [sectorKey l]

/-- A sector of a core's L1 data poisoned: of its leased copy of the line, or of the line that it holds exclusive, whose data stands at the home key;
a line that it does not hold is not there. -/
def poisonL1 (s : State) (core : Nat) (l : Loc) : State :=
  match l, cached l with
  | .phys a, some line =>
    match leaseOf s core line with
    | some c => { s with l1 := AMap.set s.l1 core (AMap.set (AMap.get [] s.l1 core) line { c with bad := c.bad.set (a % 64 / 32) true }) }
    | none => if AMap.find s.holder line = some core then poisonSectors s [sectorKey l] else s
  | _, _ => s

/-- A register of a thread in error: its understory row, or the near slot that holds it dirty; a clean slot is restaged. An expansion that is rolled
back leaves it so. DESIGN CHOICE (log 65): an error of an understory row counts while a window maps the register too. -/
def spoilReg (th : Thread) (j : Nat) (near : Bool) : Thread :=
  let mark (n : Nat) : Thread :=
    { th with bad := AMap.set th.bad j n, expansion := th.expansion.map fun x => { x with bad := AMap.set x.bad j n } }
  if near then
    match dirtyNear th j with
    | some k => mark (k + 1)
    | none => th
  else mark 0

/-- A canopy tile poisoned; a second half stands for the tile of its first (R453). -/
def poisonCanopy (t : Team) (j : Nat) : Team :=
  let i := match AMap.find t.canopy j with
    | some .second => j - 1
    | _ => j
  match AMap.find t.canopy i with
  | some (.tile e _ rows) => { t with canopy := AMap.set t.canopy i (.tile e true rows) }
  | _ => t

/-- UNCORRECTABLE_ERROR (R453, R454). DESIGN CHOICE (log 72): the datum of an error of the mesh or of a bridge has structure code 5 and core 0. -/
def execUncorrectableError (e : ErrSite) (s : State) : Out :=
  match e with
  | .reg ag j near =>
    match ag with
    | .thread k tid => event (s.modThread k tid fun th => spoilReg th j.toNat near)
    | .stream _ => event s
  | .sector l line => event (poisonSector s l line)
  | .l1 core l => event (poisonL1 s core l)
  | .canopy team slot => event (s.modTeam team fun t => poisonCanopy t slot)
  | .tile team acc =>
    event (s.modTeam team fun t =>
      match AMap.find t.tiles acc with
      | some x => { t with tiles := AMap.set t.tiles acc { x with poison := true } }
      | none => t)
  | .team team ix =>
    match s.team? team with
    | some t =>
      event (terminateGang s t.gang cSOFT 0 t.teamid 0xFFFFFFFF (coreUnit t.core 3 ix) true)
    | none => event s
  | .shared cl core code ix => event (containmentReset s cl cSOFT (coreUnit (4 * cl + core % 4) code ix))
  | .refill _ => event s
  | .mesh cl ix => event (containmentReset s cl cSOFT (unitDatum cl 5 ix))
  | .bridge b cl ix =>
    let (x, s1) := freeVal s
    let s2 := containmentReset { s1 with gates := s1.gates.set b false } cl cSOFT (unitDatum cl 5 ix)
    event (hardwareNotice s2 5 0 x.toNat 0)

/-- PATROL_SCRUB (R456) of a sector of a scratchpad, an L2 slice or a memory-side cache, a line of HBM, or a canopy slot: what cannot be corrected is
poisoned as R453 says; else nothing changes. -/
def execPatrolScrub (e : ErrSite) (bad : Bool) (s : State) : Out :=
  event (if !bad then s
    else match e with
      | .sector l line => poisonSector s l line
      | .canopy team slot => s.modTeam team fun t => poisonCanopy t slot
      | _ => s)

/-! ## The host's own memory, and what reads before its turn (R190, R333, R343, R347) -/

/-- System software sets a port's PCI Express attributes (R186, R343). -/
def portEnables (s : State) (port : Nat) (atomicOp relaxed : Bool) : State :=
  setPort s port { AMap.get {} s.ports port with atomicOp := atomicOp, relaxed := relaxed }

/-- A byte that its owner writes: a device write of it that has not arrived comes after (R343); one that has arrived came before, and where a link
that goes down discards it the owner's byte stays (R478). -/
def hostByte (s : State) (a : Nat) (b : Byte) : State :=
  let has (w : SysWrite) : Bool := decide (w.pa ≤ a) && decide (a < w.pa + w.old.length)
  let under (w : SysWrite) : SysWrite := { w with old := w.old.set (a - w.pa) b }
  let s1 := if (unackedWrites s).any fun w => w.arrived && has w then mapWrites s fun x => some (if x.arrived && has x then under x else x) else s
  match ((newestFirst (onTheWay s)).filter has).getLast? with
  | none => { s1 with mem := cellSet s1.mem a b }
  | some w => mapWrites s1 fun x => some (if sameWay x w && x.seq == w.seq then under x else x)

/-- The host or a peer writes memory of its own, page tables among it (R389, R420). -/
def hostMem (s : State) (pa : Nat) (bs : List Byte) : State :=
  if isSystem pa && readable pa (max bs.length 1) then
    let s1 := { s with poison := poisonAfter s (.phys pa) bs.length false, walked := entryLost s (.phys pa) bs ++ s.walked }
    (bs.zip (List.range bs.length)).foldl (fun s x => hostByte s (pa + x.2) x.1) s1
  else s

/-- The host or a peer reads memory of its own: without the device writes that have not arrived. -/
def hostLook (s : State) (pa n : Nat) : State :=
  if isSystem pa && readable pa (max n 1) then
    answer s (some (cellsGet (withoutWrites s.mem (onTheWay s)) pa n, locPoisoned s (.phys pa) n))
  else s

/-- A load that overlaps no earlier write of its agent reads before its turn (R333): of a line of device memory, its core is granted a copy;
of a system page, the value is kept until the load's turn. One that asks for its home's data leaves no copy (R174), and reads in its turn. -/
def readEarly (s : State) (ag : Agent) (i : Nat) : State :=
  match (outOf s ag)[i]?, s.team? (agentTeam ag) with
  | some ac, some t =>
    if isWrite ac.op || ((outOf s ag).take i).any fun y => isWrite y.op && overlaps y.loc y.size ac.loc ac.size then s
    else match ac.port with
      | none => if (cached ac.loc).isSome && !ac.nol1 then (load s t.core ac.loc ac.size).1 else s
      | some _ =>
        let x : Access := { ac with early := some (readBytes s ac.loc ac.size, locPoisoned s ac.loc ac.size, (timesOf s ac.loc).wts) }
        match ag with
        | .thread k tid => s.modThread k tid fun th => { th with out := th.out.set i x }
        | .stream k => s.modTeam k fun t => { t with stream := { t.stream with out := t.stream.out.set i x } }
  | _, _ => s

/-- A system write, the `i`th of an agent that awaits acknowledgment, arrives (R190, R343). -/
def arriveNow (s : State) (ag : Agent) (i : Nat) : State :=
  match (writesOf s ag)[i]? with
  | some w => if w.arrived then s else arriveWrite s w
  | none => s

/-! ## Links, power, boot, debugger -/

/-- FLIT_CRC_FAILURE (R478): a flit fails its CRC, for the first time or in a retry, and is retried. -/
def execFlitCrcFailure (link : Nat) (s : State) : Out :=
  let x := AMap.get { up := false } s.links link
  event (if x.up then { s with links := AMap.set s.links link { x with failed := x.failed + 1 } } else s)

/-- A link whose retry has failed 16 times in a row, after the failure that called for the first retry. -/
def linkFails (x : Link) : Bool := x.up && decide (17 ≤ x.failed)

/-- LINK_FAILURE (R478). -/
def execLinkFailure (s : State) : Out :=
  match s.links.find? fun p => linkFails p.2 with
  | some (link, _) => event (linkDown s link)
  | none => event s

/-- POWER_LIMIT_EXCEEDED (R486): the core clock falls by 100 MHz, to 1.5 GHz at the least. -/
def execPowerLimitExceeded (s : State) : Out := event { s with clock := max 1500 (s.clock - 100) }

/-- CORE_RAIL_OVERCURRENT (R486): issue cycles are skipped, which changes timing only. -/
def execCoreRailOvercurrent (s : State) : Out := event { s with skipping := true }

/-- Boot to READY (R484): the firmware loads the key manifest into slots 1 to 15. What lies outside the package and the nonvolatile store stay; so
does the model's own record of outputs and of free values taken. -/
def boot (s : State) : State :=
  { State.reset with
    mem := s.mem.filter fun c => decide (2 ^ 48 ≤ c.1),
    poison := s.poison.filter fun k => k % 2 == 0 && decide (2 ^ 48 ≤ k / 2 * 32),
    retiredSet := s.retiredSet, autoRetire := s.autoRetire, signedOnly := s.signedOnly, keys := (0, 0) :: s.manifest, manifest := s.manifest,
    msix := s.msix, reads := s.reads, breaks := s.breaks, inputs := s.inputs, free := s.free }

/-- PACKAGE_RESET (R484). -/
def execPackageReset (s : State) : Out := event (boot s)

/-- A reset whose boot fails: STATUS stays at the failing stage with READY = 0, and the package accepts no command (R484). DESIGN CHOICE
(log 31): what the stages after the failing one would have set is as after a boot that passes. -/
def bootFails (s : State) (stage : Nat) : State :=
  if 1 ≤ stage ∧ stage ≤ 5 then { boot s with ready := false, stage := stage } else s

/-- DEBUGGER_ATTACH (R269). -/
def execDebuggerAttach (vd : Nat) (en : Bool) (s : State) : Out := event (s.modVd vd fun v => { v with dbgctl := en })

/-- DEBUGGER_RESUME (R281). -/
def execDebuggerResume (team : Nat) (s : State) : Out := event (s.modTeam team fun t => { t with dbgStop := false })

end Sys2Proof.Machine
end

