-- ==== Sys2Proof/Machine/Dispatch.lean ====
section
/-! DEFINITION. One arm per row of the opcode table: the meaning of each instruction and event. -/

namespace Sys2Proof.Machine

def exec (i : Instr) (s : State) : Host.Outcome State Fault Refusal :=
  match i with
  | .iadd a => Sys2Proof.Machine.execIadd a s
  | .isum a => Sys2Proof.Machine.execIsum a s
  | .iaddc a => Sys2Proof.Machine.execIaddc a s
  | .isub a => Sys2Proof.Machine.execIsub a s
  | .imul a => Sys2Proof.Machine.execImul a s
  | .imulh a => Sys2Proof.Machine.execImulh a s
  | .imad a => Sys2Proof.Machine.execImad a s
  | .imadw a => Sys2Proof.Machine.execImadw a s
  | .idiv a => Sys2Proof.Machine.execIdiv a s
  | .irem a => Sys2Proof.Machine.execIrem a s
  | .imin a => Sys2Proof.Machine.execImin a s
  | .imax a => Sys2Proof.Machine.execImax a s
  | .iabs a => Sys2Proof.Machine.execIabs a s
  | .ineg a => Sys2Proof.Machine.execIneg a s
  | .icmp a => Sys2Proof.Machine.execIcmp a s
  | .isel a => Sys2Proof.Machine.execIsel a s
  | .lea a => Sys2Proof.Machine.execLea a s
  | .andB a => Sys2Proof.Machine.execAnd a s
  | .orB a => Sys2Proof.Machine.execOr a s
  | .xorB a => Sys2Proof.Machine.execXor a s
  | .andn a => Sys2Proof.Machine.execAndn a s
  | .lut a => Sys2Proof.Machine.execLut a s
  | .shl a => Sys2Proof.Machine.execShl a s
  | .shr a => Sys2Proof.Machine.execShr a s
  | .sar a => Sys2Proof.Machine.execSar a s
  | .rotl a => Sys2Proof.Machine.execRotl a s
  | .funl a => Sys2Proof.Machine.execFunl a s
  | .funr a => Sys2Proof.Machine.execFunr a s
  | .mixh a => Sys2Proof.Machine.execMixh a s
  | .bext a => Sys2Proof.Machine.execBext a s
  | .bins a => Sys2Proof.Machine.execBins a s
  | .brev a => Sys2Proof.Machine.execBrev a s
  | .popc a => Sys2Proof.Machine.execPopc a s
  | .clz a => Sys2Proof.Machine.execClz a s
  | .ctz a => Sys2Proof.Machine.execCtz a s
  | .bperm a => Sys2Proof.Machine.execBperm a s
  | .pset a => Sys2Proof.Machine.execPset a s
  | .plut a => Sys2Proof.Machine.execPlut a s
  | .p2v a => Sys2Proof.Machine.execP2v a s
  | .v2p a => Sys2Proof.Machine.execV2p a s
  | .ixset a => Sys2Proof.Machine.execIxset a s
  | .ldix a => Sys2Proof.Machine.execLdix a s
  | .stix a => Sys2Proof.Machine.execStix a s
  | .rgn a => Sys2Proof.Machine.execRgn a s
  | .rgnw a => Sys2Proof.Machine.execRgnw a s
  | .bra a => Sys2Proof.Machine.execBra a s
  | .brx a => Sys2Proof.Machine.execBrx a s
  | .call a => Sys2Proof.Machine.execCall a s
  | .callx a => Sys2Proof.Machine.execCallx a s
  | .ret a => Sys2Proof.Machine.execRet a s
  | .loopL a => Sys2Proof.Machine.execLoop a s
  | .lend a => Sys2Proof.Machine.execLend a s
  | .rep a => Sys2Proof.Machine.execRep a s
  | .exitT a => Sys2Proof.Machine.execExit a s
  | .yield a => Sys2Proof.Machine.execYield a s
  | .nap a => Sys2Proof.Machine.execNap a s
  | .spawn a => Sys2Proof.Machine.execSpawn a s
  | .waitf a => Sys2Proof.Machine.execWaitf a s
  | .setf a => Sys2Proof.Machine.execSetf a s
  | .pxcall a => Sys2Proof.Machine.execPxcall a s
  | .pxret a => Sys2Proof.Machine.execPxret a s
  | .fadd a => Sys2Proof.Machine.execFadd a s
  | .fsub a => Sys2Proof.Machine.execFsub a s
  | .fmul a => Sys2Proof.Machine.execFmul a s
  | .ffma a => Sys2Proof.Machine.execFfma a s
  | .fmin a => Sys2Proof.Machine.execFmin a s
  | .fmax a => Sys2Proof.Machine.execFmax a s
  | .fcmp a => Sys2Proof.Machine.execFcmp a s
  | .fsel a => Sys2Proof.Machine.execFsel a s
  | .fclass a => Sys2Proof.Machine.execFclass a s
  | .frnd a => Sys2Proof.Machine.execFrnd a s
  | .fscale a => Sys2Proof.Machine.execFscale a s
  | .frcp a => Sys2Proof.Machine.execFrcp a s
  | .frsq a => Sys2Proof.Machine.execFrsq a s
  | .fsqrt a => Sys2Proof.Machine.execFsqrt a s
  | .fdiv a => Sys2Proof.Machine.execFdiv a s
  | .fexp2 a => Sys2Proof.Machine.execFexp2 a s
  | .flog2 a => Sys2Proof.Machine.execFlog2 a s
  | .fsin a => Sys2Proof.Machine.execFsin a s
  | .fcos a => Sys2Proof.Machine.execFcos a s
  | .ftanh a => Sys2Proof.Machine.execFtanh a s
  | .fsigm a => Sys2Proof.Machine.execFsigm a s
  | .pkadd a => Sys2Proof.Machine.execPkadd a s
  | .pkmul a => Sys2Proof.Machine.execPkmul a s
  | .pkfma a => Sys2Proof.Machine.execPkfma a s
  | .pkmin a => Sys2Proof.Machine.execPkmin a s
  | .pkmax a => Sys2Proof.Machine.execPkmax a s
  | .cvt a => Sys2Proof.Machine.execCvt a s
  | .cvti a => Sys2Proof.Machine.execCvti a s
  | .cvtf a => Sys2Proof.Machine.execCvtf a s
  | .qnt a => Sys2Proof.Machine.execQnt a s
  | .dqnt a => Sys2Proof.Machine.execDqnt a s
  | .pack2 a => Sys2Proof.Machine.execPack2 a s
  | .unpk a => Sys2Proof.Machine.execUnpk a s
  | .fflag a => Sys2Proof.Machine.execFflag a s
  | .ld a => Sys2Proof.Machine.execLd a s
  | .st a => Sys2Proof.Machine.execSt a s
  | .lds a => Sys2Proof.Machine.execLds a s
  | .sts a => Sys2Proof.Machine.execSts a s
  | .atom a => Sys2Proof.Machine.execAtom a s
  | .cas a => Sys2Proof.Machine.execCas a s
  | .red a => Sys2Proof.Machine.execRed a s
  | .pref a => Sys2Proof.Machine.execPref a s
  | .synch a => Sys2Proof.Machine.execSynch a s
  | .cp a => Sys2Proof.Machine.execCp a s
  | .cpw a => Sys2Proof.Machine.execCpw a s
  | .cpa a => Sys2Proof.Machine.execCpa a s
  | .cpf a => Sys2Proof.Machine.execCpf a s
  | .cpt a => Sys2Proof.Machine.execCpt a s
  | .cfence a => Sys2Proof.Machine.execCfence a s
  | .ginit a => Sys2Proof.Machine.execGinit a s
  | .gexp a => Sys2Proof.Machine.execGexp a s
  | .garv a => Sys2Proof.Machine.execGarv a s
  | .garvr a => Sys2Proof.Machine.execGarvr a s
  | .gwait a => Sys2Proof.Machine.execGwait a s
  | .gtest a => Sys2Proof.Machine.execGtest a s
  | .bara a => Sys2Proof.Machine.execBara a s
  | .barw a => Sys2Proof.Machine.execBarw a s
  | .bars a => Sys2Proof.Machine.execBars a s
  | .rvx a => Sys2Proof.Machine.execRvx a s
  | .csrr a => Sys2Proof.Machine.execCsrr a s
  | .csrw a => Sys2Proof.Machine.execCsrw a s
  | .trap a => Sys2Proof.Machine.execTrap a s
  | .eret a => Sys2Proof.Machine.execEret a s
  | .emret a => Sys2Proof.Machine.execEmret a s
  | .tlbinv a => Sys2Proof.Machine.execTlbinv a s
  | .tlbsync a => Sys2Proof.Machine.execTlbsync a s
  | .perfr a => Sys2Proof.Machine.execPerfr a s
  | .brkpt a => Sys2Proof.Machine.execBrkpt a s
  | .haltt a => Sys2Proof.Machine.execHaltt a s
  | .halttGo a => Sys2Proof.Machine.execHalttGo a s
  | .kadd a => Sys2Proof.Machine.execKadd a s
  | .ksub a => Sys2Proof.Machine.execKsub a s
  | .kmul a => Sys2Proof.Machine.execKmul a s
  | .kand a => Sys2Proof.Machine.execKand a s
  | .kor a => Sys2Proof.Machine.execKor a s
  | .kxor a => Sys2Proof.Machine.execKxor a s
  | .kshl a => Sys2Proof.Machine.execKshl a s
  | .kshr a => Sys2Proof.Machine.execKshr a s
  | .kmov a => Sys2Proof.Machine.execKmov a s
  | .kli a => Sys2Proof.Machine.execKli a s
  | .kld a => Sys2Proof.Machine.execKld a s
  | .kst a => Sys2Proof.Machine.execKst a s
  | .kcmp a => Sys2Proof.Machine.execKcmp a s
  | .kbr a => Sys2Proof.Machine.execKbr a s
  | .kcall a => Sys2Proof.Machine.execKcall a s
  | .kret a => Sys2Proof.Machine.execKret a s
  | .kbar a => Sys2Proof.Machine.execKbar a s
  | .kwait a => Sys2Proof.Machine.execKwait a s
  | .kcp a => Sys2Proof.Machine.execKcp a s
  | .kexit a => Sys2Proof.Machine.execKexit a s
  | .macq a => Sys2Proof.Machine.execMacq a s
  | .mrel a => Sys2Proof.Machine.execMrel a s
  | .mzero a => Sys2Proof.Machine.execMzero a s
  | .mldb a => Sys2Proof.Machine.execMldb a s
  | .mfreeb a => Sys2Proof.Machine.execMfreeb a s
  | .mma a => Sys2Proof.Machine.execMma a s
  | .mscl a => Sys2Proof.Machine.execMscl a s
  | .mdrain a => Sys2Proof.Machine.execMdrain a s
  | .mswap a => Sys2Proof.Machine.execMswap a s
  | .mstat a => Sys2Proof.Machine.execMstat a s
  | .clauseHeader h => Sys2Proof.Machine.execClauseHeader h s
  | .bufferedStorePerformed ag => Sys2Proof.Machine.execBufferedStorePerformed ag s
  | .asyncNoticeDelivery ag => Sys2Proof.Machine.execAsyncNoticeDelivery ag s
  | .uniformFaultDelivery team => Sys2Proof.Machine.execUniformFaultDelivery team s
  | .loadDataReturn ag => Sys2Proof.Machine.execLoadDataReturn ag s
  | .storePerformed ag => Sys2Proof.Machine.execStorePerformed ag s
  | .copyWritePerformed team copy => Sys2Proof.Machine.execCopyWritePerformed team copy s
  | .cpaArrival team arrival => Sys2Proof.Machine.execCpaArrival team arrival s
  | .coalescerMerge core => Sys2Proof.Machine.execCoalescerMerge core s
  | .windowGrant ag => Sys2Proof.Machine.execWindowGrant ag s
  | .windowStaged ag => Sys2Proof.Machine.execWindowStaged ag s
  | .windowLoss ag => Sys2Proof.Machine.execWindowLoss ag s
  | .napDeadline ag => Sys2Proof.Machine.execNapDeadline ag s
  | .exitDrainComplete ag => Sys2Proof.Machine.execExitDrainComplete ag s
  | .synchDrainComplete ag => Sys2Proof.Machine.execSynchDrainComplete ag s
  | .yieldExpiry ag => Sys2Proof.Machine.execYieldExpiry ag s
  | .spawnTimerExpiry core bin => Sys2Proof.Machine.execSpawnTimerExpiry core bin s
  | .spawnTeamWaiting team => Sys2Proof.Machine.execSpawnTeamWaiting team s
  | .postedCommandHead team q => Sys2Proof.Machine.execPostedCommandHead team q s
  | .macqGrant cluster => Sys2Proof.Machine.execMacqGrant cluster s
  | .scaleLinesPresent team => Sys2Proof.Machine.execScaleLinesPresent team s
  | .reservationGrant cluster u => Sys2Proof.Machine.execReservationGrant cluster u s
  | .reservationAging team => Sys2Proof.Machine.execReservationAging team s
  | .mmaComplete cluster => Sys2Proof.Machine.execMmaComplete cluster s
  | .drainUnitComplete cluster => Sys2Proof.Machine.execDrainUnitComplete cluster s
  | .canopyLoadComplete cluster => Sys2Proof.Machine.execCanopyLoadComplete cluster s
  | .mstatWrite team => Sys2Proof.Machine.execMstatWrite team s
  | .kcpComplete team => Sys2Proof.Machine.execKcpComplete team s
  | .docFillComplete cluster fill => Sys2Proof.Machine.execDocFillComplete cluster fill s
  | .fetchReturn cluster fill => Sys2Proof.Machine.execFetchReturn cluster fill s
  | .markerAck ag => Sys2Proof.Machine.execMarkerAck ag s
  | .systemWriteAck ag => Sys2Proof.Machine.execSystemWriteAck ag s
  | .systemReplyArrival ag => Sys2Proof.Machine.execSystemReplyArrival ag s
  | .granuleMoveComplete granule tier => Sys2Proof.Machine.execGranuleMoveComplete granule tier s
  | .residencyThreshold launch node => Sys2Proof.Machine.execResidencyThreshold launch node s
  | .placementStep launch node => Sys2Proof.Machine.execPlacementStep launch node s
  | .placementAging launch node => Sys2Proof.Machine.execPlacementAging launch node s
  | .imageSlotCopyDone cluster slot => Sys2Proof.Machine.execImageSlotCopyDone cluster slot s
  | .teamRetire team => Sys2Proof.Machine.execTeamRetire team s
  | .completionEntryWrite launch => Sys2Proof.Machine.execCompletionEntryWrite launch s
  | .preemptStopTimeout ag => Sys2Proof.Machine.execPreemptStopTimeout ag s
  | .drainBoundExpiry gang => Sys2Proof.Machine.execDrainBoundExpiry gang s
  | .gangRestore gang => Sys2Proof.Machine.execGangRestore gang s
  | .errorCorrected u => Sys2Proof.Machine.execErrorCorrected u s
  | .uncorrectableError e => Sys2Proof.Machine.execUncorrectableError e s
  | .patrolScrub e bad => Sys2Proof.Machine.execPatrolScrub e bad s
  | .flitCrcFailure link => Sys2Proof.Machine.execFlitCrcFailure link s
  | .linkRequest link r => Sys2Proof.Machine.execLinkRequest link r s
  | .hostWrite port pa data poison => Sys2Proof.Machine.execHostWrite port pa data poison s
  | .hostRead port pa n => Sys2Proof.Machine.execHostRead port pa n s
  | .bar4Access port off data n => Sys2Proof.Machine.execBar4Access port off data n s
  | .doorbell port queue size w => Sys2Proof.Machine.execDoorbell port queue size w s
  | .chead port queue x => Sys2Proof.Machine.execChead port queue x s
  | .qstatOvfClear port queue x => Sys2Proof.Machine.execQstatOvfClear port queue x s
  | .cmdtail port x => Sys2Proof.Machine.execCmdtail port x s
  | .evhead port x => Sys2Proof.Machine.execEvhead port x s
  | .managementRegisterWrite port off x => Sys2Proof.Machine.execManagementRegisterWrite port off x s
  | .imgLoad c => Sys2Proof.Machine.execImgLoad c s
  | .imgBind c => Sys2Proof.Machine.execImgBind c s
  | .imgUnbind c => Sys2Proof.Machine.execImgUnbind c s
  | .imgDrop c => Sys2Proof.Machine.execImgDrop c s
  | .queueAssign c => Sys2Proof.Machine.execQueueAssign c s
  | .queueRelease c => Sys2Proof.Machine.execQueueRelease c s
  | .queueDrain c => Sys2Proof.Machine.execQueueDrain c s
  | .graphRegister c => Sys2Proof.Machine.execGraphRegister c s
  | .graphDrop c => Sys2Proof.Machine.execGraphDrop c s
  | .partSet c => Sys2Proof.Machine.execPartSet c s
  | .vdConfig c => Sys2Proof.Machine.execVdConfig c s
  | .vdGrant c => Sys2Proof.Machine.execVdGrant c s
  | .vdStatus c => Sys2Proof.Machine.execVdStatus c s
  | .tierAdd c => Sys2Proof.Machine.execTierAdd c s
  | .tlbInval c => Sys2Proof.Machine.execTlbInval c s
  | .teamTerm c => Sys2Proof.Machine.execTeamTerm c s
  | .clusterReset c => Sys2Proof.Machine.execClusterReset c s
  | .clusterRetire c => Sys2Proof.Machine.execClusterRetire c s
  | .portBind c => Sys2Proof.Machine.execPortBind c s
  | .linkUp c => Sys2Proof.Machine.execLinkUp c s
  | .linkDown c => Sys2Proof.Machine.execLinkDown c s
  | .pwrLimit c => Sys2Proof.Machine.execPwrLimit c s
  | .attest c => Sys2Proof.Machine.execAttest c s
  | .contextSaveComplete gang => Sys2Proof.Machine.execContextSaveComplete gang s
  | .debuggerAttach vd en => Sys2Proof.Machine.execDebuggerAttach vd en s
  | .debuggerResume team => Sys2Proof.Machine.execDebuggerResume team s
  | .guestInstructionDecode => Sys2Proof.Machine.execGuestInstructionDecode s
  | .commitPoint => Sys2Proof.Machine.execCommitPoint s
  | .growthRingTick => Sys2Proof.Machine.execGrowthRingTick s
  | .ctDrift => Sys2Proof.Machine.execCtDrift s
  | .rendezvousDeadlock => Sys2Proof.Machine.execRendezvousDeadlock s
  | .watchdog => Sys2Proof.Machine.execWatchdog s
  | .quantumExpiry => Sys2Proof.Machine.execQuantumExpiry s
  | .schedulerDecide => Sys2Proof.Machine.execSchedulerDecide s
  | .linkFailure => Sys2Proof.Machine.execLinkFailure s
  | .noticeDrop => Sys2Proof.Machine.execNoticeDrop s
  | .powerLimitExceeded => Sys2Proof.Machine.execPowerLimitExceeded s
  | .coreRailOvercurrent => Sys2Proof.Machine.execCoreRailOvercurrent s
  | .packageReset => Sys2Proof.Machine.execPackageReset s

end Sys2Proof.Machine
end

