-- ==== Sys2Proof/Machine/Fetch.lean ====
section
/-! DEFINITION. What a step is made of: which agent can issue, how it fetches and runs its next instruction (R67, R75, R80, R284, R388),
how pending events meet it (R444), which event of the machine comes next where no agent goes on, and the management controller's
command rings (R480). -/

namespace Sys2Proof.Machine

/-! ## Agents -/

/-- The agents of the resident teams, in the order of their numbers; a team's stream comes after its threads. -/
def agentsOf (s : State) : List Agent :=
  ((s.teams.filter fun p => p.2.resident && !p.2.retired).map fun p =>
    p.2.threads.map (fun q => Agent.thread p.1 q.1) ++ [Agent.stream p.1]).flatten

/-- A team whose agents may issue: its virtual device is not halted (R271) and its gang's placement step has come (R383, R403). -/
def teamRuns (s : State) (t : Team) : Bool := t.resident && !t.retired && !(s.vd t.vd).halted && gangPlaced s t

/-- A pending event that is delivered to a thread in a wait, or moved away from it (R444, R445). -/
def hasNotice (t : Team) (th : Thread) : Bool := (topPending th).isSome || (movablePending t th).isSome

/-- A thread stops: halted, at a boundary, an interruption point or in a wait (R279), or its gang asked to stop and an instruction with S = 1
passed (R428). -/
def holdsAtBoundary (s : State) (k tid : Nat) (t : Team) (th : Thread) : Bool :=
  hasStopped s k tid th || (stopping s t && (boundarySafe th).isSome)

/-- A thread that waits goes on only to take a notice, where it can be delivered (R318, R444). -/
def threadIssues (s : State) (k tid : Nat) (t : Team) (th : Thread) : Bool :=
  teamRuns s t && !th.dead && !th.preempted && !holdsAtBoundary s k tid t th &&
  (match th.wait with
   | none => th.yielded.isNone && (!needsWindow th || (hasNotice t th && atPoint th))
   | some _ => hasNotice t th && atPoint th)

def streamIssues (s : State) (k : Nat) (t : Team) : Bool :=
  teamRuns s t && !t.stream.retired && !t.stream.stopped && t.stream.wait.isNone && !isHalted s k none && !stopping s t

def canIssue (s : State) : Agent → Bool
  | .thread k tid =>
    match s.team? k, s.thread? k tid with
    | some t, some th => threadIssues s k tid t th
    | _, _ => false
  | .stream k =>
    match s.team? k with
    | some t => streamIssues s k t
    | none => false

/-- The agents from the one whose turn it is to the end of the round. -/
def inTurn (s : State) : List Agent := (agentsOf s).dropWhile (· != s.turn)

/-- The agent that goes on: the first of these that can issue; where none can, the round has ended. -/
def nextAgent (s : State) : Option Agent := (inTurn s).find? (canIssue s)

/-- The agent after another in a list, and whether the list ends between them. -/
def afterIn (l : List Agent) (a : Agent) : Agent × Bool :=
  match l.dropWhile (· != a) with
  | _ :: b :: _ => (b, false)
  | _ => (l.headD a, true)

/-- After an agent's step: the next one's turn; a round that ends lets the rest of the machine go on (log 17). -/
def passTurn (l : List Agent) (a : Agent) (s : State) : State :=
  let (b, round) := afterIn l a
  { s with turn := b, stalled := s.stalled || round }

/-! ## Fetch -/

/-- What a fetch comes to: a fault, after the fetches of the words that could be fetched; a wait for a fill; or an instruction to run. -/
inductive Fetched where
  | fault (s : State) (code : BitVec 8) (datum : DWord)
  | wait (s : State)
  | op (i : Instr) (s : State)

/-- The next instruction of a native thread (R67, R75, R80, R387): the address is a multiple of 8 (R379); where a line must be filled, the
faults of the instruction's own fetch are met first. -/
def fetchNative (s : State) (k tid : Nat) (t : Team) (th : Thread) : Fetched :=
  let pc := th.arch.pc
  let due := th.arch.clause.due
  if pc.toNat % 8 ≠ 0 then .fault s cILLEGAL 0
  else match lookUp s t th with
    | .fault code d => .fault s code d
    | .hit p (.run _ [i]) => if due && !isHeader i then .fault s cILLEGAL 0 else .op i (takeSpot s k tid (clusterOf t.core) p)
    | .hit _ _ => .fault s cILLEGAL 0
    | .miss psel pa =>
      match fetchWords s t.vd t.core pc due false, decodeNative s t.vd t.core pc with
      | .error (code, d), _ => .fault (noteFetch s t.vd t.core pc) code d
      | .ok _, .error _ => .fault s cILLEGAL 0
      | .ok _, .ok _ => .wait (startFill s t th psel pa)

/-- The next instruction of a thread under a guest personality: its expansion begins (R286), once its line is there. -/
def fetchGuestOp (s : State) (k tid : Nat) (t : Team) (th : Thread) : Fetched :=
  match lookUp s t th with
  | .miss psel pa =>
    if !awaitsAccess th && (imageAt s t.vd th.arch.pix.toNat).isSome then .wait (missGuest s k tid t th psel pa)
    else .op .guestInstructionDecode s
  | _ => .op .guestInstructionDecode s

/-- The next operation of a thread: that of its expansion, whose end is its commit point (R287, R289); a REP that runs (R126); or the
instruction at its address. -/
def fetchThread (s : State) (k tid : Nat) (t : Team) (th : Thread) : Fetched :=
  match th.expansion, th.rep with
  | some x, _ => .op (x.ops.headD .commitPoint) s
  | none, some r => .op r.op s
  | none, none => if th.arch.pix = 0 then fetchNative s k tid t th else fetchGuestOp s k tid t th

/-- The next instruction of a uniform stream (R67, R223, R379). -/
def fetchStream (s : State) (t : Team) : Fetched :=
  let pc := t.stream.pc
  let due := t.stream.clause.due
  if pc.toNat % 8 ≠ 0 then .fault s cILLEGAL 0
  else match fetchWords s t.vd t.core pc due true with
    | .error (code, d) => .fault (noteFetch s t.vd t.core pc) code d
    | .ok ws =>
      let s1 := noteFetch (noteFetch s t.vd t.core pc) t.vd t.core (pc + BitVec.ofNat 64 (8 * (ws.length - 1)))
      match readWords ws due true with
      | none => .fault s1 cILLEGAL 0
      | some i => .op i s1

/-! ## An agent's step -/

/-- A thread has not passed its operation: it has had earlier accesses, copies or owners of lines performed, or nothing has happened. -/
def notPassed (th x : Thread) : Bool :=
  x.arch.pc == th.arch.pc && x.arch.clause == th.arch.clause && x.arch.rc == th.arch.rc && x.wait == th.wait && x.rep == th.rep &&
  x.cr == th.cr && x.yielded == th.yielded &&
  (x.expansion.map fun e => (e.ops.length, e.committed)) == th.expansion.map fun e => (e.ops.length, e.committed)

/-- Whether a thread's operation ended in a delivery: its record is new, its gang is gone, or its virtual device is halted. -/
def delivered (s s1 : State) (k tid : Nat) (t : Team) (th : Thread) : Bool :=
  match s1.thread? k tid with
  | none => true
  | some th1 => (isLive th1 && th1.cr.fstat != th.cr.fstat && th1.arch.pc == (s.vd t.vd).fvec) || (s1.vd t.vd).halted

/-- A thread operation that has issued is counted, and as a bundle: this machine fuses none (R314, R487, log 10). -/
def countIssue (s s1 : State) (k tid : Nat) (t : Team) (th : Thread) (i : Instr) : State :=
  let moved := ((s1.thread? k tid).map fun x => !notPassed th x).getD false
  if i.code.isSome && th.rep.isNone && moved && !s1.stalled && !delivered s s1 k tid t th then
    countPerf (countPerf s1 t.vd t.core 0x200) t.vd t.core 0x100
  else s1

/-- A thread runs what it has fetched. -/
def runFetched (s : State) (k tid : Nat) (t : Team) (th : Thread) : Fetched → Out
  | .fault s1 code d => .next (faultThread s1 k tid code d)
  | .wait s1 => .next s1
  | .op i s1 =>
    match exec i s1 with
    | .next s2 => .next (countIssue s s2 k tid t th i)
    | o => o

/-- The pending event of a thread is delivered, its operation not executed: an expansion is rolled back to its boundary (R294, R444). -/
def notice (s : State) (k tid : Nat) : Out := exec (.asyncNoticeDelivery (.thread k tid)) (s.modThread k tid rollback)

/-- The operation goes on to be checked: a header takes effect (R284); an expansion is run up to its commit point (R444); earlier accesses are
performed. -/
def checksGoOn (s2 : State) (k tid : Nat) (th : Thread) (i : Instr) : Bool :=
  isHeader i || (!s2.stalled && ((s2.thread? k tid).map fun x =>
    notPassed th x || (match x.expansion with
      | some e => th.expansion.isNone || !e.committed
      | none => false)).getD false)

/-- A REP that has issued is put through the checks of its next element (R126, R444). -/
def repFails (s s2 : State) (k tid : Nat) (t : Team) (th : Thread) : Option State :=
  match (s2.thread? k tid).bind Thread.rep with
  | some r => if th.rep.isSome then none else match exec r.op s2 with
    | .next s3 => if delivered s s3 k tid t th then some s3 else none
    | _ => none
  | none => none

/-- A pending event meets the operation at the boundary (R444): the operation's own fault comes first; else the event is delivered. -/
def runNoticed (s : State) (k tid : Nat) (t : Team) (th : Thread) : Out :=
  match fetchThread s k tid t th with
  | .fault s1 code d => .next (faultThread s1 k tid code d)
  | .wait s1 => .next s1
  | .op i s1 =>
    match exec i s1 with
    | .next s2 =>
      if delivered s s2 k tid t th || checksGoOn s2 k tid th i then .next s2
      else match repFails s s2 k tid t th with
        | some s3 => .next s3
        | none => notice s k tid
    | r => r

/-- A pending event meets a thread that a header's WAIT holds at its clause's first instruction, or the staging of its window at the instruction after
RGN: that instruction is checked first (R18, R76, R444). -/
def runHeld (s : State) (k tid : Nat) (t : Team) (th : Thread) : Out :=
  match fetchThread s k tid t th with
  | .fault s1 code d => .next (faultThread s1 k tid code d)
  | .wait s1 => .next s1
  | .op i s1 =>
    match exec i (s1.modThread k tid fun x => { x with wait := none }) with
    | .next s2 =>
      if delivered s s2 k tid t th then .next s2
      else if checksGoOn s2 k tid { th with wait := none } i then
        .next ((s2.modThread k tid fun x =>
          { x with wait := x.wait.or th.wait, dirty := if th.wait == some .staging then th.dirty else x.dirty }).modTeam k recheckTeam)
      else notice s k tid
    | r => r

/-- One step of a thread (R284, R444): in a wait, only a notice moves it, which meets the instruction that the thread has yet to issue, if any; past its
commit point an operation with no tail completes first (R294). -/
def threadStep (s : State) (k tid : Nat) (t : Team) (th : Thread) : Out :=
  match th.pending.find? fun p => p.rank == 1 with
  | some p => .next (faultThread s k tid p.code p.datum)
  | none =>
    if th.pastCommit || !hasNotice t th then runFetched s k tid t th (fetchThread s k tid t th)
    else match th.wait with
      | some (.clause _) | some .staging => runHeld s k tid t th
      | some _ => notice s k tid
      | none => runNoticed s k tid t th

def streamStep (s : State) (k : Nat) (t : Team) : Out :=
  match fetchStream s t with
  | .fault s1 code d => .next (faultStream s1 k code d)
  | .wait s1 => .next s1
  | .op i s1 => exec i s1

/-- One step of an agent that can issue; a thread that so comes to a wait when its gang is asked to stop has stopped (R428). -/
def agentStep (s : State) (a : Agent) : Out :=
  match a with
  | .thread k tid =>
    match s.team? k, s.thread? k tid with
    | some t, some th => match threadStep s k tid t th with
      | .next s1 => .next (settleStop s1 k tid)
      | o => o
    | _, _ => event s
  | .stream k =>
    match s.team? k with
    | some t => streamStep s k t
    | none => event s

/-! ## The events that are due -/

/-- The event that performs an agent's oldest access. -/
def accessEvent (ag : Agent) (ac : Access) : Instr :=
  if ac.buffered then .bufferedStorePerformed ag
  else if returnsData ac.op then (if ac.port.isSome && isWrite ac.op then .systemReplyArrival ag else .loadDataReturn ag)
  else .storePerformed ag

/-- Events of one thread. -/
def threadEvents (s : State) (k tid : Nat) (t : Team) (th : Thread) : List Instr :=
  let ag := Agent.thread k tid
  (th.out.take 1).map (accessEvent ag) ++
  (if th.unacked.isEmpty then [] else [.systemWriteAck ag]) ++
  (if th.markers.isEmpty then [] else [.markerAck ag]) ++
  (if t.resident && gangPlaced s t then
    (if synchReady t tid th then [Instr.synchDrainComplete ag] else []) ++
    (if needsWindow th && windowFree s t th then [.windowGrant ag] else []) ++
    (if th.wait == some .staging then [.windowStaged ag] else []) ++
    (if losesWindow s th then [.windowLoss ag] else []) ++
    (if napOver s th then [.napDeadline ag] else []) ++
    (if yieldOver s th then [.yieldExpiry ag] else []) ++
    (if exitReady th then [.exitDrainComplete ag] else []) ++
    (if stopTimedOut s k th then [.preemptStopTimeout ag] else [])
   else [])

/-- A bin that a flush would make threads of. -/
def binMoves (s : State) (k : Nat) (b : Bin) : Bool :=
  match b.reqs with
  | r :: _ => (spawnThread s k b.entry b.pix r).isSome
  | [] => true

/-- Events of one team. -/
def teamEvents (s : State) (k : Nat) (t : Team) : List Instr :=
  (t.threads.map fun p => threadEvents s k p.1 t p.2).flatten ++
  (t.stream.out.take 1).map (accessEvent (.stream k)) ++
  (if t.stream.unacked.isEmpty then [] else [.systemWriteAck (.stream k)]) ++
  ((t.replays.filter fun r => (r.kind == 4 && r.reply.isNone) || (r.kind == 5 && !r.acked)).take 1).map (fun r => .systemReplyArrival (.thread k r.tid)) ++
  (if t.resident && !t.retired && gangPlaced s t then
    ((t.copies.filter fun p => copyReady t p.1).take 1).map (fun p => Instr.copyWritePerformed k p.1) ++
    ((t.arrivals.filter fun p => arrivalReady t p.1).take 1).map (fun p => .cpaArrival k p.1) ++
    (if allWaiting s k t && t.bins.any (binMoves s k) then [.spawnTeamWaiting k] else []) ++
    (if !t.ufault.isEmpty && (t.threads.isEmpty || (quietThread t).isSome) then [.uniformFaultDelivery k] else []) ++
    (if bulkHeadReady t then [.postedCommandHead k .bulk] else []) ++
    (if matrixHeadReady s t then [.postedCommandHead k .matrix] else []) ++
    (if (waitingMma t).isSome then [.scaleLinesPresent k] else []) ++
    (if t.entry.any fun e => !e.aged && decide (e.since + 4096 ≤ s.cycle) then [.reservationAging k] else []) ++
    (if (waitingMstat t).isSome then [.mstatWrite k] else []) ++
    (if t.running.isSome then [.kcpComplete k] else []) ++
    (if retireReady t then [.teamRetire k] else [])
   else [])

/-- Events of the cores and clusters on which teams stand. -/
def siteEvents (s : State) : List Instr :=
  let here := (s.teams.filter fun p => p.2.resident && !p.2.retired).map fun p => p.2.core
  let cores := here.eraseDups
  let clusters := (here.map clusterOf).eraseDups
  (cores.map fun c =>
    (if (heldCopies s c).isEmpty then [] else [Instr.coalescerMerge c]) ++
    (((binsOn s c).zip (List.range (binsOn s c).length)).filter fun x => binDue s x.1).map fun x => .spawnTimerExpiry c x.2).flatten ++
  (clusters.map fun c =>
    (if (nextMacq s c).isSome then [Instr.macqGrant c] else []) ++
    (if (nextEntry s c .array).isSome then [.reservationGrant c .array] else []) ++
    (if (nextEntry s c .drain).isSome then [.reservationGrant c .drain] else []) ++
    (if (unitTeam s c .array).isSome then [.mmaComplete c] else []) ++
    (if (unitTeam s c .drain).isSome then [.drainUnitComplete c] else []) ++
    (if (nextLoad s c).isSome then [.canopyLoadComplete c] else [])).flatten ++
  (s.fills.map fun p => ((p.2.zip (List.range p.2.length)).take 1).map fun x =>
    if x.1.returned then Instr.docFillComplete p.1 x.2 else .fetchReturn p.1 x.2).flatten ++
  (s.slots.map fun p => (p.2.filter fun x => x.2.copying).map fun x => Instr.imageSlotCopyDone p.1 x.1).flatten

/-- Events of the gangs: saves, restores, deadlocks. -/
def gangEvents (s : State) : List Instr :=
  (s.gangs.map fun p =>
    let g := p.2
    let held := (g.teams.filterMap s.team?).any fun t => t.threads.any fun q =>
      (q.2.out.any fun ac => ac.port.isSome && returnsData ac.op && isWrite ac.op) || (match q.2.wait with
        | some (.drain _) | some (.tick _ _) => true
        | _ => false)
    (if deadlocked s p.1 g then [Instr.rendezvousDeadlock] else []) ++
    (if boundPassed s g && held then [.drainBoundExpiry p.1] else []) ++
    (if saveReady s g then [.contextSaveComplete p.1] else []) ++
    (if (restorePlace s g).isSome || restoreEnds s p.1 g then [.gangRestore p.1] else [])).flatten

/-- The move that brings a granule of the records nearer to T0 (R426, R427): into a free place there; or one that may leave T0 goes to T1; or, where
T1 is full, the least recently accessed of its non-resident virtual devices' granules goes to T2. -/
def moveFor (s : State) (v : VDev) : List Instr :=
  match (v.incoming ++ v.record).find? (canBring s) with
  | none => []
  | some g =>
    let sl := granSlice g
    let use (x : Nat) : Nat := AMap.get 0 s.granUse x
    if moveOk s g .t0 then [.granuleMoveComplete g .t0]
    else if t1Count s sl < 1048576 then (leastBy use (evictable s sl)).toList.map fun x => .granuleMoveComplete x .t1
    else if t2Room s sl = 0 then []
    else (leastBy use (t1Of s sl fun v => !v.resident)).toList.map fun x => .granuleMoveComplete x .t2

/-- Events of the scheduler. -/
def schedEvents (s : State) : List Instr :=
  (s.launches.map fun l => (l.2.nodes.map fun n =>
    (if waitResReady s l.2 n.2 then [Instr.residencyThreshold l.1 n.1] else []) ++
    (if (copiedGang s l.1 n.1).isSome || (placement s l.1 n.1).isSome then [.placementStep l.1 n.1] else []) ++
    (if n.2.state == .placing && n.2.ending.isNone && !n.2.aged && decide (n.2.since + 4096 ≤ s.cycle) then [.placementAging l.1 n.1] else [])).flatten ++
    (if completionReady s l.1 && !((AMap.find s.queues l.2.queue).map Queue.stall).getD false then [.completionEntryWrite l.1] else []) ++
    (if l.2.unacked.isEmpty then [] else [.systemWriteAck (.stream l.1)])).flatten ++
  (s.vds.map fun p =>
    (if decisionDue s p.1 || entered s p.1 then [Instr.schedulerDecide] else []) ++
    (if p.2.resident && quantumOver s p.2 then [.quantumExpiry] else []) ++
    (if p.2.resident then moveFor s p.2 else [])).flatten ++
  (s.queues.filter fun q => q.2.stall && decide ((q.2.w + 2 ^ 32 - q.2.chead) % 2 ^ 32 < q.2.entries)).map
    fun q => .completionEntryWrite (q.2.doneOrder.headD 0)

/-- A PART_SET in progress whose gangs are all saved (R412). -/
def partSetReady (s : State) (c : Cmd) : Bool :=
  s.gangs.all fun g => g.2.saved || !partFrozen { s with partSet := some c } (s.vd g.2.vd).part

/-- Events of the ports, links and the controller. -/
def portEvents (s : State) : List Instr :=
  (s.ports.filter fun p => dropDue s p.2).map (fun _ => Instr.noticeDrop) ++
  (s.links.filter fun p => linkFails p.2).map (fun _ => .linkFailure) ++
  (match s.partSet with
   | some c => if partSetReady s c then [.partSet c] else []
   | none => [])

/-! ## The command rings (R480, R481) -/

/-- The command that an OPCODE names (R481). -/
def commandOf (c : Cmd) : Option Instr :=
  match cNat c 0 2 with
  | 0x01 => some (.imgLoad c) | 0x02 => some (.imgBind c) | 0x03 => some (.imgUnbind c) | 0x04 => some (.imgDrop c)
  | 0x10 => some (.queueAssign c) | 0x11 => some (.queueRelease c) | 0x12 => some (.queueDrain c)
  | 0x20 => some (.graphRegister c) | 0x21 => some (.graphDrop c)
  | 0x30 => some (.partSet c) | 0x31 => some (.vdConfig c) | 0x32 => some (.vdGrant c) | 0x33 => some (.vdStatus c)
  | 0x34 => some (.tierAdd c) | 0x35 => some (.tlbInval c)
  | 0x40 => some (.teamTerm c) | 0x41 => some (.clusterReset c) | 0x42 => some (.clusterRetire c)
  | 0x50 => some (.portBind c) | 0x51 => some (.linkUp c) | 0x52 => some (.linkDown c) | 0x53 => some (.pwrLimit c)
  | 0x60 => some (.attest c)
  | _ => none

/-- A command of a port is still in progress: the port's next one waits (R480). -/
def portBusy (s : State) (port : Nat) : Bool :=
  (s.partSet.any fun c => c.port == port) || s.queues.any fun q => q.2.draining.any fun c => c.port == port

/-- A command that waits for one of the other port: a drain of a queue that drains, a PART_SET beside another (R396). -/
def commandWaits (s : State) (c : Cmd) : Bool :=
  match commandOf c with
  | some (.queueDrain _) => (AMap.find s.queues (cNat c 0x08 2)).any fun q => q.draining.isSome
  | some (.partSet _) => s.partSet.isSome
  | _ => false

/-- The entry that a port's controller takes next. -/
def ringCommand (s : State) (port : Nat) (p : Port) : Option Cmd :=
  if !s.ready || p.cmdsize = 0 || p.cmdhead = p.cmdtail || portBusy s port then none
  else
    let a := p.cmdbase.toNat + 64 * p.cmdhead.toNat
    let c : Cmd := { port := port, entry := a, bytes := cellsGet s.mem a 64 }
    if commandWaits s c then none else some c

/-- A taken command runs; an OPCODE not in the table completes with OPCODE_UNKNOWN (R481). -/
def runCommand (s : State) (c : Cmd) : Out :=
  let p := AMap.get {} s.ports c.port
  let s1 := setPort s c.port { p with cmdhead := BitVec.ofNat 32 ((p.cmdhead.toNat + 1) % p.cmdsize.toNat) }
  match commandOf c with
  | some i => exec i s1
  | none => event (complete s1 c [] 0x41 0)

def nextCommand (s : State) : Option Cmd := s.ports.findSome? fun p => ringCommand s p.1 p.2

/-! ## A round of the machine -/

/-- Every event that is due. -/
def dueEvents (s : State) : List Instr :=
  (s.teams.map fun p => teamEvents s p.1 p.2).flatten ++ siteEvents s ++ gangEvents s ++ schedEvents s ++ portEvents s

/-- The event that runs: the due ones take turns (log 17). -/
def pickEvent (s : State) : Option Instr :=
  let l := dueEvents s
  l[s.cycle / 8 % max l.length 1]?

/-- Time passes: a tick of 100 MHz where the cycles of one have gone by, else 8 cycles (R9, R330, log 17). -/
def timeEvent (s : State) : Instr := if tickDue s then .growthRingTick else .ctDrift

/-- The rest of the machine goes on: a management command or an event that is due, and then time. A round that has ended begins again
at the first agent. -/
def roundStep (s : State) : Out :=
  let s0 := { s with stalled := false, turn := if s.stalled then s.turn else (agentsOf s).headD s.turn }
  let r := match nextCommand s0 with
    | some c => runCommand s0 c
    | none => match pickEvent s0 with
      | some i => exec i s0
      | none => .next s0
  match r with
  | .next s1 => exec (timeEvent s1) s1
  | o => o

/-- The first thing to come from outside (log 17). -/
def inputStep (s : State) (x : Input) (rest : List Input) : Out :=
  let s0 := { s with inputs := rest }
  match x with
  | .turn a => .next { s0 with turn := a, stalled := false }
  | .event i => if i.code.isSome then .next s0 else exec i s0
  | .portEnables p a r => .next (portEnables s0 p a r)
  | .arrive a i => .next (arriveNow s0 a i)
  | .hostMem pa bs => .next (hostMem s0 pa bs)
  | .hostLook pa n => .next (hostLook s0 pa n)
  | .readEarly a i => .next (readEarly s0 a i)
  | .bootFails n => .next (bootFails s0 n)
  | .keyManifest ks => .next { s0 with manifest := ks.foldl (fun m x => if 1 ≤ x.1 ∧ x.1 ≤ 15 then AMap.set m x.1 x.2 else m) [] }

/-- A watchdog that a tick has found expired, and that acts before anything else does (R452). -/
def watchdogFirst (s : State) : Bool := s.teams.any fun p => watchdogDue p.2

/-- A link whose retries have failed, which goes down before anything passes over it (R478). -/
def linkFirst (s : State) : Bool := s.links.any fun p => linkFails p.2

/-- An agent's step, and the turn passed on. -/
def turnStep (s : State) (a : Agent) : Out :=
  match agentStep { s with turn := a } a with
  | .next s1 => .next (passTurn (agentsOf s) a s1)
  | o => o

/-! ## Placing one instruction -/

/-- The page of code that withFetchWord uses: virtual and physical address 0 (log 18). -/
def codePage (vd : Nat) : Trans := { vd := vd, va := 0, lg := 16, frame := 0, r := true, w := false, x := true, home := 0, pin := 0 }

/-- A launch record with every resource a team can have. -/
def fullRecord : LaunchRec := { regs8 := 32, scratch := 524288, canopy := 512, tags := 64, fsl := List.replicate 8 0 }

/-- The clause of one instruction of `n` words at address 8; of a header at address 8, the place where a header is due. -/
def oneClause (header : Bool) (n : Nat) : Clause :=
  if header then { due := true } else { due := false, start := 0, stop := BitVec.ofNat 64 (8 + 8 * n) }

/-- A fresh gang of one team of one thread, in S mode, and its stream, that stand at address 8. -/
def onlyTeam (gang : Nat) (stream : Bool) (cl : Clause) : Team :=
  { gang := gang, rank := 0, teamid := 0, grid := 1, vd := 0, core := 0, launch := 0, node := 0, lrec := fullRecord,
    runs := [(0, 0)],
    threads := [(0, { slot := 0, arch := { pc := 8, mode := true, clause := cl }, wait := if stream then some (.nap (-1) 8) else none })],
    stream := { pc := 8, clause := cl, retired := !stream } }

/-- What a line of the decoded-operation cache holds of one instruction's words. -/
def decodedWords (ws : List Byte) : Decoded :=
  match decode ws with
  | .ok (i, n) => .run (8 * n) [i]
  | .error _ => .illegal

/-- The words at address 8 and all that lets the next step run them: their page, their decoded line, one team (log 18). -/
def placeWords (s : State) (ws : List Byte) (header stream : Bool) (n : Nat) : State :=
  let g := s.nextKey
  let a : Agent := if stream then .stream (g + 1) else .thread (g + 1) 0
  let l : Line := { id := g + 2, psel := 15, pa := 8, used := s.cycle, code := [decodedWords ws] }
  { s with
    mem := cellsSet s.mem 8 ws, poison := s.poison.filter fun k => k != 0 && k != 2,
    tlb := AMap.set s.tlb 0 (codePage 0 :: AMap.get [] s.tlb 0), walked := s.walked.filter fun x => x.vd != 0,
    shoot := s.shoot.filter fun h => h.old.vd != 0, icode := s.icode.map fun p => if p.1 = 0 then (0, AMap.del p.2 0) else p,
    lines := AMap.set s.lines 0 (l :: AMap.get [] s.lines 0),
    vds := AMap.set s.vds 0 { quantum := 1000, resident := true, runnable := true },
    gangs := AMap.set s.gangs g { vd := 0, launch := 0, node := 0, number := 0, teams := [g + 1], block := 0 },
    teams := AMap.set (s.teams.map fun p => (p.1, { p.2 with wdDue := none })) (g + 1) (onlyTeam g stream (oneClause header n)), nextKey := g + 3,
    links := s.links.map fun p => (p.1, { p.2 with failed := 0 }), turn := a, inputs := [], stalled := false }

/-- The words of a table row placed (R66, R74): class 10 for a stream, the others for a thread. -/
def placeTableWord (s : State) (nbits w : Nat) : State :=
  let bs := leBytes 24 (w % 2 ^ nbits)
  let cls := w % 2 ^ nbits / 2 ^ 62 % 4
  let n := match decode bs with
    | .ok (_, n) => n
    | .error _ => 1
  placeWords s bs (cls == 3) (cls == 2) n

end Sys2Proof.Machine
end

