-- ==== Sys2Proof/Machine/Step.lean ====
section
/-! DEFINITION. One step of the package: an expired watchdog, else a link that has failed, else the next thing from outside, else the agent whose turn it
is, else the rest of the machine. -/

namespace Sys2Proof.Machine

/-- One step (R188, R284): its parts, and what passes the turn, are in Fetch. -/
def step (s : State) : Host.Outcome State Fault Refusal :=
  if watchdogFirst s then exec .watchdog s
  else if linkFirst s then exec .linkFailure s
  else match s.inputs with
  | x :: rest => inputStep s x rest
  | [] =>
    if s.stalled then roundStep s
    else match nextAgent s with
      | some a => turnStep s a
      | none => roundStep s

/-- The state in which the next step fetches and runs the instruction of a table word (log 18). -/
def State.withFetchWord (s : State) (nbits w : Nat) : State := placeTableWord s nbits w

end Sys2Proof.Machine
end

