-- ==== Sys2Proof/Safety.lean ====
section
/-! DEFINITION. What the statements speak of: an agent that has come to the effect of an operation, the state after it, and what counts
as a safe step and a safe run. -/

namespace Sys2Proof.Machine

/-! ## Safe runs -/

/-- A step that answers a next state. -/
def Goes (s : State) : Prop := ∃ t, step s = .next t

/-- The state after some steps, while they answer next states. -/
def runFor : Nat → State → Option State
  | 0, s => some s
  | n + 1, s => match step s with
    | .next t => runFor n t
    | _ => none

/-- A run of `n` steps that neither faults nor is refused, and ends with canonical memories. -/
def SafeFor (n : Nat) (s : State) : Prop := ∃ t, runFor n s = some t ∧ Memory.wf t = true

/-! ## A thread at an operation -/

/-- The thread whose turn it is, with its team and the state. -/
def ctxOf (s : State) : Option Ctx :=
  match s.turn with
  | .stream _ => none
  | .thread k tid =>
    match s.team? k, s.thread? k tid with
    | some t, some th => some { s := s, key := k, team := t, tid := tid, th := th }
    | _, _ => none

/-- Nothing stands before the effect of an operation of a thread, native or of an expansion: it is in no wait, no fault is pending for the
instruction (R213), it decodes and may run (R79), it is not an operation that the commit point comes before (R289), its guard is true (R24), no
outstanding access is waited for (R15), no source register is in error (R453). -/
def ready (c : Ctx) (cls opc : Nat) (a : Args) : Bool :=
  c.th.wait.isNone && (c.th.pending.find? fun p => p.rank == 1).isNone && (decodeFault c cls opc a c.th.expansion.isNone).isNone &&
  !atCommit c.th cls opc && guardTrue c.th a.guard && !interlocked c.th.out c.th.arch cls opc a &&
  (softError c (((shapeOf cls opc a.mod).map fun x => srcKeys c.th.arch x (readArgs c.team cls opc a)).getD [])).isNone

/-- The last operation of an expansion has come to its guard, its commit point still to come (R289, R290): it is in no wait, no fault is pending for it,
it decodes and may run, and every load of the expansion has returned. -/
def atLast (c : Ctx) (cls opc : Nat) (a : Args) : Bool :=
  c.th.wait.isNone && (c.th.pending.find? fun p => p.rank == 1).isNone && (decodeFault c cls opc a c.th.expansion.isNone).isNone &&
  atCommit c.th cls opc && !awaitsAccess c.th

/-- Such an operation whose guard is true comes to the checks of its effect. -/
def lastReady (c : Ctx) (cls opc : Nat) (a : Args) : Bool :=
  atLast c cls opc a && guardTrue c.th a.guard && !interlocked c.th.out c.th.arch cls opc a &&
  (softError c (((shapeOf cls opc a.mod).map fun x => srcKeys c.th.arch x (readArgs c.team cls opc a)).getD [])).isNone

/-- The state in which the thread has become `th` and has passed the instruction. -/
def afterReg (c : Ctx) (a : Args) (th : Thread) : State := c.s.modThread c.key c.tid fun _ => passOp th (8 * a.words) a.live

/-- The state `s` with the thread past the instruction. -/
def afterDone (c : Ctx) (a : Args) (s : State) : State := s.modThread c.key c.tid fun th => passOp th (8 * a.words) a.live

/-- The state `s`, in which the operation has set the thread's place or wait itself. -/
def afterJump (c : Ctx) (a : Args) (s : State) : State := s.modThread c.key c.tid (enterTail a.live)

/-- The state `s` with the thread still at the instruction, which has waited. -/
def afterStay (c : Ctx) (a : Args) (s : State) : State := { s.modThread c.key c.tid (enterTail a.live) with stalled := true }

/-- The fault of the thread's instruction. -/
def faulted (c : Ctx) (code : BitVec 8) (datum : DWord) : State := faultThread c.s c.key c.tid code datum

/-! ## A uniform stream at an operation -/

/-- The stream whose turn it is: its team's key and its team. -/
def streamOf (s : State) : Option (Nat × Team) :=
  match s.turn with
  | .thread _ _ => none
  | .stream k => (s.team? k).map fun t => (k, t)

/-- Nothing stands before the effect of a uniform operation (R79, R225, R15, R224, R233); a posted command takes its guard with it (R229). -/
def kready (s : State) (t : Team) (opc : Nat) (a : Args) (posted : Bool) : Bool :=
  !t.stream.retired && !t.stream.stopped && (kdecodeFault s t opc a).isNone && (posted || qTrue t a.guard) &&
  !interlocked t.stream.out {} 2 opc a &&
  !((kPending t).any (match shapeOf 2 opc a.mod with
    | some sh => argKeys {} sh a
    | none => []).contains) && !(opc == 0x13 && !(mstatKeys t).isEmpty)

/-- The state `s` with the stream past the instruction. -/
def afterStream (k : Nat) (a : Args) (s : State) : State :=
  s.modTeam k fun t => { t with stream := passStream t.stream (8 * a.words) }

/-! ## What an operation comes to -/

/-- Every thread that is ready for the operation and meets `pre` comes to the state `post`. -/
def ThreadOp (cls opc : Nat) (i : Args → Instr) (pre : Ctx → Args → Prop) (post : Ctx → Args → State) : Prop :=
  ∀ (s : State) (c : Ctx) (a : Args), ctxOf s = some c → ready c cls opc a = true → pre c a → exec (i a) s = .next (post c a)

/-- Every thread that is ready for the operation becomes `f` and goes on; nothing else of the state changes. -/
def RegOp (cls opc : Nat) (i : Args → Instr) (f : Ctx → Args → Thread) : Prop :=
  ∀ (s : State) (c : Ctx) (a : Args), ctxOf s = some c → ready c cls opc a = true → exec (i a) s = .next (afterReg c a (f c a))

/-- Every stream that is ready for the operation and meets `pre` comes to the state `post`. -/
def StreamOp (opc : Nat) (posted : Bool) (i : Args → Instr) (pre : State → Team → Args → Prop) (post : State → Nat → Team → Args → State) :
    Prop :=
  ∀ (s : State) (k : Nat) (t : Team) (a : Args),
    streamOf s = some (k, t) → kready s t opc a posted = true → pre s t a → exec (i a) s = .next (post s k t a)

/-- The thread at the operation changed by `f`, in the state `s`. -/
def withThread (c : Ctx) (s : State) (f : Thread → Thread) : State := s.modThread c.key c.tid f

/-- The thread enters a wait, at this instruction. -/
def waiting (c : Ctx) (a : Args) (w : Wait) : State :=
  afterJump c a (withThread c c.s fun th => { th with wait := some w, waitFrom := c.s.cycle })

/-- The result of R97: the operation on the operands' values, wrapped or clamped, written to the destination. -/
def arithResult (opc : Nat) (f : ElTy → Int → Int → Int → Int) (c : Ctx) (a : Args) : Thread :=
  let t := intTyOf opc a
  writeInt c.th t a.dst (intResult t (modBits a.mod 4 4 == 1) (f t (intVal c t a.sa) (intVal c t a.sb) (intVal c t a.sc)))

/-- A result computed from the bit pattern of operand a. -/
def bitsResult (opc : Nat) (f : ElTy → Ctx → Args → Nat → Nat) (c : Ctx) (a : Args) : Thread :=
  let t := intTyOf opc a
  writeInt c.th t a.dst (f t c a (readTy c t a.sa))

/-- A 32-bit result. -/
def wordResult (f : Ctx → Args → Nat) (c : Ctx) (a : Args) : Thread := write32 c.th a.dst (BitVec.ofNat 32 (f c a))

/-- A float result of the flushed operands, with its flags raised (R142). -/
def floatResult (f : Args → Nat → Nat → Nat → FR) (c : Ctx) (a : Args) : Thread :=
  giveF c.th a.dst (f a (fIn c a a.sa) (fIn c a a.sb) (fIn c a a.sc))

/-- A packed result (R152). -/
def packedResult (f : Args → Nat → Nat → Nat → FR) (c : Ctx) (a : Args) : Thread :=
  giveF c.th a.dst (packed (f a) (readPk c a.sa).toNat (readPk c a.sb).toNat (readPk c a.sc).toNat)

/-- QNT and DQNT run: their format slot is set, and their element lies in the word (R160). -/
def quantRuns (t : Team) (a : Args) : Bool :=
  let sl := fslOf t (modBits a.mod 9 7)
  sl.ok && sl.elem != 0 && decide (modBits a.mod 5 4 < 32 / cellWidth (elemTy sl.elem))

/-- PACK2 runs: it names its format, or its slot is set to one whose pair it has (R158). -/
def packRuns (t : Team) (a : Args) : Bool :=
  let sl := fslOf t (modBits a.mod 2 0)
  modBits a.mod 9 6 != 0 || (sl.ok && sl.elem != 0 && !(decide (cellWidth (elemTy sl.elem) = 16) && modBits a.mod 3 3 == 1))

/-! ## Accesses -/

/-- A checked access that issues takes the next number of its team's replayable operations, if it leads to a system page (R430). -/
def numbered (c : Ctx) (ac : Access) : State :=
  let s := noteAccess c.s c.team ac.va ac.loc
  if ac.port.isSome then s.modTeam c.key fun t => { t with nextCopy := t.nextCopy + 1 } else s

/-- A checked access has issued: it is outstanding, and its flag counts it (R25). -/
def issued (c : Ctx) (a : Args) (ac : Access) : State :=
  afterDone c a (withThread c (numbered c ac) fun th =>
    incFlag { th with out := th.out ++ [{ ac with no := if ac.port.isSome then c.team.nextCopy else 0 }] } ac.flag)

/-- Every thread that is ready for an access whose address resolves, and whose flag has room (R26), has it outstanding, unless a copy of
the thread must come first (R199). `datum` is what a fault names, `nol1` whether its
hint asks for its home's data (R174). -/
def AccessOp (opc : Nat) (i : Args → Instr) (pre : Ctx → Args → Prop) (addr datum : Ctx → Args → DWord) (size : Args → Nat) (want : Want)
    (flag : Thread → Option (BitVec 4)) (op : Ctx → Args → AccOp) (nol1 : Args → Bool) : Prop :=
  ∀ (s : State) (c : Ctx) (a : Args) (l : Loc), ctxOf s = some c → ready c 1 opc a = true → pre c a → flagFull c.th (flag c.th) = false →
    resolveAs s c.team c.th.arch.mode (addr c a) (size a) (size a) want (datum c a) = .ok l →
    copyHazard c.team c.tid l (size a) want.write = none →
    exec (i a) s = .next (issued c a
      { op := op c a, loc := l, size := size a, va := addr c a, flag := flag c.th, port := locPort l, nol1 := nol1 a })

/-- An access whose address does not resolve takes the fault. -/
def AccessFault (opc : Nat) (i : Args → Instr) (pre : Ctx → Args → Prop) (addr datum : Ctx → Args → DWord) (size : Args → Nat)
    (want : Want) : Prop :=
  ∀ (s : State) (c : Ctx) (a : Args) (code : BitVec 8) (d : DWord), ctxOf s = some c → ready c 1 opc a = true → pre c a →
    resolveAs s c.team c.th.arch.mode (addr c a) (size a) (size a) want (datum c a) = .error (code, d) →
    exec (i a) s = .next (faulted c code d)

/-! ## Words -/

/-- The fields of an instruction of one word without a guard: MOD, the destination and the three sources. -/
def plain (m : BitVec 10) (d x y z : Sel) : Args := { mod := m, guard := .always, live := none, dst := d, sa := x, sb := y, sc := z, aux := none }

/-! ## Commands -/

/-- A management command that `idle` allows: a package that is not READY accepts none (R484); what its port's role turns away, what its parameters
turn away, and, for each row, the state that a command meeting the row's first part leaves (R480 to R482). -/
def Command (i : Cmd → Instr) (idle : State → Cmd → Prop) (who : Cmd → Option Nat) (fields : List (Nat × Nat))
    (checks : State → Cmd → List (Nat × Bool)) (rows : List ((State → Cmd → Prop) × (State → Cmd → State))) : Prop :=
  ∀ (s : State) (c : Cmd), idle s c → (s.ready = false → exec (i c) s = .next s) ∧ (s.ready = true →
    (roleAllows s c (who c) = false → exec (i c) s = .next (complete s c [] 0x40 0)) ∧
    (∀ o, roleAllows s c (who c) = true → paramFail c fields (checks s c) = some o → exec (i c) s = .next (complete s c [] 0x42 o)) ∧
    ∀ row ∈ rows, roleAllows s c (who c) = true → paramFail c fields (checks s c) = none → row.1 s c → exec (i c) s = .next (row.2 s c))

end Sys2Proof.Machine
end

