-- ==== Sys2Proof/Certificates/Slice0/Obligations.lean ====
section
/-! DEFINITION. The statements about the model. -/

open Sys2Proof Sys2Proof.Machine

/-! ## Integer, predicate and index instructions -/

/-- R97: the exact result of IADD, ISUM, ISUB, IMUL, IMULH, IMAD, IMIN, IMAX, IABS and INEG, wrapped or clamped to the type, is written to
the destination; the corners that the rule names. -/
def Obligations.IntegerArithmetic : Prop :=
  RegOp 0 0x00 .iadd (arithResult 0x00 fun _ x y _ => x + y) ∧
  RegOp 0 0x01 .isum (arithResult 0x01 fun _ x y z => x + y + z) ∧
  RegOp 0 0x03 .isub (arithResult 0x03 fun _ x y _ => x - y) ∧
  RegOp 0 0x04 .imul (arithResult 0x04 fun _ x y _ => x * y) ∧
  RegOp 0 0x05 .imulh (arithResult 0x05 fun t x y _ => x * y / 2 ^ t.width) ∧
  RegOp 0 0x06 .imad (arithResult 0x06 fun _ x y z => x * y + z) ∧
  RegOp 0 0x0A .imin (arithResult 0x0A fun _ x y _ => min x y) ∧
  RegOp 0 0x0B .imax (arithResult 0x0B fun _ x y _ => max x y) ∧
  RegOp 0 0x0C .iabs (arithResult 0x0C fun _ x _ _ => |x|) ∧
  RegOp 0 0x0D .ineg (arithResult 0x0D fun _ x _ _ => -x) ∧
  (∀ (t : ElTy) (x : Int), 32 ≤ t.width → intResult t false x = (x % 2 ^ t.width).toNat) ∧
  (∀ (t : ElTy) (x : Int), t.signed = true → 32 ≤ t.width →
    intResult t true x = ((max (-(2 ^ (t.width - 1))) (min x (2 ^ (t.width - 1) - 1))) % 2 ^ t.width).toNat) ∧
  (∀ (t : ElTy) (x : Int), t.signed = false → 32 ≤ t.width → intResult t true x = (max 0 (min x (2 ^ t.width - 1))).toNat) ∧
  (∀ (t : ElTy) (sat : Bool) (x : Int), t.width < 32 → t.signed = false →
    intResult t sat x = (if sat then max 0 (min x (2 ^ t.width - 1)) else x % 2 ^ t.width).toNat) ∧
  (∀ (t : ElTy) (sat : Bool) (x : Int), t.width < 32 → t.signed = true →
    intResult t sat x =
      ((if sat then max (-(2 ^ (t.width - 1))) (min x (2 ^ (t.width - 1) - 1)) else Int.bmod x (2 ^ t.width)) % 2 ^ 32).toNat) ∧
  intResult .i32 false |(-(2 ^ 31) : Int)| = 2 ^ 31 ∧ intResult .i32 true |(-(2 ^ 31) : Int)| = 2 ^ 31 - 1

/-- R100, R107: IDIV and IREM, and their table; a shift count is never masked, SAR beyond the width is all sign bits, ROTL takes the count
modulo the width. `a` is a w-bit pattern. -/
def Obligations.DivisionAndShiftTables : Prop :=
  RegOp 0 0x08 .idiv (arithResult 0x08 fun t x y _ => intDiv t x y) ∧
  RegOp 0 0x09 .irem (arithResult 0x09 fun t x y _ => intRem t x y) ∧
  (∀ t x, t.signed = true → intDiv t x 0 = -1 ∧ intRem t x 0 = x) ∧
  (∀ t x, t.signed = false → intDiv t x 0 = 2 ^ t.width - 1 ∧ intRem t x 0 = x) ∧
  (∀ t, t.signed = true → intDiv t (-(2 ^ (t.width - 1))) (-1) = -(2 ^ (t.width - 1)) ∧ intRem t (-(2 ^ (t.width - 1))) (-1) = 0) ∧
  (∀ (t : ElTy) (x y : Int), y ≠ 0 → ¬(t.signed = true ∧ x = -(2 ^ (t.width - 1)) ∧ y = -1) →
    intDiv t x y = Int.tdiv x y ∧ intRem t x y = x - Int.tdiv x y * y) ∧
  ∀ (w a n : Nat), 0 < w → a < 2 ^ w →
    (n < w → shiftL w a n = a * 2 ^ n % 2 ^ w ∧ shiftR w a n = a / 2 ^ n ∧
      (shiftA w a n : Int) = (toVal true w a / 2 ^ n) % 2 ^ w) ∧
    (w ≤ n → shiftL w a n = 0 ∧ shiftR w a n = 0 ∧ shiftA w a n = if 2 ^ (w - 1) ≤ a then 2 ^ w - 1 else 0) ∧
    rotL w a n = rotL w a (n % w) ∧ ∀ i, i < w → (rotL w a n).testBit ((i + n) % w) = a.testBit i

/-- R98: IADDC. -/
def Obligations.AddWithCarry : Prop :=
  RegOp 0 0x02 .iaddc fun c a =>
    let w := (intTyOf 0x02 a).width
    let n := readTy c (intTyOf 0x02 a) a.sa + readTy c (intTyOf 0x02 a) a.sb + (if pred c.th a.sc.toNum then 1 else 0)
    setPred (writeInt c.th (intTyOf 0x02 a) a.dst (n % 2 ^ w)) a.sc.toNum (decide (n ≥ 2 ^ w))

/-- R99, R102 to R104: IMADW, ICMP, ISEL, LEA. -/
def Obligations.WideCompareSelectAddress : Prop :=
  RegOp 0 0x07 .imadw (fun c a => write64 c.th a.dst (BitVec.ofInt 64
    (intVal c (intTyOf 0x07 a) a.sa * intVal c (intTyOf 0x07 a) a.sb + toVal (intTyOf 0x07 a).signed 64 (read64 c a.sc).toNat))) ∧
  RegOp 0 0x0E .icmp (fun c a => writeInt c.th (intTyOf 0x0E a) a.dst
    (if intCond (modBits a.mod 3 0) (intVal c (intTyOf 0x0E a) a.sa) (intVal c (intTyOf 0x0E a) a.sb)
      (readTy c (intTyOf 0x0E a) a.sa) (readTy c (intTyOf 0x0E a) a.sb) then 2 ^ 64 - 1 else 0)) ∧
  RegOp 0 0x0F .isel (fun c a => writeInt c.th (intTyOf 0x0F a) a.dst
    (if pred c.th (a.sc.toNum % 16) != (a.sc.toNum / 16 % 2 == 1) then readTy c (intTyOf 0x0F a) a.sa else readTy c (intTyOf 0x0F a) a.sb)) ∧
  RegOp 0 0x10 .lea (fun c a => write64 c.th a.dst (read64 c a.sa +
    (if (intTyOf 0x10 a).signed then (read32 c a.sb).signExtend 64 else (read32 c a.sb).zeroExtend 64) <<< modBits a.mod 3 0))

/-- R101: the conditions, over any values and bit patterns; the values that ICMP and PSET compare; a condition code above 7 faults
ILLEGAL_OP. -/
def Obligations.ComparisonConditions : Prop :=
  (∀ (x y : Int) (bx bz : Nat),
    (intCond 0 x y bx bz = true ↔ x = y) ∧ (intCond 1 x y bx bz = true ↔ x ≠ y) ∧ (intCond 2 x y bx bz = true ↔ x < y) ∧
    (intCond 3 x y bx bz = true ↔ x ≤ y) ∧ (intCond 4 x y bx bz = true ↔ x > y) ∧ (intCond 5 x y bx bz = true ↔ x ≥ y) ∧
    (intCond 6 x y bx bz = true ↔ bx &&& bz ≠ 0) ∧ (intCond 7 x y bx bz = true ↔ bx &&& bz = 0)) ∧
  (∀ (c : Ctx) (t : ElTy) (x : Sel), let y := readTy c t x % 2 ^ t.width
    intVal c t x = if t.signed = true ∧ 2 ^ (t.width - 1) ≤ y then (y : Int) - 2 ^ t.width else y) ∧
  (∀ (i : Args → Instr) (opc : Nat), (i = .icmp ∧ opc = 0x0E) ∨ (i = .pset ∧ opc = 0x28) →
    ∀ (s : State) (c : Ctx) (a : Args), ctxOf s = some c → (∀ p ∈ c.th.pending, p.rank ≠ 1) → 8 ≤ modBits a.mod 3 0 →
      exec (i a) s = .next (faulted c 0x01 0))

/-- R105 to R112: logic, truth tables, shifts, funnels, fields, counts, byte selection, mixing. -/
def Obligations.BitOperations : Prop :=
  RegOp 0 0x11 .andB (bitsResult 0x11 fun t c a x => x &&& readTy c t a.sb) ∧
  RegOp 0 0x12 .orB (bitsResult 0x12 fun t c a x => x ||| readTy c t a.sb) ∧
  RegOp 0 0x13 .xorB (bitsResult 0x13 fun t c a x => x ^^^ readTy c t a.sb) ∧
  RegOp 0 0x14 .andn (bitsResult 0x14 fun t c a x => x - (x &&& readTy c t a.sb)) ∧
  RegOp 0 0x15 .lut (fun c a =>
    let t : ElTy := if modBits a.mod 9 9 = 1 then .n64 else .b32
    writeInt c.th t a.dst (tableFn (modBits a.mod 7 0) t.width (readTy c t a.sa) (readTy c t a.sb) (readTy c t a.sc))) ∧
  RegOp 0 0x16 .shl (bitsResult 0x16 fun t c a x => shiftL t.width x (read32 c a.sb).toNat) ∧
  RegOp 0 0x17 .shr (bitsResult 0x17 fun t c a x => shiftR t.width x (read32 c a.sb).toNat) ∧
  RegOp 0 0x18 .sar (bitsResult 0x18 fun t c a x => shiftA t.width x (read32 c a.sb).toNat) ∧
  RegOp 0 0x19 .rotl (bitsResult 0x19 fun t c a x => rotL t.width x (read32 c a.sb).toNat) ∧
  RegOp 0 0x1A .funl (wordResult fun c a =>
    ((read32 c a.sa).toNat * 2 ^ 32 + (read32 c a.sb).toNat) * 2 ^ ((read32 c a.sc).toNat % 32) / 2 ^ 32 % 2 ^ 32) ∧
  RegOp 0 0x1B .funr (wordResult fun c a =>
    ((read32 c a.sa).toNat * 2 ^ 32 + (read32 c a.sb).toNat) / 2 ^ ((read32 c a.sc).toNat % 32) % 2 ^ 32) ∧
  RegOp 0 0x1C .mixh (wordResult fun c a => mixRounds (modBits a.mod 1 0 + 1) (read32 c a.sa).toNat (read32 c a.sb).toNat) ∧
  RegOp 0 0x20 .bext (bitsResult 0x20 fun t c a x => bitExtract t.signed t.width x (readTy c t a.sb)) ∧
  RegOp 0 0x21 .bins (bitsResult 0x21 fun t c a x => bitInsert t.width x (readTy c t a.sb) (readTy c t a.sc)) ∧
  RegOp 0 0x22 .brev (bitsResult 0x22 fun t _ _ x => bitReverse t.width x) ∧
  RegOp 0 0x23 .popc (wordResult fun c a => popCount (intTyOf 0x23 a).width (readTy c (intTyOf 0x23 a) a.sa)) ∧
  RegOp 0 0x24 .clz (wordResult fun c a => leadingZeros (intTyOf 0x24 a).width (readTy c (intTyOf 0x24 a) a.sa)) ∧
  RegOp 0 0x25 .ctz (wordResult fun c a => trailingZeros (intTyOf 0x25 a).width (readTy c (intTyOf 0x25 a) a.sa)) ∧
  RegOp 0 0x26 .bperm (wordResult fun c a => bytePerm (read32 c a.sa).toNat (read32 c a.sb).toNat (read32 c a.sc).toNat)

/-- R106 and R109 to R112: every bit of a truth-table result, of an extracted and an inserted field, of a reversal and of a byte selection; the counts
of an operand; the rounds of the mixing generator, with the rule's example. -/
def Obligations.BitFunctions : Prop :=
  (∀ tt w a b c i, i < w → (tableFn tt w a b c).testBit i =
    tt.testBit ((if a.testBit i then 4 else 0) + (if b.testBit i then 2 else 0) + (if c.testBit i then 1 else 0))) ∧
  (∀ w x i, i < w → (bitReverse w x).testBit i = x.testBit (w - 1 - i)) ∧
  (∀ w x, x < 2 ^ w → (leadingZeros w x = w ↔ x = 0) ∧ (trailingZeros w x = w ↔ x = 0) ∧
    (x ≠ 0 → 2 ^ (w - 1 - leadingZeros w x) ≤ x ∧ x < 2 ^ (w - leadingZeros w x) ∧ x.testBit (trailingZeros w x) = true ∧
      2 ^ trailingZeros w x ∣ x)) ∧
  (∀ w a b ctl i, a < 2 ^ w → i < w → (bitInsert w a b ctl).testBit i =
    if ctl % 256 ≤ i ∧ i < ctl % 256 + min (ctl / 256 % 256) w then b.testBit (i - ctl % 256) else a.testBit i) ∧
  (∀ signed w a ctl i, a < 2 ^ w → i < w →
    let pos := ctl % 256
    let len := min (ctl / 256 % 256) w
    (bitExtract signed w a ctl).testBit i =
      if len = 0 then false else if i < len then a.testBit (pos + i) else signed && a.testBit (pos + len - 1)) ∧
  (∀ w x, popCount w x = ((List.range w).filter fun i => x.testBit i).length) ∧
  (∀ a b c i j, i < 4 → j < 8 →
    let g := c / 2 ^ (4 * i) % 16
    (bytePerm a b c).testBit (8 * i + j) = (if g % 8 < 4 then a else b).testBit (8 * (g % 4) + if g < 8 then j else 7)) ∧
  (∀ n x b, x < 2 ^ 32 → b < 2 ^ 32 →
    let y := (x ^^^ b) * 0x9E3779B1 % 2 ^ 32
    mixRounds 0 x b = x ∧ mixRounds (n + 1) x b = mixRounds n (y ^^^ (y >>> 16)) b) ∧
  mixRounds 1 5 4 = 0x9E37E786

/-- R113, R106, R114: PSET, PLUT, P2V, V2P. -/
def Obligations.PredicateOperations : Prop :=
  RegOp 0 0x28 .pset (fun c a =>
    let t := intTyOf 0x28 a
    let x := intCond (modBits a.mod 3 0) (intVal c t a.sa) (intVal c t a.sb) (readTy c t a.sa) (readTy c t a.sb)
    let u := pred c.th (a.sc.toNum % 16) != (a.sc.toNum / 64 % 2 == 1)
    setPred c.th a.dst.toNum (match a.sc.toNum / 16 % 4 with
      | 0 => x
      | 1 => x && u
      | 2 => x || u
      | _ => x != u)) ∧
  RegOp 0 0x29 .plut (fun c a => setPred c.th a.dst.toNum
    (tableBit (modBits a.mod 7 0) (pred c.th a.sa.toNum) (pred c.th a.sb.toNum) (pred c.th a.sc.toNum))) ∧
  RegOp 0 0x2A .p2v (fun c a => write32 c.th a.dst (c.th.arch.p.zeroExtend 32 &&& read32 c a.sa)) ∧
  RegOp 0 0x2B .v2p (fun c a => { c.th with arch := { c.th.arch with
    p := (c.th.arch.p &&& ~~~((read32 c a.sb).truncate 16)) ||| ((read32 c a.sa).truncate 16 &&& (read32 c a.sb).truncate 16) } }) ∧
  (∀ (th : Thread) (j k : Nat) (b : Bool), j < 16 → k < 16 → pred (setPred th j b) k = if k = j then b else pred th k)

/-- R115, R116, R22: IXSET, LDIX and STIX, the bound check before the allocation check. -/
def Obligations.IndexedRegisters : Prop :=
  ThreadOp 0 0x2C .ixset (fun c a => (read32 c a.sa).toNat ≤ 255 ∧ (read32 c a.sb).toNat ≤ 256) (fun c a =>
    afterDone c a (withThread c c.s fun th => { th with arch := { th.arch with
      x := AMap.set th.arch.x a.dst.toNum { base := (read32 c a.sa).truncate 8, bound := (read32 c a.sb).truncate 9 } } })) ∧
  ThreadOp 0 0x2C .ixset (fun c a => 255 < (read32 c a.sa).toNat ∨ 256 < (read32 c a.sb).toNat)
    (fun c a => faulted c 0x06 ((read32 c a.sa).zeroExtend 64)) ∧
  ThreadOp 0 0x2D .ldix (fun c a => ∃ n, indexed c a.sa.toNum (read32 c a.sb) = .ok n ∧ AMap.find c.th.bad n = none) (fun c a =>
    afterDone c a (withThread c c.s fun th => write32 th a.dst
      (vReg th.arch ((AMap.get {} c.th.arch.x a.sa.toNum).base.toNat + (read32 c a.sb).toNat)))) ∧
  ThreadOp 0 0x2E .stix (fun c a => ∃ n, indexed c a.sa.toNum (read32 c a.sb) = .ok n) (fun c a =>
    afterDone c a (withThread c c.s fun th =>
      setReg th ((AMap.get {} c.th.arch.x a.sa.toNum).base.toNat + (read32 c a.sb).toNat) (read32 c a.sc))) ∧
  (∀ (c : Ctx) (j : Nat) (o : Word),
    let ix : Index := AMap.get {} c.th.arch.x j
    indexed c j o = if ix.bound.toNat ≤ o.toNat then .error (0x06, o.zeroExtend 64)
      else if 8 * c.team.lrec.regs8 ≤ ix.base.toNat + o.toNat then .error (0x05, BitVec.ofNat 64 (ix.base.toNat + o.toNat))
      else .ok (ix.base.toNat + o.toNat)) ∧
  (∀ (i : Args → Instr) (opc : Nat), (i = .ldix ∧ opc = 0x2D) ∨ (i = .stix ∧ opc = 0x2E) →
    ∀ (s : State) (c : Ctx) (a : Args) (code : BitVec 8) (d : DWord), ctxOf s = some c → ready c 0 opc a = true →
      indexed c a.sa.toNum (read32 c a.sb) = .error (code, d) → exec (i a) s = .next (faulted c code d))

/-- R18, R20, R117, R118: RGN and RGNW change no register; RGN with its window held sets WBASE and WVALID and has it staged, and with none waits
where it stands, WBASE and WVALID as before, until a grant passes it and sets them; a result that lands while the window is staged leaves its
slot clean. -/
def Obligations.Windows : Prop :=
  let staged (cycle : Nat) (base : BitVec 8) (th : Thread) : Thread :=
    { th with held := true, dirty := 0, wait := some .staging, waitFrom := cycle, arch := { th.arch with wbase := base, wvalid := true } }
  ThreadOp 0 0x30 .rgn (fun _ a => modBits a.mod 9 9 = 1) (fun c a =>
    afterDone c a (withThread c c.s fun th => { th with held := false, dirty := 0, arch := { th.arch with wvalid := false } })) ∧
  ThreadOp 0 0x30 .rgn (fun c a => modBits a.mod 9 9 ≠ 1 ∧ c.th.held = true) (fun c a =>
    afterJump c a (withThread c c.s fun th => staged c.s.cycle (BitVec.ofNat 8 (8 * modBits a.mod 4 0)) (passOp th (8 * a.words) a.live))) ∧
  ThreadOp 0 0x30 .rgn (fun c a => modBits a.mod 9 9 ≠ 1 ∧ c.th.held = false)
    (fun c a => waiting c a (.region (BitVec.ofNat 8 (8 * modBits a.mod 4 0)) (8 * a.words))) ∧
  RegOp 0 0x31 .rgnw (fun c _ => if c.th.arch.wvalid then { c.th with dirty := 0 } else c.th) ∧
  (∀ (s : State) (k tid : Nat) (t : Team) (th : Thread), s.team? k = some t → s.thread? k tid = some th →
    (∀ base len, th.wait = some (.region base len) → windowFree s t th = true →
      ∃ u, exec (.windowGrant (.thread k tid)) s = .next u ∧ u.thread? k tid = some (staged s.cycle base (passOp th len th.after))) ∧
    (th.wait = none → th.arch.wvalid = true → th.held = false → th.yielded = none → windowFree s t th = true →
      ∃ u, exec (.windowGrant (.thread k tid)) s = .next u ∧ u.thread? k tid = some (staged s.cycle th.arch.wbase th)) ∧
    (∀ j w, th.wait = some .staging → (setReg th j w).dirty = th.dirty) ∧
    (th.wait = some .staging →
      ∃ u, exec (.windowStaged (.thread k tid)) s = .next u ∧ u.thread? k tid = some { th with wait := none, held := true }) ∧
    (losesWindow s th = true →
      ∃ u, exec (.windowLoss (.thread k tid)) s = .next u ∧ u.thread? k tid = some { th with held := false, dirty := 0 }))

/-! ## Control transfers, loops, waits -/

/-- R120: the five transfers; the return address is that of the word after the instruction (the next header, or the next guest
instruction); a misaligned address operand of BRX, CALLX or RET faults ALIGN natively; a transfer changes no register but its
destination. -/
def Obligations.ControlTransfers : Prop :=
  ThreadOp 0 0x40 .bra (fun _ _ => True) (fun c a =>
    afterJump c a (withThread c c.s fun th => goTo th (c.th.arch.pc + a.aux.getD 0) a.live)) ∧
  ThreadOp 0 0x42 .call (fun _ _ => True) (fun c a =>
    afterJump c a (withThread c c.s fun th => goTo (write64 th a.dst (returnAddr c.th a)) (c.th.arch.pc + a.aux.getD 0) a.live)) ∧
  ThreadOp 0 0x41 .brx (fun c a => c.th.expansion.isSome ∨ (read64 c a.sa).toNat % 8 = 0) (fun c a =>
    afterJump c a (withThread c c.s fun th => goTo th (read64 c a.sa) a.live)) ∧
  ThreadOp 0 0x43 .callx (fun c a => c.th.expansion.isSome ∨ (read64 c a.sa).toNat % 8 = 0) (fun c a =>
    afterJump c a (withThread c c.s fun th => goTo (write64 th a.dst (returnAddr c.th a)) (read64 c a.sa) a.live)) ∧
  ThreadOp 0 0x44 .ret (fun c a => c.th.expansion.isSome ∨ (read64 c a.sa).toNat % 8 = 0) (fun c a =>
    afterJump c a (withThread c c.s fun th => goTo th (read64 c a.sa) a.live)) ∧
  (∀ (i : Args → Instr) (opc : Nat), (i = .brx ∧ opc = 0x41) ∨ (i = .callx ∧ opc = 0x43) ∨ (i = .ret ∧ opc = 0x44) →
    ThreadOp 0 opc i (fun c a => c.th.expansion = none ∧ (read64 c a.sa).toNat % 8 ≠ 0) (fun c a => faulted c 0x08 (read64 c a.sa))) ∧
  (∀ (th : Thread) (a : Args), th.expansion = none → returnAddr th a = th.arch.pc + BitVec.ofNat 64 (8 * a.words)) ∧
  (∀ (th : Thread) (x : DWord) (l : Option LiveRec),
    (goTo th x l).arch = { th.arch with pc := x, clause := { th.arch.clause with due := true, loose := false } } ∧
    (goTo th x l).cr = th.cr ∧ (goTo th x l).f = th.f ∧ (goTo th x l).out = th.out)

/-- R122, R123, R295: LOOP and LEND; a LOOP of count 0 goes to its target, in a template to the next guest instruction. -/
def Obligations.CountedLoops : Prop :=
  ThreadOp 0 0x45 .loopL (fun c a => read32 c a.sa ≠ 0) (fun c a =>
    afterDone c a (withThread c c.s fun th => setLoop th a.dst.toNum
      { count := read32 c a.sa, start := returnAddr c.th a, stop := c.th.arch.pc + a.aux.getD 0 })) ∧
  ThreadOp 0 0x45 .loopL (fun c a => read32 c a.sa = 0 ∧ c.th.expansion.isSome = true) (fun c a =>
    afterDone c a (withThread c c.s fun th => setLoop th a.dst.toNum
      { count := 0, start := returnAddr c.th a, stop := c.th.arch.pc + a.aux.getD 0 })) ∧
  ThreadOp 0 0x45 .loopL (fun c a => read32 c a.sa = 0 ∧ c.th.expansion.isSome = false) (fun c a =>
    afterJump c a (withThread c c.s fun th => goTo (setLoop th a.dst.toNum
      { count := 0, start := returnAddr c.th a, stop := c.th.arch.pc + a.aux.getD 0 }) (c.th.arch.pc + a.aux.getD 0) a.live)) ∧
  ThreadOp 0 0x46 .lend (fun c a => (getLoop c.th a.dst.toNum).count.toNat ≤ 1) (fun c a =>
    afterDone c a (withThread c c.s fun th => setLoop th a.dst.toNum { getLoop c.th a.dst.toNum with count := 0 })) ∧
  ThreadOp 0 0x46 .lend (fun c a => 1 < (getLoop c.th a.dst.toNum).count.toNat) (fun c a =>
    afterJump c a (withThread c c.s fun th => goTo (setLoop th a.dst.toNum
      { getLoop c.th a.dst.toNum with count := (getLoop c.th a.dst.toNum).count - 1 }) (getLoop c.th a.dst.toNum).start a.live))

/-- R32, R36, R126, R127: REP issues: its operands are read, a fresh one takes count and address, it counts on flag set B, or waits for room
there. Each element is then stored in order; the last one ends the count; a fault at an element keeps rc and the next address and ends the count. -/
def Obligations.StringOperation : Prop :=
  let value (c : Ctx) (a : Args) : DWord :=
    if modBits a.mod 3 0 = 1 ∨ repSize a = 8 then read64 c a.sa else (read32 c a.sa).zeroExtend 64
  let issues (c : Ctx) (a : Args) (rc : Word) (at' : DWord) (th : Thread) : Thread :=
    { th with rep := some { op := .rep a, a := value c a, d := read64 c a.dst }, safe := if c.th.expansion.isNone then a.live else none,
              arch := { th.arch with rc := rc, rnext := at' } }
  let counted (th : Thread) : Thread := { incFlag (decFlag th th.repFlag) (flagB th) with repFlag := flagB th }
  let ended (th : Thread) : Thread := { decFlag th th.repFlag with repFlag := none }
  let next (a : Args) (th : Thread) : Thread :=
    { th with arch := { th.arch with rc := th.arch.rc - 1, rnext := th.arch.rnext + BitVec.ofNat 64 (repSize a) } }
  let stored (c : Ctx) (a : Args) (m : Loc) (bs : List Byte) (s : State) : State :=
    landStore (noteAccess s c.team c.th.arch.rnext m) c.team (.thread c.key c.tid)
      { op := .store bs, loc := m, size := repSize a, va := c.th.arch.rnext, flag := none, port := locPort m, no := c.team.nextCopy } bs false
  let after (c : Ctx) (a : Args) (s : State) : State :=
    if c.th.arch.rc = 1 then afterDone c a (withThread c s fun th => next a (ended th)) else afterJump c a (withThread c s (next a))
  let free (c : Ctx) (a : Args) (m : Loc) : Prop :=
    copyHazard c.team c.tid m (repSize a) true = none ∧ ownerOf c.s (.thread c.key c.tid) m = none
  let idle (c : Ctx) : Prop := c.th.rep = none
  ThreadOp 0 0x47 .rep (fun c a => idle c ∧ c.th.arch.rc = 0 ∧ read32 c a.sb = 0) (fun c a =>
    afterDone c a (withThread c c.s fun th => { th with arch := { th.arch with rnext := read64 c a.dst } })) ∧
  ThreadOp 0 0x47 .rep (fun c a => idle c ∧ c.th.arch.rc = 0 ∧ read32 c a.sb ≠ 0 ∧ flagFull c.th (flagB c.th) = false) (fun c a =>
    afterJump c a (withThread c c.s fun th => issues c a (read32 c a.sb) (read64 c a.dst) (counted th))) ∧
  ThreadOp 0 0x47 .rep (fun c _ => idle c ∧ c.th.arch.rc ≠ 0 ∧ c.th.repFlag ≠ none) (fun c a =>
    afterJump c a (withThread c c.s (issues c a c.th.arch.rc c.th.arch.rnext))) ∧
  ThreadOp 0 0x47 .rep (fun c _ => idle c ∧ c.th.arch.rc ≠ 0 ∧ c.th.repFlag = none ∧ flagFull c.th (flagB c.th) = false) (fun c a =>
    afterJump c a (withThread c c.s fun th => issues c a c.th.arch.rc c.th.arch.rnext (counted th))) ∧
  ThreadOp 0 0x47 .rep (fun c a => idle c ∧ flagFull c.th (flagB c.th) = true ∧
      ((c.th.arch.rc = 0 ∧ read32 c a.sb ≠ 0) ∨ (c.th.arch.rc ≠ 0 ∧ c.th.repFlag = none))) (fun c a =>
    afterJump c a (withThread c c.s fun th => roomWait th c.s.cycle (flagB th))) ∧
  (∀ (s : State) (c : Ctx) (a : Args) (r : Rep) (m : Loc), ctxOf s = some c → ready c 0 0x47 a = true → c.th.rep = some r →
    modBits a.mod 3 0 ≠ 1 → c.th.arch.rnext.toNat % repSize a = 0 →
    resolve s c.team c.th.arch.mode c.th.arch.rnext (repSize a) ⟨false, true⟩ = .ok m → free c a m →
    exec (.rep a) s = .next (after c a (stored c a m (leBytes (repSize a) r.a.toNat) s))) ∧
  (∀ (s : State) (c : Ctx) (a : Args) (r : Rep) (l m : Loc), ctxOf s = some c → ready c 0 0x47 a = true → c.th.rep = some r →
    modBits a.mod 3 0 = 1 → c.th.arch.rnext.toNat % repSize a = 0 →
    let src := r.a + (c.th.arch.rnext - r.d)
    src.toNat % repSize a = 0 → resolve s c.team c.th.arch.mode src (repSize a) ⟨true, false⟩ = .ok l →
    resolve s c.team c.th.arch.mode c.th.arch.rnext (repSize a) ⟨false, true⟩ = .ok m →
    let x := load s c.team.core l (repSize a)
    x.2.2 = false → copyHazard c.team c.tid l (repSize a) false = none → free c a m →
    exec (.rep a) s = .next (after c a (stored c a m x.2.1 (noteAccess x.1 c.team src l)))) ∧
  ThreadOp 0 0x47 .rep (fun c a => c.th.rep ≠ none ∧ c.th.arch.rnext.toNat % repSize a ≠ 0) (fun c a =>
    afterJump c a (faultThread (withThread c c.s ended) c.key c.tid 0x08 c.th.arch.rnext))

/-- R129 to R132, R219: EXIT, YIELD, NAP, WAITF, SETF, and the events that end these waits; a NAP whose wait an interruption has kept stands by its
deadline. That a kept wait belongs to the instruction at its address is the model's reading of R219 (log 22). -/
def Obligations.WaitsAndExit : Prop :=
  ThreadOp 0 0x48 .exitT (fun _ _ => True) (fun c a => waiting c a .exit) ∧
  RegOp 0 0x49 .yield (fun c _ => { c.th with yielded := some (c.s.cycle + 16), held := false, dirty := 0 }) ∧
  ThreadOp 0 0x4A .nap (fun c a => keptHere c.th = none ∧ read32 c a.sa = 0) (fun c a => afterDone c a c.s) ∧
  ThreadOp 0 0x4A .nap (fun c a => keptHere c.th = none ∧ read32 c a.sa ≠ 0)
    (fun c a => waiting c a (.nap (c.s.growth + (read32 c a.sa).zeroExtend 64) (opLen c.th a))) ∧
  (∀ g len, ThreadOp 0 0x4A .nap (fun c _ => (keptHere c.th).map Kept.wait = some (.nap g len) ∧ g.toNat ≤ c.s.growth.toNat)
    (fun c a => afterDone c a (withThread c c.s dropKept))) ∧
  (∀ g len, ThreadOp 0 0x4A .nap (fun c _ => (keptHere c.th).map Kept.wait = some (.nap g len) ∧ c.s.growth.toNat < g.toNat)
    (fun c a => afterJump c a (withThread c c.s fun th => { dropKept th with wait := some (.nap g len), waitFrom := c.s.cycle }))) ∧
  (∀ th : Thread, (∀ kp, keptHere th = some kp → kp ∈ th.kept ∧ kp.pc = th.arch.pc) ∧ keptHere (dropKept th) = none ∧
    (∀ kp, kp.pc ≠ th.arch.pc → (kp ∈ (dropKept th).kept ↔ kp ∈ th.kept)) ∧ dropKept th = { th with kept := (dropKept th).kept }) ∧
  ThreadOp 0 0x4C .waitf (fun c a => flagCount c.th (BitVec.ofNat 4 a.sa.toNum) ≤ flagLimit a) (fun c a => afterDone c a c.s) ∧
  ThreadOp 0 0x4C .waitf (fun c a => flagLimit a < flagCount c.th (BitVec.ofNat 4 a.sa.toNum))
    (fun c a => waiting c a (.flag (BitVec.ofNat 4 a.sa.toNum) (flagLimit a) (opLen c.th a))) ∧
  RegOp 0 0x4D .setf (fun c a => setPred c.th a.dst.toNum (decide (flagCount c.th (BitVec.ofNat 4 a.sa.toNum) ≤ flagLimit a))) ∧
  (∀ (s : State) (k tid : Nat) (t : Team) (th : Thread), s.team? k = some t → s.thread? k tid = some th →
    (∀ g len, th.wait = some (.nap g len) → g.toNat ≤ s.growth.toNat →
      ∃ u, exec (.napDeadline (.thread k tid)) s = .next u ∧ u.thread? k tid = some (passOp th len th.after)) ∧
    (∀ g len, th.wait = some (.nap g len) → s.growth.toNat < g.toNat →
      ∃ u, exec (.napDeadline (.thread k tid)) s = .next u ∧ u.thread? k tid = some th) ∧
    (∀ x, th.yielded = some x → x ≤ s.cycle →
      ∃ u, exec (.yieldExpiry (.thread k tid)) s = .next u ∧ u.thread? k tid = some { th with yielded := none }) ∧
    (th.wait = some .exit → th.out = [] → topPending th = none → (th.arch.mode && isLive th) = false →
      ∃ u, exec (.exitDrainComplete (.thread k tid)) s = .next u ∧ u = removeThread s k tid ∧ u.thread? k tid = none))

/-- R133, R311, R312: SPAWN puts its request, stamped with its issue and its slot, into the bin of its entry address and goes on, or waits at
issue, and takes a bin that is free as it stands; a bin whose timer has run is flushed, or whose team waits: the order of a team's bins there, and of
bins taken in one cycle, is the model's (log 68). -/
def Obligations.SpawnAndBins : Prop :=
  (∀ (s s1 : State) (c : Ctx) (a : Args) (placed : Bool), ctxOf s = some c → ready c 0 0x4B a = true →
    let entry := c.th.arch.pc + a.aux.getD 0
    let r : Request := (c.th.spawn.map SpawnWait.req).getD
      { a := read32 c a.sa, b := read32 c a.sb, by' := BitVec.ofNat 32 c.tid, cycle := s.cycle, slot := c.th.slot }
    placeRequest s c.key entry c.th.arch.pix r c.th.spawn.isSome = (s1, placed) →
    exec (.spawn a) s = .next (if placed then afterDone c a s1
      else afterStay c a (withThread c s1 fun th =>
        { th with spawn := if (ownBin c.team entry c.th.arch.pix).isSome then none else some { req := r, entry := entry, len := 8 * a.words } }))) ∧
  (∀ (s : State) (k : Nat) (t : Team) (b : Bin) (pix : BitVec 3) (e : DWord) (r : Request) (again : Bool), s.team? k = some t →
    t.bins = [b] → b.entry = e → b.pix = pix → b.reqs.length < 31 →
    placeRequest s k e pix r again = (s.setTeam k { t with bins := [{ b with reqs := addRequest b.reqs r }] }, true)) ∧
  (∀ (s : State) (core k tid : Nat) (t : Team) (th : Thread) (w : SpawnWait), s.team? k = some t → s.thread? k tid = some th → th.expansion = none →
    ownBin t w.entry th.arch.pix = none →
    ((binsOn s core).length < 16 → ∃ u t1, grantSpawn s core (k, tid, w) = u ∧ u.team? k = some t1 ∧ u.mem = s.mem ∧
      t1.bins = t.bins ++ [{ entry := w.entry, pix := th.arch.pix, reqs := [w.req], since := s.cycle }] ∧
      u.thread? k tid = some (passNative th w.len th.after)) ∧
    (16 ≤ (binsOn s core).length → grantSpawn s core (k, tid, w) = s)) ∧
  (∀ (rs : List Request) (r : Request), (∀ x ∈ rs, ¬(x.cycle = r.cycle ∧ r.slot < x.slot)) → addRequest rs r = rs ++ [r]) ∧
  (∀ (rs : List Request) (x r : Request), x.cycle = r.cycle → r.slot < x.slot → addRequest (x :: rs) r = r :: x :: rs) ∧
  (∀ (s : State) (core j k : Nat) (b : Bin), (binsOn s core)[j]? = some (k, b) → binDue s (k, b) = true →
    exec (.spawnTimerExpiry core j) s = .next (flushBin s k b)) ∧
  (∀ (s : State) (k : Nat) (t : Team), s.team? k = some t → t.resident = true → allWaiting s k t = true →
    exec (.spawnTeamWaiting k) s = .next (t.bins.foldl (fun s b => flushBin s k b) s)) ∧
  (∀ (s u : State) (k tid : Nat) (t : Team) (e : DWord) (pix : BitVec 3) (r : Request), s.team? k = some t → freeTid t = some tid →
    spawnThread s k e pix r = some u →
      ∃ th, u.thread? k tid = some th ∧ th.arch.pc = e ∧ th.arch.pix = pix ∧ th.arch.mode = false ∧ vReg th.arch 0 = r.a ∧
        vReg th.arch 1 = r.b ∧ vReg th.arch 2 = r.by' ∧ ∀ j, 3 ≤ j → vReg th.arch j = 0)

/-- R134, R135, R298: PXCALL, PXRET and EMRET, and their faults; the boundary after the transfer has its live record, under a guest
personality too (R428), where a save is a forced one (R301). -/
def Obligations.PersonalityTransfers : Prop :=
  let enter (a : Args) (th : Thread) (x : DWord) (p : Nat) : Thread :=
    let th1 := goTo th x a.live
    { th1 with arch := { th1.arch with pix := BitVec.ofNat 3 p } }
  let bound (c : Ctx) (p : Nat) : Bool := isBound (c.s.vd c.team.vd) p
  ThreadOp 0 0x4E .pxcall (fun c a => bound c (read32 c a.sb).toNat = true) (fun c a =>
    afterJump c a (withThread c c.s fun th =>
      enter a (write64 th a.dst (returnAddr c.th a ||| (c.th.arch.pix.zeroExtend 64 <<< 61))) (read64 c a.sa) (read32 c a.sb).toNat)) ∧
  ThreadOp 0 0x4E .pxcall (fun c a => bound c (read32 c a.sb).toNat = false) (fun c _ => faulted c 0x01 0) ∧
  ThreadOp 0 0x4F .pxret
    (fun c a => (read64 c a.sa).toNat / 2 ^ 52 % 2 ^ 9 = 0 ∧ bound c ((read64 c a.sa).toNat / 2 ^ 61) = true) (fun c a =>
    afterJump c a (withThread c c.s fun th =>
      enter a th (BitVec.ofNat 64 ((read64 c a.sa).toNat % 2 ^ 52)) ((read64 c a.sa).toNat / 2 ^ 61))) ∧
  ThreadOp 0 0x4F .pxret (fun c a => (read64 c a.sa).toNat / 2 ^ 52 % 2 ^ 9 ≠ 0) (fun c a => faulted c 0x0D (read64 c a.sa)) ∧
  ThreadOp 0 0x4F .pxret (fun c a => (read64 c a.sa).toNat / 2 ^ 52 % 2 ^ 9 = 0 ∧ bound c ((read64 c a.sa).toNat / 2 ^ 61) = false)
    (fun c _ => faulted c 0x01 0) ∧
  ThreadOp 1 0xE4 .emret (fun c _ => c.th.arch.epc.toNat / 2 ^ 52 % 2 ^ 9 = 0 ∧ bound c (c.th.arch.epc.toNat / 2 ^ 61) = true) (fun c a =>
    let base := c.th.arch.epc.toNat % 2 ^ 52
    afterJump c a (withThread c c.s fun th => enter a th
      (BitVec.ofNat 64 (if modBits a.mod 0 0 = 1 then base else (base + c.th.arch.elen.toNat) % 2 ^ 52)) (c.th.arch.epc.toNat / 2 ^ 61))) ∧
  ThreadOp 1 0xE4 .emret (fun c _ => c.th.arch.epc.toNat / 2 ^ 52 % 2 ^ 9 ≠ 0) (fun c _ => faulted c 0x0D c.th.arch.epc) ∧
  ThreadOp 1 0xE4 .emret (fun c _ => c.th.arch.epc.toNat / 2 ^ 52 % 2 ^ 9 = 0 ∧ bound c (c.th.arch.epc.toNat / 2 ^ 61) = false)
    (fun c _ => faulted c 0x01 0) ∧
  ∀ (v : VDev) (p : Nat), 8 ≤ p → isBound v p = false

/-! ## Floating point, packed elements, conversions -/

/-- R142 to R145, R149, R151, R152: the arithmetic operations of f32 and of packed elements; values of theirs in each rounding mode, computed from the
rules by hand, the rows of R151 for FRCP, FRSQ, FSQRT and FDIV, and the zeros of FMIN and FMAX. -/
def Obligations.FloatArithmetic : Prop :=
  RegOp 0 0x80 .fadd (floatResult fun a x y _ => opAdd .f32 (fRnd a) x y) ∧
  RegOp 0 0x81 .fsub (floatResult fun a x y _ => opSub .f32 (fRnd a) x y) ∧
  RegOp 0 0x82 .fmul (floatResult fun a x y _ => opMul .f32 (fRnd a) x y) ∧
  RegOp 0 0x83 .ffma (floatResult fun a x y z => opFma .f32 (fRnd a) x y z) ∧
  RegOp 0 0x84 .fmin (floatResult fun a x y _ => opMinMax .f32 false (fSub a == 1) x y) ∧
  RegOp 0 0x85 .fmax (floatResult fun a x y _ => opMinMax .f32 true (fSub a == 1) x y) ∧
  RegOp 0 0x89 .frnd (floatResult fun a x _ _ => opRound (fRnd a).mode x) ∧
  RegOp 0 0x8A .fscale (fun c a => giveF c.th a.dst (opScale (fRnd a) (fIn c a a.sa) (read32 c a.sb).toInt)) ∧
  RegOp 0 0x90 .frcp (floatResult fun a x _ _ => opRcp (fRnd a) x) ∧
  RegOp 0 0x91 .frsq (floatResult fun a x _ _ => opRsqrt (fRnd a) x) ∧
  RegOp 0 0x92 .fsqrt (floatResult fun a x _ _ => opSqrt (fRnd a) x) ∧
  RegOp 0 0x93 .fdiv (floatResult fun a x y _ => opDiv (fRnd a) x y) ∧
  RegOp 0 0xA0 .pkadd (packedResult fun a x y _ => opAdd (pkTy a) (pkRnd a) x y) ∧
  RegOp 0 0xA1 .pkmul (packedResult fun a x y _ => opMul (pkTy a) (pkRnd a) x y) ∧
  RegOp 0 0xA2 .pkfma (packedResult fun a x y z => opFma (pkTy a) (pkRnd a) x y z) ∧
  RegOp 0 0xA3 .pkmin (packedResult fun a x y _ => opMinMax (pkTy a) false (fSub a == 1) x y) ∧
  RegOp 0 0xA4 .pkmax (packedResult fun a x y _ => opMinMax (pkTy a) true (fSub a == 1) x y) ∧
  (let in' (f : Rnd → FR) (rn rz rm rp : Nat) (flags : BitVec 5) : Prop :=
     f { mode := 0 } = { bits := rn, flags := flags } ∧ f { mode := 1 } = { bits := rz, flags := flags } ∧
     f { mode := 2 } = { bits := rm, flags := flags } ∧ f { mode := 3 } = { bits := rp, flags := flags }
   in' (fun r => opAdd .f32 r 0x3F800000 0x33800000) 0x3F800000 0x3F800000 0x3F800000 0x3F800001 fNX ∧
   in' (fun r => opSub .f32 r 0x3F800000 0x33000000) 0x3F800000 0x3F7FFFFF 0x3F7FFFFF 0x3F800000 fNX ∧
   in' (fun r => opAdd .f32 r 0x3FC00000 0x40200000) 0x40800000 0x40800000 0x40800000 0x40800000 0 ∧
   in' (fun r => opMul .f32 r 0x3F8CCCCD 0x3F8CCCCD) 0x3F9AE148 0x3F9AE148 0x3F9AE148 0x3F9AE149 fNX ∧
   in' (fun r => opMul .f32 r 1 0x3F000000) 0 0 0 1 (fUF ||| fNX) ∧
   in' (fun r => opDiv r 0x3F800000 0x40400000) 0x3EAAAAAB 0x3EAAAAAA 0x3EAAAAAA 0x3EAAAAAB fNX ∧
   in' (fun r => opDiv r 0xC0000000 0x40400000) 0xBF2AAAAB 0xBF2AAAAA 0xBF2AAAAB 0xBF2AAAAA fNX ∧
   in' (fun r => opRcp r 0x40400000) 0x3EAAAAAB 0x3EAAAAAA 0x3EAAAAAA 0x3EAAAAAB fNX ∧
   in' (fun r => opSqrt r 0x40000000) 0x3FB504F3 0x3FB504F3 0x3FB504F3 0x3FB504F4 fNX ∧
   in' (fun r => opSqrt r 0x40800000) 0x40000000 0x40000000 0x40000000 0x40000000 0 ∧
   in' (fun r => opRsqrt r 0x40000000) 0x3F3504F3 0x3F3504F3 0x3F3504F3 0x3F3504F4 fNX ∧
   in' (fun r => opScale r 0x3FC00000 10) 0x44C00000 0x44C00000 0x44C00000 0x44C00000 0 ∧
   in' (fun r => opScale r 0x3F800000 (-150)) 0 0 0 1 (fUF ||| fNX) ∧
   in' (fun r => opRound r.mode 0x40200000) 0x40000000 0x40000000 0x40000000 0x40400000 0 ∧
   in' (fun r => opRound r.mode 0xBF400000) 0xBF800000 0x80000000 0xBF800000 0x80000000 0 ∧
   in' (fun r => opAdd .f16 r 0x3C00 0x1000) 0x3C00 0x3C00 0x3C00 0x3C01 fNX ∧
   in' (fun r => opMul .bf16 r 0x3F81 0x3F81) 0x3F82 0x3F82 0x3F82 0x3F83 fNX) ∧
  (∀ r (n : Bool), let z : Nat := if n then 0x80000000 else 0
    let inf : Nat := z + 0x7F800000
    opRcp r z = { bits := inf, flags := fDZ } ∧ opRcp r inf = { bits := z } ∧ opRsqrt r z = { bits := inf, flags := fDZ } ∧
    opRsqrt r 0x7F800000 = { bits := 0 } ∧ opSqrt r z = { bits := z } ∧ opSqrt r 0x7F800000 = { bits := 0x7F800000 } ∧
    opDiv r z 0 = { bits := 0x7FC00000, flags := fNV } ∧ opDiv r inf 0x7F800000 = { bits := 0x7FC00000, flags := fNV } ∧
    opMinMax .f32 false n 0 0x80000000 = { bits := 0x80000000 } ∧ opMinMax .f32 true n 0x80000000 0 = { bits := 0 }) ∧
  (∀ r (x : Nat) (m : Nat) (e : Int), (decodeF .f32 x = .inf true ∨ decodeF .f32 x = .fin true m e) →
    opRsqrt r x = { bits := 0x7FC00000, flags := fNV } ∧ opSqrt r x = { bits := 0x7FC00000, flags := fNV }) ∧
  (∀ r (x y : Nat) (n k : Bool) (m : Nat) (e : Int), decodeF .f32 x = .fin n m e →
    (decodeF .f32 y = .zero k → opDiv r x y = { bits := infBits .f32 (n != k), flags := fDZ }) ∧
    (decodeF .f32 y = .inf k → opDiv r x y = { bits := signBit .f32 (n != k) }))

/-- R142: the example table of FFMA, in its order: +0, −0 under .rm, a flushed input, overflow under .rz and .rn, 0 × ∞ + NaN. -/
def Obligations.FusedMultiplyAddTable : Prop :=
  opFma .f32 { mode := 1 } 0x3F800000 0x3F800000 0xBF800000 = { bits := 0 } ∧
  opFma .f32 { mode := 2 } 0x3F800000 0x3F800000 0xBF800000 = { bits := 0x80000000 } ∧
  opFma .f32 { mode := 1, ftz := true } (flushIn true 1) 0x40000000 0 = { bits := 0 } ∧
  (opFma .f32 { mode := 1 } 0x71800000 0x71800000 0).bits = 0x7F7FFFFF ∧ (opFma .f32 { mode := 1 } 0x71800000 0x71800000 0).flags = fOF ||| fNX ∧
  (opFma .f32 {} 0x71800000 0x71800000 0).bits = 0x7F800000 ∧ (opFma .f32 {} 0x71800000 0x71800000 0).flags = fOF ||| fNX ∧
  ∀ mode, (opFma .f32 { mode := mode } 0 0x7F800000 0x7FC00000).bits = 0x7FC00000 ∧
    (opFma .f32 { mode := mode } 0 0x7F800000 0x7FC00000).flags = fNV

/-- R150, R151: the six approximate operations: of a finite operand without a row in R151, the result raises NX, and UF below 2^−126, where FTZ flushes
it; its value keeps the bound of R150 (log 8: the model's open value where that does, else the nearest to the exact one, which keeps it wherever the
exact magnitude does not round past the largest f32); the rows of R151. The exact
value of FTANH 101 lies below 1, and that of FEXP2 0.5 beside 0x3FB504F3. -/
def Obligations.FloatApproximations : Prop :=
  RegOp 0 0x94 .fexp2 (floatResult fun a x _ _ => opTrans 0 (fFtz a) x) ∧
  RegOp 0 0x95 .flog2 (floatResult fun a x _ _ => opTrans 1 (fFtz a) x) ∧
  RegOp 0 0x96 .fsin (floatResult fun a x _ _ => opTrans 2 (fFtz a) x) ∧
  RegOp 0 0x97 .fcos (floatResult fun a x _ _ => opTrans 3 (fFtz a) x) ∧
  RegOp 0 0x98 .ftanh (floatResult fun a x _ _ => opTrans 4 (fFtz a) x) ∧
  RegOp 0 0x99 .fsigm (floatResult fun a x _ _ => opTrans 5 (fFtz a) x) ∧
  (∀ (op : Nat) (ftz : Bool) (x : Nat) (neg : Bool) (m : Nat) (e : Int), decodeF .f32 x = .fin neg m e → op < 6 →
    (op = 0 → (neg = false → (roundInt 1 neg m e).1 < 128) ∧ ((roundInt 1 neg m e).2 = true ∨ (roundInt 1 neg m e).1 < -149)) →
    (op = 1 → neg = false ∧ powerOf m e = none) →
    ∃ b, (withinBound op neg m e b = true ∨ b = nearestFix op neg m e) ∧
      opTrans op ftz x = (if b / 2 ^ 23 % 256 = 0 then { bits := if ftz then b / 2 ^ 31 * 2 ^ 31 else b, flags := fUF ||| fNX }
        else { bits := b, flags := fNX })) ∧
  (∀ (op : Nat) (neg : Bool) (m : Nat) (e : Int) (b : Nat), withinBound op neg m e b = true → ∃ v, valueFix b = some v ∧
    ((|exactFix op neg m e - v| : Int) ≤ boundFix op (exactMag op neg m e) + fixSlack op (exactFix op neg m e))) ∧
  (∀ (op : Nat) (neg : Bool) (m : Nat) (e : Int), exactMag op neg m e < 2 ^ 640 - 2 ^ 615 → withinBound op neg m e (nearestFix op neg m e) = true) ∧
  (withinBound 4 false 0xCA0000 (-17) 0x3F800000 = true ∧ withinBound 4 false 0xCA0000 (-17) 0x3F7FFFFE = true ∧
    withinBound 4 false 0xCA0000 (-17) 0x3F800001 = false ∧ withinBound 4 false 0xCA0000 (-17) 0x3F7FFFFD = false ∧
    withinBound 0 false 1 (-1) 0x3FB504F5 = true ∧ withinBound 0 false 1 (-1) 0x3FB504F6 = false ∧
    withinBound 0 false 1 (-1) 0x3FB504F2 = true ∧ withinBound 0 false 1 (-1) 0x3FB504F1 = false) ∧
  (∀ ftz, let one : FR := { bits := 0x3F800000 }
    let nan : FR := { bits := 0x7FC00000, flags := fNV }
    opTrans 0 ftz 0 = one ∧ opTrans 0 ftz 0x80000000 = one ∧ opTrans 0 ftz 0xFF800000 = { bits := 0 } ∧
    opTrans 0 ftz 0x7F800000 = { bits := 0x7F800000 } ∧ opTrans 1 ftz 0 = { bits := 0xFF800000, flags := fDZ } ∧
    opTrans 1 ftz 0x80000000 = { bits := 0xFF800000, flags := fDZ } ∧ opTrans 1 ftz 0x7F800000 = { bits := 0x7F800000 } ∧
    opTrans 1 ftz 0xFF800000 = nan ∧ opTrans 2 ftz 0 = { bits := 0 } ∧ opTrans 2 ftz 0x80000000 = { bits := 0x80000000 } ∧
    opTrans 4 ftz 0 = { bits := 0 } ∧ opTrans 4 ftz 0x80000000 = { bits := 0x80000000 } ∧ opTrans 3 ftz 0 = one ∧ opTrans 3 ftz 0x80000000 = one ∧
    opTrans 2 ftz 0x7F800000 = nan ∧ opTrans 2 ftz 0xFF800000 = nan ∧ opTrans 3 ftz 0x7F800000 = nan ∧ opTrans 3 ftz 0xFF800000 = nan ∧
    opTrans 4 ftz 0x7F800000 = one ∧ opTrans 4 ftz 0xFF800000 = { bits := 0xBF800000 } ∧ opTrans 5 ftz 0xFF800000 = { bits := 0 } ∧
    opTrans 5 ftz 0 = { bits := 0x3F000000 } ∧ opTrans 5 ftz 0x80000000 = { bits := 0x3F000000 } ∧ opTrans 5 ftz 0x7F800000 = one) ∧
  (∀ (ftz : Bool) (x m : Nat) (e : Int),
    (decodeF .f32 x = .fin true m e → opTrans 1 ftz x = { bits := 0x7FC00000, flags := fNV }) ∧
    (∀ n, decodeF .f32 x = .fin false m e → powerOf m e = some n → opTrans 1 ftz x = { bits := intF32 n }) ∧
    (decodeF .f32 x = .fin false m e → 128 ≤ (roundInt 1 false m e).1 → opTrans 0 ftz x = { bits := 0x7F800000, flags := fOF ||| fNX })) ∧
  (∀ n : Nat, n < 128 → opTrans 0 false (intF32 (n : Int)) = { bits := if n = 0 then 0x3F800000 else (n + 127) * 2 ^ 23 }) ∧
  (∀ n : Nat, 0 < n → n ≤ 149 → opTrans 0 false (intF32 (-(n : Int))) = { bits := if n ≤ 126 then (127 - n) * 2 ^ 23 else 2 ^ (149 - n) }) ∧
  (∀ n : Nat, n ≤ 254 → 0 < n → opTrans 1 false (n * 2 ^ 23) = { bits := intF32 ((n : Int) - 127) }) ∧
  (∀ op ftz, opTrans op ftz 0x7FC00000 = { bits := 0x7FC00000 } ∧ opTrans op ftz 0x7F800001 = { bits := 0x7FC00000, flags := fNV })

/-- R146 to R148: comparison, selection, classification. -/
def Obligations.FloatTests : Prop :=
  RegOp 0 0x86 .fcmp (fun c a =>
    let r := floatCond (fSub a) (fIn c a a.sa) (fIn c a a.sb)
    raiseF (if modBits a.mod 6 6 = 1 then setPred c.th a.dst.toNum r.1 else write32 c.th a.dst (if r.1 then 0xFFFFFFFF else 0)) r.2) ∧
  RegOp 0 0x87 .fsel (fun c a =>
    let r := floatCond (fSub a) (fIn c a a.sc) 0
    raiseF (write32 c.th a.dst (if r.1 then read32 c a.sa else read32 c a.sb)) r.2) ∧
  RegOp 0 0x88 .fclass (fun c a => write32 c.th a.dst (BitVec.ofNat 32 (2 ^ classBit (fIn c a a.sa)))) ∧
  (∀ x y, (floatCond 0 x y).1 = true → (floatCond 1 x y).1 = false) ∧
  (∀ sub, sub < 14 → floatCond sub 0 0x80000000 = floatCond sub 0 0) ∧
  (∀ sub, sub < 6 → (floatCond sub 0x7FC00000 0).1 = false ∧ ((floatCond sub 0x7FC00000 0).2 = fNV ↔ 2 ≤ sub)) ∧
  (∀ sub, sub < 6 → (floatCond (8 + sub) 0x7FC00000 0).1 = true ∧ (floatCond (8 + sub) 0x7FC00000 0).2 = 0)

/-- R154 to R157: CVT, CVTI and CVTF without a slot, or under a slot of the team that is sound (R153); a slot that is not faults
FORMAT_SLOT. A format code of 0 under a slot is the slot's. -/
def Obligations.Conversions : Prop :=
  let slot (c : Ctx) (a : Args) : Slot := fslOf c.team (cvtFs a)
  let sound (c : Ctx) (a : Args) : Prop := cvtFsv a = true → (slot c a).ok = true
  let fmt (c : Ctx) (a : Args) (code : Nat) : ElTy := if cvtFsv a = true ∧ code = 0 then elemTy (slot c a).elem else ElTy.ofCode code
  let rnd (c : Ctx) (a : Args) : Rnd :=
    if cvtFsv a then { (slot c a).rounding (modBits a.mod 1 0) with ftz := cvtFtz a } else { mode := modBits a.mod 1 0, ftz := cvtFtz a }
  let x (c : Ctx) (a : Args) : Nat := (read32 c a.sa).toNat
  let fromE (a : Args) : Bool := a.sc.toNum / 32 % 2 == 1
  let toE (a : Args) : Bool := a.sc.toNum / 64 % 2 == 1
  let give (c : Ctx) (a : Args) (f : Thread) : State := afterDone c a (withThread c c.s fun _ => f)
  ThreadOp 0 0xA8 .cvt (fun c a => sound c a ∧ fromE a = false ∧ toE a = false) (fun c a =>
    give c a (giveF c.th a.dst
      (convF (fmt c a (modBits a.mod 5 2)) (fmt c a (modBits a.mod 9 6)) (rnd c a) (convIn (fmt c a (modBits a.mod 5 2)) (cvtFtz a) (x c a))))) ∧
  ThreadOp 0 0xA8 .cvt (fun c a => sound c a ∧ fromE a = true ∧ toE a = true) (fun c a =>
    give c a (write32 c.th a.dst (BitVec.ofNat 32 (x c a % 256)))) ∧
  ThreadOp 0 0xA8 .cvt (fun c a => sound c a ∧ fromE a = true ∧ toE a = false) (fun c a =>
    give c a (giveF c.th a.dst (fromE8M0 (cvtFtz a) (x c a % 256)))) ∧
  ThreadOp 0 0xA8 .cvt (fun c a => sound c a ∧ fromE a = false ∧ toE a = true) (fun c a =>
    let q := toE8M0 (rnd c a).mode (convIn (fmt c a (modBits a.mod 5 2)) (cvtFtz a) (x c a))
    give c a (raiseF (write32 c.th a.dst (BitVec.ofNat 32 q.1)) q.2)) ∧
  (let src (c : Ctx) (a : Args) : ElTy := if cvtFsv a then elemTy (slot c a).elem else ElTy.ofCode (modBits a.mod 5 2)
   let dst (a : Args) : ElTy := ElTy.ofCode (modBits a.mod 9 6)
   ThreadOp 0 0xA9 .cvti (fun c a => sound c a ∧ (src c a).isInt = true) (fun c a =>
     give c a (writeInt c.th (dst a) a.dst
       (extendTo (dst a).signed (dst a).width (intToInt (src c a) (dst a) (a.sc.toNum / 32 % 2 == 1) (readTy c (src c a) a.sa))))) ∧
   ThreadOp 0 0xA9 .cvti (fun c a => sound c a ∧ (src c a).isInt = false) (fun c a =>
     let q := floatToInt (dst a) (a.sc.toNum / 32 % 2 == 1) (rnd c a).mode (convIn (src c a) (cvtFtz a) (x c a))
     give c a (raiseF (writeInt c.th (dst a) a.dst (extendTo (dst a).signed (dst a).width q.1)) q.2))) ∧
  (let src (a : Args) : ElTy := ElTy.ofCode (modBits a.mod 5 2)
   let dst (c : Ctx) (a : Args) : ElTy := if cvtFsv a then elemTy (slot c a).elem else ElTy.ofCode (modBits a.mod 9 6)
   ThreadOp 0 0xAA .cvtf sound (fun c a =>
     give c a (giveF c.th a.dst (intToFloat (dst c a) { rnd c a with ftz := cvtFtz a && dst c a == .f32 }
       (toVal (src a).signed (src a).width (readTy c (src a) a.sa)))))) ∧
  ∀ (i : Args → Instr) (opc : Nat), (i = .cvt ∧ opc = 0xA8) ∨ (i = .cvti ∧ opc = 0xA9) ∨ (i = .cvtf ∧ opc = 0xAA) →
    ThreadOp 0 opc i (fun c a => cvtFsv a = true ∧ (slot c a).ok = false) (fun c a => faulted c 0x1A (BitVec.ofNat 64 (cvtFs a)))

/-- R158 to R164: PACK2, UNPK, QNT, DQNT and FFLAG complete with their results wherever nothing stands before them and the slot they name can
serve; a slot that cannot faults FORMAT_SLOT. The model's choices: c of QNT and PACK2 and a of DQNT and UNPK are packed sources, so that an
immediate goes to each element (log 46); where FFLAG's destination is sr.fflags itself, the old value stands (log 9). -/
def Obligations.QuantizationAndPacking : Prop :=
  let fs (a : Args) : Nat := modBits a.mod 9 7
  let pos (a : Args) : Nat := modBits a.mod 5 4
  let sl (c : Ctx) (a : Args) : Slot := fslOf c.team (fs a)
  let ty (c : Ctx) (a : Args) : ElTy := elemTy (sl c a).elem
  let ok (c : Ctx) (a : Args) : Prop := (sl c a).ok = true ∧ (sl c a).elem ≠ 0 ∧ pos a < 32 / cellWidth (ty c a)
  let give (c : Ctx) (a : Args) (f : Thread → Thread) : State := afterDone c a (withThread c c.s f)
  let scale (c : Ctx) (a : Args) : Nat := if (sl c a).scale = 0 then 127 else (read32 c a.sb).toNat % 256
  ThreadOp 0 0xAB .qnt (fun c a => ok c a ∧ modBits a.mod 6 6 = 1) (fun c a =>
    let q := qntScale (ty c a) (read32 c a.sa).toNat
    give c a (fun th => raiseF (write32 th a.dst (BitVec.ofNat 32 q.1)) q.2)) ∧
  ThreadOp 0 0xAB .qnt (fun c a => ok c a ∧ modBits a.mod 6 6 ≠ 1) (fun c a =>
    let v := decodeF .f32 (read32 c a.sa).toNat
    let r := (sl c a).rounding 0
    let q := if scale c a = 255 then nanResult (ty c a) r fNV
      else if v.isNan then nanResult (ty c a) r (if v.isSnan then fNV else 0)
      else toFormat (ty c a) r (v.scale (127 - (scale c a : Int)))
    give c a (fun th => raiseF (write32 th a.dst (BitVec.ofNat 32 (elemSet (cellWidth (ty c a)) (pos a) (readPack c (cellWidth (ty c a)) a.sc).toNat q.bits))) q.flags)) ∧
  ThreadOp 0 0xAC .dqnt ok (fun c a =>
    let v := decodeF (ty c a) (elemCode (ty c a) (elemGet (cellWidth (ty c a)) (pos a) (readPack c (cellWidth (ty c a)) a.sa).toNat))
    let r := (sl c a).rounding 0
    give c a (fun th => giveF th a.dst (if scale c a = 255 then nanResult .f32 r fNV
      else if v.isNan then nanResult .f32 r (if v.isSnan then fNV else 0)
      else toFormat .f32 r (v.scale ((scale c a : Int) - 127))))) ∧
  (∀ (i : Args → Instr) (opc : Nat), (i = .qnt ∧ opc = 0xAB) ∨ (i = .dqnt ∧ opc = 0xAC) →
    ThreadOp 0 opc i (fun c a => ¬ok c a) (fun c a => faulted c 0x1A (BitVec.ofNat 64 (fs a)))) ∧
  ThreadOp 0 0xAD .pack2 (fun c a => packRuns c.team a = false) (fun c a => faulted c 0x1A (BitVec.ofNat 64 (modBits a.mod 2 0))) ∧
  (let fmt (c : Ctx) (a : Args) : ElTy :=
     if modBits a.mod 9 6 = 0 then elemTy (fslOf c.team (modBits a.mod 2 0)).elem else ElTy.ofCode (modBits a.mod 9 6)
   let rnd (c : Ctx) (a : Args) : Rnd :=
     if modBits a.mod 9 6 = 0 then (fslOf c.team (modBits a.mod 2 0)).rounding (modBits a.mod 5 4) else { mode := modBits a.mod 5 4 }
   let one (c : Ctx) (a : Args) (x : Sel) : FR := convF .f32 (fmt c a) (rnd c a) (convIn .f32 false (read32 c x).toNat)
   ThreadOp 0 0xAD .pack2
     (fun c a => modBits a.mod 9 6 ≠ 0 ∨ ((fslOf c.team (modBits a.mod 2 0)).ok = true ∧ (fslOf c.team (modBits a.mod 2 0)).elem ≠ 0 ∧
       ¬(cellWidth (fmt c a) = 16 ∧ modBits a.mod 3 3 = 1))) (fun c a =>
     let w := cellWidth (fmt c a)
     let hi := modBits a.mod 3 3
     let base := if w = 16 then 0 else (readPack c 8 a.sc).toNat
     give c a (fun th => raiseF (write32 th a.dst (BitVec.ofNat 32
       (elemSet w (2 * hi + 1) (elemSet w (2 * hi) base (one c a a.sa).bits) (one c a a.sb).bits)))
       ((one c a a.sa).flags ||| (one c a a.sb).flags)))) ∧
  RegOp 0 0xAE .unpk (fun c a =>
    let t := ElTy.ofCode (modBits a.mod 9 6)
    let one (i : Nat) : FR := convF t .f32 {} (decodeF t (elemCode t (elemGet (cellWidth t) i (readPack c (cellWidth t) a.sa).toNat)))
    let x := one (2 * modBits a.mod 0 0)
    let y := one (2 * modBits a.mod 0 0 + 1)
    raiseF (write64 c.th a.dst (BitVec.ofNat 64 (x.bits + 2 ^ 32 * y.bits))) (x.flags ||| y.flags)) ∧
  RegOp 0 0xAF .fflag (fun c a =>
    let old := c.th.arch.fflags
    let x : BitVec 5 := (read32 c a.sa).truncate 5
    let new := match fSub a with
      | 0 => old
      | 1 => old ||| x
      | 2 => old &&& ~~~x
      | _ => x
    write32 { c.th with arch := { c.th.arch with fflags := new } } a.dst (old.zeroExtend 32))

/-! ## Loads, stores, atomics, SYNCH -/

/-- R174 to R178, R181, R288: LD, ST, LDS and STS: checked, then outstanding until they are performed; a fault of a check is taken
instead; a store of an expansion is buffered before its commit point, and outstanding after it. -/
def Obligations.LoadsAndStores : Prop :=
  let any : Ctx → Args → Prop := fun _ _ => True
  let native : Ctx → Args → Prop := fun c _ => c.th.expansion = none
  let size (a : Args) : Nat := widSize (widOf a)
  let addr (c : Ctx) (a : Args) : DWord := read64 c a.sa + a.aux.getD 0
  let off (c : Ctx) (a : Args) : Word := read32 c a.sa + (a.aux.getD 0).truncate 32
  let window (c : Ctx) (a : Args) : DWord := (0x800 : BitVec 12) ++ (off c a).zeroExtend 52
  let datum (c : Ctx) (a : Args) : DWord := (off c a).zeroExtend 64
  let load (c : Ctx) (a : Args) : AccOp := .load (fixDst c.th.arch a.dst) (widOf a)
  let stored (c : Ctx) (a : Args) : AccOp := .store (storeBytes c (widOf a) a.sb)
  let nol1 (a : Args) : Bool := modBits a.mod 6 5 == 3
  let plainHint : Args → Bool := fun _ => false
  let taken (c : Ctx) (a : Args) (l : Loc) (ea : DWord) : Access :=
    { op := stored c a, loc := l, size := size a, va := ea, flag := none, port := locPort l, buffered := true,
      no := if (locPort l).isSome then c.team.nextCopy else 0 }
  AccessOp 0x00 .ld any addr addr size ⟨true, false⟩ flagA load nol1 ∧ AccessFault 0x00 .ld any addr addr size ⟨true, false⟩ ∧
  AccessOp 0x01 .st native addr addr size ⟨false, true⟩ flagB stored plainHint ∧ AccessFault 0x01 .st any addr addr size ⟨false, true⟩ ∧
  AccessOp 0x02 .lds any window datum size ⟨true, false⟩ flagA load plainHint ∧ AccessFault 0x02 .lds any window datum size ⟨true, false⟩ ∧
  AccessOp 0x03 .sts native window datum size ⟨false, true⟩ flagB stored plainHint ∧ AccessFault 0x03 .sts any window datum size ⟨false, true⟩ ∧
  (∀ (i : Args → Instr) (opc : Nat) (ea da : Ctx → Args → DWord),
    (i = .st ∧ opc = 0x01 ∧ ea = addr ∧ da = addr) ∨ (i = .sts ∧ opc = 0x03 ∧ ea = window ∧ da = datum) →
    ∀ (s : State) (c : Ctx) (a : Args) (l : Loc) (x : Expansion), ctxOf s = some c → ready c 1 opc a = true → c.th.expansion = some x →
      resolveAs s c.team c.th.arch.mode (ea c a) (size a) (size a) ⟨false, true⟩ (da c a) = .ok l →
      copyHazard c.team c.tid l (size a) true = none →
      exec (i a) s = .next (afterDone c a (withThread c (numbered c (taken c a l (ea c a))) fun th =>
        if x.committed then { th with out := th.out ++ [taken c a l (ea c a)] }
        else { th with expansion := some { x with stores := x.stores ++ [taken c a l (ea c a)] } }))) ∧
  (∀ (c : Ctx) (wid : Nat) (x : Sel), (storeBytes c wid x).length = widSize wid) ∧
  (∀ (th : Thread) (d : Sel) (x : Nat), x < 2 ^ 16 →
    loadReg th d 3 x = write32 th d (BitVec.ofNat 32 x) ∧ loadReg th d 4 x = write32 th d ((BitVec.ofNat 16 x).signExtend 32) ∧
    loadReg th d 1 (x % 2 ^ 8) = write32 th d (BitVec.ofNat 32 (x % 2 ^ 8)) ∧
    loadReg th d 2 (x % 2 ^ 8) = write32 th d ((BitVec.ofNat 8 x).signExtend 32))

/-- R178, R182 to R187: ATOM, RED, CAS and PREF; the rule of a host page; the operations of R183, over w-bit operands, and of f32 the sum of R184: one
rounding to nearest even of the exact sum, subnormals kept, the canonical NaN, signed zeros, and no flag of sr.fflags. -/
def Obligations.Atomics : Prop :=
  let addr (c : Ctx) (a : Args) : DWord := read64 c a.sa + a.aux.getD 0
  let denied (op : Args → Option Nat) (ty : Args → ElTy) (c : Ctx) (a : Args) : Prop := hostDenied c.s c.team (addr c a) (op a) (ty a) = true
  let free (op : Args → Option Nat) (ty : Args → ElTy) (c : Ctx) (a : Args) : Prop := ¬denied op ty c a
  let oper (a : Args) : Option Nat := some (atomOp a)
  let size (a : Args) : Nat := (atomTy a).width / 8
  let wide (a : Args) : Bool := modBits a.mod 9 9 == 1
  let casTy (a : Args) : ElTy := if wide a then .n64 else .n32
  let casSize (a : Args) : Nat := if wide a then 8 else 4
  let b (c : Ctx) (a : Args) : DWord := atomArg c ((atomTy a).width == 64) a.sb
  AccessOp 0x04 .atom (free oper atomTy) addr addr size ⟨true, true⟩ flagA
    (fun c a => .atom (fixDst c.th.arch a.dst) (atomOp a) (atomTy a) (b c a)) (fun _ => false) ∧
  AccessFault 0x04 .atom (free oper atomTy) addr addr size ⟨true, true⟩ ∧
  AccessOp 0x06 .red (free oper atomTy) addr addr size ⟨true, true⟩ flagB (fun c a => .atom .none (atomOp a) (atomTy a) (b c a)) (fun _ => false) ∧
  AccessFault 0x06 .red (free oper atomTy) addr addr size ⟨true, true⟩ ∧
  AccessOp 0x05 .cas (free (fun _ => none) casTy) addr addr casSize ⟨true, true⟩ flagA
    (fun c a => .cas (fixDst c.th.arch a.dst) (wide a) (atomArg c (wide a) a.sb) (atomArg c (wide a) a.sc)) (fun _ => false) ∧
  AccessFault 0x05 .cas (free (fun _ => none) casTy) addr addr casSize ⟨true, true⟩ ∧
  (∀ (i : Args → Instr) (opc : Nat) (op : Args → Option Nat) (ty : Args → ElTy) (n : Args → Nat),
    (i = .atom ∧ opc = 0x04 ∧ op = oper ∧ ty = atomTy ∧ n = size) ∨ (i = .red ∧ opc = 0x06 ∧ op = oper ∧ ty = atomTy ∧ n = size) ∨
      (i = .cas ∧ opc = 0x05 ∧ op = (fun _ => none) ∧ ty = casTy ∧ n = casSize) →
    ∀ (s : State) (c : Ctx) (a : Args), ctxOf s = some c → ready c 1 opc a = true → denied op ty c a →
      (∀ l, resolve s c.team c.th.arch.mode (addr c a) (n a) ⟨true, true⟩ = .ok l → exec (i a) s = .next (faulted c 0x0B (addr c a))) ∧
      (∀ code d, resolve s c.team c.th.arch.mode (addr c a) (n a) ⟨true, true⟩ = .error (code, d) →
        exec (i a) s = .next (faulted c (if code = 0x12 then 0x0B else code) d))) ∧
  RegOp 1 0x07 .pref (fun c _ => c.th) ∧
  (∀ (t : ElTy) (x y : Nat), t ≠ .f32 → x < 2 ^ t.width → y < 2 ^ t.width →
    atomNew 0 t x y = (x + y) % 2 ^ t.width ∧ toVal t.signed t.width (atomNew 1 t x y) = min (toVal t.signed t.width x) (toVal t.signed t.width y) ∧
    toVal t.signed t.width (atomNew 2 t x y) = max (toVal t.signed t.width x) (toVal t.signed t.width y) ∧
    atomNew 3 t x y = x &&& y ∧ atomNew 4 t x y = x ||| y ∧ atomNew 5 t x y = x ^^^ y ∧ atomNew 6 t x y = y ∧
    atomNew 7 t x y = (if y ≤ x then 0 else x + 1) ∧ atomNew 8 t x y = (if x = 0 ∨ y < x then y else x - 1)) ∧
  (∀ x, atomNew 7 .n32 x 3 = if x < 3 then x + 1 else 0) ∧
  (let sum (x y : Nat) : Nat := atomNew 0 .f32 x y
   (∀ x y, sum x y = (opAdd .f32 {} x y).bits) ∧
   (∀ x y sg, decodeF .f32 x = .nan sg ∨ decodeF .f32 y = .nan sg → sum x y = 0x7FC00000) ∧
   sum 0x3F800000 0x3F800000 = 0x40000000 ∧ sum 0x3F800000 0x33800000 = 0x3F800000 ∧ sum 0x3F800001 0x33800000 = 0x3F800002 ∧
   sum 0x3F800000 0x33800001 = 0x3F800001 ∧ sum 0x7F800000 0xFF800000 = 0x7FC00000 ∧ sum 0x7F800000 0x3F800000 = 0x7F800000 ∧
   sum 0 0x80000000 = 0 ∧ sum 0x80000000 0x80000000 = 0x80000000 ∧ sum 0x3F800000 0xBF800000 = 0 ∧ sum 1 1 = 2 ∧
   sum 0x00800000 0x80000001 = 0x007FFFFF ∧ sum 0x7F7FFFFF 0x7F7FFFFF = 0x7F800000) ∧
  (∀ (th : Thread) (ac : Access) (d : Sel) (b : DWord) (x : Nat), ac.op = .atom d 0 .f32 b → (∀ h, d ≠ .sp .fflags h) →
    (giveData th ac (some (x, false))).arch.fflags = th.arch.fflags)

/-- R180, R181, R184, R185, R292, R332: an agent's oldest access is performed: a load's data is that of a leased copy that is still valid, else the
place's bytes then, as those of a load with the .nol1 hint are (R174); an atomic's write is one access with its read, at the home; its flag falls. -/
def Obligations.AccessesPerformed : Prop :=
  (∀ (s : State) (ag : Agent) (ac : Access) (rest : List Access), outOf s ag = ac :: rest →
    (returnsData ac.op = true → exec (.loadDataReturn ag) s = .next (performOldest s ag)) ∧
    (returnsData ac.op = false → exec (.storePerformed ag) s = .next (performOldest s ag)) ∧
    (ac.buffered = true → exec (.bufferedStorePerformed ag) s = .next (performOldest s ag))) ∧
  (∀ (s : State) (k tid : Nat) (t : Team) (th : Thread) (ac : Access) (rest : List Access), s.team? k = some t →
    s.thread? k tid = some th → th.out = ac :: rest → (isWrite ac.op = true → ownerOf s (.thread k tid) ac.loc = none) →
    ∃ t1 th1, (performAt s t (.thread k tid) ac).1.team? k = some t1 ∧ AMap.find t1.threads tid = some th1 ∧
      th1.arch = th.arch ∧ th1.f = th.f ∧ th1.wait = th.wait ∧
      (performOldest s (.thread k tid)).thread? k tid =
        some (recheck t1 (decFlag (giveData { th1 with out := rest } ac (performAt s t (.thread k tid) ac).2) ac.flag)) ∧
      (performOldest s (.thread k tid)).mem = (performAt s t (.thread k tid) ac).1.mem ∧
      (performOldest s (.thread k tid)).scratch = (performAt s t (.thread k tid) ac).1.scratch) ∧
  (∀ (s : State) (t : Team) (ag : Agent) (ac : Access),
    (∀ d wid, ac.op = .load d wid → ac.early = none → ac.nol1 = true →
      performAt s t ag ac = (readHome s t.core ac.loc, some (leNat (readBytes s ac.loc ac.size), locPoisoned s ac.loc ac.size))) ∧
    (∀ d wid, ac.op = .load d wid → ac.early = none → ac.nol1 = false → performAt s t ag ac =
      ((load s t.core ac.loc ac.size).1, some (leNat (load s t.core ac.loc ac.size).2.1, (load s t.core ac.loc ac.size).2.2))) ∧
    (∀ bs, ac.op = .store bs → performAt s t ag ac = (landStore s t ag ac bs false, none))) ∧
  (∀ (s : State) (core : Nat) (l : Loc) (n : Nat), (load s core l n).1.mem = s.mem ∧ (load s core l n).1.scratch = s.scratch ∧
    ((∀ line, cached l = some line → leaseOf s core line = none) → (load s core l n).2 = (readBytes s l n, locPoisoned s l n)) ∧
    ∀ pa x, l = .phys pa → pa < 2 ^ 42 → leaseOf s core (pa / 64) = some x →
      ((maxD (ctOf s core) x.wts).toNat ≤ x.rts.toNat → (load s core l n).2 = leaseBytes x pa n) ∧
      (x.rts.toNat < (maxD (ctOf s core) x.wts).toNat → (load s core l n).2 = (readBytes s l n, locPoisoned s l n))) ∧
  (∀ (s : State) (t : Team) (ag : Agent) (ac : Access), locPoisoned s ac.loc ac.size = false →
    (∀ d op ty b, ac.op = .atom d op ty b → performAt s t ag ac =
      (landStore s t ag ac (leBytes ac.size (atomNew op ty (leNat (readBytes s ac.loc ac.size)) (b.toNat % 2 ^ (8 * ac.size)))) true,
        some (leNat (readBytes s ac.loc ac.size), false))) ∧
    (∀ d w b c, ac.op = .cas d w b c → leNat (readBytes s ac.loc ac.size) = b.toNat % 2 ^ (8 * ac.size) →
      performAt s t ag ac = (landStore s t ag ac (leBytes ac.size c.toNat) true, some (leNat (readBytes s ac.loc ac.size), false))) ∧
    (∀ d w b c, ac.op = .cas d w b c → leNat (readBytes s ac.loc ac.size) ≠ b.toNat % 2 ^ (8 * ac.size) →
      performAt s t ag ac = (touchHome s t.core ac.loc, some (leNat (readBytes s ac.loc ac.size), false)))) ∧
  (∀ (th : Thread) (ac : Access) (x : Nat) (d : Sel),
    (∀ wid, ac.op = .load d wid → giveData th ac (some (x, false)) = loadReg th d wid x) ∧
    (∀ op ty b, ac.op = .atom d op ty b → ac.size = 4 → giveData th ac (some (x, false)) = write32 th d (BitVec.ofNat 32 x)) ∧
    (∀ w b c, ac.op = .cas d w b c → ac.size = 8 → giveData th ac (some (x, false)) = write64 th d (BitVec.ofNat 64 x)))

/-- The frame of a store: performing an outstanding ST or STS (R181) changes no byte outside the bytes from the place that its address
resolved to, and gives those the stored data, but for the directory bytes of live glades (R205), which stay as their glades and the
other threads stay. -/
def Obligations.StoreWritesItsBytes : Prop :=
  ∀ (s : State) (k tid : Nat) (t : Team) (th : Thread) (ac : Access) (rest : List Access) (bs : List Byte), Memory.wf s = true →
    s.team? k = some t → s.thread? k tid = some th → th.out = ac :: rest → ac.op = .store bs →
    ownerOf s (.thread k tid) ac.loc = none → linkCut s ac.loc = false →
    ∃ u, exec (.storePerformed (.thread k tid)) s = .next u ∧
      (∀ p, ac.loc = .phys p →
        (∀ a, readByte u (.phys a) = if p ≤ a ∧ a < p + bs.length then bs.getD (a - p) 0 else readByte s (.phys a)) ∧
        (∀ core off, off % 16 < 8 ∨ gladeAt s core off = none → readByte u (.scr core off) = readByte s (.scr core off))) ∧
      (∀ core off, ac.loc = .scr core off → off + bs.length ≤ 2 ^ 19 →
        (∀ a, readByte u (.phys a) = readByte s (.phys a)) ∧
        (∀ c o, o < 2 ^ 19 → o % 16 < 8 ∨ gladeAt s c o = none →
          readByte u (.scr c o) = if c = core ∧ off ≤ o ∧ o < off + bs.length then bs.getD (o - off) 0 else readByte s (.scr c o))) ∧
      (∀ j, (u.team? j).map Team.glades = (s.team? j).map Team.glades) ∧
      (∀ j i, ¬(j = k ∧ i = tid) → u.thread? j i = s.thread? j i)

/-- R9, R191, R342: SYNCH waits for its copies to system pages, sends a marker to each port with unacknowledged writes, waits for its drain, then for
the next tick; acknowledgments of writes and markers, the end of the drain, and the tick. The model's readings: the SYNCH has those copies performed in
its own step and stays at the instruction (log 3), and an acknowledgment that finds nothing unacknowledged does nothing (log 1). -/
def Obligations.SystemDrain : Prop :=
  let marked (c : Ctx) : State × List (Nat × Nat) := sendMarkers c.s c.team.core (c.th.unacked.map SysWrite.port).eraseDups
  let waits (c : Ctx) (a : Args) (s : State) (ms : List (Nat × Nat)) (w : Wait) : State :=
    afterJump c a (withThread c s fun th => { th with markers := ms, wait := some w, waitFrom := c.s.cycle })
  ThreadOp 1 0x08 .synch (fun c _ => systemCopies c.team c.tid = [] ∧ c.th.unacked = [])
    (fun c a => waits c a c.s [] (.tick c.s.growth (opLen c.th a))) ∧
  ThreadOp 1 0x08 .synch (fun c _ => systemCopies c.team c.tid = [] ∧ c.th.unacked ≠ [])
    (fun c a => waits c a (marked c).1 (marked c).2 (.drain (opLen c.th a))) ∧
  (∀ (p : Nat × Copy) (ps : List (Nat × Copy)),
    ThreadOp 1 0x08 .synch (fun c _ => systemCopies c.team c.tid = p :: ps) (fun c a => afterJump c a (performCopiesTo c.s c.key p.1))) ∧
  (∀ (s : State) (core : Nat) (ps : List Nat), (sendMarkers s core ps).2.map Prod.fst = ps ∧ (sendMarkers s core ps).1.mem = s.mem) ∧
  (∀ (s : State) (k tid : Nat) (t : Team) (th : Thread), s.team? k = some t → s.thread? k tid = some th →
    (th.unacked = [] → exec (.systemWriteAck (.thread k tid)) s = .next s) ∧
    (∀ w ws, th.unacked = w :: ws → ∃ u us, exec (.systemWriteAck (.thread k tid)) s = .next u ∧ u.mem = s.mem ∧
      u.thread? k tid = some { th with unacked := us } ∧
      us.map (fun x => { x with arrived := true, old := [] }) =
        (th.unacked.filter fun x => !(x.core == w.core && x.port == w.port && x.seq == w.seq)).map fun x =>
          { x with arrived := true, old := [] }) ∧
    (∀ p n ms, th.markers = (p, n) :: ms → ∃ u us, exec (.markerAck (.thread k tid)) s = .next u ∧ u.mem = s.mem ∧
      u.thread? k tid = some { th with unacked := us, markers := ms } ∧
      us.map (fun x => { x with arrived := true, old := [] }) =
        (th.unacked.filter fun x => !(x.core == t.core && x.port == p && seqLe x.seq n)).map fun x =>
          { x with arrived := true, old := [] }) ∧
    (∀ len, th.wait = some (.drain len) → drained t tid th = true → ∃ u, exec (.synchDrainComplete (.thread k tid)) s = .next u ∧
      u.thread? k tid = some { th with wait := some (.tick s.growth len) }) ∧
    (∃ u, exec .growthRingTick s = .next u ∧ u.growth = s.growth + 1 ∧ u.mem = s.mem ∧ u.scratch = s.scratch ∧ u.cycle = s.cycle ∧
      (t.resident = true → t.retired = false → ∀ g len, th.wait = some (.tick g len) →
        u.thread? k tid = some (if g.toNat < (s.growth + 1).toNat then { passOp th len th.after with preempted := stopping s t } else th)) ∧
      (t.resident = true → t.retired = false → t.dbgStop = false → gangPlaced s t = true → ∃ t1, u.team? k = some t1 ∧ t1.wdcnt = t.wdcnt + 1)))

/-! ## Copies, glades, barriers, exchange -/

/-- R195 to R197, R200 to R203: CP, CPW, CPT, CPF, CPA and CFENCE. -/
def Obligations.CopyInstructions : Prop :=
  let size (a : Args) : Nat := 4 * 2 ^ modBits a.mod 9 8
  let tagged (a : Args) : Bool := modBits a.mod 7 7 == 1
  let gladed (a : Args) : Bool := modBits a.mod 6 6 == 1
  let count (c : Ctx) (a : Args) : Nat := (AMap.get {} c.team.tags a.dst.toNum).count
  (∀ (s : State) (c : Ctx) (a : Args) (l m : Loc), ctxOf s = some c → ready c 1 0x10 a = true →
    resolve s c.team c.th.arch.mode (read64 c a.sb) (size a) ⟨true, false⟩ = .ok l →
    resolve s c.team c.th.arch.mode (read64 c a.sa) (size a) ⟨false, true⟩ = .ok m →
    (gladed a = true → copyGlade s c.key c.team (read64 c a.sc) (tagged a) = none) →
    (tagged a = true → count c a < 4095) → flagFull c.th (flagB c.th) = false →
    let cp : Copy := {
      tid := some c.tid, src := l, dst := m, srcVa := read64 c a.sb, dstVa := read64 c a.sa, size := size a,
      tag := if tagged a then some a.dst.toNum else none, glade := if gladed a then some (read64 c a.sc) else none, flag := flagB c.th,
      epoch := c.th.epoch, port := locPort m, data := none }
    let s1 := noteAccess (noteAccess s c.team (read64 c a.sb) l) c.team (read64 c a.sa) m
    let s2 := s1.modTeam c.key fun t => { t with
      copies := AMap.set t.copies t.nextCopy cp, nextCopy := t.nextCopy + 1,
      tags := if tagged a then
        AMap.set t.tags a.dst.toNum { AMap.get {} t.tags a.dst.toNum with count := count c a + 1 } else t.tags }
    exec (.cp a) s = .next (afterDone c a (withThread c (recallLine s2 m) fun th => incFlag th (flagB c.th)))) ∧
  (∀ (s : State) (pa : Nat), pa < 2 ^ 42 → AMap.find (recallLine s (.phys pa)).holder (pa / 64) = none) ∧
  (∀ (s : State) (c : Ctx) (a : Args) (code : BitVec 8) (d : DWord), ctxOf s = some c → ready c 1 0x10 a = true →
    resolve s c.team c.th.arch.mode (read64 c a.sb) (size a) ⟨true, false⟩ = .error (code, d) →
    exec (.cp a) s = .next (faulted c code d)) ∧
  ThreadOp 1 0x11 .cpw (fun c a => tagsClear c.team (read64 c a.sa) = true) (fun c a => afterDone c a c.s) ∧
  ThreadOp 1 0x11 .cpw (fun c a => tagsClear c.team (read64 c a.sa) = false) (fun c a => waiting c a (.tags (read64 c a.sa) (opLen c.th a))) ∧
  RegOp 1 0x14 .cpt (fun c a => write64 c.th a.dst (tagBits c.team (read64 c a.sa) fun g => g.count != 0)) ∧
  ThreadOp 1 0x13 .cpf (fun _ _ => True) (fun c a =>
    afterDone c a (withThread c (c.s.modTeam c.key fun t => { t with
      tags := (tagSelected t (read64 c a.sa)).foldl (fun ts j => AMap.set ts j { AMap.get {} ts j with fault := false }) t.tags })
      fun th => write64 th a.dst (tagBits c.team (read64 c a.sa) Tag.fault))) ∧
  RegOp 1 0x15 .cfence (fun c _ => { c.th with epoch := c.th.epoch + 1 }) ∧
  (∀ (s : State) (c : Ctx) (a : Args) (off : Nat), ctxOf s = some c → ready c 1 0x12 a = true →
    gladeAddr s c.key c.team (read64 c a.sa) false = .ok (c.key, c.team, off, false) →
    copyHazard c.team c.tid (winLoc c.team off) 8 true = none → locPoisoned s (winLoc c.team off) 8 = false →
    gUsable c.team off (gRead s c.team off) false = true →
    let ids := (c.team.copies.filter fun p => match p.2.tag with
      | some j => (tagSelected c.team (read64 c a.sb)).contains j
      | none => false).map Prod.fst
    exec (.cpa a) s = .next (afterDone c a (if ids.isEmpty then applyArrival s c.key (read64 c a.sa)
      else s.modTeam c.key fun t => { t with
        arrivals := AMap.set t.arrivals t.nextArrival { glade := read64 c a.sa, copies := ids, mask := read64 c a.sb, tid := c.tid, no := t.nextCopy },
        nextArrival := t.nextArrival + 1, nextCopy := t.nextCopy + 1 }))) ∧
  (∀ (t : Team) (m : DWord) (f : Tag → Bool) (j : Nat), t.lrec.tags ≤ 64 →
    (tagBits t m f).getLsbD j = (decide (j < t.lrec.tags) && m.getLsbD j && f (AMap.get {} t.tags j)))

/-- R197, R198, R200, R203, R207, R455: a copy's write, when nothing of the thread must come first: what it counts, its report to a glade of the
team's window, and a poisoned one, which reports nothing and leaves its glade FAULTED; a deferred arrival; a merge, which reads for every copy held. -/
def Obligations.CopyEvents : Prop :=
  (∀ (s : State) (k id : Nat) (t : Team) (cp : Copy), s.team? k = some t → AMap.find t.copies id = some cp → t.resident = true →
    copyBlocked t id cp = false → exec (.copyWritePerformed k id) s = .next (performCopy s k id)) ∧
  (∀ (s : State) (k id : Nat) (t : Team) (cp : Copy), s.team? k = some t → AMap.find t.copies id = some cp →
    (∀ d, cp.data = some d → performCopy s k id = copyWrite s k id cp d.1 d.2) ∧
    (cp.data = none → performCopy s k id =
      copyWrite (load s t.core cp.src cp.size).1 k id cp (load s t.core cp.src cp.size).2.1 (load s t.core cp.src cp.size).2.2)) ∧
  (∀ (s : State) (k id : Nat) (t : Team) (cp : Copy) (bs : List Byte), s.team? k = some t → cp.glade = none →
    ∃ t1, (copyWrite s k id cp bs false).team? k = some t1 ∧ AMap.find t1.copies id = none ∧
      (copyWrite s k id cp bs false).mem = (store s t.core cp.dst bs false).mem ∧
      (copyWrite s k id cp bs false).scratch = (store s t.core cp.dst bs false).scratch ∧
      (∀ j, cp.tag = some j → (AMap.get {} t1.tags j).count = (AMap.get {} t.tags j).count - 1) ∧
      (∀ tid th j, cp.tid = some tid → AMap.find t.threads tid = some th → cp.flag = some j →
        ∃ th1, AMap.find t1.threads tid = some th1 ∧ flagCount th1 j = flagCount th j - 1)) ∧
  (∀ (s : State) (k id pa off : Nat) (t : Team) (cp : Copy) (bs : List Byte) (ga : DWord), s.team? k = some t → Memory.wf s = true →
    cp.dst = .phys pa → cp.glade = some ga → ga.toNat = 0x800 * 2 ^ 52 + off → off < 2 ^ 52 → (t.winBase + off) % 16 = 0 →
    gUsable t off (gRead s t off) false = true → locPoisoned s (winLoc t off) 8 = false → t.retired = false →
    let g := gRead s t off
    let n := (AMap.get {} t.glades off).resid + cp.size / 4
    let sp := g.spend - (n / 8 : Nat)
    let u := copyWrite s k id cp bs false
    let v := copyWrite s k id cp bs true
    (-(2 ^ 27 : Int) ≤ sp → ¬(g.apend = 0 ∧ sp = 0 ∧ n % 8 = 0) → ∃ t1, u.team? k = some t1 ∧ AMap.find t1.copies id = none ∧
      gRead u t1 off = { g with spend := sp } ∧ (AMap.get {} t1.glades off).resid = n % 8 ∧
      ∀ j, cp.tag = some j → AMap.get {} t1.tags j = { AMap.get {} t.tags j with count := (AMap.get {} t.tags j).count - 1 }) ∧
    (sp = 0 → g.apend = 0 → n % 8 = 0 → ∃ t1, u.team? k = some t1 ∧
      gRead u t1 off = { g with phase := (g.phase + 1) % 16, apend := g.ainit, spend := 0, rvx := false }) ∧
    (sp < -(2 ^ 27 : Int) → ∃ t1, u.team? k = some t1 ∧ gRead u t1 off = { g with faulted := true } ∧
      ∀ j, cp.tag = some j → (AMap.get {} t1.tags j).fault = true) ∧
    ∃ t1, v.team? k = some t1 ∧ AMap.find t1.copies id = none ∧ gRead v t1 off = { g with faulted := true } ∧
      (AMap.get {} t1.glades off).resid = (AMap.get {} t.glades off).resid ∧
      (∀ j, cp.tag = some j → AMap.get {} t1.tags j = { count := (AMap.get {} t.tags j).count - 1, fault := true }) ∧
      (linkCut s (.phys pa) = false → ∀ i, i < bs.length → sectorKey (.phys (pa + i)) ∈ v.poison)) ∧
  (∀ (s : State) (k j : Nat) (t : Team) (x : Arrival), s.team? k = some t → AMap.find t.arrivals j = some x → t.resident = true →
    (∀ id, id ∈ x.copies → AMap.find t.copies id = none) →
    exec (.cpaArrival k j) s = .next (applyArrival (s.setTeam k { t with arrivals := AMap.del t.arrivals j }) k x.glade)) ∧
  (∀ (s : State) (core k id : Nat) (t : Team) (cp : Copy), s.team? k = some t → heldCopies s core = [(k, id, cp)] →
    exec (.coalescerMerge core) s = .next ((load s t.core cp.src cp.size).1.modTeam k fun t => { t with
      copies := AMap.set t.copies id { cp with data := some (load s t.core cp.src cp.size).2 } })) ∧
  (∀ (s : State) (core : Nat), let copy (u : State) (k id : Nat) : Option Copy := (u.team? k).bind fun t => AMap.find t.copies id
    ∃ u, exec (.coalescerMerge core) s = .next u ∧ u.mem = s.mem ∧ u.scratch = s.scratch ∧
      (∀ x ∈ heldCopies s core, ∃ y ∈ heldCopies s core, y.1 = x.1 ∧ y.2.1 = x.2.1 ∧ ∃ d, copy u x.1 x.2.1 = some { y.2.2 with data := some d } ∧
        (cached y.2.2.src = none → d = (readBytes s y.2.2.src y.2.2.size, locPoisoned s y.2.2.src y.2.2.size))) ∧
      ∀ k id, (∀ x ∈ heldCopies s core, ¬(x.1 = k ∧ x.2.1 = id)) → copy u k id = copy s k id)

/-- R204, R206 to R213: the glade operations on a glade of the own window that is usable; their effect on its word; the end of its
phase. -/
def Obligations.GladeOperations : Prop :=
  let here (s : State) (c : Ctx) (ea : DWord) (peerOk : Bool) (off : Nat) : Prop :=
    gladeAddr s c.key c.team ea peerOk = .ok (c.key, c.team, off, false) ∧
    copyHazard c.team c.tid (winLoc c.team off) 8 true = none ∧ locPoisoned s (winLoc c.team off) 8 = false
  let usable (s : State) (c : Ctx) (ea : DWord) (peerOk : Bool) (off : Nat) : Prop :=
    here s c ea peerOk off ∧ gUsable c.team off (gRead s c.team off) false = true
  (∀ (s : State) (c : Ctx) (a : Args) (off : Nat), ctxOf s = some c →
    let g := gRead s c.team off
    let b := (read32 c a.sb).toNat
    (ready c 1 0x18 a = true → here s c (read64 c a.sa) false off →
      (modBits a.mod 8 8 ≠ 1 → 1 ≤ b → b ≤ 4095 → AMap.find c.team.glades off = none → liveGlades s c.team.core < 256 →
        exec (.ginit a) s = .next (afterDone c a (makeGlade s c.team.core c.key off b (modBits a.mod 9 9 == 1)))) ∧
      (modBits a.mod 8 8 ≠ 1 → 1 ≤ b → b ≤ 4095 → (AMap.find c.team.glades off).isSome = true → gladeQuiet c.team c.key off g = true →
        exec (.ginit a) s = .next (afterDone c a (makeGlade s c.team.core c.key off b (modBits a.mod 9 9 == 1)))) ∧
      ((AMap.find c.team.glades off).isSome = true → gWellFormed g = true → g.faulted = false → gladeQuiet c.team c.key off g = false →
        (modBits a.mod 8 8 = 1 → copyHazard c.team c.tid (winLoc c.team off) 16 true = none) →
        exec (.ginit a) s = .next (faulted c 0x14 (read64 c a.sa))) ∧
      (modBits a.mod 8 8 = 1 → copyHazard c.team c.tid (winLoc c.team off) 16 true = none → (AMap.find c.team.glades off).isSome = true →
        gladeQuiet c.team c.key off g = true → exec (.ginit a) s = .next (afterDone c a (dropGlade s c.key off c.team)))) ∧
    (ready c 1 0x19 a = true → usable s c (read64 c a.sa) true off → spendOk (g.spend + (read32 c a.sb).toInt) = true →
      exec (.gexp a) s = .next (afterDone c a (completeIfDone s c.team.core c.key off { g with spend := g.spend + (read32 c a.sb).toInt }))) ∧
    (ready c 1 0x1A a = true → usable s c (read64 c a.sa) false off → 1 ≤ b → b ≤ g.apend →
      let sp := if modBits a.mod 9 9 = 1 then g.spend + (read32 c a.sc).toInt else g.spend
      spendOk sp = true →
      exec (.garv a) s = .next (afterDone c a (withThread c (completeIfDone s c.team.core c.key off { g with spend := sp, apend := g.apend - b })
        fun th => write32 th a.dst (BitVec.ofNat 32 g.phase)))) ∧
    (ready c 1 0x1B a = true → usable s c (read64 c a.sa) true off → 1 ≤ b → b ≤ g.apend → spendOk g.spend = true →
      (modBits a.mod 9 9 = 1 → ∀ p ∈ c.team.copies, p.2.tid ≠ some c.tid) →
      exec (.garvr a) s = .next (afterDone c a (completeIfDone s c.team.core c.key off { g with apend := g.apend - b }))) ∧
    (ready c 1 0x1C a = true → usable s c (read64 c a.sa) false off →
      let tok := (read32 c a.sb).toNat % 16
      let seen := touch s c.team.core (winLoc c.team off) true
      (g.phase ≠ tok → exec (.gwait a) s = .next (afterDone c a seen)) ∧
      (g.phase = tok → exec (.gwait a) s = .next (afterJump c a (withThread c seen fun th => { th with
        wait := some (.glade (read64 c a.sa) c.key off (BitVec.ofNat 4 tok) (opLen c.th a)), waitFrom := s.cycle })))) ∧
    (ready c 1 0x1D a = true → usable s c (read64 c a.sa) false off →
      exec (.gtest a) s = .next (afterDone c a (withThread c (touch s c.team.core (winLoc c.team off) true)
        fun th => setPred th a.dst.toNum (g.phase != (read32 c a.sb).toNat % 16))))) ∧
  (∀ (s : State) (c : Ctx) (a : Args) (off : Nat) (i : Args → Instr) (opc : Nat), ctxOf s = some c → ready c 1 opc a = true →
    (i = .gexp ∧ opc = 0x19) ∨ (i = .garv ∧ opc = 0x1A) ∨ (i = .garvr ∧ opc = 0x1B) ∨ (i = .gwait ∧ opc = 0x1C) ∨ (i = .gtest ∧ opc = 0x1D) →
    (∀ p, here s c (read64 c a.sa) p off) → gUsable c.team off (gRead s c.team off) false = false →
    exec (i a) s = .next (faulted c 0x14 (read64 c a.sa))) ∧
  (∀ (s : State) (c : Ctx) (a : Args) (k off : Nat) (t : Team), ctxOf s = some c → gladeAddr s c.key c.team (read64 c a.sa) true = .ok (k, t, off, true) →
    copyHazard c.team c.tid (winLoc t off) 8 true = none →
    let g := gRead s t off
    let b := (read32 c a.sb).toNat
    (locPoisoned s (winLoc t off) 8 = false → gUsable t off g false = true → g.remote = true →
      (ready c 1 0x19 a = true → spendOk (g.spend + (read32 c a.sb).toInt) = true → exec (.gexp a) s =
        .next (afterDone c a (completeIfDone s c.team.core k off { g with spend := g.spend + (read32 c a.sb).toInt }))) ∧
      (ready c 1 0x1B a = true → 1 ≤ b → b ≤ g.apend → spendOk g.spend = true → (modBits a.mod 9 9 = 1 → ∀ p ∈ c.team.copies, p.2.tid ≠ some c.tid) →
        exec (.garvr a) s = .next (afterDone c a (completeIfDone s c.team.core k off { g with apend := g.apend - b })))) ∧
    (∀ code : BitVec 8, (g.remote = false ∧ code = 0x14) ∨ (g.remote = true ∧ locPoisoned s (winLoc t off) 8 = true ∧ code = 0x22) ∨
        (g.remote = true ∧ locPoisoned s (winLoc t off) 8 = false ∧ gUsable t off g false = false ∧ code = 0x14) →
      (ready c 1 0x19 a = true → exec (.gexp a) s = .next (faulted c code (read64 c a.sa))) ∧
      (ready c 1 0x1B a = true → exec (.garvr a) s = .next (faulted c code (read64 c a.sa))))) ∧
  (∀ (s : State) (c : Ctx) (a : Args) (off : Nat) (i : Args → Instr) (opc : Nat), ctxOf s = some c → ready c 1 opc a = true →
    (i = .gexp ∧ opc = 0x19) ∨ (i = .garv ∧ opc = 0x1A) ∨ (i = .garvr ∧ opc = 0x1B) ∨ (i = .gwait ∧ opc = 0x1C) ∨ (i = .gtest ∧ opc = 0x1D) →
    (∀ p, gladeAddr s c.key c.team (read64 c a.sa) p = .ok (c.key, c.team, off, false)) →
    copyHazard c.team c.tid (winLoc c.team off) 8 true = none → locPoisoned s (winLoc c.team off) 8 = true →
    exec (i a) s = .next (faulted c 0x22 (read64 c a.sa))) ∧
  (∀ (s : State) (core k off : Nat) (t : Team) (g : GWord), s.team? k = some t →
    let gl : Glade := AMap.get {} t.glades off
    let s1 := gWrite (gWrite s core t off g) core t off { g with phase := (g.phase + 1) % 16, apend := g.ainit, rvx := false }
    (g.apend = 0 ∧ g.spend = 0 ∧ gl.resid = 0 → completeIfDone s core k off g =
      (raiseCt s1 t.core (timesOf s1 (winLoc t off)).wts).modTeam k fun t => releaseGlade t k off g.phase gl) ∧
    (¬(g.apend = 0 ∧ g.spend = 0 ∧ gl.resid = 0) → completeIfDone s core k off g = gWrite s core t off g)) ∧
  (∀ (t : Team) (k off tid : Nat) (gl : Glade) (th : Thread) (ea : DWord) (tok : BitVec 4) (len : Nat), AMap.find t.threads tid = some th →
    th.wait = some (.glade ea k off tok len) →
    ∃ kp, AMap.find (releaseGlade t k off tok.toNat gl).threads tid = some (passOp { th with kept := kp } len th.after) ∧
      (th.kept = [] → kp = [])) ∧
  (∀ g : GWord, g.hi < 32 → g.phase < 16 → g.ainit < 4096 → g.apend < 4096 → spendOk g.spend = true → gDecode (gEncode g) = g)

/-- R215, R216, R219, R233, R234, R332: BARA, BARW and BARS on a barrier of the team, each an access at a later time than the ones before; which arrivals
fault, the ones that count, the one that completes a phase, and the waits it ends, those that deliveries or a save have interrupted among them, each
kept for the instruction at its address (the model's reading, log 22). -/
def Obligations.TeamBarriers : Prop :=
  let seen (c : Ctx) (a : Args) : State := touchBarrier c.s c.key a.sa.toNum
  let own (c : Ctx) (a : Args) : Barrier := AMap.get {} c.team.barriers a.sa.toNum
  let arrives (c : Ctx) (a : Args) (t : Team) : Option (Team × BitVec 4) :=
    arriveBarrier t c.tid a.sa.toNum (read32 c a.sb).toNat (modBits a.mod 9 9 == 1)
  (∀ (s : State) (c : Ctx) (a : Args) (t0 t : Team) (tok : BitVec 4), ctxOf s = some c → (seen c a).team? c.key = some t0 →
    arrives c a t0 = some (t, tok) →
    (ready c 1 0x20 a = true → exec (.bara a) s =
      .next (afterDone c a (withThread c ((seen c a).setTeam c.key t) fun th => write32 th a.dst (tok.zeroExtend 32)))) ∧
    (ready c 1 0x22 a = true → keptHere c.th = none →
      ((AMap.get {} t.barriers a.sa.toNum).phase ≠ tok → exec (.bars a) s =
        .next (afterDone c a (((seen c a).setTeam c.key t).modTeam c.key fun t => seesPhase t c.tid a.sa.toNum tok))) ∧
      ((AMap.get {} t.barriers a.sa.toNum).phase = tok → exec (.bars a) s = .next (afterJump c a (withThread c ((seen c a).setTeam c.key t)
        fun th => { th with wait := some (.barrier a.sa.toNum tok true (opLen c.th a)), waitFrom := s.cycle }))))) ∧
  (∀ (s : State) (c : Ctx) (a : Args), s.team? c.key = some c.team → c.s = s → (seen c a).mem = s.mem ∧
    ∃ tm, (seen c a).team? c.key =
      some { c.team with barriers := AMap.set c.team.barriers a.sa.toNum { own c a with time := tm } } ∧
      ((own c a).time.toNat < 2 ^ 64 - 1 → (own c a).time.toNat < tm.toNat)) ∧
  ThreadOp 1 0x20 .bara (fun c a => ∃ t0, (seen c a).team? c.key = some t0 ∧ arrives c a t0 = none)
    (fun c a => faulted c 0x16 (BitVec.ofNat 64 a.sa.toNum)) ∧
  ThreadOp 1 0x22 .bars (fun c a => keptHere c.th = none ∧ ∃ t0, (seen c a).team? c.key = some t0 ∧ arrives c a t0 = none)
    (fun c a => faulted c 0x16 (BitVec.ofNat 64 a.sa.toNum)) ∧
  ThreadOp 1 0x21 .barw (fun c a => (own c a).phase ≠ (read32 c a.sb).truncate 4) (fun c a =>
    afterDone c a ((seen c a).modTeam c.key fun t => seesPhase t c.tid a.sa.toNum ((read32 c a.sb).truncate 4))) ∧
  ThreadOp 1 0x21 .barw (fun c a => (own c a).phase = (read32 c a.sb).truncate 4)
    (fun c a => afterJump c a (withThread c (seen c a) fun th =>
      { th with wait := some (.barrier a.sa.toNum ((read32 c a.sb).truncate 4) false (opLen c.th a)), waitFrom := c.s.cycle })) ∧
  ThreadOp 1 0x22 .bars (fun c _ => ∃ pc j tok own len, keptHere c.th = some ⟨pc, .barrier j tok own len, none⟩) (fun c a =>
    afterJump c a (withThread c c.s fun th => { dropKept th with wait := (keptHere c.th).map Kept.wait, waitFrom := c.s.cycle })) ∧
  (∀ j tok, ThreadOp 1 0x22 .bars (fun c _ => ∃ pc own len r, keptHere c.th = some ⟨pc, .barrier j tok own len, some r⟩) (fun c a =>
    afterDone c a (withThread c (c.s.modTeam c.key fun t => seesPhase t c.tid j tok) dropKept))) ∧
  (∀ (t : Team) (me b n : Nat) (u : Bool), let x := AMap.get {} t.barriers b
    (arriveBarrier t me b n u = none ↔ n = 0 ∨ 1024 < n ∨ (x.opened = true ∧ (n ≠ x.n ∨ u ≠ x.u)) ∨
      (x.opened = false ∧ ((x.uarr = true ∧ u = false) ∨ (u = true ∧ t.stream.retired = true)))) ∧
    (arriveBarrier t me b n u ≠ none → ¬(x.arr + 1 = n ∧ (u = true → x.uarr = true)) → arriveBarrier t me b n u = some ({ t with
      barriers := AMap.set t.barriers b { x with opened := true, n := n, u := u, arr := x.arr + 1, who := me :: x.who } }, x.phase)) ∧
    (arriveBarrier t me b n u ≠ none → x.arr + 1 = n → (u = true → x.uarr = true) → ∃ t1, arriveBarrier t me b n u = some (t1, x.phase) ∧
      (AMap.get {} t1.barriers b).phase = x.phase + 1 ∧ (AMap.get {} t1.barriers b).opened = false ∧ (AMap.get {} t1.barriers b).arr = 0 ∧
      (AMap.get {} t1.barriers b).uarr = false ∧
      ∀ tid th, AMap.find t.threads tid = some th → ∃ kp,
        kp.length = th.kept.length ∧
        (∀ own len, th.wait = some (.barrier b x.phase own len) →
          AMap.find t1.threads tid = some (passOp { th with kept := kp } len th.after)) ∧
        ((∀ own len, th.wait ≠ some (.barrier b x.phase own len)) → AMap.find t1.threads tid = some { th with kept := kp }) ∧
        ∀ (i : Nat) (r : Kept), th.kept[i]? = some r →
          ((∀ own len, ¬(r.wait = .barrier b x.phase own len ∧ r.result = none)) → kp[i]? = some r) ∧
          ∀ own len, r.wait = .barrier b x.phase own len → r.result = none → kp[i]? = some { r with result := some (.value 0) }))

/-- R213, R217 to R219: RVX on a usable glade of the own window: the first of a phase and those that join it arrive, the last of them completes the phase and
has its value at once, any other faults GLADE_STATE; a wait that a delivery or a save has interrupted goes on with its own arrival, or has its result,
or takes GLADE_STATE where its glade has become FAULTED meanwhile; a wait of another instruction that is kept stays
(the model's reading of R219, log 22); what each participant receives, by operation and type, with the rule's example. -/
def Obligations.ValueExchange : Prop :=
  let op (a : Args) : Nat := modBits a.mod 9 6
  let ty (a : Args) : Nat := modBits a.mod 5 4
  let me (c : Ctx) (a : Args) : Share := { tid := c.tid, a := read32 c a.sa, c := read32 c a.sc }
  let opens (c : Ctx) (off : Nat) : Prop :=
    let g := gRead c.s c.team off
    g.rvx = false ∧ g.apend = g.ainit ∧ g.spend = 0 ∧ (AMap.get {} c.team.glades off).resid = 0
  let joins (c : Ctx) (a : Args) (off : Nat) : Prop :=
    let g := gRead c.s c.team off
    let gl : Glade := AMap.get {} c.team.glades off
    g.rvx = true ∧ 1 ≤ g.apend ∧ gl.op = op a ∧ gl.ty = ty a ∧ (op a = 0 ∨ op a = 7 → gl.c = read32 c a.sc)
  let shares (c : Ctx) (a : Args) (off : Nat) : List Share :=
    if (gRead c.s c.team off).rvx then (AMap.get {} c.team.glades off).shares ++ [me c a] else [me c a]
  let arrived (c : Ctx) (a : Args) (off : Nat) : Glade :=
    let gl : Glade := { AMap.get {} c.team.glades off with op := op a, ty := ty a, shares := shares c a off }
    { gl with c := if (gRead c.s c.team off).rvx then gl.c else read32 c a.sc }
  let waits (c : Ctx) (a : Args) (off : Nat) (th : Thread) : Thread :=
    { th with wait := some (.exchange (read64 c a.sb) off (BitVec.ofNat 4 (gRead c.s c.team off).phase) (fixDst c.th.arch a.dst) (opLen c.th a)),
              waitFrom := c.s.cycle, after := a.live }
  (∀ (s : State) (c : Ctx) (a : Args) (off : Nat), ctxOf s = some c → ready c 1 0x23 a = true →
    keptHere c.th = none → gladeAddr s c.key c.team (read64 c a.sb) false = .ok (c.key, c.team, off, false) →
    copyHazard c.team c.tid (winLoc c.team off) 8 true = none →
    (locPoisoned s (winLoc c.team off) 8 = true → exec (.rvx a) s = .next (faulted c 0x22 (read64 c a.sb))) ∧
    (locPoisoned s (winLoc c.team off) 8 = false → gUsable c.team off (gRead s c.team off) true = false ∨ ¬(opens c off ∨ joins c a off) →
      exec (.rvx a) s = .next (faulted c 0x14 (read64 c a.sb))) ∧
    (locPoisoned s (winLoc c.team off) 8 = false → gUsable c.team off (gRead s c.team off) true = true → opens c off ∨ joins c a off →
      let g := gRead s c.team off
      exec (.rvx a) s = .next (afterJump c a (completeIfDone
        (withThread c (s.modTeam c.key fun t => { t with glades := AMap.set t.glades off (arrived c a off) }) (waits c a off))
        c.team.core c.key off { g with rvx := true, apend := g.apend - 1 })) ∧
      (g.apend = 1 → g.spend = 0 → (AMap.get {} c.team.glades off).resid = 0 →
        (∀ y ∈ (AMap.get {} c.team.glades off).shares, y.tid ≠ c.tid) →
        ∃ u kp, exec (.rvx a) s = .next u ∧ (c.th.kept = [] → kp = []) ∧ u.thread? c.key c.tid = some (enterTail a.live
          (passOp (write32 (waits c a off { c.th with kept := kp }) (fixDst c.th.arch a.dst)
            (rvxResult (op a) (ty a) (arrived c a off).c (shares c a off) (me c a))) (opLen c.th a) a.live))))) ∧
  ThreadOp 1 0x23 .rvx (fun c _ => ∃ pc ea off tok d len, keptHere c.th = some ⟨pc, .exchange ea off tok d len, none⟩) (fun c a =>
    afterJump c a (withThread c c.s fun th => { dropKept th with wait := (keptHere c.th).map Kept.wait, waitFrom := c.s.cycle })) ∧
  (∀ d r, ThreadOp 1 0x23 .rvx (fun c _ => ∃ pc ea off tok len, keptHere c.th = some ⟨pc, .exchange ea off tok d len, some (.value r)⟩) (fun c a =>
    afterDone c a (withThread c c.s fun th => write32 (dropKept th) d r))) ∧
  (∀ ea, ThreadOp 1 0x23 .rvx (fun c _ => ∃ pc off tok d len, keptHere c.th = some ⟨pc, .exchange ea off tok d len, some .faulted⟩) (fun c _ =>
    faultThread (withThread c c.s dropKept) c.key c.tid 0x14 ea)) ∧
  (∀ (k off : Nat) (th : Thread), let u := releaseFaulted true k off th
    u.kept.length = th.kept.length ∧ ∀ (i : Nat) (r : Kept), th.kept[i]? = some r →
      (∀ ea tok d len, r.wait = .exchange ea off tok d len → r.result = none → u.kept[i]? = some { r with result := some .faulted }) ∧
      ((∀ ea tok d len, ¬(r.wait = .exchange ea off tok d len ∧ r.result = none)) → u.kept[i]? = some r)) ∧
  (∀ (th : Thread) (x : Kept), x ∈ keepWait th ↔
    (∃ w, keptOf th = some w ∧ x = { pc := th.arch.pc, wait := w, result := none }) ∨ (x ∈ th.kept ∧ (keptOf th = none ∨ x.pc ≠ th.arch.pc))) ∧
  (∀ (t : Team) (k off tid : Nat) (gl : Glade) (th : Thread) (ea : DWord) (tok : BitVec 4) (d : Sel) (len : Nat) (y : Share),
    AMap.find t.threads tid = some th → (gl.shares.find? fun x => x.tid == tid) = some y →
    let v := rvxResult gl.op gl.ty gl.c gl.shares y
    (th.wait = some (.exchange ea off tok d len) → ∃ kp, (th.kept = [] → kp = []) ∧
      AMap.find (releaseGlade t k off tok.toNat gl).threads tid = some (passOp (write32 { th with kept := kp } d v) len th.after)) ∧
    (∀ pc, th.kept = [⟨pc, .exchange ea off tok d len, none⟩] →
      (th.wait = none → AMap.find (releaseGlade t k off tok.toNat gl).threads tid =
        some { th with kept := [⟨pc, .exchange ea off tok d len, some (.value v)⟩] }) ∧
      ∀ wa len2, th.wait = some (.glade wa k off tok len2) → AMap.find (releaseGlade t k off tok.toNat gl).threads tid =
        some (passOp { th with kept := [⟨pc, .exchange ea off tok d len, some (.value v)⟩] } len2 th.after))) ∧
  (∀ (t1 t2 : Nat) (x y u v : Word), t1 < t2 →
    let one : Share := { tid := t1, a := x, c := u }
    let two : Share := { tid := t2, a := y, c := v }
    ∀ all, all = [one, two] ∨ all = [two, one] → ∀ me ∈ all,
      (∀ ty, ty = 0 ∨ ty = 1 → rvxResult 1 ty 0 all me = x + y) ∧
      rvxResult 1 2 0 all me = BitVec.ofNat 32 (opAdd .f32 {} x.toNat y.toNat).bits ∧
      rvxResult 2 0 0 all me = (if x.toInt ≤ y.toInt then x else y) ∧ rvxResult 3 0 0 all me = (if x.toInt ≤ y.toInt then y else x) ∧
      rvxResult 2 1 0 all me = (if x.toNat ≤ y.toNat then x else y) ∧ rvxResult 3 1 0 all me = (if x.toNat ≤ y.toNat then y else x) ∧
      rvxResult 4 0 0 all me = x &&& y ∧ rvxResult 5 0 0 all me = x ||| y ∧ rvxResult 6 0 0 all me = x ^^^ y) ∧
  (∀ (all : List Share) (me : Share) (x : Word), (all.map Share.tid).Nodup →
    (∀ y ∈ all, y.tid = x.toNat → rvxResult 0 0 x all me = y.a) ∧ ((∀ y ∈ all, y.tid ≠ x.toNat) → rvxResult 0 0 x all me = 0) ∧
    (∀ y ∈ all, y.tid = me.c.toNat → rvxResult 8 0 x all me = y.a) ∧ ((∀ y ∈ all, y.tid ≠ me.c.toNat) → rvxResult 8 0 x all me = 0) ∧
    (∀ i, i < 32 → ((rvxResult 7 0 x all me).getLsbD i = true ↔ x.toNat ≤ 31 ∧ ∃ y ∈ all, y.tid = 32 * x.toNat + i ∧ y.a ≠ 0)) ∧
    (31 < x.toNat → rvxResult 7 0 x all me = 0)) ∧
  (let p (tid : Nat) (a c : Word) : Share := { tid := tid, a := a, c := c }
   (∀ me, rvxResult 1 2 0 [p 2 0x3F800000 0, p 0 0x4B800000 0, p 1 0xCB800000 0] me = 0x3F800000 ∧
     rvxResult 1 2 0 [p 0 0x80000000 0, p 1 0x80000000 0] me = 0x80000000 ∧ rvxResult 1 2 0 [p 0 0x7F800000 0, p 1 0xFF800000 0] me = 0x7FC00000 ∧
     rvxResult 2 2 0 [p 0 0 0, p 1 0x80000000 0] me = 0x80000000 ∧ rvxResult 3 2 0 [p 0 0x80000000 0, p 1 0 0] me = 0 ∧
     rvxResult 2 2 0 [p 0 0x40000000 0, p 1 0xBF800000 0] me = 0xBF800000 ∧ rvxResult 3 2 0 [p 0 0x40000000 0, p 1 0xBF800000 0] me = 0x40000000) ∧
   let four := [p 0 3 1, p 1 0 2, p 2 7 3, p 3 0 0]
   ∀ me ∈ four, rvxResult 7 0 0 four me = 5 ∧ rvxResult 1 0 0 four me = 0xA ∧
     rvxResult 8 0 0 four me = (if me.tid = 1 then 7 else if me.tid = 3 then 3 else 0))

/-! ## Control registers and system instructions -/

/-- R201, R269, R275, R279, R280, R332, R487: CSRR reads a control register, CSRW writes one, its reserved bits 0; each first has the thread's own copies
performed (the model's reading, log 67), and a CSRW of CR.EVEC writes the record of its whole grid, a CSRW of team or virtual-device scope takes a
time later than the register's earlier ones, which a CSRR of it meets; PERFR: of a unit's counters, a read first puts every cycle that has gone by under
exactly one cause (which is the model's open value, log 10). -/
def Obligations.ControlRegisters : Prop :=
  let alone (c : Ctx) : Prop := ∀ p ∈ c.team.copies, p.2.tid ≠ some c.tid
  let met (c : Ctx) (n : Nat) : State := (crPlace c n).elim c.s (meetCr c.s c.team.core)
  ThreadOp 1 0xE0 .csrr (fun c _ => alone c) (fun c a => afterDone c a (withThread c (met c a.mod.toNat) fun th =>
    if crWide a.mod.toNat then write64 th a.dst (crRead c a.mod.toNat) else write32 th a.dst ((crRead c a.mod.toNat).truncate 32))) ∧
  ThreadOp 1 0xE1 .csrw (fun c _ => alone c) (fun c a =>
    let s1 := crWrite c a.mod.toNat (if crWide a.mod.toNat then read64 c a.sa else (read32 c a.sa).zeroExtend 64)
    afterDone c a ((crPlace c a.mod.toNat).elim s1 (touchCr s1 c.team.core))) ∧
  (∀ (i : Args → Instr) (opc : Nat) (p : Nat × Copy), (i = .csrr ∧ opc = 0xE0) ∨ (i = .csrw ∧ opc = 0xE1) →
    ThreadOp 1 opc i (fun c _ => (c.team.copies.find? fun p => p.2.tid == some c.tid) = some p)
      (fun c a => afterJump c a (performCopiesTo c.s c.key p.1))) ∧
  (∀ (c : Ctx) (n : Nat), (crPlace c n).isSome = true ↔ n = 0x002 ∨ n = 0x004 ∨ n = 0x022 ∨ n = 0x040) ∧
  (∀ (s : State) (core key : Nat), let u := touchCr s core key
    (meetCr s core key).mem = s.mem ∧ (meetCr s core key).teams = s.teams ∧ u.mem = s.mem ∧ u.teams = s.teams ∧
    (AMap.get 0 s.crTimes key).toNat ≤ (ctOf (meetCr s core key) core).toNat ∧ (ctOf s core).toNat ≤ (ctOf u core).toNat ∧
    AMap.get 0 u.crTimes key = ctOf u core ∧
    ((AMap.get 0 s.crTimes key).toNat < 2 ^ 64 - 1 → (AMap.get 0 s.crTimes key).toNat < (AMap.get 0 u.crTimes key).toNat)) ∧
  (∀ c : Ctx,
    crRead c 0x000 = (c.s.vd c.team.vd).feat.zeroExtend 64 ∧
    (c.team.vd < 256 → (c.s.vd c.team.vd).part < 4 → (crRead c 0x001).toNat = c.team.vd + 256 * (c.s.vd c.team.vd).part) ∧
    crRead c 0x002 = (c.s.vd c.team.vd).fvec ∧ crRead c 0x003 = c.team.lrec.evec ∧ crRead c 0x004 = (c.s.vd c.team.vd).dumpbase ∧
    crRead c 0x010 = c.th.cr.fstat.zeroExtend 64 ∧ crRead c 0x011 = c.th.cr.fpc ∧ crRead c 0x012 = c.th.cr.faddr ∧
    crRead c 0x013 = c.th.cr.fscr ∧ crRead c 0x014 = c.th.cr.fcls.zeroExtend 64 ∧ crRead c 0x020 = c.team.ufpc ∧
    crRead c 0x021 = c.team.ufcmd ∧ crRead c 0x022 = c.team.wdlim ∧ crRead c 0x032 = c.th.cr.hsel.zeroExtend 64 ∧
    crRead c 0x040 = (if (c.s.vd c.team.vd).perfctl then 1 else 0) ∧ crRead c 0x041 = (if (c.s.vd c.team.vd).dbgctl then 1 else 0)) ∧
  (let tagged (c : Ctx) (f : Tag → Prop) (j : Nat) : Prop := j < 64 ∧ ∃ p ∈ c.s.teams, p.2.resident = true ∧ p.2.retired = false ∧
     p.2.core = c.team.core ∧ ∃ i, i < p.2.lrec.tags ∧ p.2.tagBase + i = j ∧ f (AMap.get {} p.2.tags i)
   ∀ (c : Ctx) (j : Nat), ((crRead c 0x030).getLsbD j = true ↔ tagged c (fun g => g.count ≠ 0) j) ∧
     ((crRead c 0x031).getLsbD j = true ↔ tagged c (fun g => g.fault = true) j)) ∧
  (∀ c : Ctx,
    let item := c.th.cr.hsel.toNat % 65536
    let stands (p : Nat × Team) (x : Nat × Thread) : Prop := p ∈ c.s.teams ∧ p.2.vd = c.team.vd ∧ p.2.core = c.team.core ∧ p.2.resident = true ∧
      x ∈ p.2.threads ∧ x.2.slot = c.th.cr.hsel.toNat / 65536 ∧ hasStopped c.s p.1 x.1 x.2 = true
    ((∀ p x, ¬stands p x) → crRead c 0x033 = 0) ∧
    ∀ p x, stands p x → (∀ q y, stands q y → q = p ∧ y = x) →
      (item < 256 → crRead c 0x033 = if item < 8 * p.2.lrec.regs8 then (vReg x.2.arch item).zeroExtend 64 else 0) ∧
      (item = 256 → crRead c 0x033 = x.2.arch.p.zeroExtend 64) ∧ (item = 257 → crRead c 0x033 = x.2.arch.fflags.zeroExtend 64) ∧
      (item = 258 → (crRead c 0x033).toNat = x.2.arch.pc.toNat % 2 ^ 32) ∧ (item = 259 → (crRead c 0x033).toNat = x.2.arch.pc.toNat / 2 ^ 32) ∧
      (item = 260 → crRead c 0x033 = x.2.cr.fstat.zeroExtend 64) ∧ (item = 261 → (crRead c 0x033).toNat = x.1 % 2 ^ 32) ∧
      (262 ≤ item → crRead c 0x033 = 0)) ∧
  (∀ (c : Ctx) (x : DWord), c.s.team? c.key = some c.team → c.s.thread? c.key c.tid = some c.th →
    let cr (n : Nat) : Option FaultRegs := ((crWrite c n x).thread? c.key c.tid).map Thread.cr
    cr 0x010 = some { c.th.cr with fstat := x.truncate 32 &&& 0xFF00FFF7 } ∧ cr 0x011 = some { c.th.cr with fpc := x } ∧
    cr 0x012 = some { c.th.cr with faddr := x } ∧ cr 0x013 = some { c.th.cr with fscr := x } ∧
    cr 0x014 = some { c.th.cr with fcls := x.truncate 32 &&& 0x001F1FFF } ∧ cr 0x032 = some { c.th.cr with hsel := x.truncate 32 } ∧
    ((crWrite c 0x002 x).vd c.team.vd).fvec = x ∧ ((crWrite c 0x004 x).vd c.team.vd).dumpbase = x ∧
    ((crWrite c 0x040 x).vd c.team.vd).perfctl = x.getLsbD 0 ∧ ((crWrite c 0x022 x).team? c.key).map Team.wdlim = some x ∧
    ((crWrite c 0x003 x).team? c.key).map (fun t => t.lrec.evec) = some x) ∧
  (∀ (c : Ctx) (x : DWord), let u := crWrite c 0x003 x
    (∀ k t, c.s.team? k = some t →
      (t.launch = c.team.launch ∧ t.node = c.team.node → u.team? k = some { t with lrec := { t.lrec with evec := x } }) ∧
      (¬(t.launch = c.team.launch ∧ t.node = c.team.node) → u.team? k = some t)) ∧
    (∀ l nd, AMap.find c.s.launches c.team.launch = some l → AMap.find l.nodes c.team.node = some nd →
      ((AMap.find u.launches c.team.launch).bind fun y => AMap.find y.nodes c.team.node) = some { nd with lrec := { nd.lrec with evec := x } }) ∧
    (∀ l, l ≠ c.team.launch → AMap.find u.launches l = AMap.find c.s.launches l) ∧ u.mem = c.s.mem ∧ u.vds = c.s.vds) ∧
  (let n (c : Ctx) (a : Args) : Nat := (read32 c a.sa).toNat % 65536
   let core (c : Ctx) (a : Args) : Nat := if 0x3000 ≤ n c a ∧ n c a < 0x6000 then c.team.core / 4 * 4 else c.team.core
   let seen (c : Ctx) : State := meetCr c.s c.team.core (crKey c.team.vd 0x040)
   let shared (c : Ctx) (a : Args) : State :=
     shareCycles c.team.vd (core c a) (n c a) (cyclesLeft (seen c) c.team.vd (core c a) (n c a)) (List.range 10) (seen c)
   let give (c : Ctx) (a : Args) (s : State) (x : DWord) : State := afterDone c a (withThread c s fun th => write64 th a.dst x)
   ThreadOp 1 0xE7 .perfr (fun c a => perfExists (n c a) = false) (fun c a => give c a (seen c) 0) ∧
   ThreadOp 1 0xE7 .perfr (fun c a => n c a ∈ [0x000, 0x100, 0x200, 0x300, 0x400, 0x500])
     (fun c a => give c a (seen c) (AMap.get 0 c.s.perf (perfKey c.team.vd c.team.core (n c a)))) ∧
   ThreadOp 1 0xE7 .perfr (fun c a => perfExists (n c a) = true ∧ 0x1000 ≤ n c a)
     (fun c a => give c a (shared c a) (AMap.get 0 (shared c a).perf (perfKey c.team.vd (core c a) (n c a))))) ∧
  (∀ (s : State) (vd core n left : Nat),
    let under (s : State) : DWord := ((List.range 10).map fun cause => AMap.get 0 s.perf (perfKey vd core (perfCause n cause))).sum
    let u := shareCycles vd core n left (List.range 10) s
    under u = under s + BitVec.ofNat 64 left ∧ u.teams = s.teams ∧ u.mem = s.mem ∧ u.scratch = s.scratch ∧
    ∀ m, (∀ cause, cause < 10 → m ≠ perfKey vd core (perfCause n cause)) → AMap.get 0 u.perf m = AMap.get 0 s.perf m) ∧
  (∀ (s : State) (vd core n m : Nat) (x : DWord), AMap.get 0 (addPerf s vd core n x).perf m =
    AMap.get 0 s.perf m + if m = perfKey vd core n then x else 0)

/-- R278, R422: TLBINV removes the virtual device's translations that meet the page from every cache, and the walked ones are those of its
shootdown; TLBSYNC completes once nothing holds them; their decoded and code lines then go. -/
def Obligations.TranslationShootdown : Prop :=
  let sz (a : Args) : Nat := modBits a.mod 1 0
  let gone (c : Ctx) (a : Args) (x : Trans) : Bool := shotBy c.team.vd (sz a) (read64 c a.sa).toNat x
  let mine (c : Ctx) (h : Shoot) : Bool := h.team == c.key && h.tid == c.tid
  ThreadOp 1 0xE5 .tlbinv (fun c a => sz a = 3 ∨ (read64 c a.sa).toNat < 2 ^ 52) (fun c a =>
    afterDone c a { clearTlbs c.s (gone c a) with
      shoot := c.s.shoot ++ (c.s.walked.filter (gone c a)).map fun x => { team := c.key, tid := c.tid, old := x } }) ∧
  (∀ (s : State) (f : Trans → Bool) (c : Nat) (x : Trans), x ∈ AMap.get [] (clearTlbs s f).tlb c ↔ x ∈ AMap.get [] s.tlb c ∧ f x = false) ∧
  ThreadOp 1 0xE5 .tlbinv (fun c a => sz a ≠ 3 ∧ 2 ^ 52 ≤ (read64 c a.sa).toNat) (fun c a => faulted c 0x0D (read64 c a.sa)) ∧
  ThreadOp 1 0xE6 .tlbsync (fun c _ => ∀ h ∈ c.s.shoot, mine c h = true → stillHeld c.s h.old = false) (fun c a =>
    afterDone c a ((c.s.shoot.filter (mine c)).foldl (fun s h => endShot s h.old)
      { c.s with shoot := c.s.shoot.filter fun h => !mine c h })) ∧
  ThreadOp 1 0xE6 .tlbsync (fun c _ => ∃ h ∈ c.s.shoot, mine c h = true ∧ stillHeld c.s h.old = true) (fun c a => afterStay c a c.s) ∧
  (∀ (s : State) (old : Trans) (cl : Nat) (l : Line), l ∈ AMap.get [] (endShot s old).lines cl ↔
    l ∈ AMap.get [] s.lines cl ∧ ¬(old.frame ≤ l.pa ∧ l.pa < old.frame + 2 ^ old.lg)) ∧
  (∀ (vd lg va : Nat) (x : Trans), x.vd = vd → x.va = va / 2 ^ x.lg * 2 ^ x.lg → (lg = 16 ∨ lg = 21 ∨ lg = 30) →
    shotBy vd (if lg = 16 then 0 else if lg = 21 then 1 else 2) va x = true ∧ shotBy vd 3 va x = true) ∧
  (∀ (vd sz va : Nat) (x : Trans), x.vd ≠ vd → shotBy vd sz va x = false)

/-- R270, R271: what the delivery of a fault or a TRAP saves, and where it goes; nothing else of the thread's registers changes. Under a guest
personality the flag sets in CR.FCLS are those of the last native clause, the model's choice (log 66). -/
def Obligations.FaultRecord : Prop :=
  ∀ (s : State) (k tid : Nat) (t : Team) (th : Thread) (code trapno src : BitVec 8) (resume datum : DWord), s.team? k = some t →
    s.thread? k tid = some th → isLive th = false → ¬(code = 0x03 ∧ th.arch.mode = true) → src.toNat < 4 →
    ∃ u, (deliver s k tid code trapno src resume datum).thread? k tid = some u ∧
      u.cr.fstat.toNat = code.toNat * 2 ^ 24 + trapno.toNat * 2 ^ 8 + 2 ^ 7 + src.toNat * 2 ^ 5 + (if th.arch.mode then 2 ^ 4 else 0) +
        th.arch.pix.toNat ∧
      u.cr.fpc = resume ∧ u.cr.faddr = datum ∧ u.cr.fscr = th.cr.fscr ∧ u.cr.hsel = th.cr.hsel ∧
      (let set (f : Option (BitVec 4)) (low : Nat) : Nat := match f with
         | some i => 2 ^ (low + 4) + i.toNat * 2 ^ low
         | none => 0
       u.cr.fcls.toNat = th.arch.prio.toNat + set th.arch.clause.aflag 8 + set th.arch.clause.bflag 16) ∧
      u.arch = { th.arch with mode := true, pix := 0, pc := (s.vd t.vd).fvec, clause := u.arch.clause } ∧
      u.arch.clause = { th.arch.clause with due := true, loose := false } ∧
      u.f = th.f ∧ u.out = th.out ∧ u.expansion = none ∧ u.wait = none ∧
      (deliver s k tid code trapno src resume datum).mem = s.mem ∧ (deliver s k tid code trapno src resume datum).scratch = s.scratch ∧
      (∀ j i, ¬(j = k ∧ i = tid) → (deliver s k tid code trapno src resume datum).thread? j i = s.thread? j i)

/-- R271, R447 to R450: a second event while LIVE = 1 is a double fault that terminates the gang: the gang and its teams are gone, its node ends, a
notice of KIND 1 names DOUBLE_FAULT, the second fault's code and its datum; MASKED_OP in S mode halts the virtual device, the thread as it was, with a
notice of KIND 2; a notice waits for room in the ring of each OWNER port (log 13). -/
def Obligations.DoubleFault : Prop :=
  (∀ (s : State) (k tid : Nat) (t : Team) (th : Thread) (code trapno src : BitVec 8) (resume datum : DWord), s.team? k = some t →
    s.thread? k tid = some th → isLive th = true →
    deliver s k tid code trapno src resume datum =
      terminateGang (s.modThread k tid fun th => { th with dead := true }) t.gang 0x20 code t.teamid tid datum true ∧
    ∀ g, s.gang? t.gang = some g →
      let seq := ((g.teams.head?.bind s.team?).map Team.grid).getD 0
      ∃ v, deliver s k tid code trapno src resume datum = postNotice v (noticeBytes 1 0x20 code g.vd t.teamid seq tid datum s.growth) ∧
        v.gang? t.gang = none ∧ (∀ j ∈ g.teams, v.team? j = none) ∧
        ∀ x nd, AMap.find s.launches g.launch = some x → AMap.find x.nodes g.node = some nd → nd.state ≠ .done → nd.ending = none →
          ∃ y n2, AMap.find v.launches g.launch = some y ∧ AMap.find y.nodes g.node = some n2 ∧
            (n2.ending = some 8 ∨ (n2.state = .done ∧ n2.status = 8))) ∧
  (∀ (s : State) (gk : Nat) (g : Gang), s.gang? gk = some g →
    (dropGang s gk).gang? gk = none ∧ ∀ k ∈ g.teams, (dropGang s gk).team? k = none) ∧
  (∀ (s : State) (k tid : Nat) (t : Team) (th : Thread) (resume datum : DWord), s.team? k = some t → s.thread? k tid = some th →
    isLive th = false → th.arch.mode = true →
    deliver s k tid 0x03 0 0 resume datum = postNotice (s.modVd t.vd fun v => { v with halted := true })
      (noticeBytes 2 0x03 0 t.vd t.teamid t.grid tid datum s.growth) ∧
    ((deliver s k tid 0x03 0 0 resume datum).vd t.vd).halted = true ∧
    (deliver s k tid 0x03 0 0 resume datum).thread? k tid = some th) ∧
  (∀ (s : State) (bs : List Byte),
    (postNotice s bs).teams = s.teams ∧ (postNotice s bs).gangs = s.gangs ∧ (postNotice s bs).launches = s.launches ∧
    ((s.ports.map Prod.fst).Nodup → (∀ x ∈ s.ports, x.2.owner = true → x.2.notices = []) →
      (postNotice s bs).mem = (s.ports.filter fun x => x.2.owner && ringRoom x.2).foldl
        (fun m x => cellsSet m (x.2.evbase.toNat + 32 * x.2.evtail.toNat) bs) s.mem ∧
      ∀ x ∈ s.ports, let q := AMap.get {} (postNotice s bs).ports x.1
        (x.2.owner = false → q = x.2) ∧
        (x.2.owner = true → ringRoom x.2 = true → q.evtail.toNat = (x.2.evtail.toNat + 1) % x.2.evsize.toNat ∧ q.notices = []) ∧
        (x.2.owner = true → ringRoom x.2 = false → q.evtail = x.2.evtail ∧ q.notices = [(bs, s.growth.toNat)]))) ∧
  (∀ (kind vdn w seq tid : Nat) (code code2 : BitVec 8) (datum stamp : DWord), kind < 256 → vdn < 256 →
    let b := noticeBytes kind code code2 vdn w seq tid datum stamp
    b.length = 32 ∧ b.take 4 = [BitVec.ofNat 8 kind, code, code2, BitVec.ofNat 8 vdn] ∧ leNat ((b.drop 4).take 4) = w % 2 ^ 32 ∧
    leNat ((b.drop 8).take 4) = seq % 2 ^ 32 ∧ leNat ((b.drop 12).take 4) = tid % 2 ^ 32 ∧ leNat ((b.drop 16).take 8) = datum.toNat ∧
    leNat (b.drop 24) = stamp.toNat)

/-- R75, R121, R276, R277: TRAP delivers code 0 with its number, its operand and the address after it, a transfer that makes its live record a safe
point; ERET restores what a delivery saved, and the boundary it comes to has its live record (R428). That under a guest personality CR.FCLS holds the
flag sets of the last native clause, and that a flag number of 12 to 15 in it is taken as it stands, is the model's choice (log 66). -/
def Obligations.TrapAndReturn : Prop :=
  ThreadOp 1 0xE2 .trap (fun _ _ => True) (fun c a =>
    afterJump c a (withThread c (deliver c.s c.key c.tid 0 (BitVec.ofNat 8 (modBits a.mod 7 0)) 0 (returnAddr c.th a) (read64 c a.sa))
      fun th => { th with safe := a.live })) ∧
  ThreadOp 1 0xE3 .eret (fun _ _ => True) (fun c a => afterJump c a (withThread c c.s fun th => returnFault th a.live)) ∧
  (∀ (th : Thread) (l : Option LiveRec),
    let u := returnFault th l
    u.arch.pc = th.cr.fpc ∧ u.arch.mode = th.cr.fstat.getLsbD 4 ∧ u.arch.pix = th.cr.fstat.truncate 3 ∧
    u.arch.prio = th.cr.fcls.truncate 8 ∧ isLive u = false ∧ (∀ j, j ≠ 7 → u.cr.fstat.getLsbD j = th.cr.fstat.getLsbD j) ∧
    u.arch.clause.aflag = (if th.cr.fcls.getLsbD 12 then some (th.cr.fcls.extractLsb' 8 4) else none) ∧
    u.arch.clause.bflag = (if th.cr.fcls.getLsbD 20 then some (th.cr.fcls.extractLsb' 16 4) else none) ∧
    u.arch = { th.arch with pc := u.arch.pc, mode := u.arch.mode, pix := u.arch.pix, prio := u.arch.prio, clause := u.arch.clause } ∧
    u.f = th.f ∧ u.out = th.out ∧ u.safe = l) ∧
  (∀ (th : Thread) (fvec resume datum : DWord) (code : BitVec 8) (l : Option LiveRec), resume = th.arch.pc →
    let u := returnFault (enterHandler th fvec code 0 0 resume datum) l
    u.arch = th.arch) ∧
  (∀ (th : Thread) (fvec resume datum : DWord) (n : BitVec 8) (l : Option LiveRec), th.arch.clause.loose = false →
    resume = th.arch.clause.stop → resume ≠ th.arch.pc →
    let u := returnFault (enterHandler th fvec 0 n 0 resume datum) l
    u.arch.pc = resume ∧ u.arch.clause.due = true)

/-- R279, R281: BRKPT, HALTT and HALTT.go, and what the debugger does. A HALTT whose stop is in force waits while one of its targets is inside an
expansion, and completes once each of them stands; that it is known by its address and its scope, and that its targets are those of its first
performance, is the model's choice (log 57). -/
def Obligations.HaltsAndBreakpoints : Prop :=
  ThreadOp 1 0xE8 .brkpt (fun c _ => (c.s.vd c.team.vd).dbgctl = false) (fun c a => afterDone c a c.s) ∧
  ThreadOp 1 0xE8 .brkpt (fun c _ => (c.s.vd c.team.vd).dbgctl = true) (fun c a =>
    let s1 := c.s.modTeam c.key fun t => { t with dbgStop := true }
    afterDone c a { s1 with breaks := (c.key, modBits a.mod 7 0, c.th.arch.pc) :: s1.breaks }) ∧
  (let begun (c : Ctx) (a : Args) (h : Halt) : Bool :=
     h.team == c.key && h.tid == c.tid && h.pc == c.th.arch.pc && h.scope == modBits a.mod 1 0 && !h.complete
   let fresh (c : Ctx) (a : Args) : Prop := ∀ h ∈ c.s.halts, begun c a h = false
   let runs (c : Ctx) (xs : List (Nat × Option Nat)) : Prop :=
     ∃ k tid th x, (k, some tid) ∈ xs ∧ c.s.thread? k tid = some th ∧ th.expansion = some x ∧ ¬(x.committed = true ∧ (th.wait ≠ none ∨ th.rep ≠ none))
   let stop (c : Ctx) (a : Args) (b : Bool) : Halt :=
     { team := c.key, tid := c.tid, pc := c.th.arch.pc, scope := modBits a.mod 1 0, targets := haltTargets c (modBits a.mod 1 0), complete := b }
   ThreadOp 1 0xE9 .haltt (fun c a => fresh c a ∧ ¬runs c (haltTargets c (modBits a.mod 1 0)))
     (fun c a => afterDone c a { c.s with halts := stop c a true :: c.s.halts }) ∧
   ThreadOp 1 0xE9 .haltt (fun c a => fresh c a ∧ runs c (haltTargets c (modBits a.mod 1 0)))
     (fun c a => afterStay c a { c.s with halts := stop c a false :: c.s.halts }) ∧
   ThreadOp 1 0xE9 .haltt (fun c a => ∃ h, c.s.halts.find? (begun c a) = some h ∧ runs c h.targets) (fun c a => afterStay c a c.s) ∧
   ThreadOp 1 0xE9 .haltt (fun c a => ∃ h, c.s.halts.find? (begun c a) = some h ∧ ¬runs c h.targets) (fun c a =>
     afterDone c a { c.s with halts := c.s.halts.map fun h => if begun c a h then { h with complete := true } else h }) ∧
   ThreadOp 1 0xE9 .halttGo (fun _ _ => True) (fun c a =>
     afterDone c a { c.s with halts := c.s.halts.filter fun h => !(h.team == c.key && h.tid == c.tid) })) ∧
  (∀ (s : State) (k : Nat) (tid : Option Nat) (h : Halt), h ∈ s.halts → (k, tid) ∈ h.targets → isHalted s k tid = true) ∧
  (∀ (c : Ctx) (sc : Nat), (c.key, some c.tid) ∉ haltTargets c sc) ∧
  (∀ (s : State) (vd k : Nat) (en : Bool) (t : Team), s.team? k = some t →
    (∃ u, exec (.debuggerAttach vd en) s = .next u ∧ u.vd vd = { s.vd vd with dbgctl := en } ∧ u.teams = s.teams ∧ u.mem = s.mem) ∧
    (∃ u, exec (.debuggerResume k) s = .next u ∧ u.team? k = some { t with dbgStop := false } ∧ u.mem = s.mem))

/-! ## The uniform stream -/

/-- R226, R227: the K arithmetic and KCMP. -/
def Obligations.UniformArithmetic : Prop :=
  let any : State → Team → Args → Prop := fun _ _ _ => True
  let gives (opc : Nat) (i : Args → Instr) (f : State → Team → Args → DWord) : Prop :=
    StreamOp opc false i any fun s k t a => afterStream k a (s.setTeam k (kwrite t a.dst (f s t a)))
  gives 0x00 .kadd (fun s t a => kread s t a.sa + kread s t a.sb) ∧ gives 0x01 .ksub (fun s t a => kread s t a.sa - kread s t a.sb) ∧
  gives 0x02 .kmul (fun s t a => kread s t a.sa * kread s t a.sb) ∧ gives 0x03 .kand (fun s t a => kread s t a.sa &&& kread s t a.sb) ∧
  gives 0x04 .kor (fun s t a => kread s t a.sa ||| kread s t a.sb) ∧ gives 0x05 .kxor (fun s t a => kread s t a.sa ^^^ kread s t a.sb) ∧
  gives 0x06 .kshl (fun s t a => kread s t a.sa <<< (kread s t a.sb).toNat) ∧
  gives 0x07 .kshr (fun s t a => if modBits a.mod 9 9 = 1 then (kread s t a.sa).sshiftRight (kread s t a.sb).toNat
    else kread s t a.sa >>> (kread s t a.sb).toNat) ∧
  gives 0x08 .kmov (fun s t a => kread s t a.sa) ∧
  gives 0x09 .kli (fun s t a => if modBits a.mod 9 9 = 1 then (kread s t a.sa <<< 32) ||| (kread s t a.dst &&& 0xFFFFFFFF)
    else kread s t a.sa) ∧
  StreamOp 0x0C false .kcmp any (fun s k t a =>
    let sg := modBits a.mod 4 4 == 0
    let r := intCond (modBits a.mod 3 0) (toVal sg 64 (kread s t a.sa).toNat) (toVal sg 64 (kread s t a.sb).toNat)
      (kread s t a.sa).toNat (kread s t a.sb).toNat
    afterStream k a (s.setTeam k { t with q := if r then t.q ||| (1#8 <<< a.dst.toNum) else t.q &&& ~~~(1#8 <<< a.dst.toNum) })) ∧
  (∀ (t : Team) (j : BitVec 6) (x : DWord) (i : Nat),
    AMap.get 0 (kwrite t (.k j) x).k i = if i = j.toNat then x else AMap.get 0 t.k i)

/-- R230 to R234: KLD and KST, the control transfers, KBAR, KWAIT and KEXIT, whose BARRIER_MISMATCH names the lowest-numbered of the barriers
that fail its check (log 59). A KBAR keeps the K registers for the threads that have not yet arrived on its barrier; one whose wait on a later
KBAR's phase has returned sees them as that KBAR left them (R36). -/
def Obligations.UniformControl : Prop :=
  let addr (s : State) (t : Team) (a : Args) : DWord := kread s t a.sa + a.aux.getD 0
  let size (a : Args) : Nat := if modBits a.mod 9 7 = 0 then 8 else 4
  let go (s : State) (k : Nat) (t : Team) (x : DWord) : State := s.setTeam k { t with stream := streamGo t.stream x }
  let clear (s : State) (t : Team) (l : Loc) : Prop :=
    (t.running.any fun r => (bulkLines s t r).contains (lineKey l)) = false ∧
    (t.granted.any fun g => (engineLines s t g.2).contains (lineKey l)) = false
  let outstanding (s : State) (k : Nat) (t : Team) (a : Args) (ac : Access) : State :=
    afterStream k a ((noteAccess s t ac.va ac.loc).modTeam k fun t =>
      kfInc { t with stream := { t.stream with out := t.stream.out ++ [ac] } } ac.flag)
  (∀ (s : State) (k : Nat) (t : Team) (a : Args) (l : Loc), streamOf s = some (k, t) → clear s t l →
    (∀ j, kready s t 0x0A a false = true → a.dst = .k j → kflagFull t t.stream.clause.aflag = false →
      resolve s t false (addr s t a) (size a) ⟨true, false⟩ = .ok l →
      exec (.kld a) s = .next (outstanding s k t a { op := .kload j (modBits a.mod 9 7), loc := l, size := size a, va := addr s t a,
                                                     flag := t.stream.clause.aflag, port := locPort l, pc := t.stream.pc })) ∧
    (kready s t 0x0B a false = true → kflagFull t t.stream.clause.bflag = false →
      resolve s t false (addr s t a) (size a) ⟨false, true⟩ = .ok l →
      exec (.kst a) s = .next (outstanding s k t a { op := .store (leBytes (size a) (kread s t a.sb).toNat), loc := l, size := size a,
                                                     va := addr s t a, flag := t.stream.clause.bflag, port := locPort l, pc := t.stream.pc }))) ∧
  StreamOp 0x10 false .kbr (fun _ _ _ => True) (fun s k t a => go s k t (t.stream.pc + a.aux.getD 0)) ∧
  StreamOp 0x11 false .kcall (fun _ _ _ => True) (fun s k t a =>
    go s k (kwrite t a.dst (t.stream.pc + BitVec.ofNat 64 (8 * a.words))) (t.stream.pc + a.aux.getD 0)) ∧
  StreamOp 0x12 false .kret (fun s t a => (kread s t a.sa).toNat % 8 = 0) (fun s k t a => go s k t (kread s t a.sa)) ∧
  StreamOp 0x12 false .kret (fun s t a => (kread s t a.sa).toNat % 8 ≠ 0) (fun s k t a => faultStream s k 0x08 (kread s t a.sa)) ∧
  (let bar (t : Team) (a : Args) : Barrier := AMap.get {} t.barriers a.sa.toNum
   let bad (t : Team) (a : Args) : Prop := ((bar t a).opened = true ∧ (bar t a).u = false) ∨ (bar t a).uarr = true
   let arrived (t : Team) (a : Args) : Team :=
     let m : KMark := { no := t.kbars + 1, k := t.k }
     tryRelease { t with kbars := t.kbars + 1, kold := t.kold ++ [{ b := a.sa.toNum, mark := m }] } a.sa.toNum
       { bar t a with uarr := true, marks := AMap.set (bar t a).marks (bar t a).phase.toNat m }
   StreamOp 0x13 false .kbar (fun _ t a => ¬bad t a ∧ (modBits a.mod 9 9 ≠ 1 ∨ (bar (arrived t a) a).phase ≠ (bar t a).phase))
     (fun s k t a => afterStream k a (touchBarrier (s.setTeam k (arrived t a)) k a.sa.toNum)) ∧
   StreamOp 0x13 false .kbar (fun _ t a => ¬bad t a ∧ modBits a.mod 9 9 = 1 ∧ (bar (arrived t a) a).phase = (bar t a).phase)
     (fun s k t a => touchBarrier (s.setTeam k { arrived t a with
       stream := { (arrived t a).stream with wait := some (.barrier a.sa.toNum (bar t a).phase (8 * a.words)) } }) k a.sa.toNum) ∧
   StreamOp 0x13 false .kbar (fun _ t a => bad t a) (fun s k _ a => faultStream s k 0x16 (BitVec.ofNat 64 a.sa.toNum))) ∧
  (∀ (t : Team) (tid : Nat) (l r : List KView) (v : KView), t.kold = l ++ v :: r →
    (∀ x ∈ l, tid ∈ (AMap.get {} t.barriers x.b).who) → tid ∉ (AMap.get {} t.barriers v.b).who →
    (AMap.find v.seen tid = none → kFor t tid = v.mark.k) ∧ ∀ m, AMap.find v.seen tid = some m → kFor t tid = m.k) ∧
  (∀ (t : Team) (tid : Nat), (∀ x ∈ t.kold, tid ∈ (AMap.get {} t.barriers x.b).who) → kFor t tid = t.k) ∧
  (∀ (t : Team) (tid b : Nat) (tok : BitVec 4) (m : KMark), AMap.find (AMap.get {} t.barriers b).marks tok.toNat = some m →
    ∃ f : KView → KView, (seesPhase t tid b tok).kold = t.kold.map f ∧ ∀ v, (f v).b = v.b ∧ (f v).mark = v.mark ∧
      (∀ j, j ≠ tid → AMap.find (f v).seen j = AMap.find v.seen j) ∧
      (v.mark.no < m.no → (∀ x, AMap.find v.seen tid = some x → x.no < m.no) → AMap.find (f v).seen tid = some m) ∧
      (m.no ≤ v.mark.no ∨ (∃ x, AMap.find v.seen tid = some x ∧ m.no ≤ x.no) → AMap.find (f v).seen tid = AMap.find v.seen tid)) ∧
  StreamOp 0x14 false .kwait (fun s t a => AMap.get 0 t.kf a.sa.toNum ≤ (kread s t a.sb).toNat) (fun s k _ a => afterStream k a s) ∧
  StreamOp 0x14 false .kwait (fun s t a => (kread s t a.sb).toNat < AMap.get 0 t.kf a.sa.toNum) (fun s k t a =>
    s.setTeam k { t with stream := { t.stream with wait := some (.flag (BitVec.ofNat 4 a.sa.toNum) (kread s t a.sb).toNat (8 * a.words)) } }) ∧
  StreamOp 0x16 false .kexit
    (fun _ t _ => (∀ p ∈ t.kf, p.2 = 0) ∧ t.bulk = [] ∧ t.running = none ∧ t.matrix = [] ∧
      ∀ p ∈ t.barriers, p.2.opened = true → p.2.u = true → p.2.uarr = true)
    (fun s k t _ => s.setTeam k { t with stream := { t.stream with retired := true } }) ∧
  (∀ (s : State) (k b : Nat) (t : Team) (a : Args) (x : Barrier) (l r : List (Nat × Barrier)), streamOf s = some (k, t) →
    kready s t 0x16 a false = true → (∀ p ∈ t.kf, p.2 = 0) → t.bulk = [] → t.running = none → t.matrix = [] →
    t.barriers = l ++ (b, x) :: r → (∀ p ∈ l, ¬(p.2.opened = true ∧ p.2.u = true ∧ p.2.uarr = false)) →
    x.opened = true → x.u = true → x.uarr = false → exec (.kexit a) s = .next (faultStream s k 0x16 (BitVec.ofNat 64 b))) ∧
  (∀ (t : Team) (tid b n : Nat), t.stream.retired = true → arriveBarrier t tid b n true = none ∨
    (AMap.get {} t.barriers b).opened = true ∧ (AMap.get {} t.barriers b).u = true)

/-- R229, R235, R245: a posted command enters its queue with its operands read and its guard resolved, and its flag counts it. -/
def Obligations.PostedCommands : Prop :=
  let bulk (s : State) (t : Team) (a : Args) (op : Instr) (flag : Option (BitVec 4)) : Team :=
    kfInc { t with
      nextCopy := t.nextCopy + 1,
      bulk := t.bulk ++ [{ op := op, addr := t.stream.pc, d := kread s t a.sc, a := kread s t a.dst, b := kread s t a.sa,
                           c := kread s t a.sb, guard := qTrue t a.guard, flag := flag, no := t.nextCopy }] } flag
  let matrix (s : State) (t : Team) (a : Args) (op : Instr) (flag : Option (BitVec 4)) : Team :=
    kfInc { t with
      nextCopy := t.nextCopy + 1,
      matrix := t.matrix ++ [{ op := op, addr := t.stream.pc, d := kread s t a.sc, a := kread s t a.sa, b := kread s t a.sb,
                               c := kread s t .none, guard := qTrue t a.guard, flag := flag, no := t.nextCopy }] } flag
  let none' : Clause → Option (BitVec 4) := fun _ => none
  StreamOp 0x15 true .kcp
    (fun _ t _ => t.bulk.length + (if t.running.isSome then 1 else 0) < 16 ∧ kflagFull t t.stream.clause.bflag = false)
    (fun s k t a => afterStream k a (s.setTeam k (bulk s t a (.kcp a) t.stream.clause.bflag))) ∧
  (∀ (opc : Nat) (i : Args → Instr) (flag : Clause → Option (BitVec 4)),
    (opc, i, flag) ∈ [(0x20, Instr.macq, none'), (0x21, .mrel, none'), (0x22, .mzero, none'), (0x23, .mldb, Clause.bflag),
      (0x24, .mfreeb, none'), (0x25, .mma, Clause.bflag), (0x26, .mscl, none'), (0x27, .mdrain, Clause.bflag),
      (0x28, .mswap, Clause.bflag), (0x29, .mstat, Clause.aflag)] →
    StreamOp opc true i (fun _ t _ => t.matrix.length < 16 ∧ kflagFull t (flag t.stream.clause) = false)
      (fun s k t a => afterStream k a (s.setTeam k (matrix s t a (i a) (flag t.stream.clause))))) ∧
  (∀ (t : Team) (j : BitVec 4) (i : Nat), AMap.get 0 (kfInc t (some j)).kf i = AMap.get 0 t.kf i + if i = j.toNat then 1 else 0) ∧
  (∀ (t : Team), 16 ≤ t.matrix.length → ∀ (s : State) (k : Nat) (a : Args), streamOf s = some (k, t) → kready s t 0x25 a true = true →
    exec (.mma a) s = .next { s with stalled := true })

/-- R225, R229, R235, R237, R242, R248, R249, R251, R252, R255, R256, R259 to R263, R266: the queues' heads, the grants and the completions of the bulk
copy and of the matrix engine, and their data: what an MMA adds to an element of its tile, with the example of R266 and the special values, the rows of a
drain, the image of a swap, the tile of an MLDB, the bytes of a KCP's unit. That the address which CR.UFPC gets is past a header that is due, and past a
KWAIT or a KBAR that waits, is the model's reading of R225's 'next unissued instruction' (log 14), the order of rows and units its choice (log 59), and
what chunks of -0 and a scale of 0xFF give its reading of R252 (log 54). -/
def Obligations.QueueAndMatrixEvents : Prop :=
  (∀ (s : State) (k : Nat) (t : Team) (c : PCmd) (rest : List PCmd), s.team? k = some t → t.resident = true → c.guard = false →
    (t.bulk = c :: rest → exec (.postedCommandHead k .bulk) s = .next (s.setTeam k (recheckTeam (kfDec { t with bulk := rest } c.flag)))) ∧
    (t.matrix = c :: rest →
      exec (.postedCommandHead k .matrix) s = .next (s.setTeam k (recheckTeam (kfDec { t with matrix := rest } c.flag))))) ∧
  (∀ (s : State) (k : Nat) (t : Team) (c : PCmd) (rest : List PCmd), s.team? k = some t → t.matrix = c :: rest → c.guard = true →
    matrixHeadReady s t = true →
    (∀ s1 code d, headCheck s t c = .error (s1, code, d) → exec (.postedCommandHead k .matrix) s = .next (failMatrix s1 k c rest code d)) ∧
    (∀ a, c.op = .macq a → t.tiles ≠ [] →
      exec (.postedCommandHead k .matrix) s = .next (failMatrix s k c rest 0x18 (BitVec.ofNat 64 (accOf a)))) ∧
    (∀ a, c.op = .mscl a → exec (.postedCommandHead k .matrix) s = .next (s.setTeam k { t with
      matrix := rest,
      scales := if modBits a.mod 9 9 = 1 then { t.scales with sbb := c.a, spb := c.b } else { t.scales with sba := c.a, spa := c.b } })) ∧
    (∀ a, c.op = .mrel a → (∀ j ∈ cmdTiles c, tileHeld t j = true) → exec (.postedCommandHead k .matrix) s =
      .next (s.setTeam k { t with matrix := rest, tiles := (cmdTiles c).foldl AMap.del t.tiles })) ∧
    (∀ a, c.op = .mzero a → tileHeld t (accOf a) = true → exec (.postedCommandHead k .matrix) s =
      .next (enterTable (s.setTeam k { t with matrix := rest }) k { c with held := [] }))) ∧
  (∀ (s : State) (k : Nat) (t : Team) (c : PCmd) (u : UnitKind), s.team? k = some t → t.resident = true → t.retired = false → t.entry = none →
    unitOf c = some u → (∀ p ∈ teamsIn s (clusterOf t.core), ∀ e, p.2.entry = some e → unitOf e.cmd ≠ some u) →
    let idle : Prop := ∀ p ∈ teamsIn s (clusterOf t.core), ∀ g ∈ p.2.granted, g.1 ≠ u
    (idle → (enterTable s k c).team? k = some { t with granted := t.granted ++ [(u, c)] }) ∧
    (¬idle → enterTable s k c = s.setTeam k { t with entry := some { cmd := c, since := s.cycle } })) ∧
  (∀ (s : State) (k : Nat) (t : Team) (c : PCmd) (rest : List PCmd) (code : BitVec 8) (d : DWord), s.team? k = some t → c.flag = none →
    rest = [] → t.stream.wait = none → (failMatrix s k c rest code d).team? k = some (recheckTeam { t with
      matrix := [], stream := { t.stream with stopped := true, wait := none }, ufcmd := c.addr,
      ufpc := if t.stream.clause.due then t.stream.pc + 8 else t.stream.pc,
      ufault := t.ufault ++ [{ code := code, datum := d }] })) ∧
  (∀ (t : Team) (len : Nat), (∃ j n, t.stream.wait = some (.flag j n len)) ∨ (∃ b x, t.stream.wait = some (.barrier b x len)) →
    t.stream.pc + BitVec.ofNat 64 len ≠ t.stream.clause.stop → nextPc t = t.stream.pc + BitVec.ofNat 64 len) ∧
  (∀ (s : State) (cl k : Nat) (t : Team) (want : List Nat), nextMacq s cl = some (k, t, want) →
    exec (.macqGrant cl) s = .next (s.setTeam k { t with
      matrix := t.matrix.drop 1, tiles := want.foldl (fun m j => AMap.set m j {}) t.tiles })) ∧
  (∀ (s : State) (k : Nat) (t : Team) (c : PCmd) (rest : List PCmd) (a : Args), s.team? k = some t → t.resident = true →
    t.matrix = c :: rest → c.checked = true →
    (c.op = .mma a →
      let reads := (scalePlaces t c (modBits a.mod 5 3) (modBits a.mod 2 0)).foldl (fun (p : State × Option DWord) ea =>
        let r := engineRead p.1 t (scaleCache t) c.held ea 1 1
        (r.1, p.2.or r.2.2)) (s, none)
      (reads.2 = none → exec (.scaleLinesPresent k) s =
        .next (enterTable (reads.1.modTeam k fun t => { t with matrix := rest }) k c)) ∧
      (∀ ea, reads.2 = some ea → exec (.scaleLinesPresent k) s = .next (failMatrix reads.1 k c rest 0x22 ea))) ∧
    (c.op = .mstat a → modBits a.mod 5 5 = 0 → exec (.mstatWrite k) s = .next (s.setTeam k (recheckTeam (kfDec
      (kwrite { t with matrix := rest } a.dst ((tileOf t (accOf a)).status.zeroExtend 64)) c.flag))))) ∧
  (∀ (s : State) (cl k : Nat) (u : UnitKind) (t : Team) (e : Entry), nextEntry s cl u = some (k, t, e) →
    exec (.reservationGrant cl u) s =
      .next ((recallKeys s (engineLines s t e.cmd)).setTeam k { t with entry := none, granted := t.granted ++ [(u, e.cmd)] }) ∧
    ∀ p ∈ teamsIn s cl, ∀ e2, p.2.entry = some e2 → unitOf e2.cmd = some u → matrixPrio s.cycle p.2 e2 ≤ matrixPrio s.cycle t e ∧
      (matrixPrio s.cycle p.2 e2 = matrixPrio s.cycle t e → e.since ≤ e2.since)) ∧
  (∀ (cycle : Nat) (t : Team) (e : Entry), (e.aged = true ∨ e.since + 4096 ≤ cycle → matrixPrio cycle t e = 8) ∧
    (e.aged = false → cycle < e.since + 4096 → matrixPrio cycle t e = t.lrec.gprio)) ∧
  (∀ (s : State) (k : Nat) (t : Team) (e : Entry), s.team? k = some t → t.entry = some e → e.since + 4096 ≤ s.cycle →
    exec (.reservationAging k) s = .next (s.setTeam k { t with entry := some { e with aged := true } })) ∧
  (∀ (s : State) (cl k : Nat),
    (unitTeam s cl .array = some k → exec (.mmaComplete cl) s = .next ((completeGranted s k .array).modTeam k recheckTeam)) ∧
    (∀ t, unitTeam s cl .drain = some k → s.team? k = some t → (t.granted.any fun g => g.1 == .drain) = true →
      exec (.drainUnitComplete cl) s = .next ((laterCt (completeGranted s k .drain) t.core).modTeam k recheckTeam))) ∧
  (∀ (s : State) (k : Nat) (t : Team) (c : PCmd) (a : Args), s.team? k = some t → t.granted = [(.array, c)] → c.op = .mzero a →
    modBits a.mod 5 5 = 1 → ∃ t1, (completeGranted s k .array).team? k = some t1 ∧ tileOf t1 (accOf a) = {} ∧ t1.granted = [] ∧
      (∀ j, j ≠ accOf a → tileOf t1 j = tileOf t j) ∧ (completeGranted s k .array).mem = s.mem) ∧
  (∀ (s : State) (cl k : Nat) (t : Team) (c : PCmd), nextLoad s cl = some (k, t, c) →
    exec (.canopyLoadComplete cl) s = .next (loadDone s k t c)) ∧
  (∀ (s : State) (k : Nat) (t : Team) (r : Bulk), s.team? k = some t → t.running = some r →
    t.resident = true → exec (.kcpComplete k) s = .next (bulkFinish s k ((bulkRows r.cmd - r.row) * bulkUnits r.cmd - r.unit))) ∧
  (let tap (x : Nat) : FV := decodeF .tap8 x
   let of (n : Nat) (x : FV) : List FV := List.replicate n x
   let ones := of 32 (tap 0x40)
   let both := of 16 (tap 0x40) ++ of 16 (tap 0xC0)
   let bf (x y : Nat) : List FV × List FV := (decodeF .bf16 x :: of 31 (.zero false), decodeF .bf16 y :: of 31 (.zero false))
   let gives (acc : Word) (p : List FV × List FV) (r : Word) (status : BitVec 4) : Prop := mmaElement acc p.1 p.2 127 127 = (r, status)
   mmaElement 0 ones (of 32 (tap 0x48)) 0x7F 0x81 = (0x43400000, 0) ∧
   mmaElement 0x43400000 both (of 32 (tap 0x48)) 0x7F 0x81 = (0x43400000, 0) ∧
   mmaElement 0 ones (of 32 (tap 0x7F)) 0x7F 0x81 = (0x49000000, 0) ∧ mmaElement 0x49000000 both (of 32 (tap 0x7F)) 0x7F 0x81 = (0x49000000, 0) ∧
   mmaElement 0 ones (of 32 (tap 0)) 0x7F 0x81 = (0, 0) ∧ mmaElement 0 both (of 32 (tap 0)) 0x7F 0x81 = (0, 0) ∧
   gives 0 (bf 0 0x7F80) 0x7FC00000 stINV ∧ gives 0 (.inf false :: of 31 (.inf true), of 32 (decodeF .bf16 0x3F80)) 0x7FC00000 stINV ∧
   gives 0xFF800000 (bf 0x7F80 0x3F80) 0x7FC00000 stINV ∧ gives 0 (bf 0x7F80 0x3F80) 0x7F800000 0 ∧ gives 0x7F800000 (bf 0x3F80 0x3F80) 0x7F800000 0 ∧
   gives 0 (bf 0x7F00 0x4000) 0x7F800000 stOVF ∧ gives 0x7F7FFFFF (bf 0x7F00 0x3F80) 0x7F800000 stOVF ∧
   gives 0x3F800000 (bf 0x3380 0x3F80) 0x3F800000 0 ∧ gives 0x3F800001 (bf 0x3380 0x3F80) 0x3F800002 0 ∧ gives 0 (bf 1 0x3780) 0x00000001 0 ∧
   gives 0x80000000 (of 32 (.zero true), of 32 (decodeF .bf16 0x3F80)) 0x80000000 0 ∧ gives 0 (of 32 (.zero true), of 32 (decodeF .bf16 0x3F80)) 0 0) ∧
  (∀ (acc : Word) (xs ys : List FV) (sa sb : Nat), let r := mmaElement acc xs ys sa sb
    let hot : BitVec 4 := stNANIN ||| stINV
    (sa = 255 ∨ sb = 255 → r.1 = 0x7FC00000 ∧ r.2 &&& hot = hot) ∧
    (xs.length = ys.length → (∃ x, FV.nan x ∈ xs ∨ FV.nan x ∈ ys) → r.1 = 0x7FC00000 ∧ r.2 &&& hot = hot) ∧
    (∀ x, decodeF .f32 acc.toNat = .nan x → r.1 = 0x7FC00000 ∧ r.2 &&& stINV = stINV)) ∧
  (let rising (m : AMap Word) : Prop := (m.map Prod.fst).Pairwise (· < ·)
   (∀ (tile : Tile) (m sa : Nat) (xs : List FV) (cols : List (List FV × Nat)), rising tile.el → cols.length = 128 →
      let u := mmaRow tile m xs sa cols
      let e (n : Nat) (col : List FV × Nat) : Word × BitVec 4 := mmaElement (AMap.get 0 tile.el (128 * m + n)) xs col.1 sa col.2
      rising u.el ∧ u.poison = tile.poison ∧ (∀ n col, cols[n]? = some col → AMap.get 0 u.el (128 * m + n) = (e n col).1) ∧
      (∀ i, i / 128 ≠ m → AMap.get 0 u.el i = AMap.get 0 tile.el i) ∧
      ∀ i, u.status.getLsbD i = true ↔ tile.status.getLsbD i = true ∨ ∃ n col, cols[n]? = some col ∧ (e n col).2.getLsbD i = true) ∧
   (∀ tile : Tile, (tileImage tile).length = 65600 ∧ rising (imageTile (tileImage tile)).el ∧ (imageTile (tileImage tile)).status = tile.status ∧
     (∀ i, i < 16384 → AMap.get 0 (imageTile (tileImage tile)).el i = AMap.get 0 tile.el i ∧
       leNat (((tileImage tile).drop (4 * i)).take 4) = (AMap.get 0 tile.el i).toNat) ∧
     leNat (((tileImage tile).drop 65536).take 8) = tile.status.toNat ∧ (tileImage tile).drop 65544 = List.replicate 56 0)) ∧
  (∀ (s : State) (k : Nat) (t : Team) (c : PCmd) (a : Args) (e : Nat) (p : Bool) (rows : List (List Byte)), s.team? k = some t →
    t.granted = [(.array, c)] → c.op = .mma a → AMap.find t.canopy (mmaDesc c.b).slot = some (.tile e p rows) →
    let d := mmaDesc c.b
    let fa := fslOf t (modBits a.mod 5 3)
    let fb := fslOf t (modBits a.mod 2 0)
    c.prog < 128 * d.passes → fa.scale = 0 → fb.scale = 0 → c.prog % 128 * d.pitch + d.passes * chunkBytes fa.elem + c.a.toNat % 2 ^ 32 ≤ t.lrec.scratch →
    t.lrec.scratch ≤ 2 ^ 19 →
    let off := c.a.toNat % 2 ^ 32 + c.prog % 128 * d.pitch + c.prog / 128 * chunkBytes fa.elem
    let arow := (unpackRow fa.elem 32 ((List.range (chunkBytes fa.elem)).map fun i => readByte s (winLoc t (off + i)))).map (decodeF (elemTy fa.elem))
    let brows := ((rows.drop (32 * (d.first + c.prog / 128))).take 32).map fun r => (unpackRow fb.elem 128 r).map (decodeF (elemTy fb.elem))
    let cols := (List.range 128).map fun n => (brows.map fun r => r.getD n (.zero false), 127)
    ∃ t1, (unitStep s k .array 1).team? k = some t1 ∧ t1.granted = [(.array, { c with prog := c.prog + 1 })] ∧
      tileOf t1 (accOf a) = mmaRow (tileOf t (accOf a)) (c.prog % 128) arow 127 cols ∧
      (∀ j, j ≠ accOf a → tileOf t1 j = tileOf t j) ∧ (unitStep s k .array 1).mem = s.mem) ∧
  (∀ (t : Team) (acc m : Nat) (tile : Tile), t.lrec.fsl[1]? = some 0x00004515 → AMap.find t.tiles acc = some tile →
    (tile.el = [(128 * m, 0x43400000), (128 * m + 1, 0x49000000)] → drainRow t acc 1 m = (0x7B :: 0x7F :: List.replicate 126 0, stSAT)) ∧
    (tile.el = [(128 * m + 127, 0x7FC00001)] → drainRow t acc 1 m = (List.replicate 127 0 ++ [0x80], stINV))) ∧
  (∀ (t : Team) (acc m : Nat) (tile : Tile), t.lrec.fsl[2]? = some 0 → AMap.find t.tiles acc = some tile →
    tile.el = [(128 * m, 0x3F800001), (128 * m + 1, 0xFF800000), (128 * m + 2, 0x7FA00000), (128 * m + 3, 0x80000001)] → drainRow t acc 2 m =
      ([0x01, 0, 0x80, 0x3F, 0, 0, 0x80, 0xFF, 0, 0, 0xC0, 0x7F, 1, 0, 0, 0x80] ++ List.replicate 496 0, stINV)) ∧
  (∀ (s : State) (k : Nat) (t : Team) (c : PCmd) (acc fs : Nat) (clr : Bool), s.team? k = some t →
    let u := drainStep s k t c acc fs clr
    let r := drainRow t acc fs c.prog
    u.mem = (engineWrite s k t c (c.a + BitVec.ofNat 64 (c.prog * (c.b.toNat % 2 ^ 32))) r.1).mem ∧ ∃ t1, u.team? k = some t1 ∧
      (tileOf t1 acc).el = (tileOf t acc).el ∧ (tileOf t1 acc).status = (if clr = true ∧ c.prog = 0 then 0 else (tileOf t acc).status) ||| r.2) ∧
  (∀ (s : State) (k : Nat) (t : Team) (c : PCmd) (ea : DWord) (bs : List Byte) (p : Nat), Memory.wf s = true → bs.length % 16 = 0 →
    (∀ i, i < bs.length / 16 → let x := ea + BitVec.ofNat 64 (16 * i)
      x.toNat < 2 ^ 52 ∧ (c.held.find? fun h => h.covers t.vd x.toNat).map (fun h => h.pa x.toNat) = some (p + 16 * i)) →
    (∀ i, i < bs.length → linkCut s (.phys (p + i)) = false) →
    ∀ a, readByte (engineWrite s k t c ea bs) (.phys a) = if p ≤ a ∧ a < p + bs.length then bs.getD (a - p) 0 else readByte s (.phys a)) ∧
  (∀ (s : State) (t : Team) (cache u p : Nat) (held : List Trans) (ea : DWord), ea.toNat < 2 ^ 52 → 0 < u →
    (held.find? fun h => h.covers t.vd ea.toNat).map (fun h => h.pa ea.toNat) = some p → leaseOf s cache (p / 64) = none →
    let r := engineRead s t cache held ea u u
    r.2.1 = (List.range u).map (fun i => readByte s (.phys (p + i))) ∧ r.2.2 = (if locPoisoned s (.phys p) u = true then some ea else none)) ∧
  (∀ (s : State) (k : Nat) (t : Team) (c : PCmd) (a : Args), s.team? k = some t → t.granted = [(.drain, c)] →
    (c.op = .mdrain a → c.prog < 128 → (unitStep s k .drain 128).mem =
      (drainStep s k t c (accOf a) (modBits a.mod 5 3) (modBits a.mod 2 2 == 1)).mem) ∧
    (c.op = .mswap a → c.prog < 129 → modBits a.mod 5 4 ≠ 1 → (unitStep s k .drain 128).mem =
      (engineWrite s k t c (c.a + BitVec.ofNat 64 (512 * c.prog))
        (((tileImage (tileOf t (accOf a))).drop (512 * c.prog)).take (if c.prog < 128 then 512 else 64))).mem) ∧
    (c.op = .mswap a → modBits a.mod 5 4 ≠ 0 → 129 ≤ c.prog ∨ modBits a.mod 5 4 = 1 → c.prog < (if modBits a.mod 5 4 = 2 then 258 else 129) →
      let m := c.prog % 129
      let r := engineRead s t t.core c.held ((if modBits a.mod 5 4 = 1 then c.a else c.b) + BitVec.ofNat 64 (512 * m)) (if m < 128 then 512 else 64) 16
      (unitStep s k .drain 128).mem = s.mem ∧ ∃ t1, (unitStep s k .drain 128).team? k = some t1 ∧
        t1.granted = [(.drain, { c with prog := c.prog + 1, buf := c.buf ++ [r.2.1], hot := c.hot.or r.2.2 })] ∧ t1.tiles = t.tiles) ∧
    (c.op = .mswap a → modBits a.mod 5 4 ≠ 0 → c.hot = none → c.prog = (if modBits a.mod 5 4 = 2 then 258 else 129) →
      ∃ t1, (completeGranted s k .drain).team? k = some t1 ∧ tileOf t1 (accOf a) = imageTile c.buf.flatten ∧ t1.granted = [] ∧
        (∀ j, j ≠ accOf a → tileOf t1 j = tileOf t j) ∧ (completeGranted s k .drain).mem = s.mem)) ∧
  (∀ (s : State) (t : Team) (c : PCmd) (fs : Nat), let elem := (fslOf t fs).elem
    let r := engineRead s t t.core c.held (c.a + BitVec.ofNat 64 (c.prog * (c.b.toNat / 2 ^ 16 % 2 ^ 24))) (rowBytes elem) 32
    (mldbRow s t c fs).2 = { c with prog := c.prog + 1, buf := c.buf ++ [r.2.1], hot := c.hot.or r.2.2 } ∧
    (let j := c.b.toNat % 512
     let wide : Prop := elem = 1 ∨ elem = 2
     let u := (mldbApply t c fs).canopy
     AMap.find u j = some (.tile elem c.hot.isSome c.buf) ∧ (wide → AMap.find u (j + 1) = some .second) ∧
     (∀ i, i + 1 ≠ j → i ≠ j → i ≠ j + 1 → i ≠ j + 2 → AMap.find u i = AMap.find t.canopy i) ∧
     ((t.canopy.map Prod.fst).Pairwise (· < ·) →
       (∀ i, i + 1 = j → AMap.find t.canopy j = some .second → AMap.find u i = none) ∧
       (∀ e p rows, (e = 1 ∨ e = 2) → ¬wide → AMap.find t.canopy j = some (.tile e p rows) → AMap.find u (j + 1) = none) ∧
       (∀ e p rows, (e = 1 ∨ e = 2) → wide → (∀ y q z, AMap.find t.canopy j = some (.tile y q z) → y ≠ 1 ∧ y ≠ 2) →
         AMap.find t.canopy (j + 1) = some (.tile e p rows) → AMap.find u (j + 2) = none)))) ∧
  (∀ (s : State) (k : Nat) (t : Team) (c : PCmd) (src dst : DWord) (p q : Nat), Memory.wf s = true → bulkGlade c = none →
    heldLoc s t c.held src ⟨true, false⟩ = some (.phys p) → heldLoc s t c.held dst ⟨false, true⟩ = some (.phys q) →
    leaseOf s t.core (p / 64) = none → locPoisoned s (.phys p) 16 = false → linkCut s (.phys q) = false →
    ∀ a, readByte (bulkUnit s k t c src dst) (.phys a) =
      if q ≤ a ∧ a < q + 16 then readByte s (.phys (p + (a - q))) else readByte s (.phys a)) ∧
  (∀ (s : State) (k : Nat) (t : Team) (r : Bulk), s.team? k = some t → t.resident = true → t.running = some r →
    let x := r.cmd.c.toNat
    (bulkStep s k).mem = (bulkUnit s k t r.cmd (r.cmd.b + BitVec.ofNat 64 (16 * (r.row * (x / 2 ^ 40 % 2 ^ 24) + r.unit)))
      (r.cmd.a + BitVec.ofNat 64 (16 * (r.row * (x / 2 ^ 20 % 2 ^ 20) + r.unit)))).mem ∧
    bulkUnits r.cmd = x % 2 ^ 12 + 1 ∧ bulkRows r.cmd = x / 2 ^ 12 % 2 ^ 8 + 1)

/-! ## Clauses and guest instructions -/

/-- R74 to R76, R224: a header opens its clause, gives the block priority and the flag sets, and waits for its mask; a word that should
not be a header faults. -/
def Obligations.ClauseHeaders : Prop :=
  let clause (h : Header) (pc : DWord) : Clause :=
    { due := false, loose := false, start := pc, stop := pc + BitVec.ofNat 64 (8 * (h.count.toNat + 1)), aflag := h.aflag, bflag := h.bflag }
  let opens (th : Thread) (h : Header) : Thread :=
    { th with spot := nextSpot th, arch := { th.arch with clause := clause h th.arch.pc, pc := th.arch.pc + 8, prio := h.prio } }
  (∀ (s : State) (k tid : Nat) (th : Thread) (h : Header), s.turn = .thread k tid → s.thread? k tid = some th → h.ok = true →
    th.arch.clause.due = true →
    (maskClear th.f h.wait = true → exec (.clauseHeader h) s = .next (s.modThread k tid fun _ => opens th h)) ∧
    (maskClear th.f h.wait = false → exec (.clauseHeader h) s =
      .next (s.modThread k tid fun _ => { opens th h with wait := some (.clause h.wait), waitFrom := s.cycle }))) ∧
  (∀ (s : State) (k tid : Nat) (th : Thread) (h : Header), s.turn = .thread k tid → s.thread? k tid = some th →
    h.ok = false ∨ (th.arch.clause.due = false ∧ th.arch.clause.loose = false) →
    exec (.clauseHeader h) s = .next (faultThread s k tid 0x01 0)) ∧
  (∀ (s : State) (k : Nat) (t : Team) (h : Header), s.turn = .stream k → s.team? k = some t → h.ok = true → t.stream.clause.due = true →
    let st := { t.stream with clause := clause h t.stream.pc, pc := t.stream.pc + 8 }
    (maskClear t.kf h.wait = true → exec (.clauseHeader h) s = .next (s.setTeam k { t with stream := st })) ∧
    (maskClear t.kf h.wait = false →
      exec (.clauseHeader h) s = .next (s.setTeam k { t with stream := { st with wait := some (.clause h.wait) } }))) ∧
  (∀ (f : AMap Nat) (mask : BitVec 12), maskClear f mask = true ↔ ∀ j, j < 12 → mask.getLsbD j = true → AMap.get 0 f j = 0) ∧
  (∀ (t : Team) (th : Thread) (m : BitVec 12), th.wait = some (.clause m) → maskClear th.f m = true → recheck t th = { th with wait := none })

/-- R285 to R290, R292 to R294, R297, R387, R388: a guest instruction whose line holds its expansion begins it; one that misses goes to the emulation
vector with its frame; where there is no line, its own fetch faults are met and a fill begins; the commit point issues the buffered stores,
and ends an expansion whose last operation has taken effect; a rollback restores the boundary, and leaves a tail record after a commit only where the
last operation has a tail; an EXIT taken out of its drain goes on with it (the model's reading, log 57). A decode waits for the thread's accesses but for
the buffered stores of its guest instructions (R292). A last operation that takes effect after the commit point has its checks made before it and its
effect after it, in one step; one whose check fails leaves the boundary, and one that waits at its issue has not committed (the model's reading, log
44). That bytes which a walk does
not reference give ILLEGAL_OP before a fault of the lookup or the fetch is the model's reading (log 63), as it is that a rollback restores the registers'
errors with the registers (log 29). -/
def Obligations.GuestInstructions : Prop :=
  (∀ (s : State) (k tid : Nat) (t : Team) (th : Thread) (img : Image), s.turn = .thread k tid → s.team? k = some t →
    s.thread? k tid = some th → th.arch.pix ≠ 0 → th.expansion = none → awaitsAccess th = false → imageAt s t.vd th.arch.pix.toNat = some img →
    (∀ p d, lookUp s t th = .hit p d → exec .guestInstructionDecode s =
      .next (issueGuest (takeSpot s k tid (clusterOf t.core) p) k tid t th d)) ∧
    (∀ code d, lookUp s t th = .fault code d → exec .guestInstructionDecode s = .next (faultThread s k tid code d)) ∧
    (∀ psel pa code d, lookUp s t th = .miss psel pa → decodeGuest s t.vd t.core (some img) th.arch.pc = .error (code, d) →
      exec .guestInstructionDecode s = .next (faultThread (noteFetch s t.vd t.core th.arch.pc) k tid code d)) ∧
    (∀ psel pa x, lookUp s t th = .miss psel pa → decodeGuest s t.vd t.core (some img) th.arch.pc = .ok x →
      (x.2 ≠ .illegal ∨ (∃ p, fetchPlace s t.vd t.core th.arch.pc = .ok p) →
        exec .guestInstructionDecode s = .next (startFill s t th psel pa)) ∧
      (∀ e, x.2 = .illegal → fetchPlace s t.vd t.core th.arch.pc = .error e → exec .guestInstructionDecode s = .next (faultThread s k tid 0x01 0))) ∧
    (th.spot = none → th.arch.pc.toNat % 2 ^ (imgHead img.body).align ≠ 0 → ∀ code d,
      lookPlace s t.vd t.core th.arch.pc (fun x => (lineOf s (clusterOf t.core)
        (pselOf s t.vd (clusterOf t.core) th.arch.pix.toNat) (x.pa th.arch.pc.toNat)).isSome) = .error (code, d) →
      lookUp s t th = .fault 0x01 0) ∧
    (∀ gpc, (∀ e, guestMatch s t.vd t.core img.body gpc = .error e → decodeGuest s t.vd t.core (some img) gpc = .error e) ∧
      (∀ w, guestMatch s t.vd t.core img.body gpc = .ok (.illegal, w) → decodeGuest s t.vd t.core (some img) gpc = .ok (1, .illegal)) ∧
      (∀ len w, guestMatch s t.vd t.core img.body gpc = .ok (.miss len, w) →
        decodeGuest s t.vd t.core (some img) gpc = .ok (len, .miss len w)) ∧
      (∀ i len w, guestMatch s t.vd t.core img.body gpc = .ok (.template i len, w) →
        decodeGuest s t.vd t.core (some img) gpc = .ok (len, .run len (tmplOps img.body w i)))) ∧
    (∀ kp, keptHere th = some kp → kp.wait = .exit → ∀ d, issueGuest s k tid t th d = s.modThread k tid fun th =>
      { dropKept th with wait := some .exit, waitFrom := s.cycle, safe := none }) ∧
    ((∀ kp, keptHere th = some kp → kp.wait ≠ .exit) →
      issueGuest s k tid t th .illegal = faultThread s k tid 0x01 0 ∧
      (∀ len w, issueGuest s k tid t th (.miss len w) = templateMiss s k t tid img.body w len) ∧
      (∀ len ops, ops ≠ [] → opsFault { s := s, key := k, team := t, tid := tid, th := th } ops = none →
        issueGuest s k tid t th (.run len ops) = beginExpansion s k tid ops len) ∧
      (∀ len ops code d, opsFault { s := s, key := k, team := t, tid := tid, th := th } ops = some (code, d) →
        issueGuest s k tid t th (.run len ops) = faultThread s k tid code d))) ∧
  (∀ (s : State) (k tid : Nat) (t : Team) (th : Thread), s.turn = .thread k tid → s.team? k = some t → s.thread? k tid = some th →
    th.arch.pix ≠ 0 → th.expansion = none → (∃ ac ∈ th.out, ac.buffered = false) →
    exec .guestInstructionDecode s = .next (performOldest s (.thread k tid))) ∧
  (∀ th : Thread, awaitsAccess th = true ↔ ∃ ac ∈ th.out, ac.buffered = false) ∧
  (∀ (s : State) (k tid len : Nat) (t : Team) (th : Thread) (ops : List Instr), s.team? k = some t → s.thread? k tid = some th →
    th.tail = none → ∃ u, (beginExpansion s k tid ops len).thread? k tid = some u ∧
      u.expansion = some { ops := ops, len := len, saved := th.arch, bad := th.bad, stores := [], checked := false, committed := false } ∧
      u.arch = { th.arch with t := u.arch.t } ∧ (beginExpansion s k tid ops len).mem = s.mem) ∧
  (∀ (s : State) (k tid w len : Nat) (t : Team) (th : Thread) (b : List Byte), s.team? k = some t → s.thread? k tid = some th →
    t.lrec.evec ≠ 0 → th.arch.pc.toNat < 2 ^ 52 → ∃ u, (templateMiss s k t tid b w len).thread? k tid = some u ∧
      u.arch.pc = t.lrec.evec ∧ u.arch.pix = 0 ∧ u.arch.elen = BitVec.ofNat 32 len ∧ u.arch.egw0 = BitVec.ofNat 64 w ∧
      u.arch.epc.toNat = th.arch.pix.toNat * 2 ^ 61 + th.arch.pc.toNat ∧ u.arch.v = th.arch.v ∧ u.arch.p = th.arch.p ∧
      u.arch.mode = th.arch.mode ∧
      ∀ i, i < 8 → AMap.get 0 u.arch.e i = if i < (imgHead b).nextr then extValue (extractor b i) w else 0) ∧
  (∀ (s : State) (k tid : Nat) (t : Team) (th : Thread) (x : Expansion), s.turn = .thread k tid → s.team? k = some t →
    s.thread? k tid = some th → th.expansion = some x → x.checked = true → x.committed = false → awaitsAccess th = false →
    (∀ p ∈ th.pending, p.rank ≠ 1) → ∃ u, exec .commitPoint s = .next u ∧ u.mem = s.mem ∧
      ∃ th1, u.thread? k tid = some th1 ∧ th1.out = th.out ++ x.stores ∧
        (x.ops ≠ [] → th1.expansion = some { x with committed := true, stores := [] } ∧ th1.arch = th.arch) ∧
        (x.ops = [] → th1.expansion = none ∧ th1.arch = { th.arch with pc := th.arch.pc + BitVec.ofNat 64 x.len })) ∧
  (∀ (th : Thread) (x : Expansion), th.expansion = some x → x.committed = false →
    (rollback th).arch = x.saved ∧ (rollback th).bad = x.bad ∧ (rollback th).out = th.out.filter Access.buffered ∧
    (rollback th).expansion = none ∧ (rollback th).f = th.f) ∧
  (∀ (th : Thread) (x : Expansion), th.expansion = some x → x.committed = true →
    (rollback th).arch = th.arch ∧ (rollback th).out = th.out ∧ (rollback th).expansion = none ∧
    ((∃ i ∈ x.ops, isTailOp i = true) → (rollback th).tail = some { addr := th.arch.pc, pix := th.arch.pix }) ∧
    ((∀ i ∈ x.ops, isTailOp i = false) → (rollback th).tail = th.tail)) ∧
  (∀ (a : Args), isTailOp (.exitT a) = false ∧ isTailOp (.rep a) = true ∧ isTailOp (.nap a) = true ∧ isTailOp (.waitf a) = true ∧
    isTailOp (.synch a) = true ∧ isTailOp (.cpw a) = true ∧ isTailOp (.gwait a) = true ∧ isTailOp (.barw a) = true ∧
    isTailOp (.bars a) = true ∧ isTailOp (.rvx a) = true) ∧
  (∀ (s : State) (k tid cls opc : Nat) (th : Thread) (x : Expansion), s.thread? k tid = some th → th.expansion = some x →
    let s1 := s.modThread k tid commitThread
    (∃ u, s1.thread? k tid = some u ∧ u.expansion = some { x with committed := true, stores := [] } ∧ u.out = th.out ++ x.stores ∧ u.arch = th.arch ∧
      u.f = th.f) ∧ s1.mem = s.mem ∧
    (drainsFirst cls opc = false → commitState s k tid cls opc = s1) ∧
    (drainsFirst cls opc = true → th.out ++ x.stores = [] → commitState s k tid cls opc = s1) ∧
    (drainsFirst cls opc = true → ∀ ac, th.out ++ x.stores = [ac] → ownerOf s1 (.thread k tid) ac.loc = none →
      commitState s k tid cls opc = performOldest s1 (.thread k tid))) ∧
  (let addr (c : Ctx) (a : Args) : DWord := read64 c a.sa + a.aux.getD 0
   let issues (c : Ctx) (a : Args) (op : Option Nat) (ty : ElTy) (flag : Option (BitVec 4)) : Prop :=
     hostDenied c.s c.team (addr c a) op ty = false ∧ flagFull c.th flag = false ∧ ∃ l,
       resolve c.s c.team c.th.arch.mode (addr c a) (ty.width / 8) ⟨true, true⟩ = .ok l ∧ copyHazard c.team c.tid l (ty.width / 8) true = none
   let casTy (a : Args) : ElTy := if modBits a.mod 9 9 = 1 then .n64 else .n32
   let seen (c : Ctx) (a : Args) : Prop := ∃ off, gladeAddr c.s c.key c.team (read64 c a.sa) false = .ok (c.key, c.team, off, false) ∧
     copyHazard c.team c.tid (winLoc c.team off) 8 true = none ∧ locPoisoned c.s (winLoc c.team off) 8 = false ∧
     gUsable c.team off (gRead c.s c.team off) false = true
   let alone (c : Ctx) : Prop := ∀ p ∈ c.team.copies, p.2.tid ≠ some c.tid
   let passes (c : Ctx) (a : Args) (cls opc : Nat) : Prop :=
     (cls = 0 ∧ opc ∈ [0x40, 0x41, 0x42, 0x43, 0x44, 0x45, 0x46, 0x48, 0x49, 0x4A, 0x4C]) ∨
     (cls = 1 ∧ opc ∈ [0x08, 0x11, 0x13, 0x14, 0x15, 0x21, 0xE2, 0xE7, 0xE8]) ∨
     (cls = 0 ∧ opc = 0x4E ∧ isBound (c.s.vd c.team.vd) (read32 c a.sb).toNat = true) ∨
     (cls = 0 ∧ opc = 0x4F ∧ (read64 c a.sa).toNat / 2 ^ 52 % 2 ^ 9 = 0 ∧ isBound (c.s.vd c.team.vd) ((read64 c a.sa).toNat / 2 ^ 61) = true) ∨
     (cls = 1 ∧ ((opc = 0x04 ∧ issues c a (some (atomOp a)) (atomTy a) (flagA c.th)) ∨ (opc = 0x06 ∧ issues c a (some (atomOp a)) (atomTy a) (flagB c.th)) ∨
       (opc = 0x05 ∧ issues c a none (casTy a) (flagA c.th)))) ∨
     (cls = 1 ∧ (opc = 0x1C ∨ opc = 0x1D) ∧ seen c a) ∨ (cls = 1 ∧ (opc = 0xE0 ∨ opc = 0xE1) ∧ alone c)
   (∀ (s : State) (c c1 : Ctx) (i : Instr) (cls opc : Nat) (a : Args), ctxOf s = some c → i.code = some (cls, opc) → i.args = some a →
      lastReady c cls opc a = true → passes c a cls opc → ctxOf (commitState s c.key c.tid cls opc) = some c1 → c1.key = c.key →
      c1.tid = c.tid → ready c1 cls opc a = true →
      exec i s = exec i (commitState s c.key c.tid cls opc)) ∧
   (∀ (s : State) (c : Ctx) (a : Args) (x : Expansion), ctxOf s = some c → c.th.expansion = some x →
      (lastReady c 0 0x40 a = true → ∃ u th, exec (.bra a) s = .next u ∧ u.thread? c.key c.tid = some th ∧ th.expansion = none ∧
        th.arch.pc = c.th.arch.pc + a.aux.getD 0 ∧ th.out = c.th.out ++ x.stores ∧ th.arch.v = c.th.arch.v ∧ u.mem = s.mem) ∧
      (lastReady c 0 0x48 a = true → ∃ u th, exec (.exitT a) s = .next u ∧ u.thread? c.key c.tid = some th ∧ th.wait = some .exit ∧
        th.expansion = some { x with committed := true, stores := [] } ∧ th.out = c.th.out ++ x.stores ∧ th.arch = c.th.arch ∧ u.mem = s.mem) ∧
      (lastReady c 0 0x4A a = true → keptHere c.th = none → read32 c a.sa ≠ 0 → ∃ u th g len, exec (.nap a) s = .next u ∧
        u.thread? c.key c.tid = some th ∧ th.wait = some (.nap g len) ∧ g = s.growth + (read32 c a.sa).zeroExtend 64 ∧
        (x.ops = [.nap a] → th.tail = some { addr := c.th.arch.pc, pix := c.th.arch.pix }) ∧ th.arch = c.th.arch ∧ u.mem = s.mem)) ∧
   (∀ (s : State) (c : Ctx) (i : Instr) (cls opc : Nat) (a : Args), ctxOf s = some c → i.code = some (cls, opc) → i.args = some a → cls < 2 →
      (atLast c cls opc a = true → guardTrue c.th a.guard = false → exec i s =
        .next ((commitState s c.key c.tid cls opc).modThread c.key c.tid fun th => passOp th (8 * a.words) a.live)) ∧
      (atLast { c with th := { c.th with out := [] } } cls opc a = true → awaitsAccess c.th = true →
        exec i s = .next (performOldest s (.thread c.key c.tid)))) ∧
   (∀ (s : State) (c : Ctx) (a : Args), ctxOf s = some c →
      (lastReady c 0 0x4E a = true → isBound (c.s.vd c.team.vd) (read32 c a.sb).toNat = false → exec (.pxcall a) s = .next (faulted c 0x01 0)) ∧
      (lastReady c 0 0x4F a = true → (read64 c a.sa).toNat / 2 ^ 52 % 2 ^ 9 ≠ 0 → exec (.pxret a) s = .next (faulted c 0x0D (read64 c a.sa))) ∧
      (lastReady c 1 0x04 a = true → hostDenied c.s c.team (addr c a) (some (atomOp a)) (atomTy a) = false →
        (∀ code d, resolve s c.team c.th.arch.mode (addr c a) ((atomTy a).width / 8) ⟨true, true⟩ = .error (code, d) →
          exec (.atom a) s = .next (faulted c code d)) ∧
        (∀ l id, resolve s c.team c.th.arch.mode (addr c a) ((atomTy a).width / 8) ⟨true, true⟩ = .ok l → flagFull c.th (flagA c.th) = false →
          copyHazard c.team c.tid l ((atomTy a).width / 8) true = some id →
          exec (.atom a) s = .next (afterJump c a (afterWrite (performCopiesTo s c.key id) c.team.core l)))) ∧
      (∀ p, (c.team.copies.find? fun p => p.2.tid == some c.tid) = some p →
        (lastReady c 1 0x1B a = true → modBits a.mod 9 9 = 1 → (∃ off, gladeAddr c.s c.key c.team (read64 c a.sa) true = .ok (c.key, c.team, off, false) ∧
          copyHazard c.team c.tid (winLoc c.team off) 8 true = none ∧ locPoisoned c.s (winLoc c.team off) 8 = false ∧
          gUsable c.team off (gRead c.s c.team off) false = true) →
          exec (.garvr a) s = .next (afterJump c a (performCopiesTo s c.key p.1))) ∧
        (lastReady c 1 0xE0 a = true → exec (.csrr a) s = .next (afterJump c a (performCopiesTo s c.key p.1))) ∧
        (lastReady c 1 0xE1 a = true → exec (.csrw a) s = .next (afterJump c a (performCopiesTo s c.key p.1))))))

/-! ## Detectors and notices -/

/-- R271, R273, R323, R324, R330, R444, R445, R452: a pending event is delivered in the order of its rank, and one that a delivery finds pending waits
for the handler's dismissal; a stream's fault and the watchdog go to the lowest sr.tid whose record is not live; the watchdog expires at a tick; the
deadlock detector delivers to every waiting thread of the gang; an expired watchdog acts before anything else does; time passes, each core's CT and the
counts of resident cycles with it: a round of 8 cycles, and that order of the watchdog before every input, are the model's (log 17), as is what the
counts of resident cycles hold (log 10). -/
def Obligations.NoticesAndDetectors : Prop :=
  (∀ (s : State) (k tid : Nat) (t : Team) (th : Thread) (p : Pending), s.team? k = some t → s.thread? k tid = some th →
    topPending th = some p → th.expansion = none → isLive th = false → ¬(p.code = 0x03 ∧ th.arch.mode = true) →
    ∃ u, exec (.asyncNoticeDelivery (.thread k tid)) s = .next u ∧ u.mem = s.mem ∧
      u.thread? k tid = some (enterHandler (rollback { th with pending := th.pending.erase p }) (s.vd t.vd).fvec p.code 0 (srcOf p.rank)
        th.arch.pc p.datum)) ∧
  (∀ (th : Thread) (p : Pending), topPending th = some p → p ∈ th.pending ∧ 2 ≤ p.rank ∧
    (isLive th = true → (p.rank = 2 ∨ p.rank = 4) ∧ p.held = false) ∧
    (isLive th = false → ∀ q ∈ th.pending, 2 ≤ q.rank → q.rank ≤ 5 → p.rank ≤ q.rank)) ∧
  (∀ (th : Thread) (fvec resume datum : DWord) (code trapno src : BitVec 8), src.toNat < 4 →
    let u := enterHandler th fvec code trapno src resume datum
    topPending u = none ∧ u.pending.map (fun p => { p with held := false }) = th.pending.map fun p => { p with held := false }) ∧
  (∀ (s : State) (k : Nat) (t : Team) (x : UFault) (rest : List UFault), s.team? k = some t → t.ufault = x :: rest →
    (t.threads = [] → exec (.uniformFaultDelivery k) s = .next (terminateGang s t.gang x.code 0 t.teamid 0xFFFFFFFF x.datum true)) ∧
    (∀ tid, quietThread t = some tid → exec (.uniformFaultDelivery k) s =
      .next ((s.setTeam k { t with ufault := rest }).modThread k tid fun th => addPending th 3 x.code x.datum))) ∧
  (∀ (s : State) (k : Nat) (t : Team), (s.teams.find? fun p => watchdogDue p.2) = some (k, t) →
    ∀ d, t.wdDue = some d → let s1 := s.setTeam k { t with wdDue := none }
    let gone := terminateGang s1 t.gang 0x1C 0 t.teamid 0xFFFFFFFF d true
    (quietThread t = none → exec .watchdog s = .next gone) ∧
    (∀ p ∈ t.threads, isLive p.2 = true → p.2.cr.fstat.toNat / 2 ^ 24 = 0x1C → exec .watchdog s = .next gone) ∧
    (∀ tid, quietThread t = some tid → (∀ p ∈ t.threads, isLive p.2 = true → p.2.cr.fstat.toNat / 2 ^ 24 ≠ 0x1C) →
      exec .watchdog s = .next ((s1.modTeam k fun t => { t with wdcnt := 0 }).modThread k tid fun th => addPending th 5 0x1C d))) ∧
  (∀ (s : State), watchdogFirst s = true → step s = exec .watchdog s) ∧
  (∀ (t : Team) (g : DWord), t.dbgStop = false → (tickWatchdog t true g).wdcnt = t.wdcnt + 1 ∧
    (t.wdDue = none → (tickWatchdog t true g).wdDue = if t.wdlim ≠ 0 ∧ t.wdlim.toNat ≤ (t.wdcnt + 1).toNat then some g else none)) ∧
  (∀ (t : Team) (tid : Nat), quietThread t = some tid →
    (∃ th, (tid, th) ∈ t.threads ∧ isLive th = false ∧ th.dead = false) ∧
    ∀ p ∈ t.threads, isLive p.2 = false → p.2.dead = false → tid ≤ p.1) ∧
  (∀ (s : State) (gk : Nat) (g : Gang), (s.gangs.find? fun p => deadlocked s p.1 p.2) = some (gk, g) →
    (∀ k tid th, k ∈ g.teams → s.thread? k tid = some th → isLive th = false) →
    ∃ u, exec .rendezvousDeadlock s = .next u ∧ u.mem = s.mem ∧
      (∀ k tid t th, k ∈ g.teams → s.team? k = some t → s.thread? k tid = some th → ∃ w, th.wait = some w ∧
        u.thread? k tid = some (enterHandler th (s.vd t.vd).fvec 0x15 0 2 th.arch.pc (deadlockDatum w))) ∧
      ∀ k tid, k ∉ g.teams → u.thread? k tid = s.thread? k tid) ∧
  (∀ s : State, (∃ u, exec .ctDrift s = .next u ∧ u.cycle = s.cycle + 8) ∧
    ((∀ p ∈ s.teams, p.2.granted = [] ∧ p.2.loads = [] ∧ p.2.running = none) →
      ∃ u, exec .ctDrift s = .next u ∧ u.cycle = s.cycle + 8 ∧ u.growth = s.growth ∧ u.mem = s.mem ∧ u.teams = s.teams ∧
        (∀ core, ctOf u core = ctOf s core + 1) ∧
        ((∀ p ∈ s.teams, p.2.core < 768) → ∀ p ∈ s.teams, p.2.resident = true → p.2.retired = false → gangPlaced s p.2 = true →
          AMap.get 0 u.perf (perfKey p.2.vd p.2.core 0) = AMap.get 0 s.perf (perfKey p.2.vd p.2.core 0) + 8 ∧
          AMap.get 0 u.perf (perfKey p.2.vd (p.2.core / 4 * 4) 0x8000) = AMap.get 0 s.perf (perfKey p.2.vd (p.2.core / 4 * 4) 0x8000) + 8)))

/-- R383, R385, R386, R388: a fill's bytes return; its line is written with its decoded instructions, where they can still be fetched, and the
set's least recently used line gives way; a slot's copy ends. -/
def Obligations.FetchFills : Prop :=
  (∀ (s : State) (cl i : Nat) (f : Fill), (AMap.get [] s.fills cl)[i]? = some f →
    (∃ u, exec (.fetchReturn cl i) s = .next u ∧ (AMap.get [] u.fills cl)[i]? = some { f with returned := true } ∧ u.lines = s.lines ∧
      u.mem = s.mem) ∧
    (f.returned = true → ∃ u, exec (.docFillComplete cl i) s = .next u ∧ AMap.get [] u.fills cl = (AMap.get [] s.fills cl).eraseIdx i ∧
      u.mem = s.mem ∧
      (let img := slotImage s cl f.psel f.vd f.pix
       let code := lineCode s f.vd (f.cores.headD 0) f.pix img 64 16 (BitVec.ofNat 64 f.va)
       (∀ d ds, fetchPlace s f.vd (f.cores.headD 0) (BitVec.ofNat 64 f.va) = .ok f.pa → (14 ≤ f.psel ∨ img.isSome = true) → code = d :: ds →
         ∃ l, lineOf u cl f.psel f.pa = some l ∧ l.code = d :: ds ∧
           AMap.get [] u.lines cl = addLine (AMap.get [] s.lines cl) l) ∧
       (code = [] ∨ (f.psel < 14 ∧ img = none) → u.lines = s.lines))) ∧
    (f.returned = false → exec (.docFillComplete cl i) s = .next s)) ∧
  (∀ (s : State) (cl i : Nat) (x : ImgSlot), AMap.find (AMap.get [] s.slots cl) i = some x →
    ∃ u, exec (.imageSlotCopyDone cl i) s = .next u ∧ AMap.find (AMap.get [] u.slots cl) i = some { x with copying := false } ∧
      u.teams = s.teams)

/-! ## The scheduler -/

/-- R305, R308 to R310, R399 to R405, R417, R427: nodes leave WAITRES, gangs are placed, teams retire, completion entries are written, and the
decisions of time-sharing. -/
def Obligations.SchedulingEvents : Prop :=
  (∀ (s : State) (l n : Nat) (x : Launch) (nd : Node), AMap.find s.launches l = some x → AMap.find x.nodes n = some nd →
    (rebound s x.vd nd = true ↔ nd.lrec.pix ≠ 0 ∧ (imageAt s x.vd nd.lrec.pix).map Image.digest ≠ nd.image) ∧
    (waitResReady s x nd = true →
      (rebound s x.vd nd = true → exec (.residencyThreshold l n) s =
        .next (settleAll (modNode s l n fun nd => { nd with state := .done, status := 2 }))) ∧
      (rebound s x.vd nd = false → exec (.residencyThreshold l n) s =
        .next (enterPlacing s l n x nd)) ∧
      (placeable s x.vd nd.lrec = true →
        enterPlacing s l n x nd = modNode s l n fun nd => { nd with state := .placing, since := s.cycle }) ∧
      (placeable s x.vd nd.lrec = false →
        enterPlacing s l n x nd = settleAll (modNode s l n fun nd => { nd with state := .placing, since := s.cycle, ending := some 3 }))) ∧
    (∀ block cores, copiedGang s l n = none → placement s l n = some (x, nd, block, cores) →
      exec (.placementStep l n) s = .next (placeGang s l n x nd block cores)) ∧
    (∀ gk g, copiedGang s l n = some gk → s.gang? gk = some g → ∃ u, exec (.placementStep l n) s = .next u ∧ u.teams = s.teams ∧
      u.gang? gk = some { g with placed := true, fresh := false } ∧
      ((AMap.find u.launches l).bind fun y => AMap.find y.nodes n) = some { nd with
        next := nd.next + 1, since := s.cycle, aged := false,
        state := if nd.lrec.nteams ≤ (nd.next + 1) * nd.lrec.gsize then .draining else .placing }) ∧
    (nd.state = .placing → nd.ending = none → nd.since + 4096 ≤ s.cycle →
      ∃ u, exec (.placementAging l n) s = .next u ∧ u.teams = s.teams ∧
        ((AMap.find u.launches l).bind fun y => AMap.find y.nodes n) = some { nd with aged := true })) ∧
  (∀ (s : State) (gk vd l n rank core grid teamid : Nat) (r : LaunchRec),
    let t := freshTeam s gk vd l n rank core r grid teamid
    (∀ j, j < r.nthreads → (AMap.find t.threads j).map Thread.arch = some { pc := r.tentry, pix := BitVec.ofNat 3 r.pix }) ∧
    (∀ j, r.nthreads ≤ j → AMap.find t.threads j = none) ∧
    t.stream.pc = r.uentry ∧ (t.stream.retired = true ↔ r.uentry = 0) ∧ t.teamid = teamid ∧ t.rank = rank ∧ t.grid = grid ∧ t.core = core ∧
    (∀ j, j < 16 → r.kinit.length = 16 → AMap.get 0 t.k j = r.kinit.getD j 0) ∧ t.q = 0 ∧ t.copies = [] ∧ t.tiles = [] ∧ t.wdlim = r.wdlim) ∧
  (∀ (s : State) (k : Nat) (t : Team), s.team? k = some t →
    (retireReady t = true →
      let s1 := s.setTeam k { t with retired := true, glades := [], tiles := [], canopy := [], tags := [], barriers := [] }
      (s1.gang? t.gang = none → exec (.teamRetire k) s = .next s1) ∧
      ∀ g, s1.gang? t.gang = some g →
        ((∀ j ∈ g.teams, ((s1.team? j).map Team.retired).getD true = true) →
          let ct := (g.teams.filterMap s1.team?).foldl (fun m u => maxD m (ctOf s u.core)) 0
          exec (.teamRetire k) s =
            .next (settleAll (dropGang (modNode s1 t.launch t.node fun nd => { nd with ct := maxD nd.ct ct }) t.gang))) ∧
        ((∃ j ∈ g.teams, ((s1.team? j).map Team.retired).getD true = false) → exec (.teamRetire k) s = .next s1)) ∧
    (t.threads ≠ [] ∨ t.stream.retired = false ∨ t.copies ≠ [] ∨ t.matrix ≠ [] ∨ (∃ b ∈ t.bins, b.reqs ≠ []) →
      exec (.teamRetire k) s = .next s)) ∧
  (∀ (s : State) (l : Nat) (x : Launch) (q : Queue), AMap.find s.launches l = some x → AMap.find s.queues x.queue = some q →
    q.doneOrder.head? = some l →
    (x.unacked ≠ [] → exec (.completionEntryWrite l) s = .next s) ∧
    (x.unacked = [] → (q.w + 2 ^ 32 - q.chead) % 2 ^ 32 = q.entries → exec (.completionEntryWrite l) s =
      .next { s with queues := AMap.set s.queues x.queue { q with stall := true } }) ∧
    (x.unacked = [] → (q.w + 2 ^ 32 - q.chead) % 2 ^ 32 ≠ q.entries → ∃ s1, exec (.completionEntryWrite l) s = .next (finishDrain (settleAll s1) x.queue) ∧
      s1.mem = cellsSet s.mem (q.ring + 16 * (q.w % q.entries))
        (completionBytes (if q.w / q.entries % 2 = 0 then 1 else 0) s.growth x) ∧
      (∃ q1, AMap.find s1.queues x.queue = some q1 ∧ q1.w = (q.w + 1) % 2 ^ 32 ∧ q1.stall = false ∧ q1.doneOrder = q.doneOrder.tail) ∧
      s1.msix = (match q.msix with
        | some v => (q.port, v) :: s.msix
        | none => s.msix) ∧ s1.teams = s.teams)) ∧
  (∀ (x : Launch), x.early = none → (∀ p ∈ x.nodes, p.2.status = 0) → launchStatus x = (0, 0)) ∧
  (∀ (s : State) (n : Nat) (v : VDev),
    ((s.vds.find? fun p => p.2.resident && quantumOver s p.2) = some (n, v) → exec .quantumExpiry s = .next (decide417 s n)) ∧
    ((s.vds.find? fun p => decisionDue s p.1) = none → (s.vds.find? fun p => entered s p.1) = some (n, v) →
      exec .schedulerDecide s = .next (s.modVd n fun v => { v with entering := false, quantumFrom := s.growth.toNat })) ∧
    (v.entering = true → quantumOver s v = false) ∧
    ((s.vds.find? fun p => decisionDue s p.1) = some (n, v) →
      let s1 := s.modVd n fun v => { v with runnable := vdRunnable s n }
      let vts := (s1.vds.filter fun p => p.2.resident && p.2.part == (s1.vd n).part && p.1 != n).map fun p => p.2.vt
      (vdRunnable s n = false → (s.vd n).resident = false → exec .schedulerDecide s = .next s1) ∧
      (vdRunnable s n = false → (s.vd n).resident = true → exec .schedulerDecide s = .next (decide417 s1 n)) ∧
      (vdRunnable s n = true → vts = [] → exec .schedulerDecide s = .next (decide417 (s1.modVd n fun v => { v with vt := max v.vt 0 }) n)) ∧
      ∀ y ys, vdRunnable s n = true → vts = y :: ys →
        exec .schedulerDecide s = .next (decide417 (s1.modVd n fun v => { v with vt := max v.vt (ys.foldl min y) }) n)))

/-- R425, R426, R428 to R433, R470: a stop request, at whose step the halts of the gang's threads end; its time limit, the drain bound, the save of a
gang with its image (its sections' layouts are the model's, log 26), whose every team quiesces before one is saved, which leaves no halt of it and,
where it was the last on a retired cluster, has the cluster cleared (log 32), and its restore, system replies, granules. -/
def Obligations.PreemptionEvents : Prop :=
  (∀ (s : State) (k tid : Nat) (th : Thread), s.thread? k tid = some th → stopTimedOut s k th = true →
    (th.expansion = none → ∃ u, exec (.preemptStopTimeout (.thread k tid)) s = .next u ∧ u.mem = s.mem ∧
      u.thread? k tid = some { th with preempted := true } ∧ (∀ j i, ¬(j = k ∧ i = tid) → u.thread? j i = s.thread? j i) ∧
      ∀ h, h ∈ u.halts ↔ h ∈ s.halts ∧ ¬(h.team = k ∧ h.tid = tid) ∧ ∀ y, s.thread? h.team h.tid = some y → y.preempted = false) ∧
    (∀ x, th.expansion = some x → x.committed = false → ∃ u, exec (.preemptStopTimeout (.thread k tid)) s = .next u ∧
      (∀ h ∈ u.halts, ¬(h.team = k ∧ h.tid = tid)) ∧
      (u.thread? k tid).map Thread.arch = some x.saved ∧ (u.thread? k tid).map Thread.expansion = some none ∧
      (u.thread? k tid).map Thread.preempted = some true ∧ (u.thread? k tid).map Thread.safe = some none ∧ u.mem = s.mem)) ∧
  (∀ (s : State) (gk : Nat) (g : Gang), s.gang? gk = some g → g.saved = false → g.stopAt = none → g.fresh = false →
    (requestStop s gk).halts = s.halts.filter (fun h => !g.teams.contains h.team) ∧
    (requestStop s gk).gang? gk = some { g with stopAt := some s.cycle, blocked := none } ∧ (requestStop s gk).mem = s.mem ∧
    ∀ k tid th u, k ∈ g.teams → s.thread? k tid = some th → stopsAtOnce th = true → (requestStop s gk).thread? k tid = some u → u.preempted = true) ∧
  (∀ (s : State) (gk : Nat) (g : Gang), s.gang? gk = some g → boundPassed s g = true →
    ∃ u, exec (.drainBoundExpiry gk) s = .next u ∧ u.mem = s.mem ∧ ∀ k ∈ g.teams, ∀ t, s.team? k = some t → ∃ t1, u.team? k = some t1 ∧
      (∀ p ∈ t.threads, ∀ ac ∈ p.2.out, ac.port.isSome = true → returnsData ac.op = true → isWrite ac.op = true →
        ∃ r ∈ t1.replays, r.kind = 4 ∧ r.tid = p.1 ∧ r.access = some ac ∧ r.reply = none) ∧
      (∀ p ∈ t.threads, ∀ len, p.2.wait = some (.drain len) → ∀ w ∈ p.2.unacked,
        ∃ r ∈ t1.replays, r.kind = 5 ∧ r.tid = p.1 ∧ r.write = some w ∧ r.acked = false) ∧
      (∀ p ∈ t1.threads, ∀ ac ∈ p.2.out, ¬(ac.port.isSome = true ∧ returnsData ac.op = true ∧ isWrite ac.op = true)) ∧
      (∀ p ∈ t1.threads, ∀ len, p.2.wait ≠ some (.drain len))) ∧
  (∀ (s : State) (gk : Nat) (g : Gang), s.gang? gk = some g →
    (saveReady s g = true →
      let s1 := g.teams.foldl saveTeam (g.teams.foldl quiesceTeam (endHalts s fun h => g.teams.contains h.team))
      let s2 := writeImage (s1.modGang gk fun g => { g with stopAt := none, blocked := none }) gk
      exec (.contextSaveComplete gk) s = .next (settleAll (s2.modGang gk fun g => { g with saved := true }))) ∧
    (restoreEnds s gk g = true → exec (.gangRestore gk) s = .next (s.modGang gk fun g => { g with placed := true })) ∧
    (∀ block cores, restoreEnds s gk g = false → restorePlace s g = some (block, cores) →
      let live := g.teams.filter fun k => (s.team? k).isSome
      let s2 := (live.zip cores).foldl (fun s x => restoreTeam s x.1 x.2) (installImages s g.vd block)
      let s3 := s2.modGang gk fun g => { g with
        saved := false, stopAt := none, blocked := none, block := block.headD 0, image := none, placed := imagesReady s2 gk g.vd }
      exec (.gangRestore gk) s = .next (live.foldl replayTeam s3))) ∧
  (∀ (s : State) (k : Nat) (t : Team), s.team? k = some t →
    (t.running = none → replayTeam s k = (t.copies.map Prod.fst).foldl (fun s id => replayCopy s k id) s) ∧
    (∀ r, t.running = some r → let s1 := (t.copies.map Prod.fst).foldl (fun s id => replayCopy s k id) s
      replayTeam s k = recallKeys s1 (bulkLines s1 t r)) ∧
    ∃ t1, (saveTeam s k).team? k = some t1 ∧ t1.resident = false ∧ t1.savedCt = ctOf s t.core ∧
      t1.savedWindow = cellsGet s.scratch (t.core * 2 ^ 19 + t.winBase) t.lrec.scratch ∧ t1.wdcnt = t.wdcnt ∧ t1.wdDue = t.wdDue ∧
      (saveTeam s k).mem = s.mem ∧ (saveTeam s k).scratch = s.scratch) ∧
  (∀ (s : State) (gk : Nat) (g : Gang) (a : Nat), s.gang? gk = some g →
    let bs := gangImage g (g.teams.filterMap s.team?)
    imagePlace s g.vd bs.length = some a → (writeImage s gk).mem = cellsPut s.mem a bs ∧
      ((writeImage s gk).gang? gk).map Gang.image = some (some (a, bs.length)) ∧ (writeImage s gk).teams = s.teams) ∧
  (∀ th : Thread, (savedThread th).arch = th.arch ∧ (savedThread th).cr = th.cr ∧ (savedThread th).f = th.f ∧ (savedThread th).held = false) ∧
  (∀ (s : State) (alloc run tid : Nat) (th : Thread), th.safe = none →
    restoreThread s alloc run tid th = { th with slot := slotIn run tid, waitFrom := s.cycle, preempted := false }) ∧
  (∀ (s : State) (alloc : Nat) (th : Thread) (l : LiveRec),
    (∀ j, j < alloc → l.vmask.getLsbD (j / 8) = true → vReg (applyLive s alloc th l).arch j = vReg th.arch j) ∧
    (∀ j, l.pmask.getLsbD j = true → (applyLive s alloc th l).arch.p.getLsbD j = th.arch.p.getLsbD j) ∧
    (l.lc0 = true → (applyLive s alloc th l).arch.lc0 = th.arch.lc0) ∧ (l.lc1 = true → (applyLive s alloc th l).arch.lc1 = th.arch.lc1) ∧
    (applyLive s alloc th l).arch.pc = th.arch.pc ∧ (applyLive s alloc th l).cr = th.cr) ∧
  (∀ (s : State) (k tid : Nat) (t : Team) (th : Thread), s.team? k = some t → s.thread? k tid = some th →
    (∀ ac rest, th.out = ac :: rest → ac.port.isSome = true → returnsData ac.op = true → isWrite ac.op = true →
      exec (.systemReplyArrival (.thread k tid)) s = .next (performOldest s (.thread k tid))) ∧
    (th.out = [] → ∀ r w, t.replays = [r] → r.kind = 5 → r.tid = tid → r.acked = false → r.access = none → r.write = some w →
      ∃ u t1, exec (.systemReplyArrival (.thread k tid)) s = .next u ∧ u.team? k = some t1 ∧
        t1.replays = [{ r with write := some { w with arrived := true }, acked := true }])) ∧
  (∀ (s : State) (g : Nat) (tier : Tier), moveOk s g tier = true →
    ∃ u, exec (.granuleMoveComplete g tier) s = .next u ∧ u.mem = s.mem ∧ u.teams = s.teams ∧
      (g ∈ u.t0 ↔ tier = .t0) ∧ (g ∈ u.t2 ↔ tier = .t2) ∧ (∀ x, x ≠ g → ((x ∈ u.t0 ↔ x ∈ s.t0) ∧ (x ∈ u.t2 ↔ x ∈ s.t2))))

/-! ## Management commands -/

/-- R381 to R383, R393 to R398, R480 to R482: the commands of images, queues and graphs. -/
def Obligations.ImageAndQueueCommands : Prop :=
  let always : State → Cmd → Prop := fun _ _ => True
  let none' : Cmd → Option Nat := fun _ => none
  let n (off len : Nat) (c : Cmd) : Nat := cNat c off len
  let fails (code : Nat) (s : State) (c : Cmd) : State := complete s c [] code 0
  let file (s : State) (c : Cmd) : List Byte := cellsGet s.mem (n 8 8 c) (n 0x10 4 c)
  let loaded (s : State) (c : Cmd) (h : Nat) (d : BitVec 512) : State :=
    complete { s with mem := cellsSet (cellsSet s.mem (n 0x18 8 c) (leBytes 4 h)) (n 0x18 8 c + 0x40) (digestBytes d) } c
      [(0x20, leBytes 4 h)] 0 0
  (∀ (s : State) (c : Cmd), s.ready = true → roleAllows s c none = true →
    paramFail c [(0x08, 8), (0x10, 4), (0x18, 8)] [(0x08, readable (n 8 8 c) (max (n 0x10 4 c) 1) && regionOf (n 8 8 c) != 1),
      (0x18, readable (n 0x18 8 c) 128 && n 0x18 8 c % 64 == 0)] = none →
    (∀ st d, checkImage s (file s c) = .error (st, d) → exec (.imgLoad c) s = .next (complete s c [] st d)) ∧
    ∀ body d, checkImage s (file s c) = .ok (body, d) →
      (∀ p, (s.images.find? fun p => p.2.digest == d) = some p → exec (.imgLoad c) s = .next (loaded s c p.1 d)) ∧
      ((s.images.find? fun p => p.2.digest == d) = none → s.images.length < 64 → exec (.imgLoad c) s =
        .next (loaded { s with images := AMap.set s.images (freeHandle s.images) { body := body, digest := d } } c (freeHandle s.images) d)) ∧
      ((s.images.find? fun p => p.2.digest == d) = none → 64 ≤ s.images.length → exec (.imgLoad c) s = .next (fails 0x2A s c))) ∧
  (let bound (s : State) (c : Cmd) : AMap Nat := AMap.set (s.vd (n 8 1 c)).bind (n 9 1 c) (n 12 4 c)
   let size (s : State) (c : Cmd) : Nat := ((((bound s c).map Prod.snd).eraseDups).map (imageBytes s)).sum
   let known (s : State) (c : Cmd) : Prop := (AMap.find s.images (n 12 4 c)).isSome = true
   let index (c : Cmd) : Prop := 1 ≤ n 9 1 c ∧ n 9 1 c ≤ 7
   let free (s : State) (c : Cmd) : Prop := contextOn s (n 8 1 c) = false
   Command .imgBind always (fun c => some (n 8 1 c)) [(0x08, 2), (0x0C, 4)] (fun _ _ => []) [
     (fun s c => ¬known s c, fails 0x25), (fun s c => known s c ∧ ¬index c, fails 0x26),
     (fun s c => known s c ∧ index c ∧ ¬free s c, fails 0x27),
     (fun s c => known s c ∧ index c ∧ free s c ∧ 524288 < size s c, fails 0x28),
     (fun s c => known s c ∧ index c ∧ free s c ∧ size s c ≤ 524288, fun s c =>
       complete (s.modVd (n 8 1 c) fun v => { v with bind := AMap.set v.bind (n 9 1 c) (n 12 4 c) }) c [] 0 0)] ∧
   Command .imgUnbind always (fun c => some (n 8 1 c)) [(0x08, 2)] (fun _ _ => []) [
     (fun _ c => ¬index c, fails 0x26), (fun s c => index c ∧ ¬free s c, fails 0x27),
     (fun s c => index c ∧ free s c, fun s c =>
       complete (s.modVd (n 8 1 c) fun v => { v with bind := AMap.del v.bind (n 9 1 c) }) c [] 0 0)] ∧
   (let used (s : State) (c : Cmd) : Prop := ∃ p ∈ s.vds, ∃ b ∈ p.2.bind, b.2 = n 12 4 c
    Command .imgDrop always none' [(0x0C, 4)] (fun _ _ => []) [
      (fun s c => ¬known s c, fails 0x25), (fun s c => known s c ∧ used s c, fails 0x29),
      (fun s c => known s c ∧ ¬used s c, fun s c =>
        complete (dropSlots { s with images := AMap.del s.images (n 12 4 c) } (n 12 4 c)) c [] 0 0)])) ∧
  Command .queueAssign always (fun c => some (n 0x0A 1 c)) [(0x08, 16), (0x18, 3)] (fun s c =>
      [(0x08, decide (n 8 2 c < 4096)), (0x0B, decide (n 0x0B 1 c < 2) && configured (s.vd (n 0x0A 1 c)) &&
         (AMap.get {} s.ports (n 0x0B 1 c)).parts.getLsbD (s.vd (n 0x0A 1 c)).part),
       (0x0C, isPow2 (n 0x0C 4 c) 16 65536),
       (0x10, readable (n 0x10 8 c) (16 * n 0x0C 4 c) && n 0x10 8 c % 16 == 0 && regionOf (n 0x10 8 c) != 1),
       (0x18, decide (n 0x18 2 c < 2048) || n 0x18 2 c == 0xFFFF), (0x1A, decide (n 0x1A 1 c < 2))]) [
    (fun s c => (AMap.find s.queues (n 8 2 c)).isSome = true, fails 0x38),
    (fun s c => AMap.find s.queues (n 8 2 c) = none, fun s c =>
      let q : Queue := { vd := n 0x0A 1 c, port := n 0x0B 1 c, ring := n 0x10 8 c, entries := n 0x0C 4 c,
                         msix := if n 0x18 2 c = 0xFFFF then none else some (n 0x18 2 c), serial := n 0x1A 1 c == 1 }
      complete { s with queues := AMap.set s.queues (n 8 2 c) q } c [] 0 0)] ∧
  (let live (s : State) (c : Cmd) : Prop := (∃ p ∈ s.launches, p.2.queue = n 8 2 c ∧ launchDone p.2 = false) ∨
     ∃ q, AMap.find s.queues (n 8 2 c) = some q ∧ q.draining ≠ none
   Command .queueRelease always none' [(0x08, 2)] (fun _ c => [(0x08, decide (n 8 2 c < 4096))]) [
     (live, fails 0x38),
     (fun s c => ¬live s c, fun s c => complete { s with
       queues := AMap.del s.queues (n 8 2 c), launches := s.launches.filter fun p => p.2.queue != n 8 2 c } c [] 0 0)]) ∧
  (∀ (s : State) (c : Cmd) (q : Queue), s.ready = true → roleAllows s c none = true → AMap.find s.queues (n 8 2 c) = some q →
    (q.draining.isSome = true → exec (.queueDrain c) s = .next s) ∧
    (q.draining = none → n 8 2 c < 4096 → n 0x0A 1 c < 2 →
      paramFail c [(0x08, 3)] [(0x08, true), (0x0A, true)] = none →
      exec (.queueDrain c) s = .next (finishDrain
        (drainQueue { s with queues := AMap.set s.queues (n 8 2 c) { q with draining := some c, cancelled := 0 } } (n 8 2 c)
          (n 0x0A 1 c == 1)) (n 8 2 c)))) ∧
  (∀ (s : State) (c : Cmd), s.ready = true → roleAllows s c (some (n 8 1 c)) = true → paramFail c [(0x08, 1), (0x10, 8)] [] = none →
    (∀ st i, checkGraph s (n 8 1 c) (n 0x10 8 c) = .error (st, i) → exec (.graphRegister c) s = .next (complete s c [] st i)) ∧
    ∀ g, checkGraph s (n 8 1 c) (n 0x10 8 c) = .ok g → exec (.graphRegister c) s =
      .next (complete { s with graphs := AMap.set s.graphs (freeHandle s.graphs) g } c [(0x20, leBytes 4 (freeHandle s.graphs))] 0 0)) ∧
  (let used (s : State) (c : Cmd) : Prop := ∃ p ∈ s.launches, p.2.graph = n 12 4 c ∧ launchDone p.2 = false
   Command .graphDrop always none' [(0x0C, 4)] (fun _ _ => []) [
     (used, fails 0x38), (fun s c => ¬used s c, fun s c => complete { s with graphs := AMap.del s.graphs (n 12 4 c) } c [] 0 0)]) ∧
  (∀ (s : State) (c : Cmd) (code detail : Nat), Memory.wf s = true →
    cellsGet (complete s c [] code detail).mem (c.entry + 60) 4 = leBytes 4 1 ∧
    cellsGet (complete s c [] code detail).mem (c.entry + 56) 4 = leBytes 4 (code + 256 * detail) ∧
    ∀ a, a < c.entry + 56 ∨ c.entry + 64 ≤ a → cellGet (complete s c [] code detail).mem a = cellGet s.mem a)

/-- R412 to R424, R448, R457 to R461, R477, R478, R480 to R486: the commands of partitions, virtual devices, memory tiers, termination,
containment, ports, links, power and attestation. Where VD_GRANT places its granules is the model's choice (log 52), and that its extents may overlap,
each counted (log 64). -/
def Obligations.PartitionAndManagementCommands : Prop :=
  let always : State → Cmd → Prop := fun _ _ => True
  let none' : Cmd → Option Nat := fun _ => none
  let vdn : Cmd → Option Nat := fun c => some (cNat c 8 1)
  let n (off len : Nat) (c : Cmd) : Nat := cNat c off len
  let any : State → Cmd → Prop := fun _ _ => True
  let ok (s : State) (c : Cmd) : State := complete s c [] 0 0
  (let map (s : State) (c : Cmd) : List Byte := cellsGet s.mem (n 0x10 8 c) 256
   let hit (s : State) (c : Cmd) (g : Nat × Gang) : Prop :=
     quadrants s.config (s.vd g.2.vd).part ≠ quadrants (n 8 1 c) (s.vd g.2.vd).part
   let room (s : State) (c : Cmd) : Prop := ∀ p, p < 4 → mapCount s (map s c) p ≤ 64
   Command .partSet (fun s _ => s.partSet = none) none' [(0x08, 1), (0x10, 8)] (fun s c =>
       [(0x08, decide (n 8 1 c < 3)), (0x10, readable (n 0x10 8 c) 256 && mapOk s (n 8 1 c) (map s c))]) [
     (fun s c => room s c ∧ ∀ g ∈ s.gangs, ¬hit s c g, fun s c => ok (repartition s (n 8 1 c) (map s c)) c),
     (fun s c => room s c ∧ ∃ g, s.gangs = [g] ∧ hit s c g ∧ g.2.saved = false, fun s c =>
       { requestStop s ((s.gangs.head?.map Prod.fst).getD 0) with partSet := some c })]) ∧
  (∀ (s : State) (c d : Cmd), s.partSet = some d → d ≠ c → exec (.partSet c) s = .next s) ∧
  (let v (s : State) (c : Cmd) : VDev := vdFields c (s.vd (n 8 1 c))
   let full (s : State) (c : Cmd) : Prop :=
     64 ≤ (s.vds.filter fun p => p.1 != n 8 1 c && configured p.2 && p.2.part == (v s c).part).length
   let small (s : State) (c : Cmd) : Prop := (v s c).ctxLen < partCores s (v s c).part * (wcsb (v s c) + 65536)
   let clash (s : State) (c : Cmd) : Bool := (v s c).part != (s.vd (n 8 1 c)).part ||
     s.vds.any fun p => p.1 != n 8 1 c && p.2.resident && vdOverlap (v s c) p.2
   let done (s s0 : State) (c : Cmd) : State :=
     complete (examine (s0.modVd (n 8 1 c) (vdFields c)) (n 8 1 c)) c [(0x1C, leBytes 4 (qeff (v s c)))] 0 0
   let good (s : State) (c : Cmd) : Prop := quotaFail s (v s c) = none
   Command .vdConfig always vdn [(0x08, 14), (0x18, 4), (0x20, 24)] (fun _ _ => []) [
     (fun s c => quotaFail s (v s c) ≠ none, fun s c => complete s c [] 0x30 ((quotaFail s (v s c)).getD 0)),
     (fun s c => good s c ∧ full s c, fun s c => complete s c [] 0x31 (v s c).part),
     (fun s c => good s c ∧ ¬full s c ∧ (v s c).quantum = 0, fun s c => complete s c [] 0x32 0),
     (fun s c => good s c ∧ ¬full s c ∧ (v s c).quantum ≠ 0 ∧ small s c, fun s c => complete s c [] 0x33 0),
     (fun s c => good s c ∧ ¬full s c ∧ (v s c).quantum ≠ 0 ∧ ¬small s c ∧ ¬((s.vd (n 8 1 c)).resident = true ∧ clash s c = true),
       fun s c => done s s c),
     (fun s c => good s c ∧ ¬full s c ∧ (v s c).quantum ≠ 0 ∧ ¬small s c ∧ (s.vd (n 8 1 c)).resident = true ∧ clash s c = true,
       fun s c => done s (unseat s (n 8 1 c)) c)]) ∧
  (∀ v : VDev, qeff v = max v.quantum (wcst v + 20) ∧
    wcsb v = 32 * (256 * v.rowUnits) + 64 * (64 * v.scrUnits) + 256 * (32 * v.slotRuns) + 2359296) ∧
  (let es (s : State) (c : Cmd) : List (Nat × Nat) := (List.range (n 9 1 c)).map fun i =>
     (leNat (cellsGet s.mem (n 0x10 8 c + 16 * i) 8), leNat (cellsGet s.mem (n 0x10 8 c + 16 * i + 8) 8))
   let others (s : State) (c : Cmd) : List (Nat × Nat) := ((s.vds.filter fun p => p.1 != n 8 1 c).map fun p => p.2.extents).flatten
   Command .vdGrant always vdn [(0x08, 2), (0x10, 8)] (fun s c =>
       [(0x09, decide (1 ≤ n 9 1 c) && decide (n 9 1 c ≤ 16)), (0x10, readable (n 0x10 8 c) (max (16 * n 9 1 c) 1) &&
         (es s c).all fun e => decide (e.1 + e.2 ≤ 2 ^ 42) && e.1 % 65536 == 0 && e.2 % 65536 == 0)]) [
     (fun s c => ∀ q, q < 4 → bytesIn (others s c) q + bytesIn (es s c) q ≤ backing s q, fun s c =>
       ok ((List.range 16).foldl (spillT1 (es s c)) (s.modVd (n 8 1 c) fun v => { v with extents := es s c })) c),
     (fun s c => backing s 0 < bytesIn (others s c) 0 + bytesIn (es s c) 0, fun s c => complete s c [] 0x34 0)]) ∧
  Command .vdStatus always vdn [(0x08, 1)] (fun _ _ => []) [(any, fun s c => complete s c
    [(0x10, leBytes 8 (statusWord s (n 8 1 c))), (0x18, leBytes 8 (s.vd (n 8 1 c)).vt), (0x20, leBytes 4 (recordOf (s.vd (n 8 1 c))).length),
      (0x24, leBytes 4 (inT0 s (s.vd (n 8 1 c))))] 0 0)] ∧
  Command .tierAdd always none' [(0x08, 1), (0x10, 16)] (fun _ c =>
      [(0x08, decide (n 8 1 c < 16)), (0x10, ((regionOf (n 0x10 8 c) == 2 || regionOf (n 0x10 8 c) == 3) &&
        readable (n 0x10 8 c) (max (n 0x18 8 c) 1)) && n 0x10 8 c % 65536 == 0), (0x18, n 0x18 8 c % 65536 == 0)]) [
    (any, fun s c => ok { s with
      tier2 := AMap.set s.tier2 (n 8 1 c) (AMap.get [] s.tier2 (n 8 1 c) ++ [(n 0x10 8 c, n 0x18 8 c)]) } c)] ∧
  (let gone (c : Cmd) (x : Trans) : Bool := shotBy (n 8 1 c) (n 9 1 c) (n 0x10 8 c) x
   Command .tlbInval always vdn [(0x08, 2), (0x10, 8)] (fun s c =>
       [(0x08, !contextOn s (n 8 1 c)), (0x09, decide (n 9 1 c < 4)), (0x10, n 9 1 c == 3 || decide (n 0x10 8 c < 2 ^ 52))]) [
     (any, fun s c => ok ((s.walked.filter (gone c)).foldl endShot (clearTlbs s (gone c))) c)]) ∧
  (∀ (s : State) (hit : Trans → Bool) (core : Nat), AMap.get [] (clearTlbs s hit).tlb core = (AMap.get [] s.tlb core).filter fun x => !hit x) ∧
  Command .teamTerm always vdn [(0x08, 1), (0x0A, 2), (0x0C, 8)] (fun _ c => [(0x0A, decide (n 0x0A 2 c < 4096))]) [
    (fun s c => ∀ g ∈ s.gangs, g.2.vd ≠ n 8 1 c, ok),
    (fun s c => n 0x10 4 c = 0xFFFFFFFF ∧ ∃ g x, s.gangs = [g] ∧ g.2.vd = n 8 1 c ∧ g.2.fresh = false ∧ AMap.find s.launches g.2.launch = some x ∧
        x.queue = n 0x0A 2 c ∧ x.grid % 2 ^ 32 = n 0x0C 4 c, fun s c =>
      ok (match s.gangs with
        | g :: _ => commandKill s g.1 (firstTeamid s g.2) true
        | [] => s) c)] ∧
  Command .clusterReset always none' [(0x08, 2)] (fun _ c => [(0x08, decide (n 8 2 c < 192))]) [
    (any, fun s c => ok (containmentReset (freeVal64 s).2 (n 8 2 c) 0
      (unitDatum (n 8 2 c) 0 0 ||| ((freeVal64 s).1 &&& 0xFFFFFFFFFF))) c)] ∧
  Command .clusterRetire always none' [(0x08, 2)] (fun _ c => [(0x08, decide (n 8 2 c < 192))]) [
    (any, fun s c => ok (retireCluster s (n 8 2 c)) c)] ∧
  Command .portBind always none' [(0x08, 3)] (fun _ c =>
      [(0x08, decide (n 8 1 c < 2)), (0x09, decide (n 9 1 c < 2)), (0x0A, decide (n 10 1 c < 16))]) [
    (any, fun s c =>
      let p := { AMap.get {} s.ports (n 8 1 c) with owner := n 9 1 c == 0, parts := BitVec.ofNat 4 (n 10 1 c) }
      ok { s with ports := AMap.set s.ports (n 8 1 c) p } c)] ∧
  Command .linkUp always none' [(0x08, 1)] (fun _ c => [(0x08, decide (n 8 1 c < 16))]) [
    (any, fun s c => ok { s with links := AMap.set s.links (n 8 1 c) { up := true, failed := 0 } } c)] ∧
  Command .linkDown always none' [(0x08, 1)] (fun _ c => [(0x08, decide (n 8 1 c < 16))]) [
    (any, fun s c => ok (linkDown s (n 8 1 c)) c)] ∧
  (let kept (port : Nat) (th : Thread) : Prop := ∀ x, th.expansion = some x → x.committed = true ∨ ∀ ac ∈ x.stores, ac.port ≠ some port
  (∀ (port tid : Nat) (t : Team) (th : Thread) (ac : Access), th.out = [ac] → ac.port = some port → th.unacked = [] → th.markers = [] →
    t.copies = [] → t.replays = [] → kept port th →
    (returnsData ac.op = true → cutThread port t tid th = decFlag (giveData { th with out := [] } ac (some (0, true))) ac.flag) ∧
    (returnsData ac.op = false → cutThread port t tid th = addPending (decFlag { th with out := [] } ac.flag) 2 0x22 ac.va)) ∧
  (∀ (port tid : Nat) (t : Team) (th : Thread), (∀ ac ∈ th.out, ac.port = some port → returnsData ac.op = false) → kept port th →
    (lostWrites port t tid th = [] → (cutThread port t tid th).pending = th.pending) ∧
    (lostWrites port t tid th ≠ [] → ∃ w ∈ lostWrites port t tid th, (∀ x ∈ lostWrites port t tid th, w.1 ≤ x.1) ∧
      (cutThread port t tid th).pending = th.pending ++ [{ rank := 2, code := 0x22, datum := w.2 }]))) ∧
  (∀ (port tid : Nat) (t : Team) (th : Thread) (x : Expansion), th.expansion = some x → x.committed = false →
    (∃ ac ∈ x.stores, ac.port = some port) → (∀ ac ∈ th.out, ac.port ≠ some port) → (∀ p ∈ th.pending, p.rank ≠ 1) →
    (cutThread port t tid th).expansion = none ∧ (cutThread port t tid th).arch = x.saved) ∧
  (∀ (port : Nat) (t : Team), (∀ w ∈ t.stream.unacked, w.port ≠ port) → (∀ ac ∈ t.stream.out, ac.port ≠ some port) →
    cutStream port [] t = t ∧ ∀ va rest, cutStream port (va :: rest) t = ufault t 0x22 va t.stream.pc 0) ∧
  Command .pwrLimit always none' [(0x08, 2)] (fun _ c => [(0x08, decide (1200 ≤ n 8 2 c) && decide (n 8 2 c ≤ 3600))]) [
    (any, fun s c => complete { s with power := n 8 2 c } c [(0x0C, leBytes 2 (n 8 2 c))] 0 0)] ∧
  (let report (s : State) (c : Cmd) : List Byte := attestReport s (cellsGet s.mem (n 0x10 8 c) 64)
   Command .attest always none' [(0x10, 16)] (fun _ c => [(0x10, readable (n 0x10 8 c) 64),
       (0x18, (regionOf (n 0x18 8 c) == 2 || regionOf (n 0x18 8 c) == 3) && readable (n 0x18 8 c) (256 + 64 * 64 + 4656))]) [
     (any, fun s c => ok { s with
       mem := cellsSet s.mem (n 0x18 8 c) (report s c ++ signatureBlock (Config.sha3_512 (report s c))) } c)])

/-! ## What comes from outside -/

/-- R343, R393 to R396, R404, R477 to R480: accesses of the host and of peers, the registers of a queue and of the controller. -/
def Obligations.HostAndQueueRegisters : Prop :=
  (∀ (s : State) (port pa n : Nat) (bs : List Byte) (bad : Bool),
    exec (.hostWrite port pa bs bad) s =
      .next (if portReaches s port pa bs.length then portWrite s port pa bs bad else { s with reads := none :: s.reads }) ∧
    (portReaches s port pa n = true → ∃ u, exec (.hostRead port pa n) s = .next u ∧ u.mem = s.mem ∧ u.teams = s.teams ∧
      ∃ p, u.reads = some (cellsGet s.mem pa n, p) :: s.reads) ∧
    (portReaches s port pa n = false → exec (.hostRead port pa n) s = .next { s with reads := none :: s.reads })) ∧
  (∀ (s : State) (port pa : Nat) (bs : List Byte) (bad : Bool), Memory.wf s = true → s.teams = [] → pa % 64 + bs.length ≤ 64 →
    pa + bs.length ≤ 2 ^ 42 → bs ≠ [] → ∀ a,
    cellGet (portWrite s port pa bs bad).mem a = if pa ≤ a ∧ a < pa + bs.length then bs.getD (a - pa) 0 else cellGet s.mem a) ∧
  (∀ (s : State) (port off n : Nat) (bs : List Byte) (bad : Bool), let pa := (AMap.get {} s.ports port).winbase.toNat + off
    (2 ^ 36 < off + max n bs.length → exec (.bar4Access port off ⟨bs, bad⟩ n) s = .next { s with reads := none :: s.reads }) ∧
    (off + max n bs.length ≤ 2 ^ 36 → exec (.bar4Access port off ⟨bs, bad⟩ n) s =
      if bs = [] then exec (.hostRead port pa n) s else exec (.hostWrite port pa bs bad) s)) ∧
  (∀ (s : State) (port qn : Nat) (q : Queue), AMap.find s.queues qn = some q → q.port = port →
    (AMap.get {} s.ports port).parts.getLsbD (s.vd q.vd).part = true →
    (∀ (size : Nat) (w : DWord),
      (size ≠ 8 → exec (.doorbell port qn size w) s = .next s) ∧
      (q.draining ≠ none ∨ 256 ≤ ((launchesOf s qn).filter fun p => !launchDone p.2).length →
        exec (.doorbell port qn 8 w) s = .next (setQueue s qn { q with ovf := true })) ∧
      (q.draining = none → ((launchesOf s qn).filter fun p => !launchDone p.2).length < 256 →
        let s1 := setQueue s qn { q with accepted := (q.accepted + 1) % 2 ^ 32 }
        exec (.doorbell port qn 8 w) s = .next (settleAll { s1 with
          launches := AMap.set s1.launches s.nextKey { newLaunch s qn q ((q.accepted + 1) % 2 ^ 32) w with ct := hostTime s },
          nextKey := s.nextKey + 1 }))) ∧
    (∀ x : Word, ((q.w + 2 ^ 32 - x.toNat) % 2 ^ 32 ≤ q.entries →
        exec (.chead port qn x) s = .next (setQueue s qn { q with chead := x.toNat })) ∧
      (q.entries < (q.w + 2 ^ 32 - x.toNat) % 2 ^ 32 → exec (.chead port qn x) s = .next s)) ∧
    (∀ x : DWord, (x.getLsbD 0 = true → exec (.qstatOvfClear port qn x) s = .next (setQueue s qn { q with ovf := false })) ∧
      (x.getLsbD 0 = false → exec (.qstatOvfClear port qn x) s = .next s))) ∧
  (∀ (s : State) (port qn : Nat) (q : Queue), AMap.find s.queues qn = some q →
    q.port ≠ port ∨ (AMap.get {} s.ports port).parts.getLsbD (s.vd q.vd).part = false →
    (∀ n w, exec (.doorbell port qn n w) s = .next s) ∧ (∀ x, exec (.chead port qn x) s = .next s) ∧
    (∀ x, exec (.qstatOvfClear port qn x) s = .next s) ∧ qstat s port qn = 0) ∧
  (∀ (s : State) (qn grid : Nat) (q : Queue) (w : DWord),
    (bitsOf w 47 20 ≠ 0 → (newLaunch s qn q grid w).early = some 6) ∧
    (bitsOf w 47 20 = 0 → AMap.find s.graphs (bitsOf w 19 0) = none → (newLaunch s qn q grid w).early = some 5) ∧
    (∀ g, bitsOf w 47 20 = 0 → AMap.find s.graphs (bitsOf w 19 0) = some g → g.vd = q.vd → (newLaunch s qn q grid w).early = none ∧
      (newLaunch s qn q grid w).nodes.map Prod.snd = g.nodes) ∧
    (newLaunch s qn q grid w).tag = bitsOf w 63 48) ∧
  (∀ (s : State) (port : Nat) (p : Port), AMap.find s.ports port = some p →
    (∀ x : Word,
      (x.toNat < p.cmdsize.toNat → exec (.cmdtail port x) s = .next (setPort s port { p with cmdtail := x })) ∧
      (p.cmdsize.toNat ≤ x.toNat → exec (.cmdtail port x) s = .next s) ∧
      (x.toNat < p.evsize.toNat → exec (.evhead port x) s = .next (flushNotices (setPort s port { p with evhead := x }) port p.notices.length)) ∧
      (p.evsize.toNat ≤ x.toNat → exec (.evhead port x) s = .next s)) ∧
    (∀ x : DWord,
      (x.toNat % 2 ^ 30 = 0 → exec (.managementRegisterWrite port 0x0108 x) s = .next (setPort s port { p with winbase := x })) ∧
      (x.toNat % 64 = 0 → exec (.managementRegisterWrite port 0x1000 x) s = .next (setPort s port { p with cmdbase := x })) ∧
      (x.toNat % 32 = 0 → exec (.managementRegisterWrite port 0x1100 x) s = .next (setPort s port { p with evbase := x })) ∧
      (isPow2 (x.toNat % 2 ^ 32) 16 4096 = true →
        exec (.managementRegisterWrite port 0x1008 x) s = .next (setPort s port { p with cmdsize := x.truncate 32 })) ∧
      (isPow2 (x.toNat % 2 ^ 32) 64 65536 = true → exec (.managementRegisterWrite port 0x1108 x) s =
        .next (flushNotices (setPort s port { p with evsize := x.truncate 32 }) port p.notices.length)) ∧
      (∀ off, off ∉ [0x0108, 0x1000, 0x1008, 0x1100, 0x1108] → exec (.managementRegisterWrite port off x) s = .next s)) ∧
    bar0Read s port 0x0000 = 0x55414C5900040000 ∧ bar0Read s port 0x0100 = s.growth.toNat ∧ bar0Read s port 0x1010 = p.cmdhead.toNat ∧
    bar0Read s port 0x1110 = p.evtail.toNat ∧ bar0Read s port 0x1114 = p.evlost.toNat) ∧
  (∀ (s : State) (l : Nat) (x : Link), AMap.find s.links l = some x →
    let s0 := { s with links := AMap.set s.links l { x with failed := 0 } }
    let served (pa n : Nat) (r : PeerReq) : Prop := exec (.linkRequest l r) s =
      .next (answer (portRead s0 (l + 2) pa n).1 (some (portRead s0 (l + 2) pa n).2))
    (x.up = false → ∀ r, exec (.linkRequest l r) s = .next s) ∧
    (x.up = true →
      exec (.linkRequest l .fence) s = .next s0 ∧
      (∀ pa n, pa + n ≤ 2 ^ 42 → served pa n (.read pa n)) ∧
      (∀ pa bs bad, pa + bs.length ≤ 2 ^ 42 → exec (.linkRequest l (.write pa bs bad)) s = .next (portWrite s0 (l + 2) pa bs bad)) ∧
      (∀ pa n, 2 ^ 42 < pa + n → exec (.linkRequest l (.read pa n)) s = .next { s0 with reads := none :: s.reads }) ∧
      (∀ pa op ty b c, let n := (ElTy.ofCode ty).width / 8
        let s1 := clearOwners s0 (.phys pa) (ownerCount s0)
        let bs := readBytes s1 (.phys pa) n
        let old := leNat bs
        let nb := b.toNat % 2 ^ (8 * n)
        let gives (t : State) : Prop := exec (.linkRequest l (.atom pa op ty b c)) s = .next (answer t (some (bs, false)))
        pa + n ≤ 2 ^ 42 → pa % n = 0 → locPoisoned s1 (.phys pa) n = false →
        (op = 16 → old ≠ nb → gives (touchHome s1 (portCore (l + 2)) (.phys pa))) ∧
        (op = 16 → old = nb → gives (storeHome s1 (portCore (l + 2)) (.phys pa) (leBytes n c.toNat) false)) ∧
        (op ≠ 16 → gives (storeHome s1 (portCore (l + 2)) (.phys pa) (leBytes n (atomNew op (ElTy.ofCode ty) old nb)) false)))))

/-- R453 to R457, R461, R478, R480, R484, R486: errors, links, notices that are dropped, power and boot. That a read of a register in error faults also
where a near slot serves it is the model's choice (log 65). A link whose retry has failed 16 times, after the failure that called for the first, goes down
before anything else but an expired watchdog acts (log 17). -/
def Obligations.ErrorsPowerBoot : Prop :=
  (∀ (s : State) (x : ErrUnit) (ts : List Nat), AMap.find s.corrections (unitKey x) = some ts →
    let next (now : List Nat) : State := { s with corrections := AMap.set s.corrections (unitKey x) now }
    let s1 := next (s.growth.toNat :: ts)
    ((∀ t ∈ ts, s.growth.toNat ≤ t + 360000000000) → ts.length < 1026 →
      (ts.length ≠ 64 → ts.length ≠ 1024 → exec (.errorCorrected x) s = .next s1) ∧
      (ts.length = 64 → exec (.errorCorrected x) s = .next (unitNotice s1 6 x)) ∧
      (ts.length = 1024 → ∀ c, x = .cluster c → exec (.errorCorrected x) s = .next (requestReplacement s1 c)) ∧
      (ts.length = 1024 → (∀ c, x ≠ .cluster c) → exec (.errorCorrected x) s = .next (unitNotice s1 5 x))) ∧
    ((∀ t ∈ ts, t + 360000000000 < s.growth.toNat) → exec (.errorCorrected x) s = .next (next [s.growth.toNat])) ∧
    (ts.length ≠ 64 → ts.length ≠ 1024 → exec (.errorCorrected x) s =
      .next (next ((s.growth.toNat :: ts.filter fun t => decide (s.growth.toNat ≤ t + 360000000000)).take 1026)))) ∧
  (∀ (s : State) (k tid : Nat) (th : Thread) (j : BitVec 8) (near : Bool), s.thread? k tid = some th →
    ∃ u th1, exec (.uncorrectableError (.reg (.thread k tid) j near)) s = .next u ∧ u.thread? k tid = some th1 ∧ th1.arch = th.arch ∧ u.mem = s.mem ∧
      (near = false → AMap.find th1.bad j.toNat = some 0) ∧
      (∀ n, near = true → dirtyNear th j.toNat = some n → AMap.find th1.bad j.toNat = some (n + 1)) ∧
      (near = true → dirtyNear th j.toNat = none → th1 = th)) ∧
  (∀ (c : Ctx) (xs : List Nat), c.th.bad = [] → softError c xs = none) ∧
  (∀ (c : Ctx) (xs : List Nat) (j : Nat), (AMap.find c.th.bad j).isSome = true → j ∈ xs → ∃ d, softError c xs = some (0x21, d)) ∧
  (∀ (c : Ctx) (j n : Nat), c.team.core < 768 → AMap.find c.th.bad j = some n → ∃ d, softError c [j] = some (0x21, d) ∧
    d.toNat / 2 ^ 48 = 15 ∧ d.toNat / 2 ^ 38 % 2 ^ 10 = c.team.core ∧
    d.toNat / 2 ^ 32 % 64 = if (dirtyNear c.th j).map (· + 1) = some n then 1 else 0) ∧
  (∀ (s : State) (core off a : Nat) (line : Bool),
    (∃ u, exec (.uncorrectableError (.sector (.phys a) line)) s = .next u ∧ sectorKey (.phys a) ∈ u.poison ∧ u.mem = s.mem ∧
      ∀ x, x ∈ u.poison ↔ x ∈ s.poison ∨ x = sectorKey (.phys a) ∨ (line = true ∧ x / 4 = a / 64 ∧ x % 2 = 0)) ∧
    (∀ (c : Lease), a < 2 ^ 42 → leaseOf s core (a / 64) = some c → ∃ u, exec (.uncorrectableError (.l1 core (.phys a))) s = .next u ∧
      leaseOf u core (a / 64) = some { c with bad := c.bad.set (a % 64 / 32) true } ∧ u.poison = s.poison ∧ u.mem = s.mem) ∧
    (∃ u, exec (.patrolScrub (.sector (.scr core off) line) true) s = .next u ∧ u.mem = s.mem ∧
      ∀ x, x ∈ u.poison ↔ x ∈ s.poison ∨ x = sectorKey (.scr core off)) ∧
    exec (.patrolScrub (.sector (.phys a) true) true) s = exec (.uncorrectableError (.sector (.phys a) true)) s ∧
    ∀ e, exec (.patrolScrub e false) s = .next s) ∧
  (∀ (s : State) (k j : Nat) (t : Team), s.team? k = some t →
    (∀ e p rows, AMap.find t.canopy j = some (.tile e p rows) →
      let gone := s.setTeam k { t with canopy := AMap.set t.canopy j (.tile e true rows) }
      exec (.uncorrectableError (.canopy k j)) s = .next gone ∧ exec (.patrolScrub (.canopy k j) true) s = .next gone ∧
      (AMap.find t.canopy (j + 1) = some .second → exec (.uncorrectableError (.canopy k (j + 1))) s = .next gone)) ∧
    (∀ x, AMap.find t.tiles j = some x → exec (.uncorrectableError (.tile k j)) s =
      .next (s.setTeam k { t with tiles := AMap.set t.tiles j { x with poison := true } })) ∧
    (∀ ix, exec (.uncorrectableError (.team k ix)) s =
      .next (terminateGang s t.gang 0x21 0 t.teamid 0xFFFFFFFF (coreUnit t.core 3 ix) true))) ∧
  (∀ core code ix : Nat, core < 768 → code < 64 → let d := (coreUnit core code ix).toNat
    d / 2 ^ 48 = 15 ∧ d / 2 ^ 40 % 2 ^ 8 = core / 4 ∧ d / 2 ^ 38 % 4 = core % 4 ∧ d / 2 ^ 32 % 64 = code ∧ d % 2 ^ 32 = ix % 2 ^ 32) ∧
  (∀ (s : State) (b cl core code ix : Nat),
    exec (.uncorrectableError (.shared cl core code ix)) s = .next (containmentReset s cl 0x21 (coreUnit (4 * cl + core % 4) code ix)) ∧
    exec (.uncorrectableError (.mesh cl ix)) s = .next (containmentReset s cl 0x21 (unitDatum cl 5 ix)) ∧
    exec (.uncorrectableError (.refill cl)) s = .next s ∧
    ∃ w, exec (.uncorrectableError (.bridge b cl ix)) s = .next (hardwareNotice
      (containmentReset { (freeVal s).2 with gates := s.gates.set b false } cl 0x21 (unitDatum cl 5 ix)) 5 0 w 0)) ∧
  (∀ (s : State) (c : Nat), s.retiring = [c] →
    (teamsIn s c = [] → clearRetired s = hardwareNotice (hardwareNotice { clearCluster s c with retiring := [] } 4 0 c 0) 5 0 c 0) ∧
    (teamsIn s c ≠ [] → clearRetired s = s)) ∧
  (∀ (s : State) (l a : Nat) (x : Link), AMap.find s.links l = some x → a / 2 ^ 48 % 16 = 1 → a / 2 ^ 44 % 16 = l →
    AMap.find (passLink s (.phys a)).links l = some { x with failed := 0 } ∧
    AMap.find (linkWorks s (l + 2)).links l = some { x with failed := 0 }) ∧
  (∀ (s : State) (l : Nat) (x : Link), AMap.find s.links l = some x →
    (x.up = true → ∃ u, exec (.flitCrcFailure l) s = .next u ∧ AMap.find u.links l = some { x with failed := x.failed + 1 } ∧
      u.mem = s.mem ∧ u.teams = s.teams) ∧
    ((s.links.find? fun p => linkFails p.2) = some (l, x) → exec .linkFailure s = .next (linkDown s l))) ∧
  (∀ x : Link, linkFails x = true ↔ x.up = true ∧ 1 + 16 ≤ x.failed) ∧
  (∀ s : State, watchdogFirst s = false → (∃ p ∈ s.links, linkFails p.2 = true) → step s = exec .linkFailure s) ∧
  (∀ (s : State) (port : Nat) (p : Port), (s.ports.find? fun p => dropDue s p.2) = some (port, p) →
    ∃ u, exec .noticeDrop s = .next u ∧ AMap.find u.ports port = some { p with notices := p.notices.tail, evlost := p.evlost + 1 } ∧
      u.mem = s.mem) ∧
  (∀ s : State,
    (∃ u, exec .powerLimitExceeded s = .next u ∧ u = { s with clock := max 1500 (s.clock - 100) }) ∧
    (∃ u, exec .coreRailOvercurrent s = .next u ∧ u = { s with skipping := true }) ∧
    (∃ u, exec .packageReset s = .next u ∧ u.teams = [] ∧ u.gangs = [] ∧ u.queues = [] ∧ u.times = [] ∧ u.floor = [] ∧ u.growth = 0 ∧
      u.config = 0 ∧ u.stage = 6 ∧ u.ready = true ∧ u.retiredSet = s.retiredSet ∧ u.signedOnly = s.signedOnly ∧
      u.keys = (0, 0) :: s.manifest ∧
      (AMap.get {} u.ports 0).owner = true ∧ (AMap.get {} u.ports 1).owner = false ∧ (AMap.get {} u.ports 1).parts = 0 ∧
      ∀ c ∈ u.mem, 2 ^ 48 ≤ c.1))

/-! ## Every thread operation -/

/-- R24, R79, R213, R446: what comes before an operation's effect: a fault pending for it, its decode faults, whatever the guard, and
a false guard, which does nothing. Every operation of a thread answers a next state. -/
def Obligations.ThreadOperationOrder : Prop :=
  ∀ (s : State) (c : Ctx) (i : Instr) (cls opc : Nat) (a : Args), ctxOf s = some c → i.code = some (cls, opc) → i.args = some a → cls < 2 →
    (∃ t, exec i s = .next t) ∧
    (∀ p, (c.th.pending.find? fun p => p.rank == 1) = some p → exec i s = .next (faulted c p.code p.datum)) ∧
    ((∀ p ∈ c.th.pending, p.rank ≠ 1) →
      (∀ code d, decodeFault c cls opc a c.th.expansion.isNone = some (code, d) → exec i s = .next (faulted c code d)) ∧
      (decodeFault c cls opc a c.th.expansion.isNone = none → guardTrue c.th a.guard = false → atCommit c.th cls opc = false →
        exec i s = .next (afterDone c a s)))

/-- R79, R267, R275: what is legal in S mode only faults PRIV_OP in U mode, whatever the guard; the other operations have no check of the
mode. -/
def Obligations.PrivilegeInUserMode : Prop :=
  (∀ (s : State) (c : Ctx) (i : Instr) (opc : Nat) (a : Args), ctxOf s = some c → i.code = some (1, opc) → i.args = some a →
    (∀ p ∈ c.th.pending, p.rank ≠ 1) → c.th.arch.mode = false → opOk 1 opc a = true →
    (c.th.expansion = none → placedOk 1 opc c.th.arch.pc c.th.arch.clause (8 * a.words) = true) →
    (opc ∈ [0xE3, 0xE5, 0xE6, 0xE9] → exec i s = .next (faulted c 0x04 0)) ∧
    (opc = 0xE7 → (c.s.vd c.team.vd).perfctl = false → exec i s = .next (faulted c 0x04 0)) ∧
    (opc = 0xE0 → a.mod.toNat ∉ [0x000, 0x001, 0x003, 0x040, 0x041] → exec i s = .next (faulted c 0x04 (a.mod.zeroExtend 64))) ∧
    (opc = 0xE1 → exec i s = .next (faulted c 0x04 (a.mod.zeroExtend 64)))) ∧
  (∀ (cls opc : Nat) (a : Args) (uen : Bool),
    privOf cls opc a true uen = none ∧
    (¬(cls = 1 ∧ opc ∈ [0xE0, 0xE1, 0xE3, 0xE5, 0xE6, 0xE7, 0xE9]) → privOf cls opc a false uen = none) ∧
    (a.mod.toNat ∈ [0x000, 0x001, 0x003, 0x040, 0x041] → privOf 1 0xE0 a false uen = none) ∧ privOf 1 0xE7 a false true = none)

/-- The frame of the operations of class 00 that only write registers, and R28, R165: each completes wherever it is ready, QNT, DQNT, PACK2,
UNPK and FFLAG among them (QNT, DQNT and PACK2 with a format slot that serves, R158, R160); memory, the other threads, the flags, the accesses, the
control registers, the index, loop and window registers stay; of the registers only those of the destination change, of the predicates and
sr.fflags only where the operation gives them, and no operation but FFLAG clears a flag of sr.fflags other than as its destination. -/
def Obligations.RegisterResultFrame : Prop :=
  ∀ (s : State) (c : Ctx) (i : Instr) (opc : Nat) (a : Args) (sh : Shape), ctxOf s = some c → i.code = some (0, opc) → i.args = some a →
    ready c 0 opc a = true → shapeOf 0 opc a.mod = some sh →
    opc < 0x2C ∨ opc = 0x4D ∨ (0x80 ≤ opc ∧ opc < 0xA8) ∨ ((opc = 0xAB ∨ opc = 0xAC) ∧ quantRuns c.team a = true) ∨
      (opc = 0xAD ∧ packRuns c.team a = true) ∨ opc = 0xAE ∨ opc = 0xAF →
    ∃ th, exec i s = .next (afterReg c a th) ∧
      th = { c.th with arch := th.arch, dirty := th.dirty, bad := th.bad } ∧
      th.arch = { c.th.arch with v := th.arch.v, e := th.arch.e, t := th.arch.t, p := th.arch.p, fflags := th.arch.fflags } ∧
      (∀ j, j ∉ selKeys c.th.arch (posRegs sh.dst) a.dst → AMap.get 0 th.arch.v j = AMap.get 0 c.th.arch.v j) ∧
      (∀ j, 1000 + j ∉ selKeys c.th.arch (posRegs sh.dst) a.dst → AMap.get 0 th.arch.e j = AMap.get 0 c.th.arch.e j) ∧
      (∀ j, 2000 + j ∉ selKeys c.th.arch (posRegs sh.dst) a.dst → AMap.get 0 th.arch.t j = AMap.get 0 c.th.arch.t j) ∧
      (opc ∉ [0x02, 0x28, 0x29, 0x2B, 0x4D, 0x86] → th.arch.p = c.th.arch.p) ∧
      ((∀ h, a.dst ≠ .sp .fflags h) → (opc < 0x80 → th.arch.fflags = c.th.arch.fflags) ∧
        (opc ≠ 0xAF → c.th.arch.fflags &&& th.arch.fflags = c.th.arch.fflags))

/-! ## Reset, invariants, encoding, the step -/

/-- R484 stage 5 and 6, R12: right after reset every time and the growth-ring counter are 0, partitions take CONFIG 0, every port is unbound
but port 0 as OWNER, nothing is resident, and memory is in its canonical form with nothing listed (log 4). -/
def Obligations.ResetState : Prop :=
  let s := State.reset
  s.growth = 0 ∧ s.times = [] ∧ s.floor = [] ∧ s.ready = true ∧ s.config = 0 ∧ s.gates = gatesOf 0 ∧
  (AMap.get {} s.ports 0).owner = true ∧ (AMap.get {} s.ports 0).parts = 1 ∧ (AMap.get {} s.ports 1).owner = false ∧
  (AMap.get {} s.ports 1).parts = 0 ∧ s.teams = [] ∧ s.gangs = [] ∧ s.queues = [] ∧ s.graphs = [] ∧ s.images = [] ∧ s.vds = [] ∧
  s.mem = [] ∧ s.scratch = [] ∧ s.poison = [] ∧ Memory.wf s = true ∧
  (∀ a, readByte s (.phys a) = 0) ∧
  ∀ (slot : Nat) (entry : DWord) (pix : BitVec 3),
    freshThread slot entry pix = { slot := slot, arch := { pc := entry, pix := pix, mode := false, p := 0, fflags := 0, v := [] }, cr := {} }

/-- Every step keeps the canonical form of the memories. -/
def Obligations.StepKeepsMemoryCanonical : Prop :=
  ∀ s t : State, Memory.wf s = true → step s = .next t → Memory.wf t = true

/-- Words written out bit by bit from the spec's encodings (R66 to R85) decode to the instructions they stand for, an ignored bit at any
value. -/
def Obligations.SpecWordsDecode : Prop :=
  decodeWords [0x412CE00038130600] = .ok (.atom (plain 0x2CE (.v 7) (.v 4) (.imm 3) .none), 1) ∧
  decodeWords [0x03AC2CC04027FE00] =
    .ok (.icmp { plain 0x2C2 (.v 8) (.v 9) (.imm 0x7F) .none with guard := .on 3 true }, 1) ∧
  decodeWords [0x830010000C470000] = .ok (.kcmp (plain 1 (.num 1) (.k 1) (.imm 0) .none), 1) ∧
  decodeWords [0x7900000000000000] = .ok (.emret (plain 0 .none .none .none .none), 1) ∧
  decodeWords [0x7900100000000000] = .ok (.emret (plain 1 .none .none .none .none), 1) ∧
  decodeWords [0x7880500000100000] = .ok (.trap (plain 5 .none (.v 4) .none .none), 1) ∧
  decodeWords [0x20D800014044243C] = .ok (.ffma (plain 0x180 (.v 40) (.v 17) (.v 18) (.v 60)), 1) ∧
  decodeWords [0x0700000028180E00] = .ok (.mixh (plain 0 (.v 5) (.v 6) (.v 7) .none), 1) ∧
  decodeWords [0x89489000045A2E00] = .ok (.mma (plain 0x89 .none (.k 6) (.k 7) .none), 1) ∧
  decodeWords [0x85400848944E2800] = .ok (.kcp { plain 0 (.k 2) (.k 3) (.k 4) .none with guard := .on 1 false }, 1) ∧
  decodeWords [0x2AD9000038141007] = .ok (.qnt (plain 0x190 (.v 7) (.v 5) (.v 8) (.v 7)), 1) ∧
  decodeWords [0xC000240400000000] = .ok (.clauseHeader { wait := 0, aflag := some 2, bflag := none, count := 2, prio := 0 }, 1) ∧
  decodeWords [0x402A001050100000, 0xC80C000000000040] = .ok (.ld { plain 0x2A0 (.v 10) (.v 4) .none .none with aux := some 0x40 }, 2)

/-- R66 to R85: for every well-formed instruction and clause header, the decoder reads its encoding back, every word of it. -/
def Obligations.DecodeOfEncode : Prop :=
  ∀ i : Instr, i.wf = true → decodeWords (encode i) = .ok (i, (encode i).length)

/-- R67, R75, R188, R284, R379, R387, R388, R487: when nothing comes from outside, the agent whose turn it is runs the instruction that its decoded
line, or its stream's words, hold, and the turn passes; a thread's issue is counted; a word that is no instruction, or stands where a header
is due, and a misaligned address fault ILLEGAL_OP; where there is no line a fill begins, and a line holds what its words decode to. A thread whose
gang is asked to stop, and that its step brings to a wait or to another stop, has stopped, and its halts end (R428, R470). -/
def Obligations.StepRunsDecodedInstruction : Prop :=
  let then' (s : State) (a : Agent) (o : Out) : Out := match o with
    | .next s1 => .next (passTurn (agentsOf s) a s1)
    | r => r
  (∀ (s : State) (k tid : Nat) (t : Team) (th : Thread), watchdogFirst s = false → linkFirst s = false → s.inputs = [] → s.stalled = false →
    nextAgent s = some (.thread k tid) → s.team? k = some t → s.thread? k tid = some th → th.pending = [] →
    let s' := { s with turn := .thread k tid }
    let comes (o : Out) : Prop := step s = then' s (.thread k tid) (match o with
      | .next s1 => .next (settleStop s1 k tid)
      | r => r)
    let runs (i : Instr) (s1 : State) : Prop := comes (match exec i s1 with
      | .next s2 => .next (countIssue s' s2 k tid t th i)
      | r => r)
    let illegal : Prop := comes (.next (faultThread s' k tid 0x01 0))
    (th.expansion = none → th.rep = none → th.arch.pix = 0 →
      (th.arch.pc.toNat % 8 ≠ 0 → illegal) ∧
      (th.arch.pc.toNat % 8 = 0 →
        (∀ p len i, lookUp s' t th = .hit p (.run len [i]) → (th.arch.clause.due = true → ∃ h, i = .clauseHeader h) →
          runs i (takeSpot s' k tid (clusterOf t.core) p)) ∧
        (∀ p len i, lookUp s' t th = .hit p (.run len [i]) → th.arch.clause.due = true → (∀ h, i ≠ .clauseHeader h) → illegal) ∧
        (∀ p, lookUp s' t th = .hit p .illegal → illegal) ∧
        (∀ code d, lookUp s' t th = .fault code d → comes (.next (faultThread s' k tid code d))) ∧
        (∀ psel pa code d, lookUp s' t th = .miss psel pa → fetchWords s' t.vd t.core th.arch.pc th.arch.clause.due false = .error (code, d) →
          comes (.next (faultThread (noteFetch s' t.vd t.core th.arch.pc) k tid code d))) ∧
        (∀ psel pa ws x, lookUp s' t th = .miss psel pa → fetchWords s' t.vd t.core th.arch.pc th.arch.clause.due false = .ok ws →
          decodeNative s' t.vd t.core th.arch.pc = .ok x → comes (.next (startFill s' t th psel pa))))) ∧
    (th.expansion = none → th.rep = none → th.arch.pix ≠ 0 →
      ((∀ psel pa, lookUp s' t th ≠ .miss psel pa) → comes (exec .guestInstructionDecode s')) ∧
      (∀ psel pa, lookUp s' t th = .miss psel pa → awaitsAccess th = false → (imageAt s' t.vd th.arch.pix.toNat).isSome = true →
        comes (.next (missGuest s' k tid t th psel pa)))) ∧
    (∀ (x : Expansion), th.expansion = some x →
      (∀ i r, x.ops = i :: r → runs i s') ∧ (x.ops = [] → comes (exec .commitPoint s'))) ∧
    (∀ r, th.expansion = none → th.rep = some r → runs r.op s')) ∧
  (∀ (s : State) (vd core : Nat) (pc : DWord) (ws : List DWord) (img : Option Image), pc.toNat % 8 = 0 → fetchWords s vd core pc false false = .ok ws →
    (∀ i n, decodeWords ws = .ok (i, n) → classFits i false = true →
      ∃ ds, lineCode s vd core 0 img 64 16 pc = .run (8 * ws.length) [i] :: ds) ∧
    (∀ e, decodeWords ws = .error e → lineCode s vd core 0 img 64 16 pc = [.illegal])) ∧
  (∀ (s : State) (k : Nat) (t : Team), watchdogFirst s = false → linkFirst s = false → s.inputs = [] → s.stalled = false → nextAgent s = some (.stream k) →
    s.team? k = some t →
    let s' := { s with turn := .stream k }
    let pc := t.stream.pc
    let due := t.stream.clause.due
    let comes (o : Out) : Prop := step s = then' s (.stream k) o
    (pc.toNat % 8 ≠ 0 → comes (.next (faultStream s' k 0x01 0))) ∧
    (pc.toNat % 8 = 0 →
      (∀ code d, fetchWords s' t.vd t.core pc due true = .error (code, d) →
        comes (.next (faultStream (noteFetch s' t.vd t.core pc) k code d))) ∧
      ∀ ws, fetchWords s' t.vd t.core pc due true = .ok ws →
        let s1 := noteFetch (noteFetch s' t.vd t.core pc) t.vd t.core (pc + BitVec.ofNat 64 (8 * (ws.length - 1)))
        (∀ i n, decodeWords ws = .ok (i, n) → (due = true → ∃ h, i = .clauseHeader h) → classFits i true = true → comes (exec i s1)) ∧
        (∀ e, decodeWords ws = .error e → comes (.next (faultStream s1 k 0x01 0))))) ∧
  (∀ (s : State) (k tid : Nat) (t : Team) (th : Thread), s.team? k = some t → s.thread? k tid = some th →
    (stopping s t = false ∨ threadStopped s k tid th = false ∨ th.preempted = true → settleStop s k tid = s) ∧
    (settleStop s k tid).mem = s.mem ∧ (∀ h ∈ (settleStop s k tid).halts, h ∈ s.halts) ∧
    (stopping s t = true → threadStopped s k tid th = true → th.preempted = false →
      ∀ h ∈ (settleStop s k tid).halts, ¬(h.team = k ∧ h.tid = tid)) ∧
    ∃ b, (settleStop s k tid).thread? k tid = some { th with preempted := b } ∨
      (settleStop s k tid).thread? k tid = some { rollback th with preempted := b }) ∧
  (∀ (l : List Agent) (a : Agent) (s : State), passTurn l a s = { s with turn := (passTurn l a s).turn, stalled := (passTurn l a s).stalled })
end

