-- ==== Sys2Proof/Laws/State.lean ====
section
/-! SUPPORT. Lemmas of the finite map and of the updates of a state, one for each field and update. -/

namespace Sys2Proof

namespace AMap

@[simp] theorem find_set_same {α : Type} (m : AMap α) (k : Nat) (x : α) : find (set m k x) k = some x := by
  induction m with
  | nil => simp [set, find]
  | cons p r ih =>
    obtain ⟨j, y⟩ := p
    simp only [set]
    split
    · simp [find]
    · split
      · simp [find]
      · rename_i h1 h2
        simp [find, Ne.symm h2, ih]

theorem find_set_other {α : Type} (m : AMap α) {k j : Nat} (x : α) (h : k ≠ j) : find (set m k x) j = find m j := by
  induction m with
  | nil => simp [set, find, h]
  | cons p r ih =>
    obtain ⟨i, y⟩ := p
    simp only [set]
    split
    · simp [find, h]
    · split
      · rename_i h1 h2
        subst h2
        simp [find, h]
      · simp only [find]
        split
        · rfl
        · exact ih

@[simp] theorem set_set {α : Type} (m : AMap α) (k : Nat) (x y : α) : set (set m k x) k y = set m k y := by
  induction m with
  | nil => simp [set]
  | cons p r ih =>
    obtain ⟨j, z⟩ := p
    simp only [set]
    split
    · simp [set]
    · split
      · simp [set]
      · rename_i h1 h2
        simp [set, h1, h2, ih]

@[simp] theorem get_set_same {α : Type} (d : α) (m : AMap α) (k : Nat) (x : α) : get d (set m k x) k = x := by simp [get]

theorem get_set_other {α : Type} (d : α) (m : AMap α) {k j : Nat} (x : α) (h : k ≠ j) : get d (set m k x) j = get d m j := by
  simp [get, find_set_other m x h]

end AMap

namespace Machine

/-! ## setTeam -/

@[simp] theorem setTeam_mem (s : State) (k : Nat) (t : Team) : (s.setTeam k t).mem = s.mem := rfl
@[simp] theorem setTeam_scratch (s : State) (k : Nat) (t : Team) : (s.setTeam k t).scratch = s.scratch := rfl
@[simp] theorem setTeam_poison (s : State) (k : Nat) (t : Team) : (s.setTeam k t).poison = s.poison := rfl
@[simp] theorem setTeam_mended (s : State) (k : Nat) (t : Team) : (s.setTeam k t).mended = s.mended := rfl
@[simp] theorem setTeam_crTimes (s : State) (k : Nat) (t : Team) : (s.setTeam k t).crTimes = s.crTimes := rfl
@[simp] theorem setTeam_growth (s : State) (k : Nat) (t : Team) : (s.setTeam k t).growth = s.growth := rfl
@[simp] theorem setTeam_cycle (s : State) (k : Nat) (t : Team) : (s.setTeam k t).cycle = s.cycle := rfl
@[simp] theorem setTeam_ticked (s : State) (k : Nat) (t : Team) : (s.setTeam k t).ticked = s.ticked := rfl
@[simp] theorem setTeam_gangs (s : State) (k : Nat) (t : Team) : (s.setTeam k t).gangs = s.gangs := rfl
@[simp] theorem setTeam_halts (s : State) (k : Nat) (t : Team) : (s.setTeam k t).halts = s.halts := rfl
@[simp] theorem setTeam_nextKey (s : State) (k : Nat) (t : Team) : (s.setTeam k t).nextKey = s.nextKey := rfl
@[simp] theorem setTeam_ct (s : State) (k : Nat) (t : Team) : (s.setTeam k t).ct = s.ct := rfl
@[simp] theorem setTeam_seqs (s : State) (k : Nat) (t : Team) : (s.setTeam k t).seqs = s.seqs := rfl
@[simp] theorem setTeam_times (s : State) (k : Nat) (t : Team) : (s.setTeam k t).times = s.times := rfl
@[simp] theorem setTeam_floor (s : State) (k : Nat) (t : Team) : (s.setTeam k t).floor = s.floor := rfl
@[simp] theorem setTeam_l1 (s : State) (k : Nat) (t : Team) : (s.setTeam k t).l1 = s.l1 := rfl
@[simp] theorem setTeam_holder (s : State) (k : Nat) (t : Team) : (s.setTeam k t).holder = s.holder := rfl
@[simp] theorem setTeam_pins (s : State) (k : Nat) (t : Team) : (s.setTeam k t).pins = s.pins := rfl
@[simp] theorem setTeam_icode (s : State) (k : Nat) (t : Team) : (s.setTeam k t).icode = s.icode := rfl
@[simp] theorem setTeam_config (s : State) (k : Nat) (t : Team) : (s.setTeam k t).config = s.config := rfl
@[simp] theorem setTeam_partSet (s : State) (k : Nat) (t : Team) : (s.setTeam k t).partSet = s.partSet := rfl
@[simp] theorem setTeam_gates (s : State) (k : Nat) (t : Team) : (s.setTeam k t).gates = s.gates := rfl
@[simp] theorem setTeam_vds (s : State) (k : Nat) (t : Team) : (s.setTeam k t).vds = s.vds := rfl
@[simp] theorem setTeam_tlb (s : State) (k : Nat) (t : Team) : (s.setTeam k t).tlb = s.tlb := rfl
@[simp] theorem setTeam_walked (s : State) (k : Nat) (t : Team) : (s.setTeam k t).walked = s.walked := rfl
@[simp] theorem setTeam_shoot (s : State) (k : Nat) (t : Team) : (s.setTeam k t).shoot = s.shoot := rfl
@[simp] theorem setTeam_t0 (s : State) (k : Nat) (t : Team) : (s.setTeam k t).t0 = s.t0 := rfl
@[simp] theorem setTeam_t2 (s : State) (k : Nat) (t : Team) : (s.setTeam k t).t2 = s.t2 := rfl
@[simp] theorem setTeam_pinned (s : State) (k : Nat) (t : Team) : (s.setTeam k t).pinned = s.pinned := rfl
@[simp] theorem setTeam_dirtyGran (s : State) (k : Nat) (t : Team) : (s.setTeam k t).dirtyGran = s.dirtyGran := rfl
@[simp] theorem setTeam_tier2 (s : State) (k : Nat) (t : Team) : (s.setTeam k t).tier2 = s.tier2 := rfl
@[simp] theorem setTeam_granUse (s : State) (k : Nat) (t : Team) : (s.setTeam k t).granUse = s.granUse := rfl
@[simp] theorem setTeam_queues (s : State) (k : Nat) (t : Team) : (s.setTeam k t).queues = s.queues := rfl
@[simp] theorem setTeam_graphs (s : State) (k : Nat) (t : Team) : (s.setTeam k t).graphs = s.graphs := rfl
@[simp] theorem setTeam_launches (s : State) (k : Nat) (t : Team) : (s.setTeam k t).launches = s.launches := rfl
@[simp] theorem setTeam_images (s : State) (k : Nat) (t : Team) : (s.setTeam k t).images = s.images := rfl
@[simp] theorem setTeam_slots (s : State) (k : Nat) (t : Team) : (s.setTeam k t).slots = s.slots := rfl
@[simp] theorem setTeam_fills (s : State) (k : Nat) (t : Team) : (s.setTeam k t).fills = s.fills := rfl
@[simp] theorem setTeam_lines (s : State) (k : Nat) (t : Team) : (s.setTeam k t).lines = s.lines := rfl
@[simp] theorem setTeam_ports (s : State) (k : Nat) (t : Team) : (s.setTeam k t).ports = s.ports := rfl
@[simp] theorem setTeam_links (s : State) (k : Nat) (t : Team) : (s.setTeam k t).links = s.links := rfl
@[simp] theorem setTeam_retiredSet (s : State) (k : Nat) (t : Team) : (s.setTeam k t).retiredSet = s.retiredSet := rfl
@[simp] theorem setTeam_retiring (s : State) (k : Nat) (t : Team) : (s.setTeam k t).retiring = s.retiring := rfl
@[simp] theorem setTeam_corrections (s : State) (k : Nat) (t : Team) : (s.setTeam k t).corrections = s.corrections := rfl
@[simp] theorem setTeam_resets (s : State) (k : Nat) (t : Team) : (s.setTeam k t).resets = s.resets := rfl
@[simp] theorem setTeam_autoRetire (s : State) (k : Nat) (t : Team) : (s.setTeam k t).autoRetire = s.autoRetire := rfl
@[simp] theorem setTeam_signedOnly (s : State) (k : Nat) (t : Team) : (s.setTeam k t).signedOnly = s.signedOnly := rfl
@[simp] theorem setTeam_keys (s : State) (k : Nat) (t : Team) : (s.setTeam k t).keys = s.keys := rfl
@[simp] theorem setTeam_manifest (s : State) (k : Nat) (t : Team) : (s.setTeam k t).manifest = s.manifest := rfl
@[simp] theorem setTeam_stage (s : State) (k : Nat) (t : Team) : (s.setTeam k t).stage = s.stage := rfl
@[simp] theorem setTeam_ready (s : State) (k : Nat) (t : Team) : (s.setTeam k t).ready = s.ready := rfl
@[simp] theorem setTeam_power (s : State) (k : Nat) (t : Team) : (s.setTeam k t).power = s.power := rfl
@[simp] theorem setTeam_clock (s : State) (k : Nat) (t : Team) : (s.setTeam k t).clock = s.clock := rfl
@[simp] theorem setTeam_skipping (s : State) (k : Nat) (t : Team) : (s.setTeam k t).skipping = s.skipping := rfl
@[simp] theorem setTeam_perf (s : State) (k : Nat) (t : Team) : (s.setTeam k t).perf = s.perf := rfl
@[simp] theorem setTeam_msix (s : State) (k : Nat) (t : Team) : (s.setTeam k t).msix = s.msix := rfl
@[simp] theorem setTeam_reads (s : State) (k : Nat) (t : Team) : (s.setTeam k t).reads = s.reads := rfl
@[simp] theorem setTeam_breaks (s : State) (k : Nat) (t : Team) : (s.setTeam k t).breaks = s.breaks := rfl
@[simp] theorem setTeam_inputs (s : State) (k : Nat) (t : Team) : (s.setTeam k t).inputs = s.inputs := rfl
@[simp] theorem setTeam_turn (s : State) (k : Nat) (t : Team) : (s.setTeam k t).turn = s.turn := rfl
@[simp] theorem setTeam_stalled (s : State) (k : Nat) (t : Team) : (s.setTeam k t).stalled = s.stalled := rfl
@[simp] theorem setTeam_free (s : State) (k : Nat) (t : Team) : (s.setTeam k t).free = s.free := rfl
@[simp] theorem setTeam_vd (s : State) (k : Nat) (t : Team) (n : Nat) : (s.setTeam k t).vd n = s.vd n := rfl

@[simp] theorem team?_setTeam_same (s : State) (k : Nat) (t : Team) : (s.setTeam k t).team? k = some t := by
  simp [State.team?, State.setTeam]

theorem team?_setTeam_other (s : State) {k j : Nat} (t : Team) (h : k ≠ j) : (s.setTeam k t).team? j = s.team? j := by
  simp [State.team?, State.setTeam, AMap.find_set_other _ _ h]

@[simp] theorem setTeam_setTeam (s : State) (k : Nat) (t u : Team) : (s.setTeam k t).setTeam k u = s.setTeam k u := by
  simp [State.setTeam]

/-! ## modTeam -/

theorem modTeam_some {s : State} {k : Nat} {t : Team} (h : s.team? k = some t) (f : Team → Team) : s.modTeam k f = s.setTeam k (f t) := by
  simp [State.modTeam, h]

@[simp] theorem modTeam_mem (s : State) (k : Nat) (f : Team → Team) : (s.modTeam k f).mem = s.mem := by
  unfold State.modTeam; split <;> rfl
@[simp] theorem modTeam_scratch (s : State) (k : Nat) (f : Team → Team) : (s.modTeam k f).scratch = s.scratch := by
  unfold State.modTeam; split <;> rfl
@[simp] theorem modTeam_poison (s : State) (k : Nat) (f : Team → Team) : (s.modTeam k f).poison = s.poison := by
  unfold State.modTeam; split <;> rfl
@[simp] theorem modTeam_mended (s : State) (k : Nat) (f : Team → Team) : (s.modTeam k f).mended = s.mended := by
  unfold State.modTeam; split <;> rfl
@[simp] theorem modTeam_crTimes (s : State) (k : Nat) (f : Team → Team) : (s.modTeam k f).crTimes = s.crTimes := by
  unfold State.modTeam; split <;> rfl
@[simp] theorem modTeam_growth (s : State) (k : Nat) (f : Team → Team) : (s.modTeam k f).growth = s.growth := by
  unfold State.modTeam; split <;> rfl
@[simp] theorem modTeam_cycle (s : State) (k : Nat) (f : Team → Team) : (s.modTeam k f).cycle = s.cycle := by
  unfold State.modTeam; split <;> rfl
@[simp] theorem modTeam_ticked (s : State) (k : Nat) (f : Team → Team) : (s.modTeam k f).ticked = s.ticked := by
  unfold State.modTeam; split <;> rfl
@[simp] theorem modTeam_gangs (s : State) (k : Nat) (f : Team → Team) : (s.modTeam k f).gangs = s.gangs := by
  unfold State.modTeam; split <;> rfl
@[simp] theorem modTeam_halts (s : State) (k : Nat) (f : Team → Team) : (s.modTeam k f).halts = s.halts := by
  unfold State.modTeam; split <;> rfl
@[simp] theorem modTeam_nextKey (s : State) (k : Nat) (f : Team → Team) : (s.modTeam k f).nextKey = s.nextKey := by
  unfold State.modTeam; split <;> rfl
@[simp] theorem modTeam_ct (s : State) (k : Nat) (f : Team → Team) : (s.modTeam k f).ct = s.ct := by
  unfold State.modTeam; split <;> rfl
@[simp] theorem modTeam_seqs (s : State) (k : Nat) (f : Team → Team) : (s.modTeam k f).seqs = s.seqs := by
  unfold State.modTeam; split <;> rfl
@[simp] theorem modTeam_times (s : State) (k : Nat) (f : Team → Team) : (s.modTeam k f).times = s.times := by
  unfold State.modTeam; split <;> rfl
@[simp] theorem modTeam_floor (s : State) (k : Nat) (f : Team → Team) : (s.modTeam k f).floor = s.floor := by
  unfold State.modTeam; split <;> rfl
@[simp] theorem modTeam_l1 (s : State) (k : Nat) (f : Team → Team) : (s.modTeam k f).l1 = s.l1 := by
  unfold State.modTeam; split <;> rfl
@[simp] theorem modTeam_holder (s : State) (k : Nat) (f : Team → Team) : (s.modTeam k f).holder = s.holder := by
  unfold State.modTeam; split <;> rfl
@[simp] theorem modTeam_pins (s : State) (k : Nat) (f : Team → Team) : (s.modTeam k f).pins = s.pins := by
  unfold State.modTeam; split <;> rfl
@[simp] theorem modTeam_icode (s : State) (k : Nat) (f : Team → Team) : (s.modTeam k f).icode = s.icode := by
  unfold State.modTeam; split <;> rfl
@[simp] theorem modTeam_config (s : State) (k : Nat) (f : Team → Team) : (s.modTeam k f).config = s.config := by
  unfold State.modTeam; split <;> rfl
@[simp] theorem modTeam_partSet (s : State) (k : Nat) (f : Team → Team) : (s.modTeam k f).partSet = s.partSet := by
  unfold State.modTeam; split <;> rfl
@[simp] theorem modTeam_gates (s : State) (k : Nat) (f : Team → Team) : (s.modTeam k f).gates = s.gates := by
  unfold State.modTeam; split <;> rfl
@[simp] theorem modTeam_vds (s : State) (k : Nat) (f : Team → Team) : (s.modTeam k f).vds = s.vds := by
  unfold State.modTeam; split <;> rfl
@[simp] theorem modTeam_tlb (s : State) (k : Nat) (f : Team → Team) : (s.modTeam k f).tlb = s.tlb := by
  unfold State.modTeam; split <;> rfl
@[simp] theorem modTeam_walked (s : State) (k : Nat) (f : Team → Team) : (s.modTeam k f).walked = s.walked := by
  unfold State.modTeam; split <;> rfl
@[simp] theorem modTeam_shoot (s : State) (k : Nat) (f : Team → Team) : (s.modTeam k f).shoot = s.shoot := by
  unfold State.modTeam; split <;> rfl
@[simp] theorem modTeam_t0 (s : State) (k : Nat) (f : Team → Team) : (s.modTeam k f).t0 = s.t0 := by
  unfold State.modTeam; split <;> rfl
@[simp] theorem modTeam_t2 (s : State) (k : Nat) (f : Team → Team) : (s.modTeam k f).t2 = s.t2 := by
  unfold State.modTeam; split <;> rfl
@[simp] theorem modTeam_pinned (s : State) (k : Nat) (f : Team → Team) : (s.modTeam k f).pinned = s.pinned := by
  unfold State.modTeam; split <;> rfl
@[simp] theorem modTeam_dirtyGran (s : State) (k : Nat) (f : Team → Team) : (s.modTeam k f).dirtyGran = s.dirtyGran := by
  unfold State.modTeam; split <;> rfl
@[simp] theorem modTeam_tier2 (s : State) (k : Nat) (f : Team → Team) : (s.modTeam k f).tier2 = s.tier2 := by
  unfold State.modTeam; split <;> rfl
@[simp] theorem modTeam_granUse (s : State) (k : Nat) (f : Team → Team) : (s.modTeam k f).granUse = s.granUse := by
  unfold State.modTeam; split <;> rfl
@[simp] theorem modTeam_queues (s : State) (k : Nat) (f : Team → Team) : (s.modTeam k f).queues = s.queues := by
  unfold State.modTeam; split <;> rfl
@[simp] theorem modTeam_graphs (s : State) (k : Nat) (f : Team → Team) : (s.modTeam k f).graphs = s.graphs := by
  unfold State.modTeam; split <;> rfl
@[simp] theorem modTeam_launches (s : State) (k : Nat) (f : Team → Team) : (s.modTeam k f).launches = s.launches := by
  unfold State.modTeam; split <;> rfl
@[simp] theorem modTeam_images (s : State) (k : Nat) (f : Team → Team) : (s.modTeam k f).images = s.images := by
  unfold State.modTeam; split <;> rfl
@[simp] theorem modTeam_slots (s : State) (k : Nat) (f : Team → Team) : (s.modTeam k f).slots = s.slots := by
  unfold State.modTeam; split <;> rfl
@[simp] theorem modTeam_fills (s : State) (k : Nat) (f : Team → Team) : (s.modTeam k f).fills = s.fills := by
  unfold State.modTeam; split <;> rfl
@[simp] theorem modTeam_lines (s : State) (k : Nat) (f : Team → Team) : (s.modTeam k f).lines = s.lines := by
  unfold State.modTeam; split <;> rfl
@[simp] theorem modTeam_ports (s : State) (k : Nat) (f : Team → Team) : (s.modTeam k f).ports = s.ports := by
  unfold State.modTeam; split <;> rfl
@[simp] theorem modTeam_links (s : State) (k : Nat) (f : Team → Team) : (s.modTeam k f).links = s.links := by
  unfold State.modTeam; split <;> rfl
@[simp] theorem modTeam_retiredSet (s : State) (k : Nat) (f : Team → Team) : (s.modTeam k f).retiredSet = s.retiredSet := by
  unfold State.modTeam; split <;> rfl
@[simp] theorem modTeam_retiring (s : State) (k : Nat) (f : Team → Team) : (s.modTeam k f).retiring = s.retiring := by
  unfold State.modTeam; split <;> rfl
@[simp] theorem modTeam_corrections (s : State) (k : Nat) (f : Team → Team) : (s.modTeam k f).corrections = s.corrections := by
  unfold State.modTeam; split <;> rfl
@[simp] theorem modTeam_resets (s : State) (k : Nat) (f : Team → Team) : (s.modTeam k f).resets = s.resets := by
  unfold State.modTeam; split <;> rfl
@[simp] theorem modTeam_autoRetire (s : State) (k : Nat) (f : Team → Team) : (s.modTeam k f).autoRetire = s.autoRetire := by
  unfold State.modTeam; split <;> rfl
@[simp] theorem modTeam_signedOnly (s : State) (k : Nat) (f : Team → Team) : (s.modTeam k f).signedOnly = s.signedOnly := by
  unfold State.modTeam; split <;> rfl
@[simp] theorem modTeam_keys (s : State) (k : Nat) (f : Team → Team) : (s.modTeam k f).keys = s.keys := by
  unfold State.modTeam; split <;> rfl
@[simp] theorem modTeam_manifest (s : State) (k : Nat) (f : Team → Team) : (s.modTeam k f).manifest = s.manifest := by
  unfold State.modTeam; split <;> rfl
@[simp] theorem modTeam_stage (s : State) (k : Nat) (f : Team → Team) : (s.modTeam k f).stage = s.stage := by
  unfold State.modTeam; split <;> rfl
@[simp] theorem modTeam_ready (s : State) (k : Nat) (f : Team → Team) : (s.modTeam k f).ready = s.ready := by
  unfold State.modTeam; split <;> rfl
@[simp] theorem modTeam_power (s : State) (k : Nat) (f : Team → Team) : (s.modTeam k f).power = s.power := by
  unfold State.modTeam; split <;> rfl
@[simp] theorem modTeam_clock (s : State) (k : Nat) (f : Team → Team) : (s.modTeam k f).clock = s.clock := by
  unfold State.modTeam; split <;> rfl
@[simp] theorem modTeam_skipping (s : State) (k : Nat) (f : Team → Team) : (s.modTeam k f).skipping = s.skipping := by
  unfold State.modTeam; split <;> rfl
@[simp] theorem modTeam_perf (s : State) (k : Nat) (f : Team → Team) : (s.modTeam k f).perf = s.perf := by
  unfold State.modTeam; split <;> rfl
@[simp] theorem modTeam_msix (s : State) (k : Nat) (f : Team → Team) : (s.modTeam k f).msix = s.msix := by
  unfold State.modTeam; split <;> rfl
@[simp] theorem modTeam_reads (s : State) (k : Nat) (f : Team → Team) : (s.modTeam k f).reads = s.reads := by
  unfold State.modTeam; split <;> rfl
@[simp] theorem modTeam_breaks (s : State) (k : Nat) (f : Team → Team) : (s.modTeam k f).breaks = s.breaks := by
  unfold State.modTeam; split <;> rfl
@[simp] theorem modTeam_inputs (s : State) (k : Nat) (f : Team → Team) : (s.modTeam k f).inputs = s.inputs := by
  unfold State.modTeam; split <;> rfl
@[simp] theorem modTeam_turn (s : State) (k : Nat) (f : Team → Team) : (s.modTeam k f).turn = s.turn := by
  unfold State.modTeam; split <;> rfl
@[simp] theorem modTeam_stalled (s : State) (k : Nat) (f : Team → Team) : (s.modTeam k f).stalled = s.stalled := by
  unfold State.modTeam; split <;> rfl
@[simp] theorem modTeam_free (s : State) (k : Nat) (f : Team → Team) : (s.modTeam k f).free = s.free := by
  unfold State.modTeam; split <;> rfl
@[simp] theorem modTeam_vd (s : State) (k : Nat) (f : Team → Team) (n : Nat) : (s.modTeam k f).vd n = s.vd n := by simp [State.vd]

theorem team?_modTeam_same {s : State} {k : Nat} {t : Team} (h : s.team? k = some t) (f : Team → Team) :
    (s.modTeam k f).team? k = some (f t) := by
  simp [modTeam_some h]

theorem team?_modTeam_other (s : State) {k j : Nat} (f : Team → Team) (h : k ≠ j) : (s.modTeam k f).team? j = s.team? j := by
  unfold State.modTeam
  split
  · exact team?_setTeam_other _ _ h
  · rfl

/-! ## modThread -/

@[simp] theorem modThread_mem (s : State) (k tid : Nat) (f : Thread → Thread) : (s.modThread k tid f).mem = s.mem := modTeam_mem ..
@[simp] theorem modThread_scratch (s : State) (k tid : Nat) (f : Thread → Thread) : (s.modThread k tid f).scratch = s.scratch := modTeam_scratch ..
@[simp] theorem modThread_poison (s : State) (k tid : Nat) (f : Thread → Thread) : (s.modThread k tid f).poison = s.poison := modTeam_poison ..
@[simp] theorem modThread_mended (s : State) (k tid : Nat) (f : Thread → Thread) : (s.modThread k tid f).mended = s.mended := modTeam_mended ..
@[simp] theorem modThread_crTimes (s : State) (k tid : Nat) (f : Thread → Thread) : (s.modThread k tid f).crTimes = s.crTimes := modTeam_crTimes ..
@[simp] theorem modThread_growth (s : State) (k tid : Nat) (f : Thread → Thread) : (s.modThread k tid f).growth = s.growth := modTeam_growth ..
@[simp] theorem modThread_cycle (s : State) (k tid : Nat) (f : Thread → Thread) : (s.modThread k tid f).cycle = s.cycle := modTeam_cycle ..
@[simp] theorem modThread_ticked (s : State) (k tid : Nat) (f : Thread → Thread) : (s.modThread k tid f).ticked = s.ticked := modTeam_ticked ..
@[simp] theorem modThread_gangs (s : State) (k tid : Nat) (f : Thread → Thread) : (s.modThread k tid f).gangs = s.gangs := modTeam_gangs ..
@[simp] theorem modThread_halts (s : State) (k tid : Nat) (f : Thread → Thread) : (s.modThread k tid f).halts = s.halts := modTeam_halts ..
@[simp] theorem modThread_nextKey (s : State) (k tid : Nat) (f : Thread → Thread) : (s.modThread k tid f).nextKey = s.nextKey := modTeam_nextKey ..
@[simp] theorem modThread_ct (s : State) (k tid : Nat) (f : Thread → Thread) : (s.modThread k tid f).ct = s.ct := modTeam_ct ..
@[simp] theorem modThread_seqs (s : State) (k tid : Nat) (f : Thread → Thread) : (s.modThread k tid f).seqs = s.seqs := modTeam_seqs ..
@[simp] theorem modThread_times (s : State) (k tid : Nat) (f : Thread → Thread) : (s.modThread k tid f).times = s.times := modTeam_times ..
@[simp] theorem modThread_floor (s : State) (k tid : Nat) (f : Thread → Thread) : (s.modThread k tid f).floor = s.floor := modTeam_floor ..
@[simp] theorem modThread_l1 (s : State) (k tid : Nat) (f : Thread → Thread) : (s.modThread k tid f).l1 = s.l1 := modTeam_l1 ..
@[simp] theorem modThread_holder (s : State) (k tid : Nat) (f : Thread → Thread) : (s.modThread k tid f).holder = s.holder := modTeam_holder ..
@[simp] theorem modThread_pins (s : State) (k tid : Nat) (f : Thread → Thread) : (s.modThread k tid f).pins = s.pins := modTeam_pins ..
@[simp] theorem modThread_icode (s : State) (k tid : Nat) (f : Thread → Thread) : (s.modThread k tid f).icode = s.icode := modTeam_icode ..
@[simp] theorem modThread_config (s : State) (k tid : Nat) (f : Thread → Thread) : (s.modThread k tid f).config = s.config := modTeam_config ..
@[simp] theorem modThread_partSet (s : State) (k tid : Nat) (f : Thread → Thread) : (s.modThread k tid f).partSet = s.partSet := modTeam_partSet ..
@[simp] theorem modThread_gates (s : State) (k tid : Nat) (f : Thread → Thread) : (s.modThread k tid f).gates = s.gates := modTeam_gates ..
@[simp] theorem modThread_vds (s : State) (k tid : Nat) (f : Thread → Thread) : (s.modThread k tid f).vds = s.vds := modTeam_vds ..
@[simp] theorem modThread_tlb (s : State) (k tid : Nat) (f : Thread → Thread) : (s.modThread k tid f).tlb = s.tlb := modTeam_tlb ..
@[simp] theorem modThread_walked (s : State) (k tid : Nat) (f : Thread → Thread) : (s.modThread k tid f).walked = s.walked := modTeam_walked ..
@[simp] theorem modThread_shoot (s : State) (k tid : Nat) (f : Thread → Thread) : (s.modThread k tid f).shoot = s.shoot := modTeam_shoot ..
@[simp] theorem modThread_t0 (s : State) (k tid : Nat) (f : Thread → Thread) : (s.modThread k tid f).t0 = s.t0 := modTeam_t0 ..
@[simp] theorem modThread_t2 (s : State) (k tid : Nat) (f : Thread → Thread) : (s.modThread k tid f).t2 = s.t2 := modTeam_t2 ..
@[simp] theorem modThread_pinned (s : State) (k tid : Nat) (f : Thread → Thread) : (s.modThread k tid f).pinned = s.pinned := modTeam_pinned ..
@[simp] theorem modThread_dirtyGran (s : State) (k tid : Nat) (f : Thread → Thread) : (s.modThread k tid f).dirtyGran = s.dirtyGran := modTeam_dirtyGran ..
@[simp] theorem modThread_tier2 (s : State) (k tid : Nat) (f : Thread → Thread) : (s.modThread k tid f).tier2 = s.tier2 := modTeam_tier2 ..
@[simp] theorem modThread_granUse (s : State) (k tid : Nat) (f : Thread → Thread) : (s.modThread k tid f).granUse = s.granUse := modTeam_granUse ..
@[simp] theorem modThread_queues (s : State) (k tid : Nat) (f : Thread → Thread) : (s.modThread k tid f).queues = s.queues := modTeam_queues ..
@[simp] theorem modThread_graphs (s : State) (k tid : Nat) (f : Thread → Thread) : (s.modThread k tid f).graphs = s.graphs := modTeam_graphs ..
@[simp] theorem modThread_launches (s : State) (k tid : Nat) (f : Thread → Thread) : (s.modThread k tid f).launches = s.launches := modTeam_launches ..
@[simp] theorem modThread_images (s : State) (k tid : Nat) (f : Thread → Thread) : (s.modThread k tid f).images = s.images := modTeam_images ..
@[simp] theorem modThread_slots (s : State) (k tid : Nat) (f : Thread → Thread) : (s.modThread k tid f).slots = s.slots := modTeam_slots ..
@[simp] theorem modThread_fills (s : State) (k tid : Nat) (f : Thread → Thread) : (s.modThread k tid f).fills = s.fills := modTeam_fills ..
@[simp] theorem modThread_lines (s : State) (k tid : Nat) (f : Thread → Thread) : (s.modThread k tid f).lines = s.lines := modTeam_lines ..
@[simp] theorem modThread_ports (s : State) (k tid : Nat) (f : Thread → Thread) : (s.modThread k tid f).ports = s.ports := modTeam_ports ..
@[simp] theorem modThread_links (s : State) (k tid : Nat) (f : Thread → Thread) : (s.modThread k tid f).links = s.links := modTeam_links ..
@[simp] theorem modThread_retiredSet (s : State) (k tid : Nat) (f : Thread → Thread) : (s.modThread k tid f).retiredSet = s.retiredSet := modTeam_retiredSet ..
@[simp] theorem modThread_retiring (s : State) (k tid : Nat) (f : Thread → Thread) : (s.modThread k tid f).retiring = s.retiring := modTeam_retiring ..
@[simp] theorem modThread_corrections (s : State) (k tid : Nat) (f : Thread → Thread) : (s.modThread k tid f).corrections = s.corrections := modTeam_corrections ..
@[simp] theorem modThread_resets (s : State) (k tid : Nat) (f : Thread → Thread) : (s.modThread k tid f).resets = s.resets := modTeam_resets ..
@[simp] theorem modThread_autoRetire (s : State) (k tid : Nat) (f : Thread → Thread) : (s.modThread k tid f).autoRetire = s.autoRetire := modTeam_autoRetire ..
@[simp] theorem modThread_signedOnly (s : State) (k tid : Nat) (f : Thread → Thread) : (s.modThread k tid f).signedOnly = s.signedOnly := modTeam_signedOnly ..
@[simp] theorem modThread_keys (s : State) (k tid : Nat) (f : Thread → Thread) : (s.modThread k tid f).keys = s.keys := modTeam_keys ..
@[simp] theorem modThread_manifest (s : State) (k tid : Nat) (f : Thread → Thread) : (s.modThread k tid f).manifest = s.manifest := modTeam_manifest ..
@[simp] theorem modThread_stage (s : State) (k tid : Nat) (f : Thread → Thread) : (s.modThread k tid f).stage = s.stage := modTeam_stage ..
@[simp] theorem modThread_ready (s : State) (k tid : Nat) (f : Thread → Thread) : (s.modThread k tid f).ready = s.ready := modTeam_ready ..
@[simp] theorem modThread_power (s : State) (k tid : Nat) (f : Thread → Thread) : (s.modThread k tid f).power = s.power := modTeam_power ..
@[simp] theorem modThread_clock (s : State) (k tid : Nat) (f : Thread → Thread) : (s.modThread k tid f).clock = s.clock := modTeam_clock ..
@[simp] theorem modThread_skipping (s : State) (k tid : Nat) (f : Thread → Thread) : (s.modThread k tid f).skipping = s.skipping := modTeam_skipping ..
@[simp] theorem modThread_perf (s : State) (k tid : Nat) (f : Thread → Thread) : (s.modThread k tid f).perf = s.perf := modTeam_perf ..
@[simp] theorem modThread_msix (s : State) (k tid : Nat) (f : Thread → Thread) : (s.modThread k tid f).msix = s.msix := modTeam_msix ..
@[simp] theorem modThread_reads (s : State) (k tid : Nat) (f : Thread → Thread) : (s.modThread k tid f).reads = s.reads := modTeam_reads ..
@[simp] theorem modThread_breaks (s : State) (k tid : Nat) (f : Thread → Thread) : (s.modThread k tid f).breaks = s.breaks := modTeam_breaks ..
@[simp] theorem modThread_inputs (s : State) (k tid : Nat) (f : Thread → Thread) : (s.modThread k tid f).inputs = s.inputs := modTeam_inputs ..
@[simp] theorem modThread_turn (s : State) (k tid : Nat) (f : Thread → Thread) : (s.modThread k tid f).turn = s.turn := modTeam_turn ..
@[simp] theorem modThread_stalled (s : State) (k tid : Nat) (f : Thread → Thread) : (s.modThread k tid f).stalled = s.stalled := modTeam_stalled ..
@[simp] theorem modThread_free (s : State) (k tid : Nat) (f : Thread → Thread) : (s.modThread k tid f).free = s.free := modTeam_free ..
@[simp] theorem modThread_vd (s : State) (k tid : Nat) (f : Thread → Thread) (n : Nat) : (s.modThread k tid f).vd n = s.vd n := modTeam_vd ..

theorem thread?_of_team {s : State} {k tid : Nat} {t : Team} (h : s.team? k = some t) : s.thread? k tid = AMap.find t.threads tid := by
  simp [State.thread?, h]

theorem modThread_some {s : State} {k tid : Nat} {t : Team} {th : Thread} (h : s.team? k = some t) (h' : s.thread? k tid = some th)
    (f : Thread → Thread) : s.modThread k tid f = s.setTeam k { t with threads := AMap.set t.threads tid (f th) } := by
  rw [thread?_of_team h] at h'
  simp [State.modThread, modTeam_some h, h']

theorem thread?_modThread_same {s : State} {k tid : Nat} {th : Thread} (h : s.thread? k tid = some th) (f : Thread → Thread) :
    (s.modThread k tid f).thread? k tid = some (f th) := by
  cases ht : s.team? k with
  | none => simp [State.thread?, ht] at h
  | some t => rw [modThread_some ht h]; simp [State.thread?]

theorem thread?_modThread_other (s : State) {k tid k' tid' : Nat} (f : Thread → Thread) (h : k ≠ k' ∨ tid ≠ tid') :
    (s.modThread k tid f).thread? k' tid' = s.thread? k' tid' := by
  unfold State.thread? State.modThread
  by_cases hk : k = k'
  · subst hk
    have ht : tid ≠ tid' := by simpa using h
    cases hs : s.team? k with
    | none => simp [State.modTeam, hs]
    | some t =>
      rw [team?_modTeam_same hs]
      simp only [Option.bind_some]
      split
      · exact AMap.find_set_other _ _ ht
      · rfl
  · rw [team?_modTeam_other _ _ hk]

/-- Two changes of one thread are one. -/
theorem modThread_modThread (s : State) (k tid : Nat) (f g : Thread → Thread) :
    (s.modThread k tid f).modThread k tid g = s.modThread k tid fun th => g (f th) := by
  cases ht : s.team? k with
  | none => simp [State.modThread, State.modTeam, ht]
  | some t =>
    cases hth : AMap.find t.threads tid with
    | none => simp [State.modThread, State.modTeam, ht, hth]
    | some th => simp [State.modThread, State.modTeam, ht, hth]

end Machine

end Sys2Proof
end

