-- ==== Sys2Proof/Laws/Ops.lean ====
section
/-! SUPPORT. What an operation comes to: for a thread or a stream that has come to it, and everything it can come to at all. -/

namespace Sys2Proof.Machine

/-! ## A thread at an operation -/

theorem ctxOf_turn {s : State} {c : Ctx} (h : ctxOf s = some c) : s.turn = .thread c.key c.tid := by
  unfold ctxOf at h
  split at h
  · cases h
  · split at h
    · cases h; assumption
    · cases h

theorem ctxOf_state {s : State} {c : Ctx} (h : ctxOf s = some c) : c.s = s := by
  unfold ctxOf at h
  split at h
  · cases h
  · split at h <;> cases h; rfl

theorem ctxOf_team {s : State} {c : Ctx} (h : ctxOf s = some c) : s.team? c.key = some c.team := by
  unfold ctxOf at h
  split at h
  · cases h
  · split at h
    · cases h; assumption
    · cases h

theorem ctxOf_thread {s : State} {c : Ctx} (h : ctxOf s = some c) : s.thread? c.key c.tid = some c.th := by
  unfold ctxOf at h
  split at h
  · cases h
  · split at h
    · cases h; assumption
    · cases h

theorem ctxOf_eta {s : State} {c : Ctx} (h : ctxOf s = some c) :
    ({ s := s, key := c.key, team := c.team, tid := c.tid, th := c.th } : Ctx) = c := by
  cases c
  have := ctxOf_state h
  subst this
  rfl

/-- A ready operation comes to its effect. -/
theorem runThread_ready {s : State} {c : Ctx} {cls opc : Nat} {a : Args} (h : ctxOf s = some c) (hr : ready c cls opc a = true)
    (body : Ctx → Res) :
    runThread cls opc a s body =
      match body c with
      | .done t => .next (afterDone c a t)
      | .jump t | .hold t => .next (afterJump c a t)
      | .stay t => .next (afterStay c a t)
      | .fault code d => .next (faulted c code d)
      | .faultAt u code d => .next (faultThread u c.key c.tid code d) := by
  have ht := ctxOf_team h
  have hh := ctxOf_thread h
  have he := ctxOf_eta h
  have hs := ctxOf_state h
  simp only [ready, Bool.and_eq_true, Option.isNone_iff_eq_none, Bool.not_eq_true'] at hr
  obtain ⟨⟨⟨⟨⟨⟨_, h2⟩, h3⟩, hc⟩, h4⟩, h5⟩, h6⟩ := hr
  unfold runThread
  simp only [ctxOf_turn h, ht, hh, h2, he, h3, hc, h4, h5, h6, Bool.false_and, Bool.not_true, if_false,
    Bool.false_eq_true]
  cases body c <;> simp [finishOp, afterDone, afterJump, afterStay, faulted, hs]

/-- A ready operation that only changes its thread. -/
theorem runReg_ready {s : State} {c : Ctx} {cls opc : Nat} {a : Args} (h : ctxOf s = some c) (hr : ready c cls opc a = true)
    (f : Ctx → Thread) : runReg cls opc a s f = .next (afterReg c a (f c)) := by
  unfold runReg
  rw [runThread_ready h hr]
  simp only [afterDone, afterReg, modThread_modThread, ctxOf_state h]

/-- What becomes of an operation's effect is a next state. -/
theorem finishOp_next (s : State) (k tid : Nat) (a : Args) (r : Res) : ∃ t, finishOp s k tid a r = .next t := by
  cases r <;> exact ⟨_, rfl⟩

theorem commitOp_next (s : State) (k tid cls opc : Nat) (a : Args) (body : Ctx → Res) : ∃ t, commitOp s k tid cls opc a body = .next t := by
  unfold commitOp
  dsimp only
  split
  · exact finishOp_next ..
  · exact ⟨_, rfl⟩

/-- An operation of a live thread answers a next state, whatever stands before its effect. -/
theorem runThread_next {s : State} {c : Ctx} (h : ctxOf s = some c) (cls opc : Nat) (a : Args) (body : Ctx → Res) :
    ∃ t, runThread cls opc a s body = .next t := by
  unfold runThread
  simp only [ctxOf_turn h, ctxOf_team h, ctxOf_thread h]
  repeat' split
  all_goals first | exact ⟨_, rfl⟩ | exact finishOp_next .. | exact commitOp_next ..

/-- A register operation comes to its result. -/
theorem regOp_of {cls opc : Nat} {i : Args → Instr} {f : Ctx → Args → Thread}
    (h : ∀ a s, exec (i a) s = runReg cls opc a s fun c => f c a) : RegOp cls opc i f := fun s c a hc hr => by
  rw [h, runReg_ready hc hr]

/-- The thread after a register operation. -/
theorem afterReg_thread {s : State} {c : Ctx} (h : ctxOf s = some c) (a : Args) (th : Thread) :
    (afterReg c a th).thread? c.key c.tid = some (passOp th (8 * a.words) a.live) := by
  unfold afterReg
  rw [ctxOf_state h]
  exact thread?_modThread_same (ctxOf_thread h) _

/-- Every other thread is as before. -/
theorem afterReg_other (c : Ctx) (a : Args) (th : Thread) {k tid : Nat} (h : c.key ≠ k ∨ c.tid ≠ tid) :
    (afterReg c a th).thread? k tid = c.s.thread? k tid := thread?_modThread_other _ _ h

@[simp] theorem afterReg_mem (c : Ctx) (a : Args) (th : Thread) : (afterReg c a th).mem = c.s.mem := modThread_mem ..
@[simp] theorem afterReg_scratch (c : Ctx) (a : Args) (th : Thread) : (afterReg c a th).scratch = c.s.scratch := modThread_scratch ..
@[simp] theorem afterReg_poison (c : Ctx) (a : Args) (th : Thread) : (afterReg c a th).poison = c.s.poison := modThread_poison ..
@[simp] theorem afterDone_mem (c : Ctx) (a : Args) (t : State) : (afterDone c a t).mem = t.mem := modThread_mem ..
@[simp] theorem afterDone_scratch (c : Ctx) (a : Args) (t : State) : (afterDone c a t).scratch = t.scratch := modThread_scratch ..
@[simp] theorem afterJump_mem (c : Ctx) (a : Args) (t : State) : (afterJump c a t).mem = t.mem := modThread_mem ..
@[simp] theorem afterJump_scratch (c : Ctx) (a : Args) (t : State) : (afterJump c a t).scratch = t.scratch := modThread_scratch ..

/-- A native thread passes an instruction: its pc, and nothing of its registers. -/
theorem passOp_native {th : Thread} (h : th.expansion = none) (len : Nat) (live : Option LiveRec) : passOp th len live = passNative th len live := by
  simp [passOp, h]

@[simp] theorem passNative_pc (th : Thread) (len : Nat) (live : Option LiveRec) :
    (passNative th len live).arch.pc = th.arch.pc + BitVec.ofNat 64 len := rfl
@[simp] theorem passNative_v (th : Thread) (len : Nat) (live : Option LiveRec) : (passNative th len live).arch.v = th.arch.v := rfl
@[simp] theorem passNative_p (th : Thread) (len : Nat) (live : Option LiveRec) : (passNative th len live).arch.p = th.arch.p := rfl
@[simp] theorem passNative_x (th : Thread) (len : Nat) (live : Option LiveRec) : (passNative th len live).arch.x = th.arch.x := rfl
@[simp] theorem passNative_e (th : Thread) (len : Nat) (live : Option LiveRec) : (passNative th len live).arch.e = th.arch.e := rfl
@[simp] theorem passNative_t (th : Thread) (len : Nat) (live : Option LiveRec) : (passNative th len live).arch.t = th.arch.t := rfl
@[simp] theorem passNative_lc0 (th : Thread) (len : Nat) (live : Option LiveRec) : (passNative th len live).arch.lc0 = th.arch.lc0 := rfl
@[simp] theorem passNative_lc1 (th : Thread) (len : Nat) (live : Option LiveRec) : (passNative th len live).arch.lc1 = th.arch.lc1 := rfl
@[simp] theorem passNative_fflags (th : Thread) (len : Nat) (live : Option LiveRec) :
    (passNative th len live).arch.fflags = th.arch.fflags := rfl
@[simp] theorem passNative_mode (th : Thread) (len : Nat) (live : Option LiveRec) : (passNative th len live).arch.mode = th.arch.mode := rfl
@[simp] theorem passNative_cr (th : Thread) (len : Nat) (live : Option LiveRec) : (passNative th len live).cr = th.cr := rfl
@[simp] theorem passNative_f (th : Thread) (len : Nat) (live : Option LiveRec) : (passNative th len live).f = th.f := rfl
@[simp] theorem passNative_out (th : Thread) (len : Nat) (live : Option LiveRec) : (passNative th len live).out = th.out := rfl
@[simp] theorem passNative_wait (th : Thread) (len : Nat) (live : Option LiveRec) : (passNative th len live).wait = none := rfl

/-! ## A uniform stream at an operation -/

theorem streamOf_turn {s : State} {k : Nat} {t : Team} (h : streamOf s = some (k, t)) : s.turn = .stream k ∧ s.team? k = some t := by
  unfold streamOf at h
  split at h
  · cases h
  · rename_i j hj
    cases hk : s.team? j with
    | none => simp [hk] at h
    | some u =>
      simp only [hk, Option.map_some, Option.some.injEq, Prod.mk.injEq] at h
      obtain ⟨rfl, rfl⟩ := h
      exact ⟨hj, hk⟩

/-- A ready uniform operation comes to its effect. -/
theorem runStream_ready {s : State} {k : Nat} {t : Team} {opc : Nat} {a : Args} {posted : Bool} (h : streamOf s = some (k, t))
    (hr : kready s t opc a posted = true) (body : Nat → Team → Res) :
    runStream opc a s posted body =
      match body k t with
      | .done s' => .next (afterStream k a s')
      | .jump s' | .hold s' => .next s'
      | .stay s' => .next { s' with stalled := true }
      | .fault code d => .next (faultStream s k code d)
      | .faultAt u code d => .next (faultStream u k code d) := by
  obtain ⟨h1, h2⟩ := streamOf_turn h
  simp only [kready, Bool.and_eq_true, Option.isNone_iff_eq_none, Bool.not_eq_true'] at hr
  obtain ⟨⟨⟨⟨⟨⟨g1, g2⟩, g3⟩, g4⟩, g5⟩, g6⟩, g8⟩ := hr
  have g7 : (!posted && !qTrue t a.guard) = false := by cases posted <;> simp_all
  unfold runStream
  simp only [h1, h2, g1, g2, g3, g7, g5, Bool.or_self, Bool.false_eq_true, if_false]
  cases hs : shapeOf 2 opc a.mod <;> simp only [hs] at g6 ⊢ <;> simp only [g6, g8, Bool.or_self, Bool.false_eq_true, if_false] <;>
    cases body k t <;> simp [afterStream]

/-- A ready operation that writes one K register. -/
theorem runK_ready {s : State} {k : Nat} {t : Team} {opc : Nat} {a : Args} (h : streamOf s = some (k, t))
    (hr : kready s t opc a false = true) (f : Team → DWord) :
    runK opc a s f = .next (afterStream k a (s.setTeam k (kwrite t a.dst (f t)))) := by
  unfold runK
  rw [runStream_ready h hr]

/-! ## A register written (R453) -/

theorem find_filter_key {α : Type} (m : AMap α) (j i : Nat) :
    AMap.find (m.filter fun x => x.1 != j) i = if i = j then none else AMap.find m i := by
  induction m with
  | nil => simp [AMap.find]
  | cons x m ih =>
    obtain ⟨k, v⟩ := x
    by_cases hk : k = j <;> by_cases hi : i = j <;> by_cases hki : k = i <;> simp_all [AMap.find]

/-- A written register holds no uncorrectable error any more; every other keeps its own. -/
theorem setReg_bad (th : Thread) (j i : Nat) (w : Word) :
    AMap.find (setReg th j w).bad i = if i = j then none else AMap.find th.bad i := find_filter_key th.bad j i

end Sys2Proof.Machine
end

