-- ==== Sys2Proof/Laws/Memory.lean ====
section
/-! SUPPORT. Memory: reads after writes, and that every operation which writes a memory keeps its canonical form. -/

namespace Sys2Proof.Machine

/-! ## One byte -/

theorem cellGet_below {m : List Host.Cell} {lo a : Nat} (h : cellsWf lo m = true) (ha : a < lo) : cellGet m a = 0 := by
  cases m with
  | nil => rfl
  | cons p r =>
    obtain ⟨b, x⟩ := p
    simp only [cellsWf, Bool.and_eq_true, decide_eq_true_eq] at h
    have h1 : b ≠ a := by omega
    have h2 : a < b := by omega
    simp [cellGet, h1, h2]

theorem cellsWf_weaken {m : List Host.Cell} {lo lo' : Nat} (h : cellsWf lo m = true) (hl : lo' ≤ lo) : cellsWf lo' m = true := by
  cases m with
  | nil => rfl
  | cons p r =>
    obtain ⟨b, x⟩ := p
    simp only [cellsWf, Bool.and_eq_true, decide_eq_true_eq] at h ⊢
    exact ⟨⟨by omega, h.1.2⟩, h.2⟩

/-- A byte written keeps the canonical form. -/
theorem cellSet_wf {m : List Host.Cell} {lo : Nat} (h : cellsWf lo m = true) {a : Nat} (ha : lo ≤ a) (x : Byte) :
    cellsWf lo (cellSet m a x) = true := by
  induction m generalizing lo with
  | nil =>
    by_cases hx : x = 0
    · simp [cellSet, hx, cellsWf]
    · rw [cellSet, if_neg hx]
      simp [cellsWf, ha]
      exact hx
  | cons p r ih =>
    obtain ⟨b, y⟩ := p
    simp only [cellsWf, Bool.and_eq_true, decide_eq_true_eq] at h
    obtain ⟨⟨hb, hy⟩, hr⟩ := h
    simp only [cellSet]
    split
    · rename_i h1
      split
      · simp only [cellsWf, Bool.and_eq_true, decide_eq_true_eq]; exact ⟨⟨hb, hy⟩, hr⟩
      · rename_i hx
        simp only [cellsWf, Bool.and_eq_true, decide_eq_true_eq]
        exact ⟨⟨ha, by simpa using hx⟩, ⟨by omega, hy⟩, hr⟩
    · split
      · rename_i h1 h2
        subst h2
        split
        · exact cellsWf_weaken hr (by omega)
        · rename_i hx
          simp only [cellsWf, Bool.and_eq_true, decide_eq_true_eq]
          exact ⟨⟨ha, by simpa using hx⟩, hr⟩
      · rename_i h1 h2
        simp only [cellsWf, Bool.and_eq_true, decide_eq_true_eq]
        exact ⟨⟨hb, hy⟩, ih hr (by omega)⟩

/-- A read after a write: the written byte at its address, the old one elsewhere. -/
theorem cellGet_cellSet {m : List Host.Cell} {lo : Nat} (h : cellsWf lo m = true) (a : Nat) (x : Byte) (b : Nat) :
    cellGet (cellSet m a x) b = if a = b then x else cellGet m b := by
  induction m generalizing lo with
  | nil =>
    by_cases hx : x = 0
    · simp [cellSet, hx, cellGet]
    · rw [cellSet, if_neg hx]
      by_cases hab : a = b <;> simp [cellGet, hab]
  | cons p r ih =>
    obtain ⟨c, y⟩ := p
    simp only [cellsWf, Bool.and_eq_true, decide_eq_true_eq] at h
    obtain ⟨⟨hc, hy⟩, hr⟩ := h
    simp only [cellSet]
    split
    · rename_i h1
      split
      · rename_i hx
        by_cases hab : a = b
        · subst hab
          have : c ≠ a := by omega
          simp [cellGet, this, h1, hx]
        · simp [hab]
      · rename_i hx
        by_cases hab : a = b
        · simp [cellGet, hab]
        · by_cases hlt : b < a
          · have h2 : c ≠ b := by omega
            have h3 : b < c := by omega
            simp [cellGet, hab, hlt, h2, h3]
          · simp [cellGet, hab, hlt]
    · split
      · rename_i h1 h2
        subst h2
        split
        · rename_i hx
          by_cases hab : a = b
          · subst hab
            simp [hx, cellGet_below hr (Nat.lt_succ_self a)]
          · by_cases hlt : b < a
            · simp [cellGet, hab, hlt, cellGet_below hr (show b < a + 1 by omega)]
            · simp [cellGet, hab, hlt]
        · rename_i hx
          by_cases hab : a = b <;> simp [cellGet, hab]
      · rename_i h1 h2
        by_cases hcb : c = b
        · subst hcb
          simp [cellGet, h2]
        · by_cases hlt : b < c
          · have : a ≠ b := by omega
            simp [cellGet, hcb, hlt, this]
          · simp only [cellGet, hcb, hlt, if_false]
            exact ih hr

/-! ## Runs of bytes -/

theorem cellsSet_wf {m : List Host.Cell} (h : cellsWf 0 m = true) (a : Nat) (bs : List Byte) : cellsWf 0 (cellsSet m a bs) = true := by
  induction bs generalizing m a with
  | nil => exact h
  | cons b r ih => exact ih (cellSet_wf h (Nat.zero_le _) b) _

theorem cellGet_cellsSet {m : List Host.Cell} (h : cellsWf 0 m = true) (a : Nat) (bs : List Byte) (b : Nat) :
    cellGet (cellsSet m a bs) b = if a ≤ b ∧ b < a + bs.length then bs.getD (b - a) 0 else cellGet m b := by
  induction bs generalizing m a with
  | nil =>
    have : ¬ (a ≤ b ∧ b < a) := by omega
    simp [cellsSet, this]
  | cons x r ih =>
    simp only [cellsSet, List.length_cons]
    rw [ih (cellSet_wf h (Nat.zero_le _) x), cellGet_cellSet h]
    by_cases h1 : a + 1 ≤ b ∧ b < a + 1 + r.length
    · have h2 : a ≤ b ∧ b < a + (r.length + 1) := by omega
      have h3 : b - a = (b - (a + 1)) + 1 := by omega
      simp only [h1, h2, and_self, if_true, h3, List.getD_cons_succ]
    · by_cases h4 : a = b
      · subst h4
        simp
      · have h5 : ¬ (a ≤ b ∧ b < a + (r.length + 1)) := by omega
        rw [if_neg h1, if_neg h4, if_neg h5]

theorem cellsWf_filter {m : List Host.Cell} {lo : Nat} (h : cellsWf lo m = true) (p : Host.Cell → Bool) : cellsWf lo (m.filter p) = true := by
  induction m generalizing lo with
  | nil => rfl
  | cons c r ih =>
    obtain ⟨b, x⟩ := c
    simp only [cellsWf, Bool.and_eq_true, decide_eq_true_eq] at h
    obtain ⟨⟨hb, hx⟩, hr⟩ := h
    rw [List.filter_cons]
    split
    · simp only [cellsWf, Bool.and_eq_true, decide_eq_true_eq]
      exact ⟨⟨hb, hx⟩, ih hr⟩
    · exact cellsWf_weaken (ih hr) (by omega)

/-! ## The memory operations of the state -/

theorem wf_iff (s : State) : Memory.wf s = true ↔ cellsWf 0 s.mem = true ∧ cellsWf 0 s.scratch = true := by simp [Memory.wf]

/-- The canonical form depends on the two memories alone. -/
theorem wf_of_eq {s t : State} (h : Memory.wf s = true) (hm : t.mem = s.mem) (hs : t.scratch = s.scratch) : Memory.wf t = true := by
  rw [wf_iff] at h ⊢
  rw [hm, hs]
  exact h

theorem reset_wf : Memory.wf State.reset = true := rfl

theorem writeByte_wf {s : State} (h : Memory.wf s = true) (l : Loc) (b : Byte) : Memory.wf (writeByte s l b) = true := by
  rw [wf_iff] at h ⊢
  cases l with
  | phys a => exact ⟨cellSet_wf h.1 (Nat.zero_le _) b, h.2⟩
  | scr c o =>
    simp only [writeByte]
    split
    · exact h
    · exact ⟨h.1, cellSet_wf h.2 (Nat.zero_le _) b⟩

theorem writeBytes_wf {s : State} (h : Memory.wf s = true) (l : Loc) (bs : List Byte) : Memory.wf (writeBytes s l bs) = true := by
  induction bs generalizing s l with
  | nil => exact h
  | cons b r ih => exact ih (writeByte_wf h l b) _

@[simp] theorem raiseCt_mem (s : State) (core : Nat) (t : DWord) : (raiseCt s core t).mem = s.mem := by unfold raiseCt; split <;> rfl
@[simp] theorem raiseCt_scratch (s : State) (core : Nat) (t : DWord) : (raiseCt s core t).scratch = s.scratch := by
  unfold raiseCt; split <;> rfl

/-! Caches, times and tiers hold no bytes of the memories: the operations on them leave both as they are. -/

@[simp] theorem makeRoom_mem (s : State) (line : Nat) : (makeRoom s line).mem = s.mem := by
  unfold makeRoom; dsimp only; repeat' (first | rfl | simp | split)
@[simp] theorem makeRoom_scratch (s : State) (line : Nat) : (makeRoom s line).scratch = s.scratch := by
  unfold makeRoom; dsimp only; repeat' (first | rfl | simp | split)
@[simp] theorem setTimes_mem (s : State) (l : Loc) (x : Times) : (setTimes s l x).mem = s.mem := by
  unfold setTimes; dsimp only; repeat' (first | rfl | simp | split)
@[simp] theorem setTimes_scratch (s : State) (l : Loc) (x : Times) : (setTimes s l x).scratch = s.scratch := by
  unfold setTimes; dsimp only; repeat' (first | rfl | simp | split)
@[simp] theorem recallLine_mem (s : State) (l : Loc) : (recallLine s l).mem = s.mem := by
  unfold recallLine; repeat' (first | rfl | simp | split)
@[simp] theorem recallLine_scratch (s : State) (l : Loc) : (recallLine s l).scratch = s.scratch := by
  unfold recallLine; repeat' (first | rfl | simp | split)
@[simp] theorem dropLease_mem (s : State) (c n : Nat) : (dropLease s c n).mem = s.mem := by
  unfold dropLease; repeat' (first | rfl | simp | split)
@[simp] theorem dropLease_scratch (s : State) (c n : Nat) : (dropLease s c n).scratch = s.scratch := by
  unfold dropLease; repeat' (first | rfl | simp | split)
@[simp] theorem roomInL1_mem (s : State) (c n : Nat) : (roomInL1 s c n).mem = s.mem := by
  unfold roomInL1; dsimp only; repeat' (first | rfl | simp | split)
@[simp] theorem roomInL1_scratch (s : State) (c n : Nat) : (roomInL1 s c n).scratch = s.scratch := by
  unfold roomInL1; dsimp only; repeat' (first | rfl | simp | split)
@[simp] theorem takeLine_mem (s : State) (c : Nat) (l : Loc) : (takeLine s c l).mem = s.mem := by
  unfold takeLine; dsimp only; repeat' (first | rfl | simp | split)
@[simp] theorem takeLine_scratch (s : State) (c : Nat) (l : Loc) : (takeLine s c l).scratch = s.scratch := by
  unfold takeLine; dsimp only; repeat' (first | rfl | simp | split)
@[simp] theorem grantLease_mem (s : State) (c n : Nat) (x : Lease) : (grantLease s c n x).mem = s.mem := by
  unfold grantLease; dsimp only; repeat' (first | rfl | simp | split)
@[simp] theorem grantLease_scratch (s : State) (c n : Nat) (x : Lease) : (grantLease s c n x).scratch = s.scratch := by
  unfold grantLease; dsimp only; repeat' (first | rfl | simp | split)
@[simp] theorem trimT1_mem (s : State) (n k : Nat) : (trimT1 s n k).mem = s.mem := by
  unfold trimT1; dsimp only; repeat' (first | rfl | simp | split)
@[simp] theorem trimT1_scratch (s : State) (n k : Nat) : (trimT1 s n k).scratch = s.scratch := by
  unfold trimT1; dsimp only; repeat' (first | rfl | simp | split)
@[simp] theorem comeUp_mem (s : State) (g : Nat) : (comeUp s g).mem = s.mem := by
  unfold comeUp; dsimp only; repeat' (first | rfl | simp | split)
@[simp] theorem comeUp_scratch (s : State) (g : Nat) : (comeUp s g).scratch = s.scratch := by
  unfold comeUp; dsimp only; repeat' (first | rfl | simp | split)
@[simp] theorem reachGranule_mem (s : State) (l : Loc) : (reachGranule s l).mem = s.mem := by
  unfold reachGranule; dsimp only; repeat' (first | rfl | simp | split)
@[simp] theorem reachGranule_scratch (s : State) (l : Loc) : (reachGranule s l).scratch = s.scratch := by
  unfold reachGranule; dsimp only; repeat' (first | rfl | simp | split)
@[simp] theorem passLink_mem (s : State) (l : Loc) : (passLink s l).mem = s.mem := by
  unfold passLink; repeat' (first | rfl | simp | split)
@[simp] theorem passLink_scratch (s : State) (l : Loc) : (passLink s l).scratch = s.scratch := by
  unfold passLink; repeat' (first | rfl | simp | split)
@[simp] theorem mend_mem (s : State) (op : Nat × Nat) (l : Loc) (n : Nat) : (mend s op l n).mem = s.mem := by
  unfold mend; generalize List.range _ = xs
  induction xs generalizing s with
  | nil => rfl
  | cons i r ih => rw [List.foldl_cons, ih]; dsimp only; repeat' (first | rfl | simp | split)
@[simp] theorem mend_scratch (s : State) (op : Nat × Nat) (l : Loc) (n : Nat) : (mend s op l n).scratch = s.scratch := by
  unfold mend; generalize List.range _ = xs
  induction xs generalizing s with
  | nil => rfl
  | cons i r ih => rw [List.foldl_cons, ih]; dsimp only; repeat' (first | rfl | simp | split)
@[simp] theorem touch_mem (s : State) (core : Nat) (l : Loc) (w : Bool) : (touch s core l w).mem = s.mem := by
  unfold touch; dsimp only; repeat' (first | rfl | simp | split)
@[simp] theorem touch_scratch (s : State) (core : Nat) (l : Loc) (w : Bool) : (touch s core l w).scratch = s.scratch := by
  unfold touch; dsimp only; repeat' (first | rfl | simp | split)
@[simp] theorem loadMiss_mem (s : State) (cache core line : Nat) (l : Loc) : (loadMiss s cache core line l).mem = s.mem := by
  unfold loadMiss; dsimp only; simp
@[simp] theorem loadMiss_scratch (s : State) (cache core line : Nat) (l : Loc) : (loadMiss s cache core line l).scratch = s.scratch := by
  unfold loadMiss; dsimp only; simp
@[simp] theorem readHome_mem (s : State) (core : Nat) (l : Loc) : (readHome s core l).mem = s.mem := by
  unfold readHome; simp
@[simp] theorem readHome_scratch (s : State) (core : Nat) (l : Loc) : (readHome s core l).scratch = s.scratch := by
  unfold readHome; simp
@[simp] theorem touchHome_mem (s : State) (core : Nat) (l : Loc) : (touchHome s core l).mem = s.mem := by
  unfold touchHome; simp
@[simp] theorem touchHome_scratch (s : State) (core : Nat) (l : Loc) : (touchHome s core l).scratch = s.scratch := by
  unfold touchHome; simp


theorem touch_wf {s : State} (h : Memory.wf s = true) (core : Nat) (l : Loc) (w : Bool) : Memory.wf (touch s core l w) = true :=
  wf_of_eq h (touch_mem ..) (touch_scratch ..)

/-- A load reads: it writes no byte. -/
@[simp] theorem load_mem (s : State) (core : Nat) (l : Loc) (n : Nat) : (load s core l n).1.mem = s.mem := by
  unfold load loadVia; dsimp only; repeat' (first | rfl | simp | split)
@[simp] theorem load_scratch (s : State) (core : Nat) (l : Loc) (n : Nat) : (load s core l n).1.scratch = s.scratch := by
  unfold load loadVia; dsimp only; repeat' (first | rfl | simp | split)

theorem load_wf {s : State} (h : Memory.wf s = true) (core : Nat) (l : Loc) (n : Nat) : Memory.wf (load s core l n).1 = true :=
  wf_of_eq h (load_mem ..) (load_scratch ..)

theorem putData_wf {s : State} (h : Memory.wf s = true) (core : Nat) (l : Loc) (bs : List Byte) (bad : Bool) :
    Memory.wf (putData s core l bs bad) = true := by
  unfold putData
  split
  · exact h
  · refine touch_wf ?_ core l true
    exact wf_of_eq (s := writeBytes s l bs) (writeBytes_wf h l bs) rfl rfl

theorem store_wf {s : State} (h : Memory.wf s = true) (core : Nat) (l : Loc) (bs : List Byte) (bad : Bool) :
    Memory.wf (store s core l bs bad) = true :=
  putData_wf (wf_of_eq h (by simp) (by simp)) ..

theorem storeHome_wf {s : State} (h : Memory.wf s = true) (core : Nat) (l : Loc) (bs : List Byte) (bad : Bool) :
    Memory.wf (storeHome s core l bs bad) = true :=
  putData_wf (wf_of_eq h (by simp) (by simp)) ..

/-! ## A long run of bytes -/

/-- Cells that rise strictly, the first not below one bound and the last below another. -/
theorem cellsWf_append {m r : List Host.Cell} {lo mid : Nat} (hm : cellsWf lo m = true) (hr : cellsWf mid r = true) (hl : lo ≤ mid)
    (hb : ∀ c ∈ m, c.1 < mid) : cellsWf lo (m ++ r) = true := by
  induction m generalizing lo with
  | nil => exact cellsWf_weaken hr hl
  | cons c m ih =>
    obtain ⟨b, x⟩ := c
    simp only [cellsWf, Bool.and_eq_true, decide_eq_true_eq, List.cons_append] at hm ⊢
    exact ⟨hm.1, ih hm.2 (hb (b, x) (by simp)) fun c hc => hb c (by simp [hc])⟩

theorem cellsOf_wf (a : Nat) (bs : List Byte) : cellsWf a (cellsOf a bs) = true := by
  induction bs generalizing a with
  | nil => rfl
  | cons b r ih =>
    unfold cellsOf
    split
    · exact cellsWf_weaken (ih (a + 1)) (by omega)
    · rename_i hb
      simp only [cellsWf, Bool.and_eq_true, decide_eq_true_eq]
      exact ⟨⟨Nat.le_refl a, by simpa using hb⟩, ih (a + 1)⟩

theorem cellsOf_below (a : Nat) (bs : List Byte) : ∀ c ∈ cellsOf a bs, c.1 < a + bs.length := by
  induction bs generalizing a with
  | nil => simp [cellsOf]
  | cons b r ih =>
    intro c hc
    unfold cellsOf at hc
    simp only [List.length_cons]
    split at hc
    · have := ih (a + 1) c hc; omega
    · rcases List.mem_cons.1 hc with rfl | hc
      · simp
      · have := ih (a + 1) c hc; omega

/-- Cells none of which lies below a bound rise from it. -/
theorem cellsWf_from {m : List Host.Cell} {lo hi : Nat} (h : cellsWf lo m = true) : cellsWf hi (m.filter fun c => decide (hi ≤ c.1)) = true := by
  induction m generalizing lo with
  | nil => rfl
  | cons c r ih =>
    obtain ⟨b, x⟩ := c
    simp only [cellsWf, Bool.and_eq_true, decide_eq_true_eq] at h
    rw [List.filter_cons]
    split
    · rename_i hb
      simp only [cellsWf, Bool.and_eq_true, decide_eq_true_eq]
      exact ⟨⟨by simpa using hb, h.1.2⟩, cellsWf_filter h.2 _⟩
    · exact ih h.2

theorem cellsPut_wf {m : List Host.Cell} (h : cellsWf 0 m = true) (a : Nat) (bs : List Byte) : cellsWf 0 (cellsPut m a bs) = true := by
  unfold cellsPut
  have h1 : cellsWf a (cellsOf a bs ++ m.filter fun c => decide (a + bs.length ≤ c.1)) = true :=
    cellsWf_append (cellsOf_wf a bs) (cellsWf_from h) (by omega) (cellsOf_below a bs)
  rw [List.append_assoc]
  exact cellsWf_append (cellsWf_filter h _) h1 (Nat.zero_le a) (by simp)

theorem withoutWrites_wf {m : List Host.Cell} (h : cellsWf 0 m = true) (ws : List SysWrite) : cellsWf 0 (withoutWrites m ws) = true := by
  unfold withoutWrites
  generalize newestFirst ws = us
  induction us generalizing m with
  | nil => exact h
  | cons w r ih => exact ih (cellsSet_wf h _ _)

theorem clearWindow_wf {s : State} (h : Memory.wf s = true) (core base size : Nat) : Memory.wf (clearWindow s core base size) = true := by
  rw [wf_iff] at h ⊢
  exact ⟨h.1, cellsWf_filter h.2 _⟩

theorem complete_wf {s : State} (h : Memory.wf s = true) (c : Cmd) (rs : List (Nat × List Byte)) (code detail : Nat) :
    Memory.wf (complete s c rs code detail) = true := by
  rw [wf_iff] at h ⊢
  refine ⟨cellsSet_wf (cellsSet_wf ?_ _ _) _ _, h.2⟩
  have : ∀ (m : List Host.Cell), cellsWf 0 m = true →
      cellsWf 0 (rs.foldl (fun m r => cellsSet m (c.entry + r.1) r.2) m) = true := by
    induction rs with
    | nil => exact fun m hm => hm
    | cons r rest ih => exact fun m hm => ih _ (cellsSet_wf hm _ _)
  exact this _ h.1

theorem flushNotices_wf {s : State} (h : Memory.wf s = true) (port n : Nat) : Memory.wf (flushNotices s port n) = true := by
  induction n generalizing s with
  | zero => exact h
  | succ n ih =>
    unfold flushNotices
    dsimp only
    split
    · split
      · rw [wf_iff] at h
        exact ih ((wf_iff _).2 ⟨cellsSet_wf h.1 _ _, h.2⟩)
      · exact h
    · exact h

theorem postNotice_wf {s : State} (h : Memory.wf s = true) (bs : List Byte) : Memory.wf (postNotice s bs) = true := by
  unfold postNotice
  generalize s.ports.filter _ = ps
  induction ps generalizing s with
  | nil => exact h
  | cons p r ih =>
    refine ih ?_
    apply flushNotices_wf
    exact wf_of_eq (s := s) h rfl rfl

theorem modTeam_wf {s : State} (h : Memory.wf s = true) (k : Nat) (f : Team → Team) : Memory.wf (s.modTeam k f) = true :=
  wf_of_eq h (modTeam_mem ..) (modTeam_scratch ..)
theorem modThread_wf {s : State} (h : Memory.wf s = true) (k tid : Nat) (f : Thread → Thread) : Memory.wf (s.modThread k tid f) = true :=
  wf_of_eq h (modThread_mem ..) (modThread_scratch ..)
theorem setTeam_wf {s : State} (h : Memory.wf s = true) (k : Nat) (t : Team) : Memory.wf (s.setTeam k t) = true := wf_of_eq h rfl rfl

end Sys2Proof.Machine
end

