-- ==== Sys2Proof/Laws/PerInstr.lean ====
section
/-! SUPPORT. The family Coded: the opcode table names every encoded instruction again, one lemma for each constructor of Instr. -/

namespace Sys2Proof.Laws.Coded

/-- A well-formed instruction is the one that its class, opcode and fields name. -/
def Statement (i : Instr) : Prop :=
  ∀ cls opc a, i.code = some (cls, opc) → i.args = some a → i.wf = true → Instr.ofCode cls opc a = some i

/-- An event has no code. -/
theorem of_code_none {i : Instr} (h : i.code = none) : Statement i := by
  intro cls opc a hc
  rw [h] at hc
  cases hc

/-- An instruction whose code names it whatever its fields are. -/
theorem of_named {i : Instr} {cls opc : Nat} {a : Args} (hc : i.code = some (cls, opc)) (ha : i.args = some a)
    (h : Instr.ofCode cls opc a = some i) : Statement i := by
  intro cls' opc' a' hc' ha' _
  rw [hc] at hc'
  rw [ha] at ha'
  cases hc'
  cases ha'
  exact h

/-- A scope below 4 is the MOD field. -/
theorem mod_of_scope (m : BitVec 10) (n : Nat) (h : modBits m 9 2 = 0) (h1 : modBits m 1 0 = n) : m.toNat = n := by
  simp only [modBits, Nat.reduceAdd, Nat.reduceSub, Nat.reducePow, Nat.div_one] at h h1
  have := m.isLt
  omega

theorem iadd (a : Args) : Statement (.iadd a) := of_named rfl rfl rfl
theorem isum (a : Args) : Statement (.isum a) := of_named rfl rfl rfl
theorem iaddc (a : Args) : Statement (.iaddc a) := of_named rfl rfl rfl
theorem isub (a : Args) : Statement (.isub a) := of_named rfl rfl rfl
theorem imul (a : Args) : Statement (.imul a) := of_named rfl rfl rfl
theorem imulh (a : Args) : Statement (.imulh a) := of_named rfl rfl rfl
theorem imad (a : Args) : Statement (.imad a) := of_named rfl rfl rfl
theorem imadw (a : Args) : Statement (.imadw a) := of_named rfl rfl rfl
theorem idiv (a : Args) : Statement (.idiv a) := of_named rfl rfl rfl
theorem irem (a : Args) : Statement (.irem a) := of_named rfl rfl rfl
theorem imin (a : Args) : Statement (.imin a) := of_named rfl rfl rfl
theorem imax (a : Args) : Statement (.imax a) := of_named rfl rfl rfl
theorem iabs (a : Args) : Statement (.iabs a) := of_named rfl rfl rfl
theorem ineg (a : Args) : Statement (.ineg a) := of_named rfl rfl rfl
theorem icmp (a : Args) : Statement (.icmp a) := of_named rfl rfl rfl
theorem isel (a : Args) : Statement (.isel a) := of_named rfl rfl rfl
theorem lea (a : Args) : Statement (.lea a) := of_named rfl rfl rfl
theorem andB (a : Args) : Statement (.andB a) := of_named rfl rfl rfl
theorem orB (a : Args) : Statement (.orB a) := of_named rfl rfl rfl
theorem xorB (a : Args) : Statement (.xorB a) := of_named rfl rfl rfl
theorem andn (a : Args) : Statement (.andn a) := of_named rfl rfl rfl
theorem lut (a : Args) : Statement (.lut a) := of_named rfl rfl rfl
theorem shl (a : Args) : Statement (.shl a) := of_named rfl rfl rfl
theorem shr (a : Args) : Statement (.shr a) := of_named rfl rfl rfl
theorem sar (a : Args) : Statement (.sar a) := of_named rfl rfl rfl
theorem rotl (a : Args) : Statement (.rotl a) := of_named rfl rfl rfl
theorem funl (a : Args) : Statement (.funl a) := of_named rfl rfl rfl
theorem funr (a : Args) : Statement (.funr a) := of_named rfl rfl rfl
theorem mixh (a : Args) : Statement (.mixh a) := of_named rfl rfl rfl
theorem bext (a : Args) : Statement (.bext a) := of_named rfl rfl rfl
theorem bins (a : Args) : Statement (.bins a) := of_named rfl rfl rfl
theorem brev (a : Args) : Statement (.brev a) := of_named rfl rfl rfl
theorem popc (a : Args) : Statement (.popc a) := of_named rfl rfl rfl
theorem clz (a : Args) : Statement (.clz a) := of_named rfl rfl rfl
theorem ctz (a : Args) : Statement (.ctz a) := of_named rfl rfl rfl
theorem bperm (a : Args) : Statement (.bperm a) := of_named rfl rfl rfl
theorem pset (a : Args) : Statement (.pset a) := of_named rfl rfl rfl
theorem plut (a : Args) : Statement (.plut a) := of_named rfl rfl rfl
theorem p2v (a : Args) : Statement (.p2v a) := of_named rfl rfl rfl
theorem v2p (a : Args) : Statement (.v2p a) := of_named rfl rfl rfl
theorem ixset (a : Args) : Statement (.ixset a) := of_named rfl rfl rfl
theorem ldix (a : Args) : Statement (.ldix a) := of_named rfl rfl rfl
theorem stix (a : Args) : Statement (.stix a) := of_named rfl rfl rfl
theorem rgn (a : Args) : Statement (.rgn a) := of_named rfl rfl rfl
theorem rgnw (a : Args) : Statement (.rgnw a) := of_named rfl rfl rfl
theorem bra (a : Args) : Statement (.bra a) := of_named rfl rfl rfl
theorem brx (a : Args) : Statement (.brx a) := of_named rfl rfl rfl
theorem call (a : Args) : Statement (.call a) := of_named rfl rfl rfl
theorem callx (a : Args) : Statement (.callx a) := of_named rfl rfl rfl
theorem ret (a : Args) : Statement (.ret a) := of_named rfl rfl rfl
theorem loopL (a : Args) : Statement (.loopL a) := of_named rfl rfl rfl
theorem lend (a : Args) : Statement (.lend a) := of_named rfl rfl rfl
theorem rep (a : Args) : Statement (.rep a) := of_named rfl rfl rfl
theorem exitT (a : Args) : Statement (.exitT a) := of_named rfl rfl rfl
theorem yield (a : Args) : Statement (.yield a) := of_named rfl rfl rfl
theorem nap (a : Args) : Statement (.nap a) := of_named rfl rfl rfl
theorem spawn (a : Args) : Statement (.spawn a) := of_named rfl rfl rfl
theorem waitf (a : Args) : Statement (.waitf a) := of_named rfl rfl rfl
theorem setf (a : Args) : Statement (.setf a) := of_named rfl rfl rfl
theorem pxcall (a : Args) : Statement (.pxcall a) := of_named rfl rfl rfl
theorem pxret (a : Args) : Statement (.pxret a) := of_named rfl rfl rfl
theorem fadd (a : Args) : Statement (.fadd a) := of_named rfl rfl rfl
theorem fsub (a : Args) : Statement (.fsub a) := of_named rfl rfl rfl
theorem fmul (a : Args) : Statement (.fmul a) := of_named rfl rfl rfl
theorem ffma (a : Args) : Statement (.ffma a) := of_named rfl rfl rfl
theorem fmin (a : Args) : Statement (.fmin a) := of_named rfl rfl rfl
theorem fmax (a : Args) : Statement (.fmax a) := of_named rfl rfl rfl
theorem fcmp (a : Args) : Statement (.fcmp a) := of_named rfl rfl rfl
theorem fsel (a : Args) : Statement (.fsel a) := of_named rfl rfl rfl
theorem fclass (a : Args) : Statement (.fclass a) := of_named rfl rfl rfl
theorem frnd (a : Args) : Statement (.frnd a) := of_named rfl rfl rfl
theorem fscale (a : Args) : Statement (.fscale a) := of_named rfl rfl rfl
theorem frcp (a : Args) : Statement (.frcp a) := of_named rfl rfl rfl
theorem frsq (a : Args) : Statement (.frsq a) := of_named rfl rfl rfl
theorem fsqrt (a : Args) : Statement (.fsqrt a) := of_named rfl rfl rfl
theorem fdiv (a : Args) : Statement (.fdiv a) := of_named rfl rfl rfl
theorem fexp2 (a : Args) : Statement (.fexp2 a) := of_named rfl rfl rfl
theorem flog2 (a : Args) : Statement (.flog2 a) := of_named rfl rfl rfl
theorem fsin (a : Args) : Statement (.fsin a) := of_named rfl rfl rfl
theorem fcos (a : Args) : Statement (.fcos a) := of_named rfl rfl rfl
theorem ftanh (a : Args) : Statement (.ftanh a) := of_named rfl rfl rfl
theorem fsigm (a : Args) : Statement (.fsigm a) := of_named rfl rfl rfl
theorem pkadd (a : Args) : Statement (.pkadd a) := of_named rfl rfl rfl
theorem pkmul (a : Args) : Statement (.pkmul a) := of_named rfl rfl rfl
theorem pkfma (a : Args) : Statement (.pkfma a) := of_named rfl rfl rfl
theorem pkmin (a : Args) : Statement (.pkmin a) := of_named rfl rfl rfl
theorem pkmax (a : Args) : Statement (.pkmax a) := of_named rfl rfl rfl
theorem cvt (a : Args) : Statement (.cvt a) := of_named rfl rfl rfl
theorem cvti (a : Args) : Statement (.cvti a) := of_named rfl rfl rfl
theorem cvtf (a : Args) : Statement (.cvtf a) := of_named rfl rfl rfl
theorem qnt (a : Args) : Statement (.qnt a) := of_named rfl rfl rfl
theorem dqnt (a : Args) : Statement (.dqnt a) := of_named rfl rfl rfl
theorem pack2 (a : Args) : Statement (.pack2 a) := of_named rfl rfl rfl
theorem unpk (a : Args) : Statement (.unpk a) := of_named rfl rfl rfl
theorem fflag (a : Args) : Statement (.fflag a) := of_named rfl rfl rfl
theorem ld (a : Args) : Statement (.ld a) := of_named rfl rfl rfl
theorem st (a : Args) : Statement (.st a) := of_named rfl rfl rfl
theorem lds (a : Args) : Statement (.lds a) := of_named rfl rfl rfl
theorem sts (a : Args) : Statement (.sts a) := of_named rfl rfl rfl
theorem atom (a : Args) : Statement (.atom a) := of_named rfl rfl rfl
theorem cas (a : Args) : Statement (.cas a) := of_named rfl rfl rfl
theorem red (a : Args) : Statement (.red a) := of_named rfl rfl rfl
theorem pref (a : Args) : Statement (.pref a) := of_named rfl rfl rfl
theorem synch (a : Args) : Statement (.synch a) := of_named rfl rfl rfl
theorem cp (a : Args) : Statement (.cp a) := of_named rfl rfl rfl
theorem cpw (a : Args) : Statement (.cpw a) := of_named rfl rfl rfl
theorem cpa (a : Args) : Statement (.cpa a) := of_named rfl rfl rfl
theorem cpf (a : Args) : Statement (.cpf a) := of_named rfl rfl rfl
theorem cpt (a : Args) : Statement (.cpt a) := of_named rfl rfl rfl
theorem cfence (a : Args) : Statement (.cfence a) := of_named rfl rfl rfl
theorem ginit (a : Args) : Statement (.ginit a) := of_named rfl rfl rfl
theorem gexp (a : Args) : Statement (.gexp a) := of_named rfl rfl rfl
theorem garv (a : Args) : Statement (.garv a) := of_named rfl rfl rfl
theorem garvr (a : Args) : Statement (.garvr a) := of_named rfl rfl rfl
theorem gwait (a : Args) : Statement (.gwait a) := of_named rfl rfl rfl
theorem gtest (a : Args) : Statement (.gtest a) := of_named rfl rfl rfl
theorem bara (a : Args) : Statement (.bara a) := of_named rfl rfl rfl
theorem barw (a : Args) : Statement (.barw a) := of_named rfl rfl rfl
theorem bars (a : Args) : Statement (.bars a) := of_named rfl rfl rfl
theorem rvx (a : Args) : Statement (.rvx a) := of_named rfl rfl rfl
theorem csrr (a : Args) : Statement (.csrr a) := of_named rfl rfl rfl
theorem csrw (a : Args) : Statement (.csrw a) := of_named rfl rfl rfl
theorem trap (a : Args) : Statement (.trap a) := of_named rfl rfl rfl
theorem eret (a : Args) : Statement (.eret a) := of_named rfl rfl rfl
theorem emret (a : Args) : Statement (.emret a) := of_named rfl rfl rfl
theorem tlbinv (a : Args) : Statement (.tlbinv a) := of_named rfl rfl rfl
theorem tlbsync (a : Args) : Statement (.tlbsync a) := of_named rfl rfl rfl
theorem perfr (a : Args) : Statement (.perfr a) := of_named rfl rfl rfl
theorem brkpt (a : Args) : Statement (.brkpt a) := of_named rfl rfl rfl
theorem haltt (a : Args) : Statement (.haltt a) := by
  intro cls opc b hc ha hw
  cases hc
  cases ha
  have h : a.mod ≠ 3 := by
    intro h3
    simp [Instr.wf, Instr.code, Instr.args, Instr.scopeOk, modBits, h3] at hw
  show (if a.mod = 3 then some (Instr.halttGo a) else some (Instr.haltt a)) = _
  rw [if_neg h]
theorem halttGo (a : Args) : Statement (.halttGo a) := by
  intro cls opc b hc ha hw
  cases hc
  cases ha
  have h : a.mod = 3 := by
    simp only [Instr.wf, Instr.code, Instr.args, Instr.scopeOk, Bool.and_eq_true, opOk, beq_iff_eq] at hw
    obtain ⟨⟨ho, _⟩, hm⟩ := hw
    have hz : modBits a.mod 9 2 = 0 := by
      by_contra hz
      have : shapeOf 1 0xE9 a.mod = none := by simp [shapeOf, shape1, hz]
      simp [this] at ho
    exact BitVec.eq_of_toNat_eq (mod_of_scope _ _ hz hm)
  show (if a.mod = 3 then some (Instr.halttGo a) else some (Instr.haltt a)) = _
  rw [if_pos h]
theorem kadd (a : Args) : Statement (.kadd a) := of_named rfl rfl rfl
theorem ksub (a : Args) : Statement (.ksub a) := of_named rfl rfl rfl
theorem kmul (a : Args) : Statement (.kmul a) := of_named rfl rfl rfl
theorem kand (a : Args) : Statement (.kand a) := of_named rfl rfl rfl
theorem kor (a : Args) : Statement (.kor a) := of_named rfl rfl rfl
theorem kxor (a : Args) : Statement (.kxor a) := of_named rfl rfl rfl
theorem kshl (a : Args) : Statement (.kshl a) := of_named rfl rfl rfl
theorem kshr (a : Args) : Statement (.kshr a) := of_named rfl rfl rfl
theorem kmov (a : Args) : Statement (.kmov a) := of_named rfl rfl rfl
theorem kli (a : Args) : Statement (.kli a) := of_named rfl rfl rfl
theorem kld (a : Args) : Statement (.kld a) := of_named rfl rfl rfl
theorem kst (a : Args) : Statement (.kst a) := of_named rfl rfl rfl
theorem kcmp (a : Args) : Statement (.kcmp a) := of_named rfl rfl rfl
theorem kbr (a : Args) : Statement (.kbr a) := of_named rfl rfl rfl
theorem kcall (a : Args) : Statement (.kcall a) := of_named rfl rfl rfl
theorem kret (a : Args) : Statement (.kret a) := of_named rfl rfl rfl
theorem kbar (a : Args) : Statement (.kbar a) := of_named rfl rfl rfl
theorem kwait (a : Args) : Statement (.kwait a) := of_named rfl rfl rfl
theorem kcp (a : Args) : Statement (.kcp a) := of_named rfl rfl rfl
theorem kexit (a : Args) : Statement (.kexit a) := of_named rfl rfl rfl
theorem macq (a : Args) : Statement (.macq a) := of_named rfl rfl rfl
theorem mrel (a : Args) : Statement (.mrel a) := of_named rfl rfl rfl
theorem mzero (a : Args) : Statement (.mzero a) := of_named rfl rfl rfl
theorem mldb (a : Args) : Statement (.mldb a) := of_named rfl rfl rfl
theorem mfreeb (a : Args) : Statement (.mfreeb a) := of_named rfl rfl rfl
theorem mma (a : Args) : Statement (.mma a) := of_named rfl rfl rfl
theorem mscl (a : Args) : Statement (.mscl a) := of_named rfl rfl rfl
theorem mdrain (a : Args) : Statement (.mdrain a) := of_named rfl rfl rfl
theorem mswap (a : Args) : Statement (.mswap a) := of_named rfl rfl rfl
theorem mstat (a : Args) : Statement (.mstat a) := of_named rfl rfl rfl
theorem clauseHeader (h : Header) : Statement (.clauseHeader h) := of_code_none rfl
theorem bufferedStorePerformed (ag : Agent) : Statement (.bufferedStorePerformed ag) := of_code_none rfl
theorem asyncNoticeDelivery (ag : Agent) : Statement (.asyncNoticeDelivery ag) := of_code_none rfl
theorem uniformFaultDelivery (team : Nat) : Statement (.uniformFaultDelivery team) := of_code_none rfl
theorem loadDataReturn (ag : Agent) : Statement (.loadDataReturn ag) := of_code_none rfl
theorem storePerformed (ag : Agent) : Statement (.storePerformed ag) := of_code_none rfl
theorem copyWritePerformed (team copy : Nat) : Statement (.copyWritePerformed team copy) := of_code_none rfl
theorem cpaArrival (team arrival : Nat) : Statement (.cpaArrival team arrival) := of_code_none rfl
theorem coalescerMerge (core : Nat) : Statement (.coalescerMerge core) := of_code_none rfl
theorem windowGrant (ag : Agent) : Statement (.windowGrant ag) := of_code_none rfl
theorem windowStaged (ag : Agent) : Statement (.windowStaged ag) := of_code_none rfl
theorem windowLoss (ag : Agent) : Statement (.windowLoss ag) := of_code_none rfl
theorem napDeadline (ag : Agent) : Statement (.napDeadline ag) := of_code_none rfl
theorem exitDrainComplete (ag : Agent) : Statement (.exitDrainComplete ag) := of_code_none rfl
theorem synchDrainComplete (ag : Agent) : Statement (.synchDrainComplete ag) := of_code_none rfl
theorem yieldExpiry (ag : Agent) : Statement (.yieldExpiry ag) := of_code_none rfl
theorem spawnTimerExpiry (core bin : Nat) : Statement (.spawnTimerExpiry core bin) := of_code_none rfl
theorem spawnTeamWaiting (team : Nat) : Statement (.spawnTeamWaiting team) := of_code_none rfl
theorem postedCommandHead (team : Nat) (q : QueueKind) : Statement (.postedCommandHead team q) := of_code_none rfl
theorem macqGrant (cluster : Nat) : Statement (.macqGrant cluster) := of_code_none rfl
theorem scaleLinesPresent (team : Nat) : Statement (.scaleLinesPresent team) := of_code_none rfl
theorem reservationGrant (cluster : Nat) (u : UnitKind) : Statement (.reservationGrant cluster u) := of_code_none rfl
theorem reservationAging (team : Nat) : Statement (.reservationAging team) := of_code_none rfl
theorem mmaComplete (cluster : Nat) : Statement (.mmaComplete cluster) := of_code_none rfl
theorem drainUnitComplete (cluster : Nat) : Statement (.drainUnitComplete cluster) := of_code_none rfl
theorem canopyLoadComplete (cluster : Nat) : Statement (.canopyLoadComplete cluster) := of_code_none rfl
theorem mstatWrite (team : Nat) : Statement (.mstatWrite team) := of_code_none rfl
theorem kcpComplete (team : Nat) : Statement (.kcpComplete team) := of_code_none rfl
theorem docFillComplete (cluster fill : Nat) : Statement (.docFillComplete cluster fill) := of_code_none rfl
theorem fetchReturn (cluster fill : Nat) : Statement (.fetchReturn cluster fill) := of_code_none rfl
theorem markerAck (ag : Agent) : Statement (.markerAck ag) := of_code_none rfl
theorem systemWriteAck (ag : Agent) : Statement (.systemWriteAck ag) := of_code_none rfl
theorem systemReplyArrival (ag : Agent) : Statement (.systemReplyArrival ag) := of_code_none rfl
theorem granuleMoveComplete (granule : Nat) (tier : Tier) : Statement (.granuleMoveComplete granule tier) := of_code_none rfl
theorem residencyThreshold (launch node : Nat) : Statement (.residencyThreshold launch node) := of_code_none rfl
theorem placementStep (launch node : Nat) : Statement (.placementStep launch node) := of_code_none rfl
theorem placementAging (launch node : Nat) : Statement (.placementAging launch node) := of_code_none rfl
theorem imageSlotCopyDone (cluster slot : Nat) : Statement (.imageSlotCopyDone cluster slot) := of_code_none rfl
theorem teamRetire (team : Nat) : Statement (.teamRetire team) := of_code_none rfl
theorem completionEntryWrite (launch : Nat) : Statement (.completionEntryWrite launch) := of_code_none rfl
theorem preemptStopTimeout (ag : Agent) : Statement (.preemptStopTimeout ag) := of_code_none rfl
theorem drainBoundExpiry (gang : Nat) : Statement (.drainBoundExpiry gang) := of_code_none rfl
theorem gangRestore (gang : Nat) : Statement (.gangRestore gang) := of_code_none rfl
theorem errorCorrected (u : ErrUnit) : Statement (.errorCorrected u) := of_code_none rfl
theorem uncorrectableError (e : ErrSite) : Statement (.uncorrectableError e) := of_code_none rfl
theorem patrolScrub (e : ErrSite) (bad : Bool) : Statement (.patrolScrub e bad) := of_code_none rfl
theorem flitCrcFailure (link : Nat) : Statement (.flitCrcFailure link) := of_code_none rfl
theorem linkRequest (link : Nat) (r : PeerReq) : Statement (.linkRequest link r) := of_code_none rfl
theorem hostWrite (port pa : Nat) (data : List Byte) (poison : Bool) : Statement (.hostWrite port pa data poison) := of_code_none rfl
theorem hostRead (port pa n : Nat) : Statement (.hostRead port pa n) := of_code_none rfl
theorem bar4Access (port off : Nat) (data : PortData) (n : Nat) : Statement (.bar4Access port off data n) := of_code_none rfl
theorem doorbell (port queue size : Nat) (w : DWord) : Statement (.doorbell port queue size w) := of_code_none rfl
theorem chead (port queue : Nat) (x : Word) : Statement (.chead port queue x) := of_code_none rfl
theorem qstatOvfClear (port queue : Nat) (x : DWord) : Statement (.qstatOvfClear port queue x) := of_code_none rfl
theorem cmdtail (port : Nat) (x : Word) : Statement (.cmdtail port x) := of_code_none rfl
theorem evhead (port : Nat) (x : Word) : Statement (.evhead port x) := of_code_none rfl
theorem managementRegisterWrite (port off : Nat) (x : DWord) : Statement (.managementRegisterWrite port off x) := of_code_none rfl
theorem imgLoad (c : Cmd) : Statement (.imgLoad c) := of_code_none rfl
theorem imgBind (c : Cmd) : Statement (.imgBind c) := of_code_none rfl
theorem imgUnbind (c : Cmd) : Statement (.imgUnbind c) := of_code_none rfl
theorem imgDrop (c : Cmd) : Statement (.imgDrop c) := of_code_none rfl
theorem queueAssign (c : Cmd) : Statement (.queueAssign c) := of_code_none rfl
theorem queueRelease (c : Cmd) : Statement (.queueRelease c) := of_code_none rfl
theorem queueDrain (c : Cmd) : Statement (.queueDrain c) := of_code_none rfl
theorem graphRegister (c : Cmd) : Statement (.graphRegister c) := of_code_none rfl
theorem graphDrop (c : Cmd) : Statement (.graphDrop c) := of_code_none rfl
theorem partSet (c : Cmd) : Statement (.partSet c) := of_code_none rfl
theorem vdConfig (c : Cmd) : Statement (.vdConfig c) := of_code_none rfl
theorem vdGrant (c : Cmd) : Statement (.vdGrant c) := of_code_none rfl
theorem vdStatus (c : Cmd) : Statement (.vdStatus c) := of_code_none rfl
theorem tierAdd (c : Cmd) : Statement (.tierAdd c) := of_code_none rfl
theorem tlbInval (c : Cmd) : Statement (.tlbInval c) := of_code_none rfl
theorem teamTerm (c : Cmd) : Statement (.teamTerm c) := of_code_none rfl
theorem clusterReset (c : Cmd) : Statement (.clusterReset c) := of_code_none rfl
theorem clusterRetire (c : Cmd) : Statement (.clusterRetire c) := of_code_none rfl
theorem portBind (c : Cmd) : Statement (.portBind c) := of_code_none rfl
theorem linkUp (c : Cmd) : Statement (.linkUp c) := of_code_none rfl
theorem linkDown (c : Cmd) : Statement (.linkDown c) := of_code_none rfl
theorem pwrLimit (c : Cmd) : Statement (.pwrLimit c) := of_code_none rfl
theorem attest (c : Cmd) : Statement (.attest c) := of_code_none rfl
theorem contextSaveComplete (gang : Nat) : Statement (.contextSaveComplete gang) := of_code_none rfl
theorem debuggerAttach (vd : Nat) (en : Bool) : Statement (.debuggerAttach vd en) := of_code_none rfl
theorem debuggerResume (team : Nat) : Statement (.debuggerResume team) := of_code_none rfl
theorem guestInstructionDecode : Statement (.guestInstructionDecode) := of_code_none rfl
theorem commitPoint : Statement (.commitPoint) := of_code_none rfl
theorem growthRingTick : Statement (.growthRingTick) := of_code_none rfl
theorem ctDrift : Statement (.ctDrift) := of_code_none rfl
theorem rendezvousDeadlock : Statement (.rendezvousDeadlock) := of_code_none rfl
theorem watchdog : Statement (.watchdog) := of_code_none rfl
theorem quantumExpiry : Statement (.quantumExpiry) := of_code_none rfl
theorem schedulerDecide : Statement (.schedulerDecide) := of_code_none rfl
theorem linkFailure : Statement (.linkFailure) := of_code_none rfl
theorem noticeDrop : Statement (.noticeDrop) := of_code_none rfl
theorem powerLimitExceeded : Statement (.powerLimitExceeded) := of_code_none rfl
theorem coreRailOvercurrent : Statement (.coreRailOvercurrent) := of_code_none rfl
theorem packageReset : Statement (.packageReset) := of_code_none rfl

end Sys2Proof.Laws.Coded
end

