-- ==== Sys2Proof/Tests/Slice0.lean ====
section
/-! SUPPORT. Tests: words of the spec's encodings decode, ill-formed terms are refused, single steps on small states, and states that meet
the hypotheses of the statements. Expected values are those of the spec's tables and examples, or computed by hand from its rules. -/

namespace Sys2Proof.Tests

open Sys2Proof.Machine

/-! ## Small states -/

/-- The thread of the small states: in S mode at address 8, in a clause that holds `n` words after its header. -/
def someThread (n : Nat) : Thread :=
  { slot := 0, arch := { pc := 8, mode := true, clause := { due := false, start := 0, stop := BitVec.ofNat 64 (8 + 8 * n) } } }

/-- The team of the small states, with every resource a team can have. -/
def someTeam (th : Thread) : Team :=
  { gang := 1, rank := 0, teamid := 0, grid := 1, vd := 0, core := 0, launch := 0, node := 0, lrec := fullRecord, runs := [(0, 0)],
    threads := [(0, th)] }

/-- Page 0 of virtual device 0. -/
def pageRwx : Trans := { vd := 0, va := 0, lg := 16, frame := 0, r := true, w := true, x := true, home := 0, pin := 0 }

/-- One gang of one team (key 2) of one thread, whose turn it is; page 0 is readable, writable and executable. -/
def place (n : Nat) (f : Thread → Thread) (g : Team → Team) : State :=
  { teams := [(2, g (someTeam (f (someThread n))))],
    gangs := [(1, { vd := 0, launch := 0, node := 0, number := 0, teams := [2], block := 0 })],
    vds := [(0, { quantum := 1000, resident := true, runnable := true, fvec := 0x1000, extents := [(0, 65536)] })],
    tlb := [(0, [pageRwx])], walked := [pageRwx],
    ports := bootPorts, links := bootLinks 1, nextKey := 3, turn := .thread 2 0 }

def withV (xs : List (Nat × Word)) (th : Thread) : Thread := { th with arch := { th.arch with v := xs } }

/-- The small state of a register operation. -/
def regs (xs : List (Nat × Word)) : State := place 1 (withV xs) id

/-- The small state whose turn is the uniform stream's, at address 8. -/
def stream (n : Nat) (ks : List (Nat × DWord)) (g : Team → Team) : State :=
  { place n id (fun t => g { t with k := ks, stream := { pc := 8, retired := false, clause := (someThread n).arch.clause } }) with
    turn := .stream 2 }

/-- The thread at the last operation of an expansion, past its commit point or before it. -/
def lastIn (past : Bool) (i : Instr) (s : State) : State := s.modThread 2 0 fun th =>
  { th with expansion := some { ops := [i], len := 3, saved := th.arch, stores := [], checked := true, committed := past } }

/-! ## Looking at an outcome -/

def next (o : Out) : Option State :=
  match o with
  | .next u => some u
  | _ => none

def threadOf (o : Out) : Option Thread := (next o).bind fun u => u.thread? 2 0
def teamOf (o : Out) : Option Team := (next o).bind fun u => u.team? 2
def outV (o : Out) (j : Nat) : Option Word := (threadOf o).map fun th => vReg th.arch j
def outP (o : Out) : Option (BitVec 16) := (threadOf o).map fun th => th.arch.p
def outPc (o : Out) : Option DWord := (threadOf o).map fun th => th.arch.pc
def outFlags (o : Out) : Option (BitVec 5) := (threadOf o).map fun th => th.arch.fflags
def outK (o : Out) (j : Nat) : Option DWord := (teamOf o).map fun t => AMap.get 0 t.k j
/-- The code of the fault that the thread took: CR.FSTAT bits 31:24. -/
def outCode (o : Out) : Option Nat := (threadOf o).map fun th => th.cr.fstat.toNat / 2 ^ 24
def outWait (o : Out) : Option (Option Wait) := (threadOf o).map Thread.wait

/-- The operation with these fields on these registers leaves a value in v9. -/
def gives (i : Args → Instr) (m : BitVec 10) (x y z : Sel) (xs : List (Nat × Word)) (w : Word) : Bool :=
  outV (exec (i (plain m (.v 9) x y z)) (regs xs)) 9 == some w

/-- A thread operation comes to its effect in a state, and meets a condition. -/
def meets (cls opc : Nat) (a : Args) (s : State) (pre : Ctx → Bool) : Bool :=
  match ctxOf s with
  | some c => ready c cls opc a && pre c
  | none => false

/-- A uniform operation comes to its effect in a state, and meets a condition. -/
def kmeets (opc : Nat) (a : Args) (posted : Bool) (s : State) (pre : Team → Bool) : Bool :=
  match streamOf s with
  | some (_, t) => kready s t opc a posted && pre t
  | none => false

/-! ## Decoding (words written out from R66 to R85) -/

theorem test_decode_atom : decodeWords [0x412CE00038130600] = .ok (.atom (plain 0x2CE (.v 7) (.v 4) (.imm 3) .none), 1) := by decide
theorem test_decode_guard : decodeWords [0x03AC2CC04027FE00] =
    .ok (.icmp { plain 0x2C2 (.v 8) (.v 9) (.imm 0x7F) .none with guard := .on 3 true }, 1) := by decide
theorem test_decode_kcmp : decodeWords [0x830010000C470000] = .ok (.kcmp (plain 1 (.num 1) (.k 1) (.imm 0) .none), 1) := by decide
theorem test_decode_trap : decodeWords [0x7880500000100000] = .ok (.trap (plain 5 .none (.v 4) .none .none), 1) := by decide
theorem test_decode_ffma : decodeWords [0x20D800014044243C] =
    .ok (.ffma (plain 0x180 (.v 40) (.v 17) (.v 18) (.v 60)), 1) := by decide
theorem test_decode_mma : decodeWords [0x89489000045A2E00] = .ok (.mma (plain 0x89 .none (.k 6) (.k 7) .none), 1) := by decide
theorem test_decode_kcp : decodeWords [0x85400848944E2800] =
    .ok (.kcp { plain 0 (.k 2) (.k 3) (.k 4) .none with guard := .on 1 false }, 1) := by decide
theorem test_decode_qnt : decodeWords [0x2AD9000038141007] = .ok (.qnt (plain 0x190 (.v 7) (.v 5) (.v 8) (.v 7)), 1) := by decide
theorem test_decode_header : decodeWords [0xC000240400000000] =
    .ok (.clauseHeader { wait := 0, aflag := some 2, bflag := none, count := 2, prio := 0 }, 1) := by decide
theorem test_decode_ld_ext : decodeWords [0x402A001050100000, 0xC80C000000000040] =
    .ok (.ld { plain 0x2A0 (.v 10) (.v 4) .none .none with aux := some 0x40 }, 2) := by decide
/-- BRA: class 00, opcode 0x40, X = 1; its extension word: SEL 3, offset −8. -/
theorem test_decode_bra : decodeWords [0x1000001000000000, 0xC80CFFFFFFFFFFF8] =
    .ok (.bra { plain 0 .none .none .none .none with aux := some (-8) }, 2) := by decide
/-- PKADD: opcode 0xA0. -/
theorem test_decode_pkadd : decodeWords [0x2800000048040400] = .ok (.pkadd (plain 0 (.v 9) (.v 1) (.v 2) .none), 1) := by decide
/-- CP: class 01, opcode 0x10, size code 1, tag 3, destination v2, source v4. -/
theorem test_decode_cp : decodeWords [0x4418000018080800] = .ok (.cp (plain 0x180 (.num 3) (.v 2) (.v 4) .none), 1) := by decide
/-- BARA: opcode 0x20, barrier 3, count v1. -/
theorem test_decode_bara : decodeWords [0x48000000480C0200] = .ok (.bara (plain 0 (.v 9) (.num 3) (.v 1) .none), 1) := by decide
/-- A safe point: IADD with S = 1 and its live record. -/
theorem test_decode_live : decodeWords [0x0000002048040400, 0xC50000FF0000000F] =
    .ok (.iadd { plain 0 (.v 9) (.v 1) (.v 2) .none with
      live := some { lc1 := false, lc0 := true, pmask := 0xFF, vmask := 0xF } }, 2) := by decide
/-- ERET and TLBSYNC: class 01, opcodes 0xE3 and 0xE6. -/
theorem test_decode_eret : decodeWords [0x78C0000000000000] = .ok (.eret (plain 0 .none .none .none .none), 1) := by decide
theorem test_decode_tlbsync : decodeWords [0x7980000000000000] = .ok (.tlbsync (plain 0 .none .none .none .none), 1) := by decide
/-- An extension word where no instruction asks for one is no instruction; opcode 0x27 of class 00 is not allocated. -/
theorem test_decode_stray : decodeWords [0xC80C000000000040] = .error .strayWord := by decide
theorem test_decode_unallocated : decodeWords [0x09C0000000000000] = .error .unallocated := by decide
theorem test_decode_table_word : decodeTableWord 64 0x20D800014044243C = some (.ffma (plain 0x180 (.v 40) (.v 17) (.v 18) (.v 60))) := by decide

/-! ## Ill-formed terms -/

theorem test_wf_fits : (Instr.iadd (plain 0 (.v 9) (.v 1) (.v 2) .none)).wf = true := by decide
theorem test_wf_mod : (Instr.iadd (plain 1 (.v 9) (.v 1) (.v 2) .none)).wf = false := by decide
theorem test_wf_missing_source : (Instr.iadd (plain 0 (.v 9) (.v 1) .none .none)).wf = false := by decide
theorem test_wf_extra_source : (Instr.iadd (plain 0 (.v 9) (.v 1) (.v 2) (.v 3))).wf = false := by decide
theorem test_wf_odd_pair : (Instr.lea (plain 0 (.v 9) (.v 2) (.v 3) .none)).wf = false := by decide
theorem test_wf_odd_window_pair : (Instr.lea (plain 0 (.v 8) (.n 3) (.v 3) .none)).wf = false := by decide
theorem test_wf_destination_immediate : (Instr.iadd (plain 0 (.imm 1) (.v 1) (.v 2) .none)).wf = false := by decide
theorem test_wf_destination_special : (Instr.iadd (plain 0 (.sp .tid false) (.v 1) (.v 2) .none)).wf = false := by decide
theorem test_wf_high_half : (Instr.iadd (plain 0 (.v 9) (.sp .tid true) (.v 2) .none)).wf = false := by decide
theorem test_wf_number : (Instr.setf (plain 0 (.num 16) (.num 0) (.imm 0) .none)).wf = false := by decide
theorem test_wf_unsigned_immediate : (Instr.waitf (plain 0 .none (.num 0) (.imm 64) .none)).wf = false := by decide
theorem test_wf_template_register : (Instr.iadd (plain 0 (.t 1) (.v 1) (.v 2) .none)).wf = false := by decide
theorem test_wf_template_value : (Instr.iadd (plain 0 (.v 9) (.val 1 false) (.v 2) .none)).wf = false := by decide
theorem test_wf_two_extensions : (Instr.iadd (plain 0 (.v 9) (.ext 1) (.ext 2) .none)).wf = false := by decide
theorem test_wf_no_offset : (Instr.bra (plain 0 .none .none .none .none)).wf = false := by decide
theorem test_wf_branch_offset : (Instr.bra { plain 0 .none .none .none .none with aux := some 4 }).wf = false := by decide
theorem test_wf_wide_offset : (Instr.bra { plain 0 .none .none .none .none with aux := some 0x800000000000 }).wf = false := by decide
theorem test_wf_offset_where_none : (Instr.iadd { plain 0 (.v 9) (.v 1) (.v 2) .none with aux := some 8 }).wf = false := by decide
theorem test_wf_uniform_guard : (Instr.kadd { plain 0 (.k 1) (.k 2) (.k 3) .none with guard := .on 8 false }).wf = false := by decide
theorem test_wf_uniform_live : (Instr.kadd { plain 0 (.k 1) (.k 2) (.k 3) .none with
    live := some { lc1 := false, lc0 := false, pmask := 0, vmask := 0 } }).wf = false := by decide
theorem test_wf_uniform_operand : (Instr.kadd (plain 0 (.k 1) (.v 2) (.k 3) .none)).wf = false := by decide
theorem test_wf_header_count : (Instr.clauseHeader { wait := 0, aflag := none, bflag := none, count := 0, prio := 0 }).wf = false := by decide
theorem test_wf_header_flag : (Instr.clauseHeader { wait := 0, aflag := some 12, bflag := none, count := 1, prio := 0 }).wf = false := by decide
theorem test_wf_header_flag_b : (Instr.clauseHeader { wait := 0, aflag := none, bflag := some 12, count := 1, prio := 0 }).wf = false :=
  by decide
theorem test_wf_haltt_scope : (Instr.haltt (plain 3 .none .none .none .none)).wf = false := by decide
theorem test_wf_conversion : (Instr.cvtf (plain 0 (.v 9) (.v 1) .none (.num 64))).wf = false := by decide
theorem test_wf_event : Instr.ctDrift.wf = false := by decide


/-! ## Class 00: integers, bits, predicates, indexed registers, windows -/

theorem test_iadd_wraps : gives .iadd 0 (.v 1) (.v 2) .none [(1, 0x7FFFFFFF), (2, 1)] 0x80000000 = true := by decide
theorem test_iadd_saturates : gives .iadd 0x10 (.v 1) (.v 2) .none [(1, 0x7FFFFFFF), (2, 1)] 0x7FFFFFFF = true := by decide
theorem test_isum : gives .isum 0 (.v 1) (.v 2) (.v 3) [(1, 1), (2, 2), (3, 3)] 6 = true := by decide
theorem test_iaddc_carry : outP (exec (.iaddc (plain 0 (.v 9) (.v 1) (.v 2) (.num 5))) (regs [(1, 0xFFFFFFFF), (2, 1)])) = some 0x20 := by decide
theorem test_iaddc : gives .iaddc 0 (.v 1) (.v 2) (.num 5) [(1, 0xFFFFFFFF), (2, 1)] 0 = true := by decide
/-- TY is n32: the difference clamps to 0. -/
theorem test_isub_unsigned_saturates : gives .isub 0x2D0 (.v 1) (.v 2) .none [(1, 1), (2, 2)] 0 = true := by decide
theorem test_imul_wraps : gives .imul 0 (.v 1) (.v 2) .none [(1, 0x10001), (2, 0x10000)] 0x10000 = true := by decide
theorem test_imulh_signed : gives .imulh 0 (.v 1) (.v 2) .none [(1, 0xFFFFFFFF), (2, 1)] 0xFFFFFFFF = true := by decide
theorem test_imad : gives .imad 0 (.v 1) (.v 2) (.v 3) [(1, 3), (2, 4), (3, 5)] 17 = true := by decide
theorem test_imadw : outV (exec (.imadw (plain 0 (.v 8) (.v 1) (.v 2) (.v 4))) (regs [(1, 0x10000), (2, 0x10000), (4, 1)])) 9 = some 1 :=
  by decide
theorem test_idiv_by_zero : gives .idiv 0 (.v 1) (.v 2) .none [(1, 7), (2, 0)] 0xFFFFFFFF = true := by decide
theorem test_idiv_truncates : gives .idiv 0 (.v 1) (.v 2) .none [(1, 0xFFFFFFF9), (2, 2)] 0xFFFFFFFD = true := by decide
theorem test_irem_sign : gives .irem 0 (.v 1) (.v 2) .none [(1, 0xFFFFFFF9), (2, 2)] 0xFFFFFFFF = true := by decide
theorem test_irem_overflow : gives .irem 0 (.v 1) (.v 2) .none [(1, 0x80000000), (2, 0xFFFFFFFF)] 0 = true := by decide
theorem test_imin_signed : gives .imin 0 (.v 1) (.v 2) .none [(1, 0xFFFFFFFF), (2, 1)] 0xFFFFFFFF = true := by decide
theorem test_imax_signed : gives .imax 0 (.v 1) (.v 2) .none [(1, 0xFFFFFFFF), (2, 1)] 1 = true := by decide
theorem test_iabs_smallest : gives .iabs 0 (.v 1) .none .none [(1, 0x80000000)] 0x80000000 = true := by decide
theorem test_ineg : gives .ineg 0 (.v 1) .none .none [(1, 5)] 0xFFFFFFFB = true := by decide
theorem test_icmp_lt : gives .icmp 2 (.v 1) (.v 2) .none [(1, 0xFFFFFFFF), (2, 1)] 0xFFFFFFFF = true := by decide
/-- The predicate is p0, inverted. -/
theorem test_isel_inverted : gives .isel 0 (.v 1) (.v 2) (.num 16) [(1, 1), (2, 2)] 1 = true := by decide
theorem test_lea : outV (exec (.lea (plain 3 (.v 8) (.v 2) (.v 1) .none)) (regs [(1, 5), (2, 0xFFFFFFFF), (3, 7)])) 9 = some 8 := by decide
theorem test_and : gives .andB 0 (.v 1) (.v 2) .none [(1, 0xF0F0), (2, 0xFF00)] 0xF000 = true := by decide
theorem test_or : gives .orB 0 (.v 1) (.v 2) .none [(1, 0xF0F0), (2, 0xFF00)] 0xFFF0 = true := by decide
theorem test_xor : gives .xorB 0 (.v 1) (.v 2) .none [(1, 0xF0F0), (2, 0xFF00)] 0x0FF0 = true := by decide
theorem test_andn : gives .andn 0 (.v 1) (.v 2) .none [(1, 0xF0F0), (2, 0xFF00)] 0x00F0 = true := by decide
theorem test_lut_majority : gives .lut 0xE8 (.v 1) (.v 2) (.v 3) [(1, 0xF0), (2, 0xCC), (3, 0xAA)] 0xE8 = true := by decide
theorem test_shl_by_width : gives .shl 0 (.v 1) (.v 2) .none [(1, 1), (2, 32)] 0 = true := by decide
theorem test_shr : gives .shr 0 (.v 1) (.v 2) .none [(1, 0x80000000), (2, 31)] 1 = true := by decide
theorem test_sar_beyond_width : gives .sar 0 (.v 1) (.v 2) .none [(1, 0x80000000), (2, 40)] 0xFFFFFFFF = true := by decide
theorem test_rotl_modulo : gives .rotl 0 (.v 1) (.v 2) .none [(1, 0x80000001), (2, 33)] 3 = true := by decide
theorem test_funl : gives .funl 0 (.v 1) (.v 2) (.v 3) [(1, 1), (2, 0x80000000), (3, 1)] 3 = true := by decide
theorem test_funr : gives .funr 0 (.v 1) (.v 2) (.v 3) [(1, 1), (2, 0x80000000), (3, 1)] 0xC0000000 = true := by decide
/-- TY is i32: the field of length 4 at bit 4, extended by its sign. -/
theorem test_bext_signed : gives .bext 0x240 (.v 1) (.v 2) .none [(1, 0x80), (2, 0x0404)] 0xFFFFFFF8 = true := by decide
theorem test_bins : gives .bins 0 (.v 1) (.v 2) (.v 3) [(1, 0xFFFFFFFF), (2, 0), (3, 0x0404)] 0xFFFFFF0F = true := by decide
theorem test_brev : gives .brev 0 (.v 1) .none .none [(1, 1)] 0x80000000 = true := by decide
theorem test_popc : gives .popc 0 (.v 1) .none .none [(1, 0xFF01)] 9 = true := by decide
theorem test_clz_zero : gives .clz 0 (.v 1) .none .none [(1, 0)] 32 = true := by decide
theorem test_ctz : gives .ctz 0 (.v 1) .none .none [(1, 0x50)] 4 = true := by decide
theorem test_pset : outP (exec (.pset (plain 4 (.num 7) (.v 1) (.v 2) (.num 0))) (regs [(1, 2), (2, 1)])) = some 0x80 := by decide
/-- The table is 1 where the first predicate is 0. -/
theorem test_plut_not : outP (exec (.plut (plain 0x0F (.num 2) (.num 0) (.num 0) (.num 0))) (regs [])) = some 4 := by decide
theorem test_v2p_masked : outP (exec (.v2p (plain 0 .none (.v 1) (.v 2) .none)) (regs [(1, 0xFFFF), (2, 0x00F0)])) = some 0x00F0 := by decide
theorem test_p2v : outV (exec (.p2v (plain 0 (.v 9) (.v 1) .none .none)) (place 1 (fun th => setPred (withV [(1, 0xFF)] th) 3 true) id)) 9 = some 8 :=
  by decide
theorem test_ixset_range : outCode (exec (.ixset (plain 0 (.num 1) (.v 1) (.v 2) .none)) (regs [(1, 256), (2, 1)])) = some 0x06 := by decide
/-- x1 has base 16 and bound 4. -/
def indexState : State := place 1 (fun th => { withV [(1, 3), (2, 4), (19, 77)] th with
  arch := { (withV [(1, 3), (2, 4), (19, 77)] th).arch with x := [(1, { base := 16, bound := 4 })] } }) id

theorem test_ldix : outV (exec (.ldix (plain 0 (.v 9) (.num 1) (.v 1) .none)) indexState) 9 = some 77 := by decide
theorem test_ldix_bound : outCode (exec (.ldix (plain 0 (.v 9) (.num 1) (.v 2) .none)) indexState) = some 0x06 := by decide
theorem test_stix : outV (exec (.stix (plain 0 .none (.num 1) (.v 1) (.v 2))) indexState) 19 = some 4 := by decide
theorem test_rgn : outWait (exec (.rgn (plain 3 .none .none .none .none)) (regs [])) = some (some (.region 24 8)) := by decide
/-- 16 registers are allocated: v16 is beyond them (R13). -/
theorem test_register_range : outCode (exec (.isub (plain 0 (.v 9) (.v 16) (.v 2) .none)) (place 1 id fun t => { t with lrec := { fullRecord with regs8 := 2 } })) = some 0x05 :=
  by decide
theorem test_false_guard : outV (exec (.orB { plain 0 (.v 9) (.v 1) (.v 2) .none with guard := .on 0 false }) (regs [(1, 1), (9, 5)])) 9 = some 5 :=
  by decide

/-! ## Class 00: control -/

def ext (a : Args) (x : DWord) : Args := { a with aux := some x }
/-- The small state with v2:v3 = an address, for an instruction of `n` words. -/
def pairState (n : Nat) (lo : Word) : State := place n (withV [(1, 3), (2, lo)]) id

theorem test_bra_back : outPc (exec (.bra (ext (plain 0 .none .none .none .none) (-8))) (place 2 id id)) = some 0 := by decide
theorem test_call_returns_after : outV (exec (.call (ext (plain 0 (.v 8) .none .none .none) 64)) (place 2 id id)) 8 = some 24 := by decide
theorem test_brx_misaligned : outCode (exec (.brx (plain 0 .none (.v 2) .none .none)) (pairState 1 0x44)) = some 0x08 := by decide
theorem test_callx : outPc (exec (.callx (plain 0 (.v 8) (.v 2) .none .none)) (pairState 1 0x48)) = some 0x48 := by decide
theorem test_ret : outPc (exec (.ret (plain 0 .none (.v 2) .none .none)) (pairState 1 0x40)) = some 0x40 := by decide
theorem test_loop_zero : outPc (exec (.loopL (ext (plain 0 (.num 0) (.v 5) .none .none) 80)) (place 2 id id)) = some 88 := by decide
theorem test_lend_again : outPc (exec (.lend (plain 0 (.num 0) .none .none .none)) (place 1 (fun th => { th with arch := { th.arch with lc0 := { count := 2, start := 0x20 } } }) id)) = some 0x20 :=
  by decide
theorem test_nap : outWait (exec (.nap (plain 0 .none (.v 1) .none .none)) (regs [(1, 5)])) = some (some (.nap 5 8)) := by decide
theorem test_nap_zero : outPc (exec (.nap (plain 0 .none (.v 1) .none .none)) (regs [])) = some 16 := by decide
theorem test_exit : outWait (exec (.exitT (plain 0 .none .none .none .none)) (regs [])) = some (some .exit) := by decide
theorem test_waitf : outWait (exec (.waitf (plain 0 .none (.num 3) (.imm 1) .none)) (place 1 (fun th => { th with f := [(3, 2)] }) id)) = some (some (.flag 3 1 8)) :=
  by decide
theorem test_setf : outP (exec (.setf (plain 0 (.num 1) (.num 3) (.imm 2) .none)) (place 1 (fun th => { th with f := [(3, 2)] }) id)) = some 2 :=
  by decide
theorem test_pxcall_unbound : outCode (exec (.pxcall (plain 0 (.v 8) (.v 2) (.v 1) .none)) (pairState 1 0x40)) = some 0x01 := by decide
theorem test_spawn : (teamOf (exec (.spawn (ext (plain 0 .none (.v 1) (.v 2) .none) 64)) (place 2 (withV [(1, 3)]) id))).map (fun t => t.bins.map fun b => (b.entry, b.reqs.map Request.a)) = some [(72, [3])] :=
  by decide

/-! ## Class 00: floating point and conversion -/

theorem test_fadd : gives .fadd 0 (.v 1) (.v 2) .none [(1, 0x3F800000), (2, 0x40000000)] 0x40400000 = true := by decide
theorem test_fsub_exact_zero : gives .fsub 0 (.v 1) (.v 2) .none [(1, 0x3F800000), (2, 0x3F800000)] 0 = true := by decide
theorem test_fmul_subnormal : gives .fmul 0 (.v 1) (.v 2) .none [(1, 0x00800000), (2, 0x3F000000)] 0x00400000 = true := by decide
theorem test_ffma : gives .ffma 0x180 (.v 1) (.v 2) (.v 3) [(1, 0x3F800000), (2, 0x3F800000), (3, 0xBF800000)] 0 = true := by decide
/-- −0 is below +0 (R144). -/
theorem test_fmin_zeros : gives .fmin 0 (.v 1) (.v 2) .none [(1, 0), (2, 0x80000000)] 0x80000000 = true := by decide
theorem test_fmax_nan : gives .fmax 0 (.v 1) (.v 2) .none [(1, 0x7FC00000), (2, 0x3F800000)] 0x3F800000 = true := by decide
theorem test_fcmp : gives .fcmp 2 (.v 1) (.v 2) .none [(1, 0xBF800000), (2, 0)] 0xFFFFFFFF = true := by decide
/-- Condition eq on −0. -/
theorem test_fsel : gives .fsel 0 (.v 1) (.v 2) (.v 3) [(1, 5), (2, 6), (3, 0x80000000)] 5 = true := by decide
/-- 2.5 rounds to 2. -/
theorem test_frnd_even : gives .frnd 0 (.v 1) .none .none [(1, 0x40200000)] 0x40000000 = true := by decide
theorem test_fscale : gives .fscale 0 (.v 1) (.v 2) .none [(1, 0x3F800000), (2, 3)] 0x41000000 = true := by decide
theorem test_frcp : gives .frcp 0 (.v 1) .none .none [(1, 0x40000000)] 0x3F000000 = true := by decide
theorem test_frsq : gives .frsq 0 (.v 1) .none .none [(1, 0x40800000)] 0x3F000000 = true := by decide
theorem test_fsqrt : gives .fsqrt 0 (.v 1) .none .none [(1, 0x40800000)] 0x40000000 = true := by decide
theorem test_fdiv_zero : gives .fdiv 0 (.v 1) (.v 2) .none [(1, 0x3F800000), (2, 0)] 0x7F800000 = true := by decide
theorem test_fdiv_flag : outFlags (exec (.fdiv (plain 0 (.v 9) (.v 1) (.v 2) .none)) (regs [(1, 0x3F800000), (2, 0)])) = some 8 := by decide
theorem test_fexp2_zero : gives .fexp2 0 (.v 1) .none .none [(1, 0)] 0x3F800000 = true := by decide
theorem test_fsigm_zero : gives .fsigm 0 (.v 1) .none .none [(1, 0)] 0x3F000000 = true := by decide
/-- MOD: destination f32 (code 9), source i32 (code 2). -/
theorem test_cvtf : gives .cvtf 0x248 (.v 1) .none (.num 0) [(1, 5)] 0x40A00000 = true := by decide


/-! ## Class 01: memory -/

/-- The small state with v2:v3 = 0x40, v4 = 0xA5 and four bytes at address 0x40. -/
def memState : State :=
  { place 1 (withV [(1, 7), (2, 0x40), (4, 0xA5)]) id with mem := [(0x40, 0x11), (0x41, 0x22), (0x42, 0x33), (0x43, 0x84)] }

/-- The state with an access outstanding, or `s` where none went out. -/
def sent (i : Instr) (s : State) : State := (next (exec i s)).getD s
def me : Agent := .thread 2 0
def memAt (o : Out) (a : Nat) : Option Byte := (next o).map fun u => cellGet u.mem a

/-- WID 4: the two bytes are extended by their sign; the register is written when the data returns (R174, R180). -/
theorem test_ld_signed_half : outV (exec (.loadDataReturn me) (sent (.ld (ext (plain 0x200 (.v 9) (.v 2) .none .none) 2))
    { place 2 (withV [(2, 0x40)]) id with mem := memState.mem })) 9 = some 0xFFFF8433 := by decide
theorem test_st_performed : memAt (exec (.storePerformed me) (sent (.st (plain 0 .none (.v 2) (.v 4) .none)) memState)) 0x40 = some 0xA5 :=
  by decide
theorem test_st_zero_unlists : (next (exec (.storePerformed me) (sent (.st (plain 0 .none (.v 2) (.v 6) .none)) memState))).map State.mem = some [] :=
  by decide
theorem test_ld_no_page : outCode (exec (.ld (plain 0 (.v 9) (.v 2) .none .none)) (pairState 1 0x20000)) = some 0x09 := by decide
theorem test_sts_lds : outV (exec (.loadDataReturn me) (sent (.lds (plain 0 (.v 9) (.v 1) .none .none)) { place 1 (withV [(1, 8)]) id with scratch := [(8, 0x5A)] })) 9 = some 0x5A :=
  by decide
theorem test_lds_beyond_window : outCode (exec (.lds (plain 0 (.v 9) (.v 1) .none .none)) (regs [(1, 0x80000)])) = some 0x10 := by decide
theorem test_atom_add_old : outV (exec (.loadDataReturn me) (sent (.atom (plain 0 (.v 9) (.v 2) (.v 1) .none)) memState)) 9 = some 0x84332211 :=
  by decide
theorem test_atom_add_new : memAt (exec (.loadDataReturn me) (sent (.atom (plain 0 (.v 9) (.v 2) (.v 1) .none)) memState)) 0x40 = some 0x18 :=
  by decide
/-- OP 2 under i32: 7 is above the negative word. -/
theorem test_red_max : memAt (exec (.storePerformed me) (sent (.red (plain 4 .none (.v 2) (.v 1) .none)) memState)) 0x43 = some 0 := by decide
theorem test_cas_hit : memAt (exec (.loadDataReturn me) (sent (.cas (plain 0 (.v 9) (.v 2) (.v 1) (.v 4))) { place 1 (withV [(1, 7), (2, 0x40), (4, 0xA5)]) id with mem := [(0x40, 7)] })) 0x40 = some 0xA5 :=
  by decide
theorem test_cas_miss : memAt (exec (.loadDataReturn me) (sent (.cas (plain 0 (.v 9) (.v 2) (.v 1) (.v 4))) memState)) 0x40 = some 0x11 :=
  by decide
theorem test_synch : outWait (exec (.synch (plain 0 .none .none .none .none)) (regs [])) = some (some (.tick 0 8)) := by decide
theorem test_tick_ends_synch : outPc (exec .growthRingTick (sent (.synch (plain 0 .none .none .none .none)) (regs []))) = some 16 := by decide
theorem test_pref : outPc (exec (.pref (plain 0 .none (.v 2) .none .none)) memState) = some 16 := by decide

/-! ## Class 01: copies, glades, barriers, exchange -/

/-- v2:v3 = 0x80 and v4:v5 = 0x40, where a byte stands. -/
def copyState : State := { place 1 (withV [(2, 0x80), (4, 0x40)]) id with mem := [(0x40, 0x11)] }
def copied : State := sent (.cp (plain 0x80 (.num 3) (.v 2) (.v 4) .none)) copyState
/-- A generic address of the own window: bits 63:52 are 0x800 (R166). -/
def windowPair (off : Word) : List (Nat × Word) := [(2, off), (3, 0x80000000)]
/-- A live glade at offset 16 of the window: phase 0, ARRIVE_INIT 2, PENDING `p`; v2:v3 its address, v1 = 1. -/
def gladeState (p : Nat) : State :=
  { place 1 (withV ((1, 1) :: windowPair 16)) (fun t => { t with glades := [(16, {})] }) with
    scratch := [(16, 0x20), (18, BitVec.ofNat 8 p)].filter fun c => c.2 != 0 }

theorem test_cp_counts : (teamOf (exec (.cp (plain 0x80 (.num 3) (.v 2) (.v 4) .none)) copyState)).map (fun t => (AMap.get {} t.tags 3).count) = some 1 :=
  by decide
theorem test_copy_performed : memAt (exec (.copyWritePerformed 2 0) copied) 0x80 = some 0x11 := by decide
theorem test_copy_tag_falls : (teamOf (exec (.copyWritePerformed 2 0) copied)).map (fun t => (AMap.get {} t.tags 3).count) = some 0 := by decide
theorem test_cpw_waits : outWait (exec (.cpw (plain 0 .none (.v 2) .none .none)) (place 1 (withV [(2, 8)]) fun t => { t with tags := [(3, { count := 1 })] })) = some (some (.tags 8 8)) :=
  by decide
theorem test_cpt : outV (exec (.cpt (plain 0 (.v 8) (.v 2) .none .none)) (place 1 (withV [(2, 0xFF)]) fun t => { t with tags := [(3, { count := 1 })] })) 8 = some 8 :=
  by decide
theorem test_cpf_clears : (teamOf (exec (.cpf (plain 0 (.v 8) (.v 2) .none .none)) (place 1 (withV [(2, 0xFF)]) fun t => { t with tags := [(3, { fault := true })] }))).map (fun t => (AMap.get {} t.tags 3).fault) = some false :=
  by decide
theorem test_cfence : (threadOf (exec (.cfence (plain 0 .none .none .none .none)) (regs []))).map Thread.epoch = some 1 := by decide
theorem test_ginit : (teamOf (exec (.ginit (plain 0 .none (.v 2) (.v 1) .none)) (place 1 (withV ((1, 3) :: windowPair 32)) id))).map (fun t => (AMap.find t.glades 32).isSome) = some true :=
  by decide
theorem test_garv_completes : (next (exec (.garv (plain 0 (.v 9) (.v 2) (.v 1) .none)) (gladeState 1))).map (fun u => ((gRead u (someTeam (someThread 1)) 16).phase, (gRead u (someTeam (someThread 1)) 16).apend)) = some (1, 2) :=
  by decide
theorem test_garv_too_many : outCode (exec (.garv (plain 0 (.v 9) (.v 2) (.v 1) .none)) (gladeState 0)) = some 0x14 := by decide
theorem test_gexp : (next (exec (.gexp (plain 0 .none (.v 2) (.v 1) .none)) (gladeState 2))).map (fun u => (gRead u (someTeam (someThread 1)) 16).spend) = some 1 :=
  by decide
theorem test_gwait : outWait (exec (.gwait (plain 0 .none (.v 2) (.v 4) .none)) (gladeState 2)) = some (some (.glade 0x8000000000000010 2 16 0 8)) :=
  by decide
theorem test_gtest : outP (exec (.gtest (plain 0 (.num 1) (.v 2) (.v 1) .none)) (gladeState 2)) = some 2 := by decide
theorem test_bara_opens : (teamOf (exec (.bara (plain 0 (.v 9) (.num 3) (.v 1) .none)) (regs [(1, 2)]))).map (fun t => ((AMap.get {} t.barriers 3).n, (AMap.get {} t.barriers 3).arr)) = some (2, 1) :=
  by decide
theorem test_bara_zero : outCode (exec (.bara (plain 0 (.v 9) (.num 3) (.v 1) .none)) (regs [])) = some 0x16 := by decide
theorem test_barw_passes : outPc (exec (.barw (plain 0 .none (.num 3) (.v 1) .none)) (regs [(1, 5)])) = some 16 := by decide
theorem test_bars_last : (teamOf (exec (.bars (plain 0 .none (.num 3) (.v 1) .none)) (regs [(1, 1)]))).map (fun t => (AMap.get {} t.barriers 3).phase) = some 1 :=
  by decide
theorem test_rvx_waits : (outWait (exec (.rvx (plain 0x40 (.v 9) (.v 1) (.v 2) .none)) (gladeState 2))).map (fun w => w.isSome) = some true :=
  by decide

/-! ## Class 01: system -/

/-- A user-mode thread. -/
def userState : State := place 1 (fun th => { th with arch := { th.arch with mode := false } }) id
/-- A thread whose fault record is live: resume at 0x40, from U mode under personality 0. -/
def handlerState : State := place 1 (fun th => { withV [(1, 0x85)] th with cr := { fstat := 0x80, fpc := 0x40 } }) id

theorem test_csrr_vdid : outV (exec (.csrr (plain 1 (.v 9) .none .none .none)) (place 1 id fun t => { t with vd := 7 })) 9 = some 7 := by decide
theorem test_csrw_fscr : (threadOf (exec (.csrw (plain 0x13 .none (.v 2) .none .none)) (pairState 1 0x77))).map (fun th => th.cr.fscr) = some 0x77 :=
  by decide
theorem test_csrw_fstat_reserved : (threadOf (exec (.csrw (plain 0x10 .none (.v 2) .none .none)) (pairState 1 0xFFFFFFFF))).map (fun th => th.cr.fstat) = some 0xFF00FFF7 :=
  by decide
theorem test_csrr_user : outCode (exec (.csrr (plain 0x10 (.v 9) .none .none .none)) userState) = some 0x04 := by decide
/-- CODE 0, TRAPNO 5, LIVE; the resume address is after the instruction (R271, R277). -/
theorem test_trap_status : (threadOf (exec (.trap (plain 5 .none (.v 2) .none .none)) userState)).map (fun th => (th.cr.fstat, th.cr.fpc, th.arch.pc, th.arch.mode)) = some (0x00000580, 16, 0x1000, true) :=
  by decide
theorem test_eret : (threadOf (exec (.eret (plain 0 .none .none .none .none)) handlerState)).map (fun th => (th.arch.pc, th.arch.mode, th.cr.fstat)) = some (0x40, false, 0) :=
  by decide
theorem test_eret_user : outCode (exec (.eret (plain 0 .none .none .none .none)) userState) = some 0x04 := by decide
theorem test_emret : outPc (exec (.emret (plain 0 .none .none .none .none)) (place 1 (fun th => { th with arch := { th.arch with epc := 0x40, elen := 6 } }) id)) = some 0x46 :=
  by decide
theorem test_double_fault : (next (exec (.eret (plain 0 .none .none .none .none)) (place 1 (fun th => { th with cr := { fstat := 0x80 }, arch := { th.arch with mode := false } }) id))).map (fun u => u.teams.length) = some 0 :=
  by decide
theorem test_tlbinv : (next (exec (.tlbinv (plain 3 .none .none .none .none)) (regs []))).map (fun u => ((AMap.get [] u.tlb 0).length, u.shoot.length)) = some (0, 1) :=
  by decide
theorem test_tlbsync : outPc (exec (.tlbsync (plain 0 .none .none .none .none)) (regs [])) = some 16 := by decide
theorem test_perfr_absent : outV (exec (.perfr (plain 0 (.v 8) (.v 1) .none .none)) (regs [(1, 0xFFFF), (8, 5)])) 8 = some 0 := by decide
theorem test_brkpt_detached : outPc (exec (.brkpt (plain 0 .none .none .none .none)) (regs [])) = some 16 := by decide
theorem test_haltt_go : outPc (exec (.halttGo (plain 3 .none .none .none .none)) (regs [])) = some 16 := by decide

/-! ## Class 10 and the matrix engine -/

theorem test_kadd : outK (exec (.kadd (plain 0 (.k 1) (.k 2) (.k 3) .none)) (stream 1 [(2, 0xFFFFFFFFFFFFFFFF), (3, 2)] id)) 1 = some 1 :=
  by decide
theorem test_ksub : outK (exec (.ksub (plain 0 (.k 1) (.k 2) (.k 3) .none)) (stream 1 [(2, 1), (3, 2)] id)) 1 = some 0xFFFFFFFFFFFFFFFF :=
  by decide
theorem test_kmul : outK (exec (.kmul (plain 0 (.k 1) (.k 2) (.k 3) .none)) (stream 1 [(2, 3), (3, 4)] id)) 1 = some 12 := by decide
theorem test_kshr_signed : outK (exec (.kshr (plain 0x200 (.k 1) (.k 2) (.imm 4) .none)) (stream 1 [(2, 0xFFFFFFFFFFFFFF00)] id)) 1 = some 0xFFFFFFFFFFFFFFF0 :=
  by decide
theorem test_kshl_beyond : outK (exec (.kshl (plain 0 (.k 1) (.k 2) (.imm 40) .none)) (stream 1 [(2, 1)] id)) 1 = some 0x10000000000 := by decide
theorem test_kmov : outK (exec (.kmov (plain 0 (.k 1) (.k 2) .none .none)) (stream 1 [(2, 9)] id)) 1 = some 9 := by decide
theorem test_kcmp : (teamOf (exec (.kcmp (plain 0 (.num 3) (.k 2) (.imm 9) .none)) (stream 1 [(2, 9)] id))).map Team.q = some 8 := by decide
theorem test_kbr : (teamOf (exec (.kbr (ext (plain 0 .none .none .none .none) 64)) (stream 2 [] id))).map (fun t => t.stream.pc) = some 72 :=
  by decide
theorem test_kcall : outK (exec (.kcall (ext (plain 0 (.k 1) .none .none .none) 64)) (stream 2 [] id)) 1 = some 24 := by decide
theorem test_kret_misaligned : (teamOf (exec (.kret (plain 0 .none (.k 2) .none .none)) (stream 1 [(2, 4)] id))).map (fun t => t.ufault) = some [{ code := 0x08, datum := 4 }] :=
  by decide
theorem test_kbar : (teamOf (exec (.kbar (plain 0 .none (.num 1) .none .none)) (stream 1 [] id))).map (fun t => (AMap.get {} t.barriers 1).uarr) = some true :=
  by decide
theorem test_kwait : (teamOf (exec (.kwait (plain 0 .none (.num 2) (.imm 0) .none)) (stream 1 [] fun t => { t with kf := [(2, 1)] }))).map (fun t => t.stream.wait) = some (some (.flag 2 0 8)) :=
  by decide
theorem test_kexit : (teamOf (exec (.kexit (plain 0 .none .none .none .none)) (stream 1 [] id))).map (fun t => t.stream.retired) = some true :=
  by decide
theorem test_macq_posts : (teamOf (exec (.macq (plain 0 .none .none .none .none)) (stream 1 [] id))).map (fun t => t.matrix.length) = some 1 :=
  by decide
theorem test_mscl : (teamOf (exec (.postedCommandHead 2 .matrix) (sent (.mscl (plain 0 .none (.k 2) (.k 3) .none)) (stream 1 [(2, 0x100), (3, 4)] id)))).map (fun t => (t.scales.sba, t.scales.spa)) = some (0x100, 4) :=
  by decide
theorem test_mma_no_tile : (teamOf (exec (.postedCommandHead 2 .matrix) (sent (.mma (plain 0 .none (.k 2) (.k 3) .none)) (stream 1 [] id)))).map (fun t => t.ufault.map UFault.code) = some [0x18] :=
  by decide
theorem test_macq_holds_a_tile : (teamOf (exec (.postedCommandHead 2 .matrix) (sent (.macq (plain 0x100 .none .none .none .none)) (stream 1 [] fun t => { t with tiles := [(2, {})] })))).map
    (fun t => (t.ufault.map UFault.code, t.matrix.length)) = some ([0x18], 0) := by decide
theorem test_mma_keeps_its_scales : (teamOf (exec (.postedCommandHead 2 .matrix) (sent (.mscl (plain 0 .none (.k 2) (.k 3) .none)) (stream 1 [(2, 0x100), (3, 4)] fun t =>
    { t with entry := some { cmd := { op := .mma (plain 0 .none .none .none .none), addr := 0, d := 0, a := 0, b := 0, c := 0, guard := true, flag := none, scales := some { sba := 7 } }, since := 0 } })))).map
    (fun t => (t.scales.sba, t.entry.map fun e => e.cmd.scales.map Scales.sba)) = some (0x100, some (some 7)) := by decide
theorem test_macq_granted : (teamOf (exec (.macqGrant 0) (sent (.postedCommandHead 2 .matrix) (sent (.macq (plain 0x40 .none .none .none .none)) (stream 1 [] id))))).map (fun t => t.tiles.map Prod.fst) = some [1] :=
  by decide

/-! ## States that meet the hypotheses of the statements -/

/-- A thread comes to the effect of each of these operations in the state. -/
def readyAll (cls : Nat) (s : State) (l : List (Nat × Args)) : Bool := l.all fun x => meets cls x.1 x.2 s fun _ => true
/-- Three sources and a destination. -/
def op3 : Args := plain 0 (.v 9) (.v 1) (.v 2) (.v 3)
def op2 : Args := plain 0 (.v 9) (.v 1) (.v 2) .none
def op1 : Args := plain 0 (.v 9) (.v 1) .none .none
/-- A predicate number as the third source. -/
def opP : Args := plain 0 (.v 9) (.v 1) (.v 2) (.num 3)

theorem witness_IntegerArithmetic : readyAll 0 (regs [(1, 5)])
    [(0x00, op2), (0x01, op3), (0x03, op2), (0x04, op2), (0x05, op2), (0x06, op3), (0x0A, op2), (0x0B, op2), (0x0C, op1), (0x0D, op1)] = true ∧
    (ElTy.i32.signed = true ∧ 32 ≤ ElTy.i32.width) ∧ (ElTy.n32.signed = false ∧ 32 ≤ ElTy.n32.width) ∧
    (ElTy.n8.width < 32 ∧ ElTy.n8.signed = false) ∧ (ElTy.i8.width < 32 ∧ ElTy.i8.signed = true) := by decide
theorem witness_DivisionAndShiftTables : readyAll 0 (regs [(1, 5), (2, 0)]) [(0x08, op2), (0x09, op2)] = true ∧ ElTy.i32.signed = true ∧
    ElTy.n32.signed = false ∧ ((2 : Int) ≠ 0 ∧ ¬(ElTy.i32.signed = true ∧ (7 : Int) = -(2 ^ (ElTy.i32.width - 1)) ∧ (2 : Int) = -1)) ∧
    (0 < 32 ∧ 2 ^ 31 < 2 ^ 32) ∧ 31 < 32 ∧ 32 ≤ 32 := by decide
theorem witness_AddWithCarry : readyAll 0 (regs [(1, 0xFFFFFFFF), (2, 1)]) [(0x02, opP)] = true := by decide
theorem witness_WideCompareSelectAddress : readyAll 0 (regs [(1, 5)]) [(0x07, plain 0 (.v 8) (.v 1) (.v 2) (.v 4)), (0x0E, op2), (0x0F, opP),
    (0x10, plain 3 (.v 8) (.v 2) (.v 1) .none)] = true := by decide
/-- A condition code 8, in a state with no pending fault. -/
theorem witness_ComparisonConditions : (ctxOf (regs [])).map (fun c => c.th.pending.isEmpty) = some true ∧
    8 ≤ modBits (plain 8 (.v 8) (.v 1) (.v 2) .none).mod 3 0 := by decide
theorem witness_BitOperations : readyAll 0 (regs [(1, 5)]) [(0x11, op2), (0x12, op2), (0x13, op2), (0x14, op2), (0x15, op3), (0x16, op2),
    (0x17, op2), (0x18, op2), (0x19, op2), (0x1A, op3), (0x1B, op3), (0x1C, op2), (0x20, op2), (0x21, op3), (0x22, op1), (0x23, op1),
    (0x24, op1), (0x25, op1), (0x26, op3)] = true := by decide
theorem witness_BitFunctions : 31 < 32 ∧ 5 < 2 ^ 32 ∧ 5 ≠ 0 ∧ 2 ^ 31 < 2 ^ 32 ∧ 3 < 4 ∧ 7 < 8 ∧ 2 ^ 32 - 1 < 2 ^ 32 := by decide
theorem witness_PredicateOperations : readyAll 0 (regs [(1, 5)]) [(0x28, plain 4 (.num 7) (.v 1) (.v 2) (.num 0)),
    (0x29, plain 0x0F (.num 2) (.num 0) (.num 1) (.num 3)), (0x2A, op1), (0x2B, plain 0 .none (.v 1) (.v 2) .none)] = true ∧ 15 < 16 := by decide
/-- The greatest base and bound that IXSET takes, the first base and the first bound that it does not; the last index below the bound, and the
bound; a register beyond the allocation. -/
theorem witness_IndexedRegisters :
    let ix : Args := plain 0 (.num 1) (.v 1) (.v 2) .none
    let ld (x : Sel) : Args := plain 0 (.v 9) (.num 1) x .none
    let st (x : Sel) : Args := plain 0 .none (.num 1) x (.v 2)
    let small : State := place 1 (fun th => { th with arch := { th.arch with x := [(1, { base := 16, bound := 4 })] } })
      fun t => { t with lrec := { fullRecord with regs8 := 2 } }
    meets 0 0x2C ix (regs [(1, 255), (2, 256)]) (fun c => (read32 c (.v 1)).toNat ≤ 255 ∧ (read32 c (.v 2)).toNat ≤ 256) = true ∧
    meets 0 0x2C ix (regs [(1, 256)]) (fun c => 255 < (read32 c (.v 1)).toNat) = true ∧
    meets 0 0x2C ix (regs [(2, 257)]) (fun c => 256 < (read32 c (.v 2)).toNat) = true ∧
    meets 0 0x2D (ld (.v 1)) indexState (fun c => match indexed c 1 (read32 c (.v 1)) with
      | .ok n => n == 19 && (AMap.find c.th.bad n).isNone
      | .error _ => false) = true ∧
    meets 0 0x2E (st (.v 1)) indexState (fun c => match indexed c 1 (read32 c (.v 1)) with
      | .ok n => n == 19
      | .error _ => false) = true ∧
    meets 0 0x2D (ld (.v 2)) indexState (fun c => match indexed c 1 (read32 c (.v 2)) with
      | .ok _ => false
      | .error e => e == (0x06, 4)) = true ∧
    meets 0 0x2E (st (.v 1)) small (fun c => match indexed c 1 (read32 c (.v 1)) with
      | .ok _ => false
      | .error e => e == (0x05, 16)) = true := by decide
/-- The team and the thread of a small state meet a condition. -/
def there (s : State) (f : Team → Thread → Bool) : Bool :=
  match s.team? 2, s.thread? 2 0 with
  | some t, some th => f t th
  | _, _ => false
/-- The thread waits, with these further changes. -/
def waitsFor (w : Wait) (g : Team → Team) : State := place 1 (fun th => { th with wait := some w }) g

/-- RGN with its window held and without; a thread in RGN's wait, one whose restored window is still to come, one whose window is staged. -/
theorem witness_Windows :
    let owed : State := place 1 (fun th => { th with arch := { th.arch with wvalid := true } }) id
    let rgn : Args := plain 3 .none .none .none .none
    let isOwed (s : State) (f : Thread → Bool) : Bool := there s fun t th => windowFree s t th && f th
    let late : State := { place 1 (fun th => { th with wait := some (.nap 5 8), held := true }) id with cycle := 257 }
    meets 0 0x30 (plain 0x200 .none .none .none .none) (regs []) (fun _ => true) = true ∧
    modBits rgn.mod 9 9 ≠ 1 ∧ meets 0 0x30 rgn (regs []) (fun c => !c.th.held) = true ∧
    meets 0 0x30 rgn (place 1 (fun th => { th with held := true }) id) (fun c => c.th.held) = true ∧
    readyAll 0 (regs []) [(0x31, plain 0 .none .none .none .none)] = true ∧
    isOwed (waitsFor (.region 24 8) id) (fun th => th.wait == some (.region 24 8)) = true ∧
    isOwed owed (fun th => th.wait.isNone && th.arch.wvalid && !th.held && th.yielded.isNone) = true ∧
    there (waitsFor .staging id) (fun _ th => th.wait == some .staging) = true ∧
    there late (fun _ th => losesWindow late th) = true := by decide

/-- A native address operand that is a multiple of 8, one that is not, and one of an expansion. -/
theorem witness_ControlTransfers :
    let x : State := place 1 (fun th => { withV [(2, 0x41)] th with
      expansion := some { ops := [], len := 3, saved := th.arch, stores := [], checked := true, committed := true } }) id
    meets 0 0x40 (ext (plain 0 .none .none .none .none) 8) (place 2 id id) (fun c => c.th.expansion.isNone) = true ∧
    meets 0 0x42 (ext (plain 0 (.v 8) .none .none .none) 8) (place 2 id id) (fun c => c.th.expansion.isNone) = true ∧
    meets 0 0x41 (plain 0 .none (.v 2) .none .none) (pairState 1 0x40) (fun c => (read64 c (.v 2)).toNat % 8 = 0) = true ∧
    meets 0 0x43 (plain 0 (.v 8) (.v 2) .none .none) (pairState 1 0x40) (fun c => (read64 c (.v 2)).toNat % 8 = 0) = true ∧
    meets 0 0x44 (plain 0 .none (.v 2) .none .none) (pairState 1 0x40) (fun c => (read64 c (.v 2)).toNat % 8 = 0) = true ∧
    meets 0 0x44 (plain 0 .none (.v 2) .none .none) x (fun c => c.th.expansion.isSome) = true ∧
    ([(0x41, plain 0 .none (.v 2) .none .none), (0x43, plain 0 (.v 8) (.v 2) .none .none), (0x44, plain 0 .none (.v 2) .none .none)].all
      fun o => meets 0 o.1 o.2 (pairState 1 0x41) fun c => c.th.expansion.isNone && decide ((read64 c (.v 2)).toNat % 8 ≠ 0)) = true := by decide
theorem witness_CountedLoops :
    let lend : Args := plain 0 (.num 0) .none .none .none
    let at' (n : Word) : State := place 1 (fun th => { th with arch := { th.arch with lc0 := { count := n, start := 0x20 } } }) id
    let loop : Args := ext (plain 0 (.num 0) (.v 1) .none .none) 80
    meets 0 0x45 loop (place 2 (withV [(1, 1)]) id) (fun c => read32 c (.v 1) ≠ 0) = true ∧
    meets 0 0x45 loop (place 2 id id) (fun c => read32 c (.v 1) = 0 && !c.th.expansion.isSome) = true ∧
    meets 0 0x45 loop (lastIn true (.loopL loop) (place 2 id id)) (fun c => read32 c (.v 1) = 0 && c.th.expansion.isSome) = true ∧
    ([0, 1].all fun n => meets 0 0x46 lend (at' n) fun c => (getLoop c.th 0).count.toNat ≤ 1) = true ∧
    meets 0 0x46 lend (at' 2) (fun c => 1 < (getLoop c.th 0).count.toNat) = true := by decide

/-- REP.copy and REP.fill of words from v4:v5 to v2:v3, v1 elements. -/
def repArgs (m : BitVec 10) : Args := plain m (.v 2) (.v 4) (.v 1) .none
/-- A REP that is under way, with its next address. -/
def repState (x : DWord) : State := place 1 (fun th => { withV [(1, 3), (2, 0x80), (4, 0x40)] th with
  arch := { (withV [(1, 3), (2, 0x80), (4, 0x40)] th).arch with rc := 2, rnext := x } }) id
/-- It has issued, with its value in `a` and its first destination in v2:v3. -/
def repRuns (m : BitVec 10) (x : DWord) : State :=
  (repState x).modThread 2 0 fun th => { th with rep := some { op := .rep (repArgs m), a := 0x40, d := 0x80 } }
theorem witness_StringOperation :
    let found (s : State) (x : DWord) (w : Want) : Option Loc := match ctxOf s with
      | some c => match resolve s c.team c.th.arch.mode x 4 w with
        | .ok l => some l
        | .error _ => none
      | none => none
    let flagged (s : State) (n : Nat) (f : Option (BitVec 4)) : State := s.modThread 2 0 fun th =>
      { th with f := [(3, n)], repFlag := f, arch := { th.arch with clause := { th.arch.clause with bflag := some 3 } } }
    let full (c : Ctx) : Bool := c.th.rep.isNone && flagFull c.th (flagB c.th)
    meets 0 0x47 (repArgs 0) (flagged (repState 0x84) 1 (some 3)) (fun c => c.th.rep = none ∧ c.th.arch.rc ≠ 0 ∧ c.th.repFlag ≠ none) = true ∧
    meets 0 0x47 (repArgs 0) (flagged (repState 0x84) 1 none) (fun c => c.th.rep = none ∧ c.th.arch.rc ≠ 0 ∧ c.th.repFlag = none ∧
      flagFull c.th (flagB c.th) = false) = true ∧
    meets 0 0x47 (repArgs 0) (flagged (regs [(1, 3)]) 63 none) (fun c => full c && decide (c.th.arch.rc = 0 ∧ read32 c (.v 1) ≠ 0)) = true ∧
    meets 0 0x47 (repArgs 0) (flagged (repState 0x84) 63 none) (fun c => full c && decide (c.th.arch.rc ≠ 0 ∧ c.th.repFlag = none)) = true ∧
    meets 0 0x47 (repArgs 0) (repRuns 0 0x84) (fun c => c.th.rep.isSome && decide (c.th.arch.rnext.toNat % 4 = 0) &&
      (copyHazard c.team c.tid (.phys 0x84) 4 true).isNone && (ownerOf c.s me (.phys 0x84)).isNone) = true ∧
    meets 0 0x47 (repArgs 1) (repRuns 1 0x84) (fun c => c.th.rep.any (fun r => r.a + (c.th.arch.rnext - r.d) == 0x44) &&
      !(load c.s c.team.core (.phys 0x44) 4).2.2 && (copyHazard c.team c.tid (.phys 0x44) 4 false).isNone &&
      (copyHazard c.team c.tid (.phys 0x84) 4 true).isNone && (ownerOf c.s me (.phys 0x84)).isNone) = true ∧
    found (repRuns 0 0x84) 0x84 ⟨false, true⟩ = some (.phys 0x84) ∧ found (repRuns 1 0x84) 0x44 ⟨true, false⟩ = some (.phys 0x44) ∧
    meets 0 0x47 (repArgs 0) (repRuns 0 0x82) (fun c => c.th.rep.isSome && decide (c.th.arch.rnext.toNat % 4 ≠ 0)) = true ∧
    meets 0 0x47 (repArgs 0) (regs []) (fun c => c.th.arch.rc = 0 ∧ read32 c (.v 1) = 0) = true ∧
    meets 0 0x47 (repArgs 0) (regs [(1, 3)]) (fun c => c.th.arch.rc = 0 ∧ read32 c (.v 1) ≠ 0 ∧ flagFull c.th (flagB c.th) = false) = true ∧
    repSize (repArgs 0) = 4 ∧ modBits (0 : BitVec 10) 3 0 ≠ 1 ∧ repSize (repArgs 1) = 4 ∧ modBits (1 : BitVec 10) 3 0 = 1 ∧
    ([repArgs 0, repArgs 1].all fun a => meets 0 0x47 a (repState 0x84) fun c => c.th.arch.rc ≠ 0 ∧ c.th.arch.rnext.toNat % repSize a = 0) = true ∧
    found (repState 0x84) 0x84 ⟨false, true⟩ = some (.phys 0x84) ∧ found (repState 0x84) 0x44 ⟨true, false⟩ = some (.phys 0x44) ∧
    meets 0 0x47 (repArgs 1) (repState 0x84) (fun c => (read64 c (.v 4) + (0x84 - read64 c (.v 2))).toNat = 0x44 ∧
      locPoisoned c.s (.phys 0x44) 4 = false ∧ copyHazard c.team c.tid (.phys 0x44) 4 false = none ∧
      copyHazard c.team c.tid (.phys 0x84) 4 true = none ∧ ownerOf c.s (.thread c.key c.tid) (.phys 0x84) = none) = true ∧
    meets 0 0x47 (repArgs 0) (repState 0x82) (fun c => c.th.arch.rc ≠ 0 ∧ c.th.arch.rnext.toNat % 4 ≠ 0) = true := by decide
/-- A flag at the limit and one above it; a NAP whose tick has come and one whose tick has not, and the same of one that a delivery has interrupted. -/
theorem witness_WaitsAndExit :
    let flag (n : Nat) : State := place 1 (fun th => { th with f := [(3, n)] }) id
    let wait : Args := plain 0 .none (.num 3) (.imm 1) .none
    let nap (g : DWord) : State := { waitsFor (.nap 5 8) id with growth := g }
    readyAll 0 (regs []) [(0x48, plain 0 .none .none .none .none), (0x49, plain 0 .none .none .none .none),
      (0x4D, plain 0 (.num 1) (.num 3) (.imm 2) .none)] = true ∧
    meets 0 0x4A (plain 0 .none (.v 1) .none .none) (regs []) (fun c => keptHere c.th = none ∧ read32 c (.v 1) = 0) = true ∧
    meets 0 0x4A (plain 0 .none (.v 1) .none .none) (regs [(1, 1)]) (fun c => keptHere c.th = none ∧ read32 c (.v 1) ≠ 0) = true ∧
    meets 0 0x4C wait (flag 1) (fun c => flagCount c.th 3 ≤ flagLimit wait) = true ∧
    meets 0 0x4C wait (flag 2) (fun c => flagLimit wait < flagCount c.th 3) = true ∧
    there (nap 5) (fun _ th => th.wait == some (.nap 5 8) && decide ((5 : DWord).toNat ≤ (nap 5).growth.toNat)) = true ∧
    there (nap 4) (fun _ th => th.wait == some (.nap 5 8) && decide ((nap 4).growth.toNat < (5 : DWord).toNat)) = true ∧
    there { place 1 (fun th => { th with yielded := some 7 }) id with cycle := 7 } (fun _ th => th.yielded == some 7) = true ∧
    (let woken (g : DWord) : State := { place 1 (fun th => { th with kept := [⟨8, .nap 5 8, none⟩] }) id with growth := g }
     let held (c : Ctx) : Bool := (keptHere c.th).map Kept.wait == some (.nap 5 8)
     meets 0 0x4A (plain 0 .none (.v 1) .none .none) (woken 5) (fun c => held c && decide ((5 : DWord).toNat ≤ c.s.growth.toNat)) &&
       meets 0 0x4A (plain 0 .none (.v 1) .none .none) (woken 4) fun c => held c && decide (c.s.growth.toNat < (5 : DWord).toNat)) = true ∧
    there (waitsFor .exit id) (fun _ th => th.wait == some .exit && th.out.isEmpty && (topPending th).isNone && !(th.arch.mode && isLive th)) = true := by decide
set_option maxRecDepth 8000 in
/-- A bin of 30 requests takes one more and stays; one whose timer has run; a SPAWN that waits, as a bin is free and as none is. -/
theorem witness_SpawnAndBins :
    let bin : Bin := { entry := 72, pix := 0, reqs := List.replicate 30 { a := 1, b := 2, by' := 0 }, since := 0 }
    let s : State := { place 2 id (fun t => { t with bins := [bin] }) with cycle := 512 }
    let r : Request := { a := 5, b := 6, by' := 0 }
    meets 0 0x4B (ext (plain 0 .none (.v 1) (.v 2) .none) 64) s (fun c =>
      (placeRequest s c.key (c.th.arch.pc + 64) c.th.arch.pix { a := read32 c (.v 1), b := read32 c (.v 2), by' := 0 } false).2) = true ∧
    (let waited : State := s.modThread 2 0 fun th => { th with spawn := some { req := { a := 0, b := 0, by' := 0, cycle := 500, slot := 0 }, entry := 72, len := 16 } }
     let full : State := { s with teams := s.teams.map fun p => (p.1, { p.2 with bins := [{ bin with reqs := List.replicate 32 r }] }) }
     let tries (x : State) (at' : Nat) (again placed : Bool) : Bool := meets 0 0x4B (ext (plain 0 .none (.v 1) (.v 2) .none) 64) x fun c =>
       let y : Request := (c.th.spawn.map SpawnWait.req).getD
         { a := read32 c (.v 1), b := read32 c (.v 2), by' := BitVec.ofNat 32 c.tid, cycle := x.cycle, slot := c.th.slot }
       y.cycle == at' && c.th.spawn.isSome == again && (placeRequest x c.key (c.th.arch.pc + 64) c.th.arch.pix y again).2 == placed
     tries s 512 false true && tries waited 500 true true && tries full 512 false false) = true ∧
    ([(15, true), (16, false)].all fun n => there (place 2 id fun t => { t with bins := (List.range n.1).map fun i => { bin with entry := BitVec.ofNat 64 (8 * i) } })
      fun t th => th.expansion.isNone && (ownBin t 1024 th.arch.pix).isNone &&
        decide ((binsOn (place 2 id fun t => { t with bins := (List.range n.1).map fun i => { bin with entry := BitVec.ofNat 64 (8 * i) } }) 0).length < 16) == n.2) = true ∧
    ([{ r with slot := 4 }, { r with cycle := 3, slot := 9 }].all fun x => !(x.cycle == (0 : Nat) && decide (5 < x.slot))) = true ∧
    addRequest [{ r with slot := 9 }] { r with slot := 5 } = [{ r with slot := 5 }, { r with slot := 9 }] ∧
    there s (fun t _ => t.bins == [bin] && decide (bin.reqs.length < 31)) = true ∧
    (binsOn s 0)[0]? = some (2, bin) ∧ binDue s (2, bin) = true ∧
    (let w : State := waitsFor .exit fun t => { t with bins := [bin] }
     there w fun t _ => t.resident && allWaiting w 2 t) = true ∧
    there s (fun t _ => freeTid t == some 1) = true ∧ (spawnThread s 2 72 0 r).isSome = true := by decide
/-- Personality 1 is bound: an image of handle 5. -/
def boundState (f : Thread → Thread) : State := { place 1 f id with
  vds := [(0, { quantum := 1000, resident := true, runnable := true, bind := [(1, 5)] })], images := [(5, { body := [], digest := 0 })] }
/-- The pair v2:v3 with these upper bits: personality in bits 63:61. -/
def upper (x : Word) (th : Thread) : Thread := withV [(1, 1), (2, 0x40), (3, x)] th
def epcIs (x : DWord) (th : Thread) : Thread := { th with arch := { th.arch with epc := x } }
theorem witness_PersonalityTransfers :
    let call : Args := plain 0 (.v 8) (.v 2) (.v 1) .none
    let ret : Args := plain 0 .none (.v 2) .none .none
    let em : Args := plain 0 .none .none .none .none
    let bound (c : Ctx) (p : Nat) : Bool := isBound (c.s.vd c.team.vd) p
    let z (x : DWord) : Bool := x.toNat / 2 ^ 52 % 2 ^ 9 == 0
    meets 0 0x4E call (boundState (upper 0)) (fun c => bound c (read32 c (.v 1)).toNat) = true ∧
    meets 0 0x4E call (place 1 (upper 0) id) (fun c => !bound c (read32 c (.v 1)).toNat) = true ∧
    meets 0 0x4F ret (boundState (upper 0x20000000)) (fun c => z (read64 c (.v 2)) && bound c ((read64 c (.v 2)).toNat / 2 ^ 61)) = true ∧
    meets 0 0x4F ret (boundState (upper 0x20100000)) (fun c => !z (read64 c (.v 2))) = true ∧
    meets 0 0x4F ret (boundState (upper 0x40000000)) (fun c => z (read64 c (.v 2)) && !bound c ((read64 c (.v 2)).toNat / 2 ^ 61)) = true ∧
    meets 1 0xE4 em (boundState (epcIs 0x2000000000000040)) (fun c => z c.th.arch.epc && bound c (c.th.arch.epc.toNat / 2 ^ 61)) = true ∧
    meets 1 0xE4 em (boundState (epcIs 0x2010000000000040)) (fun c => !z c.th.arch.epc) = true ∧
    meets 1 0xE4 em (boundState (epcIs 0x4000000000000040)) (fun c => z c.th.arch.epc && !bound c (c.th.arch.epc.toNat / 2 ^ 61)) = true :=
  by decide

/-- fsl1 is taper8 with E8M0 scales, rounding .rn and saturation, fsl2 is f16, fsl7 has no such element; v5 = 200.0, v6 = 0.75. -/
def slotState (xs : List (Nat × Word)) : State :=
  place 1 (withV ([(4, 0x43480000), (5, 0x43480000), (6, 0x3F400000)] ++ xs)) fun t =>
    { t with lrec := { fullRecord with fsl := [0, 0x4515, 1, 0x4515, 0, 0, 0, 7] } }
theorem witness_FloatArithmetic : readyAll 0 (regs []) [(0x80, op2), (0x81, op2), (0x82, op2), (0x83, op3), (0x84, op2), (0x85, op2),
    (0x89, op1), (0x8A, op2), (0x90, op1), (0x91, op1), (0x92, op1), (0x93, op2), (0xA0, op2), (0xA1, op2), (0xA2, op3), (0xA3, op2),
    (0xA4, op2)] = true ∧ decodeF .f32 0xFF800000 = .inf true ∧ decodeF .f32 0xBF800000 = .fin true 0x800000 (-23) ∧
    decodeF .f32 0x80000000 = .zero true := by decide
/-- 0.5, −3.0, 8.0 and 128.0: an exponent that is no integer, a negative operand, a power of 2, an exponent too large. -/
theorem witness_FloatApproximations :
    readyAll 0 (regs []) [(0x94, op1), (0x95, op1), (0x96, op1), (0x97, op1), (0x98, op1), (0x99, op1)] = true ∧
    decodeF .f32 0x3F000000 = .fin false 0x800000 (-24) ∧ (roundInt 1 false 0x800000 (-24)).1 < 128 ∧ (roundInt 1 false 0x800000 (-24)).2 = true ∧
    decodeF .f32 0x40400000 = .fin false 0xC00000 (-22) ∧ powerOf 0xC00000 (-22) = none ∧
    decodeF .f32 0xC3160000 = .fin true 0x960000 (-16) ∧ (roundInt 1 true 0x960000 (-16)).1 < -149 ∧
    decodeF .f32 0x41000000 = .fin false 0x800000 (-20) ∧ powerOf 0x800000 (-20) = some 3 ∧
    decodeF .f32 0x43000000 = .fin false 0x800000 (-16) ∧ 128 ≤ (roundInt 1 false 0x800000 (-16)).1 := by decide
set_option maxRecDepth 20000 in
theorem witness_FloatApproximations_bound : withinBound 0 false 1 (-1) 0x3FB504F5 = true ∧ exactMag 0 false 1 (-1) < 2 ^ 640 - 2 ^ 615 := by decide +kernel
theorem witness_FloatTests : readyAll 0 (regs []) [(0x86, op2), (0x87, op3), (0x88, op1)] = true ∧ (floatCond 0 0 0x80000000).1 = true ∧
    13 < 14 ∧ 5 < 6 := by decide
/-- Without a slot, under slot 1, and under slot 7, which is not sound; the four kinds of source and destination. -/
theorem witness_Conversions :
    let cvt (m : BitVec 10) (sc : Nat) : Args := plain m (.v 9) (.v 5) .none (.num sc)
    let sound (a : Args) (c : Ctx) : Bool := !cvtFsv a || (fslOf c.team (cvtFs a)).ok
    let bad (a : Args) (c : Ctx) : Bool := cvtFsv a && !(fslOf c.team (cvtFs a)).ok
    ([cvt 0x2A4 0, cvt 0x024 9, cvt 0 96, cvt 0x240 32, cvt 0x024 64].all fun a => meets 0 0xA8 a (slotState []) (sound a)) = true ∧
    ([cvt 0x088 0, cvt 0x0A4 0, cvt 0x080 9].all fun a => meets 0 0xA9 a (slotState []) (sound a)) = true ∧
    ([cvt 0x248 0, cvt 0x008 9].all fun a => meets 0 0xAA a (slotState []) (sound a)) = true ∧
    meets 0 0xA8 (cvt 0x024 15) (slotState []) (bad (cvt 0x024 15)) = true ∧
    meets 0 0xA9 (cvt 0x080 15) (slotState []) (bad (cvt 0x080 15)) = true ∧
    meets 0 0xAA (cvt 0x008 15) (slotState []) (bad (cvt 0x008 15)) = true := by decide
/-- The last element of a slot's word, a slot that is f32, and an element beyond the word (slot 2 is of 16 bits). -/
theorem witness_QuantizationAndPacking :
    let ok (a : Args) (c : Ctx) : Bool := let sl := fslOf c.team (modBits a.mod 9 7)
      sl.ok && decide (sl.elem ≠ 0) && decide (modBits a.mod 5 4 < 32 / cellWidth (elemTy sl.elem))
    let q (m : BitVec 10) : Args := plain m (.v 9) (.v 5) (.v 8) (.v 7)
    let d (m : BitVec 10) : Args := plain m (.v 9) (.v 5) (.v 8) .none
    meets 0 0xAB (q 0x0B0) (slotState []) (ok (q 0x0B0)) = true ∧ meets 0 0xAC (d 0x0B0) (slotState []) (ok (d 0x0B0)) = true ∧
    meets 0 0xAB (plain 0x0C0 (.v 9) (.v 4) .none .none) (slotState []) (ok (plain 0x0C0 (.v 9) (.v 4) .none .none)) = true ∧
    ([0x000, 0x380, 0x120].all fun m => meets 0 0xAB (q m) (slotState []) fun c => !ok (q m) c) = true ∧
    ([0x000, 0x380, 0x120].all fun m => meets 0 0xAC (d m) (slotState []) fun c => !ok (d m) c) = true ∧
    meets 0 0xAD (plain 0x308 (.v 9) (.v 5) (.v 6) (.v 7)) (slotState []) (fun _ => true) = true ∧
    ([0x000, 0x007, 0x00A].all fun m => meets 0 0xAD (plain m (.v 9) (.v 5) (.v 6) (.v 7)) (slotState []) fun c =>
      !packRuns c.team (plain m (.v 9) (.v 5) (.v 6) (.v 7))) = true ∧
    meets 0 0xAD (plain 0x009 (.v 9) (.v 5) (.v 6) (.v 7)) (slotState []) (fun c =>
      (fslOf c.team 1).ok && (fslOf c.team 1).elem == 5) = true ∧
    readyAll 0 (slotState []) [(0xAE, plain 0x280 (.v 8) (.v 5) .none .none), (0xAF, plain 1 (.v 9) (.v 1) .none .none)] = true := by decide

theorem test_cvt_f16 : gives .cvt 0x2A4 (.v 1) .none (.num 0) [(1, 0x3F800000)] 0x3C00 = true := by decide
theorem test_cvti_truncates : gives .cvti 0xA5 (.v 1) .none (.num 0) [(1, 0xC0200000)] 0xFFFFFFFE = true := by decide
/-- The example of R163, steps 1 to 4, under slot 3. -/
theorem test_qnt_scale : outV (exec (.qnt (plain 0x1C0 (.v 8) (.v 4) .none .none)) (slotState [])) 8 = some 0x7B := by decide
theorem test_qnt_element : outV (exec (.qnt (plain 0x190 (.v 7) (.v 5) (.v 8) (.v 7))) (slotState [(8, 0x7B), (7, 0x6C)])) 7 = some 0x7F6C :=
  by decide
theorem test_dqnt : outV (exec (.dqnt (plain 0x190 (.v 9) (.v 7) (.v 8) .none)) (slotState [(8, 0x7B), (7, 0x7F6C)])) 9 = some 0x43800000 :=
  by decide
/-- 1.0 and −2.0 in e4m3 are 0x38 and 0xC0; .hi keeps the lower pair of c. -/
theorem test_pack2_hi : gives .pack2 0x308 (.v 1) (.v 2) (.v 3) [(1, 0x3F800000), (2, 0xC0000000), (3, 0x1234)] 0xC0381234 = true := by decide
theorem test_unpk : outV (exec (.unpk (plain 0x280 (.v 8) (.v 1) .none .none)) (regs [(1, 0xC0003C00)])) 9 = some 0xC0000000 := by decide
theorem test_fflag_or : outFlags (exec (.fflag (plain 1 (.v 9) (.v 1) .none .none)) (regs [(1, 9)])) = some 9 := by decide

/-- What an access of a small state resolves to. -/
def landsAt (s : State) (ea : DWord) (size : Nat) (w : Want) : Option Loc :=
  match ctxOf s with
  | some c => match resolve s c.team c.th.arch.mode ea size w with
    | .ok l => some l
    | .error _ => none
  | none => none
/-- What its check faults with. -/
def failsWith (s : State) (ea : DWord) (size : Nat) (w : Want) : Option FaultInfo :=
  match ctxOf s with
  | some c => match resolve s c.team c.th.arch.mode ea size w with
    | .ok _ => none
    | .error e => some e
  | none => none
/-- v2:v3 = the last word of page 0, v1 = the last word of the window (generic 0x800), v4 a misaligned offset. -/
def edgeState : State := place 1 (withV [(1, 0x7FFFC), (2, 0xFFFC), (4, 2)]) id
theorem witness_LoadsAndStores :
    let room (c : Ctx) : Bool := !flagFull c.th (flagA c.th) && !flagFull c.th (flagB c.th)
    let ld : Args := plain 0 (.v 9) (.v 2) .none .none
    let st : Args := plain 0 .none (.v 2) (.v 4) .none
    let lds (x : Sel) : Args := plain 0 (.v 9) x .none .none
    let sts (x : Sel) : Args := plain 0 .none x (.v 4) .none
    let free (l : Loc) (w : Bool) (c : Ctx) : Bool := room c && (copyHazard c.team c.tid l 4 w).isNone && c.th.expansion.isNone
    meets 1 0x00 ld edgeState (free (.phys 0xFFFC) false) = true ∧ meets 1 0x01 st edgeState (free (.phys 0xFFFC) true) = true ∧
    landsAt edgeState 0xFFFC 4 ⟨true, false⟩ = some (.phys 0xFFFC) ∧ landsAt edgeState 0xFFFC 4 ⟨false, true⟩ = some (.phys 0xFFFC) ∧
    meets 1 0x02 (lds (.v 1)) edgeState (free (.scr 0 0x7FFFC) false) = true ∧
    meets 1 0x03 (sts (.v 1)) edgeState (free (.scr 0 0x7FFFC) true) = true ∧
    landsAt edgeState 0x800000000007FFFC 4 ⟨true, false⟩ = some (.scr 0 0x7FFFC) ∧
    landsAt edgeState 0x800000000007FFFC 4 ⟨false, true⟩ = some (.scr 0 0x7FFFC) ∧
    readyAll 1 (pairState 1 0x20002) [(0x00, ld), (0x01, st), (0x02, lds (.v 2)), (0x03, sts (.v 2))] = true ∧
    failsWith (pairState 1 0x20002) 0x20002 4 ⟨true, false⟩ = some (0x08, 0x20002) ∧
    failsWith (pairState 1 0x20002) 0x20002 4 ⟨false, true⟩ = some (0x08, 0x20002) ∧
    (failsWith (pairState 1 0x20002) 0x8000000000020002 4 ⟨true, false⟩).isSome = true ∧
    (failsWith (pairState 1 0x20002) 0x8000000000020002 4 ⟨false, true⟩).isSome = true ∧
    ([false, true].all fun past => let s := lastIn past (.st st) edgeState
      (meets 1 0x01 st s fun c => c.th.expansion.any (fun x => x.committed == past) && (copyHazard c.team c.tid (.phys 0xFFFC) 4 true).isNone) &&
      (meets 1 0x03 (sts (.v 1)) s fun c => c.th.expansion.isSome && (copyHazard c.team c.tid (.scr 0 0x7FFFC) 4 true).isNone) &&
      landsAt s 0xFFFC 4 ⟨false, true⟩ == some (.phys 0xFFFC) && landsAt s 0x800000000007FFFC 4 ⟨false, true⟩ == some (.scr 0 0x7FFFC)) = true ∧
    0xFFFF < 2 ^ 16 := by decide
/-- Page 0 on a host port of the partition. -/
def hostState : State := { memState with
  tlb := [(0, [{ pageRwx with frame := 2 * 2 ^ 48, x := false }])], walked := [{ pageRwx with frame := 2 * 2 ^ 48, x := false }] }
theorem witness_Atomics :
    let atom (m : BitVec 10) (d : Sel) : Args := plain m d (.v 2) (.v 1) .none
    let cas : Args := plain 0 (.v 9) (.v 2) (.v 1) (.v 4)
    let room (c : Ctx) : Bool := !flagFull c.th (flagA c.th) && !flagFull c.th (flagB c.th) && (copyHazard c.team c.tid (.phys 0x40) 4 true).isNone
    let free (a : Args) (op : Option Nat) (ty : ElTy) (c : Ctx) : Bool := room c && !hostDenied c.s c.team (read64 c a.sa) op ty
    meets 1 0x04 (atom 0 (.v 9)) memState (free (atom 0 (.v 9)) (some 0) .i32) = true ∧
    meets 1 0x06 (atom 4 .none) memState (free (atom 4 .none) (some 2) .i32) = true ∧ meets 1 0x05 cas memState (free cas none .n32) = true ∧
    landsAt memState 0x40 4 ⟨true, true⟩ = some (.phys 0x40) ∧
    readyAll 1 (pairState 1 0x42) [(0x04, atom 0 (.v 9)), (0x06, atom 4 .none), (0x05, cas), (0x07, plain 0 .none (.v 2) .none .none)] = true ∧
    failsWith (pairState 1 0x42) 0x42 4 ⟨true, true⟩ = some (0x08, 0x42) ∧
    meets 1 0x04 (atom 0 (.v 9)) hostState (fun c => hostDenied c.s c.team 0x40 (some 0) .i32) = true ∧
    meets 1 0x06 (atom 4 .none) hostState (fun c => hostDenied c.s c.team 0x40 (some 2) .i32) = true ∧
    meets 1 0x05 cas hostState (fun c => hostDenied c.s c.team 0x40 none .n32) = true ∧
    landsAt hostState 0x40 4 ⟨true, true⟩ = some (.phys (2 * 2 ^ 48 + 0x40)) ∧
    (let s := hostState.modThread 2 0 (withV [(1, 7), (2, 0x42), (4, 0xA5)])
     (meets 1 0x05 cas s fun c => hostDenied c.s c.team 0x42 none .n32) && failsWith s 0x42 4 ⟨true, true⟩ == some (0x08, 0x42)) = true ∧
    (0xFFFFFFFF < 2 ^ ElTy.n32.width ∧ ElTy.n32 ≠ .f32) ∧ (0xFFFFFFFFFFFFFFFF < 2 ^ ElTy.i64.width ∧ ElTy.i64 ≠ .f32) := by decide
/-- Operands of f32 that are NaN, and a destination that is not sr.fflags. -/
theorem witness_Atomics_float : [0x7FC00000, 0xFF800001].map (decodeF .f32) = [.nan false, .nan true] ∧
    (∀ h, Sel.v 9 ≠ .sp .fflags h) := by decide

/-- What has gone out in the small states: a load, a store, an atomic, a CAS that finds its value, and one that does not. -/
theorem witness_AccessesPerformed :
    let one (s : State) (f : Access → Bool) : Bool := (match outOf s me with
      | [ac] => f ac && !locPoisoned s ac.loc ac.size && (ownerOf s me ac.loc).isNone
      | _ => false) && there s fun _ th => th.out.length == 1
    let ld := sent (.ld (plain 0 (.v 9) (.v 2) .none .none)) memState
    let st := sent (.st (plain 0 .none (.v 2) (.v 4) .none)) memState
    let buffered := st.modThread 2 0 fun th => { th with out := th.out.map fun ac => { ac with buffered := true } }
    let atom := sent (.atom (plain 0 (.v 9) (.v 2) (.v 1) .none)) memState
    let hit := sent (.cas (plain 0 (.v 9) (.v 2) (.v 1) (.v 4))) { memState with mem := [(0x40, 7)] }
    let miss := sent (.cas (plain 0 (.v 9) (.v 2) (.v 1) (.v 4))) memState
    let wideCas := sent (.cas (plain 0x200 (.v 8) (.v 2) (.v 4) (.v 6))) memState
    let leased (ct : DWord) : State := { ld with
      ct := [(0, ct)], l1 := [(0, [(1, { data := List.replicate 64 0x77, bad := [false, false], wts := 0, rts := 32 })])] }
    let held (ct : DWord) (f : Lease → Bool) : Bool := (leaseOf (leased ct) 0 1).any f
    (cached (.phys 0x40) == some 1 && (leaseOf ld 0 1).isNone && held 32 (fun x => decide ((maxD (ctOf (leased 32) 0) x.wts).toNat ≤ x.rts.toNat)) &&
      held 33 (fun x => decide (x.rts.toNat < (maxD (ctOf (leased 33) 0) x.wts).toNat)) &&
      (load (leased 32) 0 (.phys 0x40) 4).2.1 == [0x77, 0x77, 0x77, 0x77] && (load (leased 33) 0 (.phys 0x40) 4).2.1 != [0x77, 0x77, 0x77, 0x77]) = true ∧
    ([(0, false), (0x60, true)].all fun x => one (sent (.ld (plain x.1 (.v 9) (.v 2) .none .none)) memState) fun ac =>
      ac.op == .load (.v 9) 0 && ac.early.isNone && returnsData ac.op && ac.nol1 == x.2) = true ∧
    one st (fun ac => ac.op == .store [0xA5, 0, 0, 0] && !returnsData ac.op && isWrite ac.op) = true ∧
    one buffered (fun ac => ac.buffered) = true ∧ one atom (fun ac => ac.op == .atom (.v 9) 0 .i32 7 && ac.size == 4) = true ∧
    one hit (fun ac => ac.op == .cas (.v 9) false 7 0xA5 && leNat (readBytes hit ac.loc ac.size) == 7 % 2 ^ (8 * ac.size)) = true ∧
    one miss (fun ac => ac.op == .cas (.v 9) false 7 0xA5 && leNat (readBytes miss ac.loc ac.size) != 7 % 2 ^ (8 * ac.size)) = true ∧
    one wideCas (fun ac => ac.size == 8) = true := by decide
/-- A store to physical memory and one to the last word of the scratchpad. -/
theorem witness_StoreWritesItsBytes :
    let out (s : State) (f : Loc → Bool) : Bool := Memory.wf s && (match outOf s me with
      | [ac] => (match ac.op with
        | .store bs => bs.length == 4
        | _ => false) && (ownerOf s me ac.loc).isNone && !linkCut s ac.loc && f ac.loc
      | _ => false) && there s fun _ th => th.out.length == 1
    out (sent (.st (plain 0 .none (.v 2) (.v 4) .none)) memState) (fun l => l == .phys 0x40) = true ∧
    out (sent (.sts (plain 0 .none (.v 1) (.v 4) .none)) edgeState) (fun l => l == .scr 0 (2 ^ 19 - 4)) = true := by decide
theorem witness_SystemDrain :
    let synch : Args := plain 0 .none .none .none .none
    let w (n : Nat) : SysWrite := { core := 0, port := 0, seq := n, va := 0x40, pa := 0x40 }
    let owes (f : Thread → Thread) : State := place 1 (fun th => f { th with unacked := [w 1, w 2] }) id
    let toSystem : Copy := {
      tid := some 0, src := .phys 0x40, dst := .phys (2 * 2 ^ 48), srcVa := 0x40, dstVa := 0x80, size := 16, tag := none, glade := none,
      flag := none, epoch := 0, port := some 0, data := none }
    meets 1 0x08 synch (regs []) (fun c => drained c.team c.tid c.th) = true ∧
    meets 1 0x08 synch (owes id) (fun c => !drained c.team c.tid c.th) = true ∧
    meets 1 0x08 synch (regs []) (fun c => (systemCopies c.team c.tid).isEmpty && c.th.unacked.isEmpty) = true ∧
    meets 1 0x08 synch (owes id) (fun c => (systemCopies c.team c.tid).isEmpty && !c.th.unacked.isEmpty) = true ∧
    meets 1 0x08 synch (place 1 id fun t => { t with copies := [(3, toSystem)] }) (fun c => systemCopies c.team c.tid == [(3, toSystem)]) = true ∧
    there (owes fun th => { th with markers := [(0, 2), (1, 1)] }) (fun _ th => th.markers == [(0, 2), (1, 1)]) = true ∧
    there (regs []) (fun t th => th.unacked.isEmpty && gangPlaced (regs []) t) = true ∧
    there (owes id) (fun _ th => th.unacked == [w 1, w 2]) = true ∧
    there (waitsFor (.drain 8) id) (fun t th => th.wait == some (.drain 8) && drained t 0 th) = true ∧
    there { waitsFor (.tick 5 8) id with growth := 4 } (fun t th => t.resident && !t.retired && !t.dbgStop && th.wait == some (.tick 5 8) &&
      decide ((4 + 1 : DWord).toNat ≤ (5 : DWord).toNat)) = true ∧
    there { waitsFor (.tick 5 8) id with growth := 5 } (fun _ th => th.wait == some (.tick 5 8) &&
      decide ((5 : DWord).toNat < (5 + 1 : DWord).toNat)) = true := by decide

/-- Tag 3 with its largest count but one; a copy with a tag and a glade at offset 16. -/
theorem witness_CopyInstructions :
    let cp (m : BitVec 10) (z : Sel) : Args := plain m (.num 3) (.v 2) (.v 4) z
    let full : State := { place 1 (withV [(2, 0x80), (4, 0x40), (6, 16), (7, 0x80000000)]) (fun t =>
      { t with glades := [(16, {})], tags := [(3, { count := 4094 })] }) with scratch := [(16, 0x10), (18, 1)] }
    let w (m : DWord) : Bool := there (place 1 id fun t => { t with tags := [(3, { count := 1 })] }) fun t _ => !tagsClear t m
    let gl : State := place 1 (withV [(2, 16), (3, 0x80000000), (4, 8)]) fun t => { t with glades := [(16, {})] }
    meets 1 0x10 (cp 0xC0 (.v 6)) full (fun c => (copyGlade c.s c.key c.team (read64 c (.v 6)) true).isNone &&
      decide ((AMap.get {} c.team.tags 3).count < 4095) && !flagFull c.th (flagB c.th)) = true ∧
    landsAt full 0x40 4 ⟨true, false⟩ = some (.phys 0x40) ∧ landsAt full 0x80 4 ⟨false, true⟩ = some (.phys 0x80) ∧
    meets 1 0x10 (cp 0x80 .none) (place 1 (withV [(4, 2)]) id) (fun _ => true) = true ∧
    failsWith (place 1 (withV [(4, 2)]) id) 2 4 ⟨true, false⟩ = some (0x08, 2) ∧
    meets 1 0x11 (plain 0 .none (.v 2) .none .none) (regs [(2, 8)]) (fun c => tagsClear c.team 8) = true ∧ w 8 = true ∧ w 4 = false ∧
    meets 1 0x11 (plain 0 .none (.v 2) .none .none) (place 1 (withV [(2, 8)]) fun t => { t with tags := [(3, { count := 1 })] })
      (fun c => !tagsClear c.team (read64 c (.v 2))) = true ∧
    readyAll 1 (regs []) [(0x14, plain 0 (.v 8) (.v 2) .none .none), (0x13, plain 0 (.v 8) (.v 2) .none .none),
      (0x15, plain 0 .none .none .none .none)] = true ∧
    meets 1 0x12 (plain 0 .none (.v 2) (.v 4) .none) { gl with scratch := [(16, 0x10), (18, 1)] } (fun c =>
      (match gladeAddr c.s c.key c.team (read64 c (.v 2)) false with
        | .ok x => x == (c.key, c.team, 16, false)
        | .error _ => false) && (copyHazard c.team c.tid (winLoc c.team 16) 8 true).isNone && !locPoisoned c.s (winLoc c.team 16) 8 &&
      gUsable c.team 16 (gRead c.s c.team 16) false) = true ∧
    fullRecord.tags ≤ 64 := by decide
/-- The small state with a glade at offset 16 of the window, its word and RESID, and a thread whose v2:v3 is its address and v1 is 1. -/
def gladeWord (g : GWord) (resid : Nat) : State :=
  { place 1 (withV ((1, 1) :: windowPair 16)) (fun t => { t with glades := [(16, { resid := resid })] }) with
    scratch := cellsSet [] 16 (leBytes 8 (gEncode g)) }
/-- A usable word with these counts. -/
def gladeCounts (spend : Int) (apend : Nat) : GWord :=
  { hi := 0, rvx := false, faulted := false, remote := false, spend := spend, apend := apend, ainit := 2, phase := 0 }
/-- A copy that nothing comes before, in its two states, an arrival whose copies are done, and the copies of a core; a copy whose report leaves
the phase open, ends it, and passes SECT_PEND's range. -/
theorem witness_CopyEvents :
    let cp : Copy := { tid := some 0, src := .phys 0x40, dst := .phys 0x80, srcVa := 0x40, dstVa := 0x80, size := 4, tag := some 3, glade := none,
                       flag := some 2, epoch := 0, port := none, data := none }
    let s : State := place 1 (fun th => { th with f := [(2, 1)] }) fun t =>
      { t with copies := [(0, cp)], tags := [(3, { count := 1 })], arrivals := [(0, { glade := 0x8000000000000010, copies := [5] })] }
    let r : State := place 1 id fun t => { t with copies := [(0, { cp with data := some ([1, 2, 3, 4], false) })] }
    there s (fun t th => AMap.find t.copies 0 == some cp && t.resident && !copyBlocked t 0 cp && AMap.find t.threads 0 == some th) = true ∧
    there r (fun t _ => AMap.find t.copies 0 == some { cp with data := some ([1, 2, 3, 4], false) }) = true ∧
    there s (fun t _ => AMap.find t.arrivals 0 == some { glade := 0x8000000000000010, copies := [5] } && (AMap.find t.copies 5).isNone) = true ∧
    heldCopies s 0 = [(2, 0, cp)] ∧
    (heldCopies (place 1 id fun t => { t with copies := [(0, cp), (1, { cp with dst := .phys 0x90, dstVa := 0x90 })] }) 0).map (fun x => x.2.1) = [0, 1] ∧
    (let n (resid : Nat) : Nat := resid + cp.size / 4
     let state (x : Int × Nat × Nat) : State := gladeWord (gladeCounts x.1 x.2.1) x.2.2
     let reports (x : Int × Nat × Nat) (f : GWord → Int → Bool) : Bool := Memory.wf (state x) && there (state x) fun t _ => !t.retired &&
       (t.winBase + 16) % 16 == 0 && (let g := gRead (state x) t 16
         gUsable t 16 g false && !locPoisoned (state x) (winLoc t 16) 8 && f g (g.spend - (n x.2.2 / 8 : Nat)))
     (reports (0, 2, 0) fun g sp => decide (-(2 ^ 27 : Int) ≤ sp) && !(g.apend == 0 && sp == 0 && n 0 % 8 == 0)) &&
     (reports (1, 0, 7) fun g sp => sp == 0 && g.apend == 0 && n 7 % 8 == 0) && (reports (-(2 ^ 27), 2, 7) fun _ sp => decide (sp < -(2 ^ 27 : Int))) &&
     decide ((0x8000000000000010 : DWord).toNat = 0x800 * 2 ^ 52 + 16)) = true := by decide
/-- A glade that is not there, one that is quiet, and one that is not; those of a gang peer, which the gang may or may not reach. -/
theorem witness_GladeOperations :
    let here (off : Nat) (c : Ctx) : Bool := ([true, false].all fun p => match gladeAddr c.s c.key c.team (read64 c (.v 2)) p with
      | .ok x => x == (c.key, c.team, off, false)
      | .error _ => false) && (copyHazard c.team c.tid (winLoc c.team off) 8 true).isNone && !locPoisoned c.s (winLoc c.team off) 8
    let usable (c : Ctx) : Bool := here 16 c && gUsable c.team 16 (gRead c.s c.team 16) false && spendOk (gRead c.s c.team 16).spend
    let noGlade : State := regs ((1, 4095) :: windowPair 32)
    let two (opc : Nat) (a : Args) (p : Ctx → Bool) : Bool := meets 1 opc a (gladeState 2) p
    let g : GWord := { hi := 31, rvx := true, faulted := false, remote := true, spend := -(2 ^ 27), apend := 4095, ainit := 4095, phase := 15 }
    meets 1 0x18 (plain 0 .none (.v 2) (.v 1) .none) noGlade (fun c => here 32 c && (AMap.find c.team.glades 32).isNone &&
      decide (liveGlades c.s c.team.core < 256) && decide (1 ≤ (read32 c (.v 1)).toNat ∧ (read32 c (.v 1)).toNat ≤ 4095)) = true ∧
    two 0x18 (plain 0x100 .none (.v 2) .none .none) (fun c => here 16 c && gladeQuiet c.team c.key 16 (gRead c.s c.team 16) &&
      (copyHazard c.team c.tid (winLoc c.team 16) 16 true).isNone) = true ∧
    two 0x18 (plain 0 .none (.v 2) (.v 1) .none) (fun c => here 16 c && (AMap.find c.team.glades 16).isSome &&
      gladeQuiet c.team c.key 16 (gRead c.s c.team 16)) = true ∧
    ([0, 0x100].all fun m => meets 1 0x18 (plain m .none (.v 2) (if m = 0 then .v 1 else .none) .none) (gladeState 1) fun c => here 16 c &&
      (AMap.find c.team.glades 16).isSome && gWellFormed (gRead c.s c.team 16) && !(gRead c.s c.team 16).faulted &&
      !gladeQuiet c.team c.key 16 (gRead c.s c.team 16) && (copyHazard c.team c.tid (winLoc c.team 16) 16 true).isNone) = true ∧
    (let peer : Team := { someTeam { slot := 1 } with rank := 1, core := 1, glades := [(16, {})], lrec := { fullRecord with gsize := 2 } }
     let state (remote poisoned live : Bool) : State :=
       let s : State := place 1 (withV [(1, 1), (2, 0x80010), (3, 0x90000000)]) fun t => { t with lrec := { fullRecord with gsize := 2 } }
       { s with teams := s.teams ++ [(3, peer)], gangs := s.gangs.map fun p => (p.1, { p.2 with teams := [2, 3] }),
                poison := if poisoned then [2 * (2 ^ 19 / 32) + 1] else [],
                scratch := cellsSet [] (2 ^ 19 + 16) (leBytes 8 (gEncode { gladeCounts 0 2 with remote := remote, hi := if live then 0 else 31 })) }
     [(true, false, true), (true, true, true), (true, false, false), (false, true, true), (false, false, true)].all fun r => [(0x19, plain 0 .none (.v 2) (.v 1) .none), (0x1B, plain 0x200 .none (.v 2) (.v 1) .none)].all fun o =>
       meets 1 o.1 o.2 (state r.1 r.2.1 r.2.2) fun c => (match gladeAddr c.s c.key c.team (read64 c (.v 2)) true with
         | .ok x => x == (3, peer, 16, true)
         | .error _ => false) && (copyHazard c.team c.tid (winLoc peer 16) 8 true).isNone && locPoisoned c.s (winLoc peer 16) 8 == r.2.1 &&
         (let g := gRead c.s peer 16
          gUsable peer 16 g false == r.2.2 && g.remote == r.1 && spendOk (g.spend + 1) && decide (1 ≤ g.apend) && c.team.copies.isEmpty)) = true ∧
    two 0x19 (plain 0 .none (.v 2) (.v 1) .none) (fun c => usable c && spendOk ((gRead c.s c.team 16).spend + 1)) = true ∧
    two 0x1A (plain 0x200 (.v 9) (.v 2) (.v 1) (.v 4)) (fun c => usable c && decide (1 ≤ (gRead c.s c.team 16).apend)) = true ∧
    two 0x1B (plain 0x200 .none (.v 2) (.v 1) .none) (fun c => usable c && c.team.copies.isEmpty) = true ∧
    two 0x1C (plain 0 .none (.v 2) (.v 4) .none) (fun c => usable c && (gRead c.s c.team 16).phase == 0) = true ∧
    two 0x1C (plain 0 .none (.v 2) (.v 1) .none) (fun c => usable c && (gRead c.s c.team 16).phase != 1) = true ∧
    two 0x1D (plain 0 (.num 1) (.v 2) (.v 1) .none) usable = true ∧
    ([(0x19, plain 0 .none (.v 2) (.v 1) .none), (0x1A, plain 0 (.v 9) (.v 2) (.v 1) .none), (0x1B, plain 0 .none (.v 2) (.v 1) .none),
      (0x1C, plain 0 .none (.v 2) (.v 4) .none), (0x1D, plain 0 (.num 1) (.v 2) (.v 1) .none)].all fun o =>
        meets 1 o.1 o.2 noGlade (fun c => here 32 c && !gUsable c.team 32 (gRead c.s c.team 32) false) &&
        meets 1 o.1 o.2 { gladeState 2 with poison := [1] } fun c => ([true, false].all fun p => match gladeAddr c.s c.key c.team (read64 c (.v 2)) p with
            | .ok x => x == (c.key, c.team, 16, false)
            | .error _ => false) && (copyHazard c.team c.tid (winLoc c.team 16) 8 true).isNone && locPoisoned c.s (winLoc c.team 16) 8) = true ∧
    there (waitsFor (.glade 0x8000000000000010 2 16 0 8) id) (fun t th => AMap.find t.threads 0 == some th &&
      th.wait == some (.glade 0x8000000000000010 2 16 0 8)) = true ∧
    (g.hi < 32 ∧ g.phase < 16 ∧ g.ainit < 4096 ∧ g.apend < 4096 ∧ spendOk g.spend = true) := by decide
/-- A barrier's first arrival of 1024, its only one, the middle one of three, and its last of two; those it turns away; what a handler's thread
has left of a BARS. -/
theorem witness_TeamBarriers :
    let two : Team → Team := fun t => { t with barriers := [(3, { opened := true, n := 2, arr := 1 })] }
    let seen (c : Ctx) : Option Team := (touchBarrier c.s c.key 3).team? c.key
    let arrives (c : Ctx) : Bool := (seen c).any fun t0 => (arriveBarrier t0 0 3 (read32 c (.v 1)).toNat false).isSome
    let stays (c : Ctx) : Bool := match (seen c).bind fun t0 => arriveBarrier t0 0 3 (read32 c (.v 1)).toNat false with
      | some (t, tok) => (AMap.get {} t.barriers 3).phase == tok
      | none => false
    let own (c : Ctx) : Bool := c.s.team? c.key == some c.team && decide ((AMap.get {} c.team.barriers 3).time.toNat < 2 ^ 64 - 1)
    (ctxOf (regs [])).map own = some true ∧
    let bara : Args := plain 0 (.v 9) (.num 3) (.v 1) .none
    let bars : Args := plain 0 .none (.num 3) (.v 1) .none
    meets 1 0x20 bara (regs [(1, 1024)]) arrives = true ∧
    meets 1 0x22 bars (regs [(1, 1024)]) (fun c => arrives c && (keptHere c.th).isNone && stays c) = true ∧
    meets 1 0x22 bars (place 1 (withV [(1, 2)]) two) (fun c => arrives c && (keptHere c.th).isNone && !stays c) = true ∧
    ([0, 1025].all fun n => meets 1 0x20 bara (regs [(1, n)]) (fun c => (seen c).isSome && !arrives c) &&
      meets 1 0x22 bars (regs [(1, n)]) (fun c => (keptHere c.th).isNone && (seen c).isSome && !arrives c)) = true ∧
    meets 1 0x21 (plain 0 .none (.num 3) (.v 1) .none) (regs [(1, 1)]) (fun c => (AMap.get {} c.team.barriers 3).phase != (read32 c (.v 1)).truncate 4) = true ∧
    meets 1 0x21 (plain 0 .none (.num 3) (.v 1) .none) (regs []) (fun c => (AMap.get {} c.team.barriers 3).phase == (read32 c (.v 1)).truncate 4) = true ∧
    ([none, some (.value 0)].all fun r => meets 1 0x22 bars (place 1 (fun th => { th with kept := [⟨8, .barrier 3 0 true 8, r⟩] }) id) fun c =>
      keptHere c.th == some ⟨8, .barrier 3 0 true 8, r⟩) = true ∧
    (let b (x : Barrier) (retired : Bool) : Team :=
       { someTeam (someThread 1) with barriers := [(3, x)], stream := { retired := retired } }
     let arr (t : Team) (n : Nat) (u : Bool) : Bool := (arriveBarrier t 0 3 n u).isSome
     let last (t : Team) (n : Nat) (u : Bool) : Bool := let x := AMap.get {} t.barriers 3
       x.arr + 1 == n && (!u || x.uarr)
     let open' (n arr : Nat) (u : Bool) : Barrier := { opened := true, n := n, u := u, arr := arr }
     ([(b {} false, 0, false), (b {} false, 1025, true), (b (open' 2 1 false) false, 3, false), (b (open' 2 1 false) false, 2, true),
       (b { uarr := true } false, 1, false), (b {} true, 1, true)].all fun x => !arr x.1 x.2.1 x.2.2) = true ∧
     ([(b {} false, 1024, false), (b {} false, 1, true), (b (open' 3 1 false) false, 3, false)].all fun x =>
       arr x.1 x.2.1 x.2.2 && !last x.1 x.2.1 x.2.2) = true ∧
     ([(b {} false, 1, false), (b { uarr := true } false, 1, true), (b (open' 2 1 false) false, 2, false)].all fun x =>
       arr x.1 x.2.1 x.2.2 && last x.1 x.2.1 x.2.2) = true) ∧
    (let t (th : Thread) : Team := { two (someTeam th) with threads := [(0, th)] }
     let kept : Thread := { someThread 1 with kept := [⟨16, .barrier 3 1 true 8, none⟩, ⟨8, .barrier 3 0 true 8, none⟩] }
     [{ someThread 1 with wait := some (.barrier 3 0 false 8) }, kept, someThread 1].all fun th => AMap.find (t th).threads 0 == some th &&
       (AMap.get {} (t th).barriers 3).phase == 0) = true := by decide
/-- The RVX that begins a phase, one that joins it, one that completes it, and the ones that its glade turns away; what a handler's thread has left
of an RVX; the participants of a phase. -/
theorem witness_ValueExchange :
    let rvx : Args := plain 0x40 (.v 9) (.v 1) (.v 2) .none
    let bcast : Args := plain 0 (.v 9) (.v 1) (.v 2) (.v 1)
    let own (c : Ctx) : Bool := (keptHere c.th).isNone && (match gladeAddr c.s c.key c.team (read64 c (.v 2)) false with
      | .ok x => x == (c.key, c.team, 16, false)
      | .error _ => false) && (copyHazard c.team c.tid (winLoc c.team 16) 8 true).isNone
    let whole (c : Ctx) : Bool := own c && !locPoisoned c.s (winLoc c.team 16) 8
    let usable (c : Ctx) : Bool := gUsable c.team 16 (gRead c.s c.team 16) true
    let opens (c : Ctx) : Bool := let g := gRead c.s c.team 16
      !g.rvx && g.apend == g.ainit && g.spend == 0 && (AMap.get {} c.team.glades 16).resid == 0
    let joins (op x : Nat) (c : Ctx) : Bool := let g := gRead c.s c.team 16; let gl : Glade := AMap.get {} c.team.glades 16
      g.rvx && decide (1 ≤ g.apend) && gl.op == op && gl.ty == 0 && ((op != 0 && op != 7) || gl.c == read32 c (if x = 0 then .none else .v 1))
    let begun (p op : Nat) (w : Word) (who : Nat) : State := { place 1 (withV ((1, 1) :: windowPair 16)) (fun t => { t with
      glades := [(16, { op := op, shares := [{ tid := who, a := 5, c := 0 }], c := w })] }) with
      scratch := cellsSet [] 16 (leBytes 8 (gEncode { gladeCounts 0 p with rvx := true })) }
    let poisoned : State := { gladeState 2 with poison := [1] }
    let share : Share := { tid := 0, a := 1, c := 0 }
    meets 1 0x23 rvx poisoned (fun c => own c && locPoisoned c.s (winLoc c.team 16) 8) = true ∧
    ([regs ((1, 1) :: windowPair 16), gladeState 1, begun 0 1 0 1, begun 1 2 0 1].all fun s => meets 1 0x23 rvx s fun c =>
      whole c && (!usable c || !(opens c || joins 1 0 c))) = true ∧
    meets 1 0x23 bcast (begun 1 0 0 1) (fun c => whole c && usable c && !opens c && !joins 0 1 c) = true ∧
    meets 1 0x23 rvx (gladeState 2) (fun c => whole c && usable c && opens c) = true ∧
    meets 1 0x23 bcast (begun 1 0 1 1) (fun c => whole c && usable c && joins 0 1 c) = true ∧
    meets 1 0x23 rvx (begun 1 1 0 1) (fun c => whole c && usable c && joins 1 0 c && (let g := gRead c.s c.team 16
      g.apend == 1 && g.spend == 0) && (AMap.get {} c.team.glades 16).resid == 0 &&
      ((AMap.get {} c.team.glades 16).shares.all fun y => y.tid != c.tid)) = true ∧
    ([none, some (.value 6), some .faulted].all fun r => meets 1 0x23 rvx (place 1 (fun th => { th with kept := [⟨0x40, .nap 5 8, none⟩, ⟨8, .exchange 0x8000000000000010 16 0 (.v 9) 8, r⟩] }) id)
      fun c => keptHere c.th == some ⟨8, .exchange 0x8000000000000010 16 0 (.v 9) 8, r⟩) = true ∧
    (let kept : Kept := ⟨8, .exchange 0x8000000000000010 16 0 (.v 9) 8, none⟩
     [none, some (Wait.glade 0x8000000000000010 2 16 0 8)].all fun w => there (place 1 (fun th => { th with wait := w, kept := [kept] }) id)
       fun t th => AMap.find t.threads 0 == some th && th.wait == w) = true ∧
    there (waitsFor (.exchange 0x8000000000000010 16 0 (.v 9) 8) id) (fun t th => AMap.find t.threads 0 == some th &&
      th.wait == some (.exchange 0x8000000000000010 16 0 (.v 9) 8) && ([share].find? fun x => x.tid == 0) == some share) = true ∧
    (let p (tid : Nat) (c : Word) : Share := { tid := tid, a := 5, c := c }
     let all := [p 0 0, p 31 31, p 32 1023]
     (all.map Share.tid).Nodup ∧ (p 31 31).tid = (31 : Word).toNat ∧ (∀ y ∈ all, y.tid ≠ (1023 : Word).toNat) ∧ (∀ y ∈ all, y.tid ≠ (30 : Word).toNat) ∧
     (31 : Word).toNat ≤ 31 ∧ 31 < (32 : Word).toNat ∧ 0 < 1) := by decide
/-- An exchange that waits among the kept ones, beside one that has its result; a wait to be kept. -/
theorem witness_ValueExchange_kept :
    let w : Wait := .exchange 0x8000000000000010 16 0 (.v 9) 8
    let th : Thread := { someThread 1 with wait := some w, kept := [⟨8, w, none⟩, ⟨16, w, some (.value 6)⟩, ⟨24, .nap 5 8, none⟩] }
    (th.kept[0]?.map fun r => (r.wait, r.result)) = some (w, none) ∧ (th.kept[1]?.map Kept.result) = some (some (.value 6)) ∧
    (th.kept[2]?.map Kept.wait) = some (.nap 5 8) ∧ keptOf th = some w ∧ keptOf { th with wait := none } = none := by decide

/-- The last arrival has the value at once: R218's sum of three shares in the order of their thread numbers. -/
theorem test_rvx_completes : outV (exec (.rvx (plain 0x40 (.v 9) (.v 1) (.v 2) .none)) { place 1 (withV ((1, 1) :: windowPair 16)) (fun t => { t with
    glades := [(16, { op := 1, shares := [{ tid := 1, a := 5, c := 0 }], c := 0 })] }) with
    scratch := cellsSet [] 16 (leBytes 8 (gEncode { gladeCounts 0 1 with rvx := true })) }) 9 = some 6 := by decide

/-- A thread with no copies of its own, and one with a copy; a stopped thread that CR.HSEL names, and none; tags that copies count and that a
fault has set. -/
theorem witness_ControlRegisters :
    (let crs := [(0xE0, plain 0x10 (.v 9) .none .none .none), (0xE1, plain 0x13 .none (.v 2) .none .none)]
     (crs.all fun x => meets 1 x.1 x.2 (regs []) fun c => c.team.copies.all fun p => p.2.tid != some c.tid) &&
       crs.all fun x => meets 1 x.1 x.2 (copied.modThread 2 0 fun th => { someThread 2 with slot := th.slot }) fun c =>
         (c.team.copies.find? fun p => p.2.tid == some c.tid).isSome) = true ∧
    (let tagged := place 1 id fun t => { t with lrec := { fullRecord with tags := 4 }, tags := [(2, { count := 1 }), (3, { fault := true })] }
     (match ctxOf tagged with
       | some c => (c.s.teams.all fun p => p.2.resident && !p.2.retired && p.2.core == c.team.core && p.2.lrec.tags == 4 && p.2.tagBase == 0 &&
           (AMap.get {} p.2.tags 2).count != 0 && (AMap.get {} p.2.tags 3).fault) && crRead c 0x030 == 4 && crRead c 0x031 == 8
       | none => false) = true) ∧
    (let halt : Halt := { team := 2, tid := 0, targets := [(2, some 1)], complete := true }
     let s (sel : Word) : State := { place 1 (fun th => { withV [(255, 7)] th with cr := { hsel := sel } }) (fun t => { t with
       lrec := { fullRecord with gsize := 1 }, threads := t.threads ++ [(1, { withV [(255, 9)] (someThread 1) with slot := 1 })] }) with halts := [halt] }
     let stands (s : State) : List Nat := (s.teams.map fun p => (p.2.threads.filter fun x =>
       p.2.resident && ((ctxOf s).map fun c => x.2.slot == c.th.cr.hsel.toNat / 65536) == some true && hasStopped s p.1 x.1 x.2).map Prod.fst).flatten
     (stands (s 0x100FF), stands (s 0xFF)) = ([1], []) ∧ ((ctxOf (s 0x100FF)).map fun c => crRead c 0x033) = some 9) ∧
    ([0x0006, 0xFFFF].all fun n => meets 1 0xE7 (plain 0 (.v 8) (.v 1) .none .none) (regs [(1, n)])
      (fun c => !perfExists ((read32 c (.v 1)).toNat % 65536))) = true ∧
    ([0x000, 0x100, 0x200, 0x300, 0x400, 0x500].all fun n => meets 1 0xE7 (plain 0 (.v 8) (.v 1) .none .none) (regs [(1, n)])
      (fun c => [0x000, 0x100, 0x200, 0x300, 0x400, 0x500].contains ((read32 c (.v 1)).toNat % 65536))) = true ∧
    ([0x1000, 0x790F].all fun n => meets 1 0xE7 (plain 0 (.v 8) (.v 1) .none .none) (regs [(1, n)]) (fun c =>
      perfExists ((read32 c (.v 1)).toNat % 65536) && decide (0x1000 ≤ (read32 c (.v 1)).toNat % 65536))) = true ∧
    (match ctxOf (regs []) with
      | some c => decide (c.team.vd < 256 ∧ (c.s.vd c.team.vd).part < 4 ∧ c.s.team? c.key = some c.team ∧ c.s.thread? c.key c.tid = some c.th)
      | none => false) = true := by decide
/-- A CSRW of CR.EVEC beside a team of another grid, and the node of its own. -/
theorem witness_ControlRegisters_grid :
    let nd : Node := { state := .draining, lrec := {}, image := none, since := 0 }
    let s : State := { place 1 id (fun t => { t with launch := 0, node := 0 }) with
      launches := [(0, { queue := 4, vd := 0, grid := 1, tag := 7, graph := 0, nodes := [(0, nd)] }),
                   (1, { queue := 4, vd := 0, grid := 2, tag := 7, graph := 0, nodes := [] })] }
    let s1 := s.setTeam 3 { someTeam (someThread 1) with launch := 1, node := 0 }
    there s1 (fun t _ => (AMap.find s1.launches t.launch).any (fun l => AMap.find l.nodes t.node == some nd) && (AMap.find s1.launches 1).isSome &&
      (s1.team? 3).any fun u => u.launch != t.launch) = true := by decide

/-- The last address of the range and the first beyond it; a shootdown whose translation is held by a copy. -/
theorem witness_TranslationShootdown :
    let inv (m : BitVec 10) : Args := plain m .none (.v 2) .none .none
    let page : Trans := { vd := 0, va := 0, lg := 16, frame := 0, r := true, w := true, x := true, home := 0, pin := 0 }
    let shot (s : State) : State := { s with shoot := [{ team := 2, tid := 0, old := page }] }
    let held : State := shot (copied.modThread 2 0 fun _ => someThread 1)
    meets 1 0xE5 (plain 3 .none .none .none .none) (regs []) (fun _ => true) = true ∧
    meets 1 0xE5 (inv 0) (place 1 (withV [(2, 0xFFFFFFFF), (3, 0xFFFFF)]) id) (fun c => decide ((read64 c (.v 2)).toNat < 2 ^ 52)) = true ∧
    meets 1 0xE5 (inv 0) (place 1 (withV [(3, 0x100000)]) id) (fun c => decide (2 ^ 52 ≤ (read64 c (.v 2)).toNat)) = true ∧
    meets 1 0xE6 (plain 0 .none .none .none .none) (shot (regs [])) (fun c => c.s.shoot.all fun h => !stillHeld c.s h.old) = true ∧
    meets 1 0xE6 (plain 0 .none .none .none .none) held (fun c =>
      c.s.shoot.any fun h => h.team == c.key && h.tid == c.tid && stillHeld c.s h.old) = true ∧
    (page.vd = 0 ∧ page.va = 0xFFFF / 2 ^ page.lg * 2 ^ page.lg ∧ page.vd ≠ 1) := by decide
theorem witness_FaultRecord : there (place 1 (fun th => { th with arch := { th.arch with clause := { th.arch.clause with aflag := some 2, bflag := some 11 } } }) id)
      (fun _ th => !isLive th && !(0x02 == 0x03 && th.arch.mode) && th.arch.clause.aflag.isSome && th.arch.clause.bflag.isSome) = true ∧
    there userState (fun _ th => !isLive th && !(0x03 == 0x03 && th.arch.mode) && th.arch.clause.aflag.isNone && th.arch.clause.bflag.isNone) = true ∧
    (3 : BitVec 8).toNat < 4 := by decide
/-- A live record in a gang whose node runs; a port with room in its event ring, and one without. -/
theorem witness_DoubleFault :
    let s : State := { handlerState with launches := [(0, { queue := 4, vd := 0, grid := 1, tag := 7, graph := 3, nodes := [(0, { state := .draining })] })] }
    let port (tail : Word) : Port := { owner := true, evsize := 64, evtail := tail }
    there s (fun t th => isLive th && t.gang == 1) = true ∧ ((s.gang? 1).map fun g => (g.launch, g.node, g.teams)) = some (0, 0, [2]) ∧
    (((AMap.find s.launches 0).bind fun x => AMap.find x.nodes 0).map fun nd => nd.state != .done && nd.ending.isNone) = some true ∧
    there (regs []) (fun _ th => !isLive th && th.arch.mode) = true ∧
    (let s (tail : Word) : State := { ports := [(5, port tail)] }
     (s 62).ports = [(5, port 62)] ∧ (port 62).notices = [] ∧ ringRoom (port 62) = true ∧ ringRoom (port 63) = false) ∧
    (let ports := [(5, port 62), (6, port 63), (7, { port 62 with owner := false })]
     (ports.map Prod.fst).Nodup ∧ (ports.all fun x => !x.2.owner || x.2.notices.isEmpty) = true) ∧
    1 < 256 := by decide
theorem witness_TrapAndReturn : readyAll 1 userState [(0xE2, plain 5 .none (.v 2) .none .none)] = true ∧
    readyAll 1 handlerState [(0xE3, plain 0 .none .none .none .none)] = true ∧ there userState (fun _ th => th.arch.pc == 8 && !th.arch.clause.loose &&
      th.arch.clause.stop != th.arch.pc) = true := by decide
/-- A HALTT that is new, whose targets stand and of which one is inside an expansion; one that has begun, in both cases. -/
theorem witness_HaltsAndBreakpoints :
    let attached : State := { regs [] with vds := [(0, { dbgctl := true })] }
    let h : Halt := { team := 2, tid := 0, targets := [(2, none)], complete := true }
    let own : Halt := { team := 2, tid := 0, pc := 8, targets := [(2, none), (2, some 1)] }
    let inside (past waits : Bool) (l : List Halt) : State := { place 1 id (fun t => { t with threads := t.threads ++ [(1, { someThread 1 with
      slot := 1, wait := if waits then some (.nap 5 8) else none,
      expansion := some { ops := [], len := 1, saved := {}, stores := [], checked := true, committed := past } })] }) with halts := l }
    let begun (c : Ctx) (h : Halt) : Bool := h.team == c.key && h.tid == c.tid && h.pc == c.th.arch.pc && h.scope == 0 && !h.complete
    meets 1 0xE8 (plain 3 .none .none .none .none) (regs []) (fun c => !(c.s.vd c.team.vd).dbgctl) = true ∧
    meets 1 0xE8 (plain 3 .none .none .none .none) attached (fun c => (c.s.vd c.team.vd).dbgctl) = true ∧
    ([({ regs [] with halts := [h] }, false), (inside true true [h], false), (inside true false [], true), (inside false true [], true)].all fun x =>
      meets 1 0xE9 (plain 0 .none .none .none .none) x.1 fun c => (c.s.halts.all fun h => !begun c h) &&
        (haltTargets c 0).any (stillRuns c.s) == x.2) = true ∧
    ([(inside true true [h, own], false), (inside true false [own], true)].all fun x => meets 1 0xE9 (plain 0 .none .none .none .none) x.1 fun c =>
      c.s.halts.find? (begun c) == some own && own.targets.any (stillRuns c.s) == x.2) = true ∧
    meets 1 0xE9 (plain 3 .none .none .none .none) (regs []) (fun _ => true) = true ∧
    h ∈ [h] ∧ (2, none) ∈ h.targets := by decide
theorem witness_UniformArithmetic :
    let k (s : State) (l : List (Nat × Args)) : Bool := l.all fun x => kmeets x.1 x.2 false s fun _ => true
    let o : Args := plain 0 (.k 1) (.k 2) (.k 3) .none
    k (stream 1 [] id) [(0x00, o), (0x01, o), (0x02, o), (0x03, o), (0x04, o), (0x05, o), (0x06, o), (0x07, o),
      (0x08, plain 0 (.k 1) (.k 2) .none .none), (0x09, plain 0 (.k 1) (.imm 5) .none .none), (0x0C, plain 0 (.num 3) (.k 2) (.imm 9) .none)] = true := by
  decide
/-- An access of the stream in page 0; barriers whose arrival completes a phase, opens one, and is turned away; a flag at its limit and
above it. -/
theorem witness_UniformControl :
    let kld : Args := plain 0 (.k 1) (.k 2) .none .none
    let kst : Args := plain 0 .none (.k 2) (.k 3) .none
    let s : State := stream 1 [(2, 0x40)] id
    let wait : Args := plain 0 .none (.num 2) (.imm 1) .none
    let bar (m : BitVec 10) : Args := plain m .none (.num 1) .none .none
    let b (x : Barrier) : State := stream 1 [] fun t => { t with barriers := [(1, x)] }
    let bad (t : Team) : Bool := ((AMap.get {} t.barriers 1).opened && !(AMap.get {} t.barriers 1).u) || (AMap.get {} t.barriers 1).uarr
    let moves (t : Team) : Bool := let x : Barrier := AMap.get {} t.barriers 1
      let mark : KMark := { no := t.kbars + 1, k := t.k }
      (AMap.get {} (tryRelease { t with kbars := mark.no, kold := t.kold ++ [{ b := 1, mark := mark }] } 1
        { x with uarr := true, marks := AMap.set x.marks x.phase.toNat mark }).barriers 1).phase != x.phase
    let clear (t : Team) : Bool := t.running.isNone && t.granted.isEmpty
    kmeets 0x0A kld false s (fun t => clear t && !kflagFull t t.stream.clause.aflag) = true ∧
    kmeets 0x0B kst false s (fun t => clear t && !kflagFull t t.stream.clause.bflag) = true ∧
    there s (fun t _ => match resolve s t false 0x40 8 ⟨true, false⟩, resolve s t false 0x40 8 ⟨false, true⟩ with
      | .ok l, .ok m => l == .phys 0x40 && m == .phys 0x40
      | _, _ => false) = true ∧
    kmeets 0x10 (ext (plain 0 .none .none .none .none) 64) false (stream 2 [] id) (fun _ => true) = true ∧
    kmeets 0x11 (ext (plain 0 (.k 1) .none .none .none) 64) false (stream 2 [] id) (fun _ => true) = true ∧
    kmeets 0x12 (plain 0 .none (.k 2) .none .none) false s (fun t => kread s t (.k 2) == 0x40) = true ∧
    kmeets 0x12 (plain 0 .none (.k 2) .none .none) false (stream 1 [(2, 0x41)] id) (fun t => (kread s t (.k 2)).toNat % 8 != 0) = true ∧
    kmeets 0x13 (bar 0) false s (fun t => !bad t) = true ∧
    kmeets 0x13 (bar 0x200) false (b { opened := true, n := 1, u := true, arr := 1 }) (fun t => !bad t && moves t) = true ∧
    kmeets 0x13 (bar 0x200) false s (fun t => !bad t && !moves t) = true ∧
    ([{ opened := true, n := 2, u := false, arr := 1 }, { uarr := true }].all fun x => kmeets 0x13 (bar 0) false (b x) bad) = true ∧
    ([(1, true), (2, false)].all fun x => kmeets 0x14 wait false (stream 1 [] fun t => { t with kf := [(2, x.1)] }) fun t =>
      decide (AMap.get 0 t.kf 2 ≤ (kread s t (.imm 1)).toNat) == x.2) = true ∧
    kmeets 0x16 (plain 0 .none .none .none .none) false s (fun t => t.kf.isEmpty && t.bulk.isEmpty && t.running.isNone && t.matrix.isEmpty &&
      t.barriers.isEmpty) = true ∧
    (let open' : Barrier := { opened := true, n := 2, u := true, arr := 1 }
     kmeets 0x16 (plain 0 .none .none .none .none) false (stream 1 [] fun t => { t with barriers := [(0, {}), (1, open'), (5, open')] }) fun t =>
       t.kf.isEmpty && t.bulk.isEmpty && t.running.isNone && t.matrix.isEmpty && t.barriers == [(0, ({} : Barrier))] ++ (1, open') :: [(5, open')]) = true ∧
    (let mark (no : Nat) : KMark := { no := no, k := [(0, BitVec.ofNat 64 no)] }
     let v (b no : Nat) (seen : List (Nat × KMark)) : KView := { b := b, mark := mark no, seen := seen }
     let views := [v 1 1 [], v 3 2 [(0, mark 3)], v 3 4 []]
     let t : Team := { someTeam (someThread 1) with kold := views, barriers := [(1, { who := [0] }), (2, { marks := [(15, mark 3)] })] }
     let past (x : KView) : Bool := (AMap.get {} t.barriers x.b).who.contains 0
     views.map past == [true, false, false] && [v 1 1 []].all past && AMap.find (AMap.get {} t.barriers 2).marks (15 : BitVec 4).toNat == some (mark 3) &&
       decide (1 < 3 ∧ 3 ≤ 3 ∧ 3 ≤ 4) && t.stream.retired) = true := by decide
/-- A thread that waited for the phase of a later KBAR reads K as that KBAR left it until it arrives on the first one's barrier (R36). -/
theorem test_k_as_a_later_kbar_left_it :
    let th := someThread 1
    let t0 : Team := { someTeam th with k := [(0, 7)], stream := { retired := false } }
    let t1 := arriveKbar t0 1
    let t2 := arriveKbar { t1 with k := [(0, 8)] } 2
    let t3 := { t2 with k := [(0, 9)] }
    (AMap.get 0 (kFor t3 0) 0, AMap.get 0 (kFor (seesPhase t3 0 2 0) 0) 0) = (7, 8) := by decide
/-- A queue with room for one more, and one that is full. -/
theorem witness_PostedCommands :
    let c : PCmd := { op := .mrel (plain 0 .none .none .none .none), addr := 8, d := 0, a := 0, b := 0, c := 0, guard := true, flag := none }
    let q (n : Nat) : State := stream 1 [] fun t => { t with matrix := List.replicate n c }
    let n : Args := plain 0 .none .none .none .none
    let one : Args := plain 0 .none (.k 2) .none .none
    let two : Args := plain 0 .none (.k 2) (.k 3) .none
    let room (t : Team) : Bool := decide (t.matrix.length < 16) && !kflagFull t t.stream.clause.bflag && !kflagFull t t.stream.clause.aflag
    kmeets 0x15 (plain 0 (.k 2) (.k 3) (.k 4) .none) true (stream 1 [] fun t => { t with bulk := List.replicate 15 c })
      (fun t => decide (t.bulk.length + (if t.running.isSome then 1 else 0) < 16) && !kflagFull t t.stream.clause.bflag) = true ∧
    kmeets 0x15 (plain 0 (.k 2) (.k 3) (.k 4) .none) true
      (stream 1 [] fun t => { t with bulk := List.replicate 14 c, running := some { cmd := c, row := 0, unit := 0 } })
      (fun t => decide (t.bulk.length + (if t.running.isSome then 1 else 0) < 16) && !kflagFull t t.stream.clause.bflag) = true ∧
    ([(0x20, n), (0x21, n), (0x22, n), (0x23, two), (0x24, one), (0x25, two), (0x26, two), (0x27, two), (0x28, one),
      (0x29, plain 0 (.k 1) .none .none .none)].all fun x => kmeets x.1 x.2 true (q 15) room) = true ∧
    kmeets 0x25 two true (q 16) (fun t => decide (16 ≤ t.matrix.length)) = true := by decide

/-- Commands of the matrix queue at its head: their guard false, of each kind, and in the array. -/
def cmd (i : Args → Instr) (m : BitVec 10) : PCmd :=
  { op := i (plain m .none (.k 2) (.k 3) .none), addr := 8, d := 0, a := 0x100, b := 4, c := 0, guard := true, flag := none }
def queued (c : PCmd) (g : Team → Team) : State := stream 1 [] fun t => g { t with matrix := [c], tiles := [(0, {})] }
theorem witness_QueueAndMatrixEvents :
    let head (s : State) (f : Team → PCmd → Bool) : Bool := match s.team? 2 with
      | some t => match t.matrix with
        | c :: _ => f t c
        | [] => false
      | none => false
    let ready (s : State) (f : Team → PCmd → Bool) : Bool := head s fun t c => c.guard && matrixHeadReady s t && f t c
    let zero := cmd .mzero 0x020
    let mma : PCmd := { cmd .mma 0 with checked := true }
    let idle : PCmd := { zero with guard := false }
    let e : Entry := { cmd := zero, since := 0 }
    let granted := queued zero fun t => { t with matrix := [], granted := [(.array, zero)] }
    there (stream 1 [] fun t => { t with bulk := [idle], matrix := [idle] }) (fun t _ => t.resident && t.bulk == [idle] && t.matrix == [idle] && !idle.guard) = true ∧
    (ready (queued (cmd .mzero 0x040) id) fun t c => match headCheck (queued (cmd .mzero 0x040) id) t c with
      | .error x => x.2 == (0x18, 1)
      | .ok _ => false) = true ∧
    (let others (s : State) (core : Nat) : Bool := (teamsIn s (clusterOf core)).all fun p => p.2.entry.all fun x => unitOf x.cmd != some .array
     let idle (s : State) (core : Nat) : Bool := (teamsIn s (clusterOf core)).all fun p => p.2.granted.all fun g => g.1 != .array
     [queued zero id, granted].all fun s => there s fun t _ => t.resident && !t.retired && t.entry.isNone && unitOf zero == some .array &&
       others s t.core && idle s t.core == t.granted.isEmpty) = true ∧
    ready (queued (cmd .macq 0x040) id) (fun t _ => !t.tiles.isEmpty) = true ∧
    ready (queued (cmd .mscl 0) id) (fun _ _ => true) = true ∧ ready (queued (cmd .mrel 0) id) (fun t c => (cmdTiles c).all (tileHeld t)) = true ∧
    ready (queued zero id) (fun t _ => tileHeld t 0 && t.stream.wait.isNone) = true ∧
    (nextMacq (queued { cmd .macq 0x040 with checked := true } id) 0).isSome = true ∧
    head (queued mma id) (fun t c => t.resident && c.checked && (scalePlaces t c 0 0).isEmpty) = true ∧
    (let scaled : PCmd := { mma with held := [pageRwx] }
     let s : State := { queued scaled fun t => { t with
       scales := { sba := 0x40, sbb := 0x40, spa := 0, spb := 0 }, lrec := { fullRecord with fsl := [0x4515] } } with poison := [sectorKey (.phys 0x40)] }
     head s fun t c => t.resident && c.checked && (scalePlaces t c 0 0).head?.any fun ea =>
       (engineRead s t (scaleCache t) c.held ea 1 1).2.2 == some ea) = true ∧
    ([KWait.flag 1 0 8, .barrier 1 0 8].all fun w => there (stream 2 [] fun t => { t with stream := { t.stream with wait := some w } })
      fun t _ => t.stream.wait == some w && t.stream.pc + 8 != t.stream.clause.stop) = true ∧
    head (queued { cmd .mstat 0 with checked := true } id) (fun t c => t.resident && c.checked) = true ∧
    ((nextEntry (queued zero fun t => { t with entry := some e }) 0 .array).map fun x => x.2.2) = some e ∧
    there { queued zero (fun t => { t with entry := some e }) with cycle := 4096 } (fun t _ => t.entry == some e && decide (e.since + 4096 ≤ 4096)) = true ∧
    unitTeam granted 0 .array = some 2 ∧ (let s := queued zero fun t => { t with granted := [(.drain, cmd .mdrain 0)] }
      unitTeam s 0 .drain = some 2 ∧ there s (fun t _ => t.granted.any fun g => g.1 == .drain) = true) ∧
    (e.aged = false ∧ 4095 < e.since + 4096 ∧ e.since + 4096 ≤ 4096) ∧
    (there granted fun t _ => t.granted == [(.array, zero)]) = true ∧ modBits (0x020 : BitVec 10) 5 5 = 1 ∧
    (nextLoad (queued zero fun t => { t with loads := [cmd .mfreeb 0] }) 0).isSome = true ∧
    (there (queued zero fun t => { t with running := some { cmd := cmd .kcp 0, row := 0, unit := 0 } }) fun t _ =>
      t.resident && t.running.isSome) = true :=
  by decide
/-- A row of 128 columns under a tile of three elements; the data of the engines: an MMA at its first and last row; drained rows; a command whose accesses
have their place; each part of a swap; a canopy with a tile of two slots under an MLDB of one, and the other way; a KCP's unit. -/
theorem witness_QueueAndMatrixEvents_row : (([(0, 1), (127, 5), (128, 0x3F800000)] : AMap Word).map Prod.fst).Pairwise (· < ·) ∧
    (List.replicate 128 ([FV.zero false], 127)).length = 128 := ⟨by decide, List.length_replicate⟩
theorem witness_QueueAndMatrixEvents_data :
    let a (m : BitVec 10) : Args := plain m .none (.k 6) (.k 7) .none
    let desc : DWord := BitVec.ofNat 64 (64 * 2 ^ 32 + 3)
    let held (c : PCmd) : PCmd := { c with a := 0x400, b := 0x200, held := [pageRwx] }
    let grants (u : UnitKind) (c : PCmd) (g : Team → Team) : State := stream 1 [] fun t => g { t with granted := [(u, c)] }
    ([0, 127].all fun p =>
      let c : PCmd := { cmd .mma 0 with op := .mma (a 0x089), a := 0x100, b := desc, prog := p }
      there (grants .array c fun t => { t with lrec := { t.lrec with fsl := [5, 5] }, canopy := [(3, .tile 5 false [])] }) fun t _ =>
        t.granted == [(.array, c)] && (match AMap.find t.canopy (mmaDesc c.b).slot with
          | some (.tile _ _ rows) => rows == []
          | _ => false) &&
        (let d := mmaDesc c.b
         let fa := fslOf t (modBits (a 0x089).mod 5 3)
         decide (c.prog < 128 * d.passes) && fa.scale == 0 && (fslOf t (modBits (a 0x089).mod 2 0)).scale == 0 &&
           decide (c.prog % 128 * d.pitch + d.passes * chunkBytes fa.elem + c.a.toNat % 2 ^ 32 ≤ t.lrec.scratch) &&
           decide (t.lrec.scratch ≤ 2 ^ 19))) = true ∧
    ([[(128, 0x43400000), (129, 0x49000000)], [(255, 0x7FC00001)], [(128, 0x3F800001), (129, 0xFF800000), (130, 0x7FA00000), (131, 0x80000001)]].all
      fun el => there (stream 1 [] fun t => { t with lrec := { t.lrec with fsl := [0, 0x4515, 0] }, tiles := [(2, { el := el })] }) fun t _ =>
        t.lrec.fsl[1]? == some 0x00004515 && t.lrec.fsl[2]? == some 0 && (AMap.find t.tiles 2).map Tile.el == some el) = true ∧
    (let c := held (cmd .mdrain 0)
     let bs : List Byte := [1, 2, 3, 4, 5, 6, 7, 8, 9, 10, 11, 12, 13, 14, 15, 16]
     Memory.wf State.reset = true ∧ bs.length % 16 = 0 ∧
     ([0, 16].all fun i => (c.held.find? fun h => h.covers 0 (0x400 + i)).map (fun h => h.pa (0x400 + i)) == some (0x400 + i)) = true ∧
     (linkCut memState (.phys 0x400) || linkCut memState (.phys 0x40F)) = false ∧ leaseOf memState 0 (0x400 / 64) = none ∧
     locPoisoned memState (.phys 0x400) 16 = false) ∧
    ([(Instr.mdrain, 0, 0), (.mdrain, 0, 127), (.mswap, 0, 0), (.mswap, 0, 128), (.mswap, 0x10, 0), (.mswap, 0x10, 128), (.mswap, 0x10, 129),
      (.mswap, 0x20, 128), (.mswap, 0x20, 129), (.mswap, 0x20, 257), (.mswap, 0x20, 258)].all fun (x : (Args → Instr) × Nat × Nat) =>
      let c : PCmd := { held (cmd x.1 (BitVec.ofNat 10 x.2.1)) with prog := x.2.2 }
      there (grants .drain c id) (fun t _ => t.granted == [(.drain, c)]) && modBits (BitVec.ofNat 10 x.2.1) 5 4 == x.2.1 / 16 && c.hot == none) = true ∧
    ([([(0, Canopy.tile 3 false []), (1, .second)], 1, 1), ([(0, .tile 1 false []), (1, .second)], 0, 3), ([(1, .tile 1 false []), (2, .second)], 0, 1)].all
      fun (x : AMap Canopy × Nat × Nat) => there (stream 1 [] fun t => { t with canopy := x.1, lrec := { t.lrec with fsl := [BitVec.ofNat 32 x.2.2] } }) fun t _ =>
        decide ((t.canopy.map Prod.fst).Pairwise (· < ·)) && (fslOf t 0).elem == x.2.2 && t.canopy == x.1) = true ∧
    (let c : PCmd := held (cmd .kcp 0)
     bulkGlade c = none ∧ there memState (fun t _ =>
       heldLoc memState t c.held 0x200 ⟨true, false⟩ == some (.phys 0x200) && heldLoc memState t c.held 0x400 ⟨false, true⟩ == some (.phys 0x400)) = true) := by
  decide

/-- A header that is due, one that is not, with an empty mask and with one whose flag is up. -/
theorem witness_ClauseHeaders :
    let h (m : BitVec 12) : Header := { wait := m, aflag := some 11, bflag := none, count := 31, prio := 0 }
    let due : State := place 1 (fun th => { th with f := [(11, 1)], arch := { th.arch with clause := { due := true } } }) id
    let k : State := stream 1 [] fun t => { t with kf := [(11, 1)], stream := { t.stream with clause := { due := true } } }
    (h 0).ok = true ∧ there due (fun _ th => th.arch.clause.due && maskClear th.f 0x7FF && !maskClear th.f 0x800) = true ∧
    due.turn = .thread 2 0 ∧ ({ h 0 with count := 0 } : Header).ok = false ∧
    there (regs []) (fun _ th => !th.arch.clause.due && !th.arch.clause.loose) = true ∧
    k.turn = .stream 2 ∧ ((k.team? 2).map fun t => t.stream.clause.due && maskClear t.kf 0x7FF && !maskClear t.kf 0x800) = some true ∧
    there (waitsFor (.clause 1) id) (fun _ th => th.wait == some (.clause 1) && maskClear th.f 1) = true := by decide

/-- An image of one plane, on bit 0 of the first byte: 0 is a template of one YIELD, of length 1; 1 is `other`, a kind of R371. -/
def tinyImage (other : Nat) : List Byte :=
  leBytes 4 0x50454C59 ++ leBytes 4 1 ++ leBytes 4 224 ++ [0, 1, 1, 1] ++ leBytes 2 1 ++ leBytes 2 1 ++ leBytes 4 128 ++ leBytes 4 144 ++
  leBytes 4 176 ++ List.replicate 96 0 ++ List.replicate 16 0 ++ leBytes 16 (160 * 2 ^ 32 + 1) ++ leBytes 8 (2 * 2 ^ 60) ++
  leBytes 8 (other * 2 ^ 60) ++ leBytes 4 192 ++ List.replicate 28 0 ++ leBytes 16 (0x49 * 2 ^ 118 + 2 ^ 101)
/-- A thread of that personality at an address, with a byte at 0x40; its image is in slot 2, and no line is decoded. -/
def guestMiss (other : Nat) (pc : DWord) (b : Byte) : State :=
  { place 1 (fun th => { th with arch := { th.arch with pix := 1, pc := pc } }) (fun t => { t with lrec := { fullRecord with evec := 0x800 } }) with
    mem := [(0x40, b)].filter (fun c => c.2 != 0), images := [(5, { body := tinyImage other, digest := 0 })],
    slots := [(0, [(2, { handle := 5, copying := false, used := 0 })])],
    vds := [(0, { quantum := 1000, resident := true, runnable := true, fvec := 0x1000, extents := [(0, 65536)], bind := [(1, 5)] })] }
/-- The same thread, with the line that the spec's decoding of its instruction gives. -/
def guestState (other : Nat) (pc : DWord) (b : Byte) : State :=
  let s := guestMiss other pc b
  match decodeGuest s 0 0 (imageAt s 0 1) pc with
  | .ok (_, d) => { s with lines := [(0, [{ id := 7, psel := 2, pa := pc.toNat, used := 0, code := [d] }])] }
  | .error _ => s
def matched (s : State) : Option (Match × Nat) := match ctxOf s with
  | some c => match guestMatch s c.team.vd c.team.core ((imageAt s 0 1).map Image.body |>.getD []) c.th.arch.pc with
    | .ok x => some x
    | .error _ => none
  | none => none
/-- What the thread of a state finds in the decoded-operation cache. -/
def looked (s : State) : Option Looked := (ctxOf s).map fun c => lookUp s c.team c.th
/-- Each outcome of a guest instruction's look-up and of its decoding; a thread taken out of its EXIT's drain; an expansion that has committed, with
a REP as its last operation and with an EXIT. -/
theorem witness_GuestInstructions :
    let x : Expansion := { ops := [.yield (plain 0 .none .none .none .none)], len := 1, saved := {}, stores := [], checked := true, committed := false }
    let g := guestState 3 0x40 0
    there g (fun _ th => th.arch.pix != 0 && th.expansion.isNone && th.out.isEmpty && th.tail.isNone) = true ∧ (imageAt g 0 1).isSome = true ∧
    matched g = some (.template 0 1, 0) ∧ tmplOps (tinyImage 3) 0 0 = [.yield (plain 0 .none .none .none .none)] ∧
    ((ctxOf g).map fun c => opsFault c (tmplOps (tinyImage 3) 0 0)) = some none ∧
    matched (guestState 3 0x40 1) = some (.miss 1, 1) ∧ matched (guestState 0 0x40 1) = some (.illegal, 1) ∧ matched (guestState 3 0x20000 0) = none ∧
    looked g = some (.hit { line := 7, ix := 0 } (.run 1 [.yield (plain 0 .none .none .none .none)])) ∧
    looked (guestState 3 0x40 1) = some (.hit { line := 7, ix := 0 } (.miss 1 1)) ∧
    looked (guestState 0 0x40 1) = some (.hit { line := 7, ix := 0 } .illegal) ∧ looked (guestState 3 0x20000 0) = some (.fault 0x09 0x20000) ∧
    looked (guestMiss 3 0x40 0) = some (.miss 2 0x40) ∧
    (let bad : State := { guestMiss 3 0x40 0 with poison := [sectorKey (.phys 0x40)] }
     let decoded (s : State) : Option FaultInfo := match decodeGuest s 0 0 (imageAt s 0 1) 0x40 with
       | .ok _ => none
       | .error e => some e
     looked bad == some (.miss 2 0x40) && decoded bad == some (0x22, 0x40) && decoded (guestMiss 3 0x40 0) == none) = true ∧
    (let code (s : State) (pc : DWord) : Option Decoded := match decodeGuest s 0 0 (imageAt s 0 1) pc with
       | .ok y => some y.2
       | .error _ => none
     let place' (s : State) (pc : DWord) : Option FaultInfo := match fetchPlace s 0 0 pc with
       | .ok _ => none
       | .error e => some e
     let odd (s : State) : State := { s with images := [(5, { body := (tinyImage 3).set 12 2, digest := 0 })] }
     let closed : State := { odd (guestMiss 3 0x41 0) with poison := [sectorKey (.phys 0x40)] }
     code (guestMiss 3 0x40 0) 0x40 == some (.run 1 [.yield (plain 0 .none .none .none .none)]) &&
       code (guestMiss 0 0x40 1) 0x40 == some .illegal && (place' (guestMiss 0 0x40 1) 0x40).isNone && looked (guestMiss 0 0x40 1) == some (.miss 2 0x40) &&
       looked closed == some (.miss 2 0x41) && code closed 0x41 == some .illegal && place' closed 0x41 == some (0x22, 0x41) &&
       (let s := odd (guestMiss 3 0x20001 0)
        (there s fun t th => th.spot.isNone && decide (th.arch.pc.toNat % 2 ^ (imgHead ((tinyImage 3).set 12 2)).align ≠ 0) &&
          (match lookPlace s t.vd t.core th.arch.pc fun x => (lineOf s 0 (pselOf s t.vd 0 1) (x.pa th.arch.pc.toNat)).isSome with
            | .ok _ => false
            | .error e => e == (0x09, 0x20001))) && looked s == some (.fault 0x01 0))) = true ∧
    there (place 1 (fun th => { th with expansion := some { x with ops := [] } }) id) (fun _ th => th.expansion == some { x with ops := [] } &&
      th.out.isEmpty && th.pending.isEmpty) = true ∧
    there g (fun t th => t.lrec.evec != 0 && decide (th.arch.pc.toNat < 2 ^ 52)) = true ∧
    (let kept : Kept := ⟨0x40, .exit, none⟩
     there (g.modThread 2 0 fun th => { th with kept := [kept] }) (fun _ th => keptHere th == some kept && kept.pc == th.arch.pc && kept.wait == .exit) = true) ∧
    (let past (i : Args → Instr) : Expansion := { x with ops := [i (plain 0 .none .none .none .none)], committed := true }
     [(Instr.rep, true), (.exitT, false)].all fun y => there (place 1 (fun th => { th with expansion := some (past y.1) }) id) fun _ th =>
       th.expansion == some (past y.1) && (past y.1).ops.any isTailOp == y.2) = true ∧
    there (place 1 (fun th => { th with expansion := some x }) id) (fun _ th => th.expansion == some x && x.checked && !x.committed &&
      th.out.isEmpty && th.pending.isEmpty) = true := by decide

/-- A last operation at its commit point, under a condition on it. -/
def lastMeets (cls opc : Nat) (a : Args) (s : State) (pre : Ctx → Bool) : Bool := match ctxOf s with
  | some c => lastReady c cls opc a && pre c
  | none => false
/-- The same of one whose expansion's stores have landed by then. -/
def committedMeets (i : Instr) (s : State) : Bool := match i.code, i.args with
  | some (cls, opc), some a => lastMeets cls opc a (lastIn false i s) fun c =>
      (ctxOf (commitState (lastIn false i s) c.key c.tid cls opc)).any fun c1 => c1.key == c.key && c1.tid == c.tid && ready c1 cls opc a
  | _, _ => false
/-- The place that an atomic access of a last operation goes to, and the copy it waits for. -/
def issuesAt (s : State) (c : Ctx) (ea : DWord) (n : Nat) : Option (Option Nat) := match resolve s c.team c.th.arch.mode ea n ⟨true, true⟩ with
  | .ok l => some (copyHazard c.team c.tid l n true)
  | .error _ => none
theorem witness_GuestInstructions_commit :
    let n : Args := plain 0 .none .none .none .none
    let at' (x : Sel) : Args := plain 0 (.v 8) x .none .none
    let atomic : Args := plain 0 (.v 9) (.v 2) (.v 1) .none
    let call : Args := plain 0 (.v 8) (.v 2) (.v 5) .none
    let st (buffered : Bool) : Access := { op := .store [1], loc := .phys 0x200, size := 1, va := 0x200, flag := none, port := none, buffered := buffered }
    let on (n : Nat) (i : Args → Instr) (a : Args) (xs : List (Nat × Word)) : State := lastIn false (i a) (place n (withV xs) id)
    let waits (s : State) : State := s.modThread 2 0 fun th => { th with out := [st false] }
    there (waits (guestState 3 0x40 0)) (fun _ th => th.arch.pix != 0 && th.expansion.isNone && awaitsAccess th) = true ∧
    ([(1, 0x14), (1, 0x22), (1, 0xE0)].all (fun x => drainsFirst x.1 x.2) && !drainsFirst 0 0x40 && !drainsFirst 1 4 &&
      there (on 1 .cpt (at' (.v 2)) []) (fun _ th => (th.expansion.map Expansion.stores) == some [] && th.out.isEmpty) &&
      there ((on 1 .cpt (at' (.v 2)) []).modThread 2 0 fun th => { th with out := [st true] }) (fun _ th => th.out == [st true]) &&
      (ownerOf (on 1 .cpt (at' (.v 2)) []) (.thread 2 0) (.phys 0x200)).isNone) = true ∧
    ([Instr.bra (ext n 64), .brx { n with sa := .v 2 }, .call (ext (at' .none) 64), .callx (at' (.v 2)), .ret { n with sa := .v 2 },
      .loopL (ext (plain 0 (.num 0) (.v 1) .none .none) 64), .lend (plain 0 (.num 1) .none .none .none), .exitT n, .yield n, .nap { n with sa := .v 1 },
      .waitf (plain 0 .none (.num 3) (.imm 2) .none), .synch n, .cpw { n with sa := .v 2 }, .cpf (at' (.v 2)), .cpt (at' (.v 2)), .cfence n,
      .barw (plain 0 .none (.num 3) (.v 1) .none), .trap (plain 5 .none (.v 4) .none .none), .perfr (at' (.v 1)), .brkpt n, .atom atomic,
      .red { atomic with dst := .none }, .cas { atomic with sc := .v 4 }, .csrr (plain 0x10 (.v 9) .none .none .none),
      .csrw (plain 0x13 .none (.v 2) .none .none)].all fun i => committedMeets i (place 2 (withV [(1, 3), (2, 0x40), (4, 0x80)]) id)) = true ∧
    (let bound : State := boundState (withV [(1, 3), (2, 0x40), (4, 0x80), (5, 1)])
     committedMeets (.pxcall call) bound && committedMeets (.pxret { n with sa := .v 2 }) bound &&
       lastMeets 0 0x4E call (lastIn false (.pxcall call) bound) (fun c => isBound (c.s.vd c.team.vd) (read32 c call.sb).toNat) &&
       lastMeets 0 0x4E call (on 1 .pxcall call [(5, 9)]) (fun c => !isBound (c.s.vd c.team.vd) (read32 c call.sb).toNat) &&
       lastMeets 0 0x4F { n with sa := .v 2 } (on 1 .pxret { n with sa := .v 2 } [(3, 0x1000000)]) fun c =>
         decide ((read64 c (.v 2)).toNat / 2 ^ 52 % 2 ^ 9 ≠ 0)) = true ∧
    (let seen (s : State) (c : Ctx) : Bool := match gladeAddr s c.key c.team (read64 c (.v 2)) false with
       | .ok x => x.1 == c.key && x.2.1 == c.team && !x.2.2.2 && (copyHazard c.team c.tid (winLoc c.team x.2.2.1) 8 true).isNone && !locPoisoned s (winLoc c.team x.2.2.1) 8 &&
           gUsable c.team x.2.2.1 (gRead s c.team x.2.2.1) false
       | .error _ => false
     let own (s : State) : State := s.modTeam 2 fun t => { t with copies := ((copied.team? 2).map Team.copies).getD [] }
     let behind (c : Ctx) : Bool := (c.team.copies.find? fun p => p.2.tid == some c.tid).isSome
     let asks (i : Instr) (s : State) (f : State → Ctx → Bool) : Bool := match i.code, i.args with
       | some (cls, opc), some a => lastMeets cls opc a (lastIn false i s) (f s)
       | _, _ => false
     [Instr.gwait (plain 0 .none (.v 2) (.v 4) .none), .gtest (plain 0 (.num 1) (.v 2) (.v 1) .none)].all (fun i =>
         committedMeets i (gladeState 2) && asks i (gladeState 2) seen) &&
       asks (.garvr (plain 0x200 .none (.v 2) (.v 1) .none)) (own (gladeState 2)) (fun s c => seen s c && behind c) &&
       [Instr.csrr (plain 0x10 (.v 9) .none .none .none), .csrw (plain 0x13 .none (.v 2) .none .none)].all (fun i => asks i copied fun _ => behind) &&
       asks (.atom atomic) (place 1 (withV [(2, 0x40)]) id) (fun s c => issuesAt s c (read64 c (.v 2)) 4 == some none && (flagA c.th).isNone) &&
       asks (.atom atomic) (place 1 (withV [(2, 0x20000)]) id) (fun s c => (issuesAt s c (read64 c (.v 2)) 4).isNone) &&
       asks (.atom atomic) copied fun s c => !hostDenied s c.team (read64 c (.v 2)) (some (atomOp atomic)) (atomTy atomic) &&
         (issuesAt s c (read64 c (.v 2)) 4).any Option.isSome) = true ∧
    (let g : Args := { ext n 64 with guard := .on 0 false }
     let meets' (a : Args) (s : State) (f : Ctx → Bool) : Bool := match ctxOf s with
       | some c => f c && atLast { c with th := { c.th with out := [] } } 0 0x40 a
       | none => false
     meets' g (on 1 .bra g []) (fun c => c.th.out.isEmpty && !guardTrue c.th g.guard) &&
       meets' (ext n 64) (waits (on 1 .bra (ext n 64) [])) fun c => awaitsAccess c.th) = true ∧
    lastMeets 0 0x4A { n with sa := .v 1 } (on 1 .nap { n with sa := .v 1 } [(1, 3)]) (fun c => (keptHere c.th).isNone && read32 c (.v 1) != 0) = true := by
  decide

/-- A notice of each rank, a fault of the stream, a team whose watchdog has run, and a gang of two waiting threads. -/
theorem witness_NoticesAndDetectors :
    let p : Pending := { rank := 5, code := 0x1C, datum := 3 }
    let note (th : Thread) : State := place 1 (fun _ => { th with pending := [p, { rank := 2, code := 0x22, datum := 0x40 }] }) id
    let fault : Team → Team := fun t => { t with ufault := [{ code := 0x18, datum := 1 }] }
    let late : State := place 1 id fun t => { t with wdlim := 10, wdcnt := 10, wdDue := some 7 }
    let live (fstat : Word) : State := place 1 (fun th => { th with cr := { fstat := fstat } }) fun t => { t with wdDue := some 7 }
    let gone : State := place 1 id fun t => { fault t with threads := [] }
    let dead : State := { place 1 (fun th => { th with wait := some (.barrier 3 0 false 8) }) (fun t => { t with
        stream := { retired := true }, threads := t.threads ++ [(1, { someThread 1 with slot := 1, wait := some (.barrier 3 0 true 8) })] }) with
      gangs := [(1, { vd := 0, launch := 0, node := 0, number := 0, teams := [2], block := 0, blocked := some 0 })], cycle := 4096 }
    there (note (someThread 1)) (fun _ th => topPending th == some { rank := 2, code := 0x22, datum := 0x40 } && th.expansion.isNone && !isLive th) = true ∧
    there (note { someThread 1 with cr := { fstat := 0x80 } }) (fun _ th => topPending th == some { rank := 2, code := 0x22, datum := 0x40 } && isLive th) = true ∧
    (3 : BitVec 8).toNat < 4 ∧
    ((gone.team? 2).map fun t => t.threads.isEmpty && t.ufault == [{ code := 0x18, datum := 1 }]) = some true ∧
    there (place 1 id fault) (fun t _ => t.ufault == [{ code := 0x18, datum := 1 }] && quietThread t == some 0) = true ∧
    ((late.teams.find? fun x => watchdogDue x.2).map Prod.fst) = some 2 ∧ there late (fun t th => quietThread t == some 0 && !isLive th && t.wdDue == some 7) = true ∧
    watchdogFirst late = true ∧
    there (live 0x80) (fun t _ => watchdogDue t && (quietThread t).isNone) = true ∧
    there (live 0x1C000080) (fun t th => watchdogDue t && isLive th && th.cr.fstat.toNat / 2 ^ 24 == 0x1C) = true ∧
    there (place 1 id fun t => { t with threads := (3, { someThread 1 with slot := 3 }) :: (0, { someThread 1 with cr := { fstat := 0x80 } }) :: t.threads.drop 1 })
      (fun t _ => quietThread t == some 3 && !t.dbgStop && t.wdDue.isNone) = true ∧
    ((dead.gangs.find? fun p => deadlocked dead p.1 p.2).map fun p => p.2.teams) = some [2] ∧
    there dead (fun t th => t.threads.map Prod.fst == [0, 1] && th.wait == some (.barrier 3 0 false 8) && t.threads.all fun p => !isLive p.2) = true ∧
    ((regs []).teams.all fun p => p.2.granted.isEmpty && p.2.loads.isEmpty && p.2.running.isNone && decide (p.2.core < 768) && p.2.resident &&
      !p.2.retired && gangPlaced (regs []) p.2) = true := by decide
theorem witness_FetchFills :
    let f : Fill := { psel := 15, pa := 8, va := 8, vd := 0, pix := 0, cores := [0], returned := true }
    let s : State := { fills := [(0, [f, { f with returned := false }])], slots := [(0, [(3, { handle := 5, copying := true, used := 0 })])] }
    let code : State := { regs [] with mem := cellsSet [] 8 (leBytes 8 0x0000000048040400), fills := s.fills }
    let decoded (va : Nat) : List Decoded := lineCode code 0 0 0 none 64 16 (BitVec.ofNat 64 va)
    (match fetchPlace code 0 0 8 with
      | .ok pa => pa == 8
      | .error _ => false) = true ∧ (decoded 8).head? = some (.run 8 [.iadd op2]) ∧ decoded 0x20000 = [] ∧
    (slotImage (guestMiss 3 0x40 0) 0 2 0 1).isSome = true ∧ (slotImage s 0 3 0 0).isNone = true ∧ 14 ≤ 15 ∧ 3 < 14 ∧
    (AMap.get [] s.fills 0)[0]? = some f ∧ ((AMap.get [] s.fills 0)[1]?.map Fill.returned) = some false ∧
    AMap.find (AMap.get [] s.slots 0) 3 = some { handle := 5, copying := true, used := 0 } := by decide

/-- A launch of one node in a state, in a package where nothing is placed; the virtual device 0 is resident. -/
def launchState (nd : Node) : State :=
  { State.reset with
    vds := [(0, { quantum := 1000, resident := true, extents := [(0, 65536)] })],
    launches := [(9, { queue := 4, vd := 0, grid := 1, tag := 7, graph := 0, nodes := [(0, nd)] })],
    queues := [(4, { vd := 0, port := 0, ring := 0x1000, entries := 16, msix := some 1, serial := false, doneOrder := [9] })] }
theorem witness_SchedulingEvents :
    let nd (st : NodeState) (pix : Nat) : Node := { state := st, lrec := { pix := pix, nthreads := 1, shape := 0 }, image := none, since := 0 }
    let launchOf (s : State) : Option (Launch × Node) := (AMap.find s.launches 9).bind fun x => (AMap.find x.nodes 0).map fun n => (x, n)
    let gone : State := launchState (nd .waitRes 1)
    let bound : State := { gone with vds := [(0, { quantum := 1000, resident := true, bind := [(1, 5)] })], images := [(5, { body := [], digest := 0 })] }
    let ring (n : Nat) : Queue := { vd := 0, port := 0, ring := 0x1000, entries := 16, msix := none, serial := false, doneOrder := [9], w := n }
    let full : State := { launchState (nd .done 0) with queues := [(4, ring 16)] }
    let old : State := { launchState (nd .placing 0) with cycle := 4096 }
    let small : State := launchState { state := .waitRes, lrec := { nthreads := 1, shape := 0 } }
    let large : State := launchState { state := .waitRes, lrec := { nthreads := 5000, shape := 0 } }
    ((launchOf bound).map fun x => waitResReady bound x.1 x.2 && rebound bound 0 x.2) = some true ∧
    ((launchOf (launchState (nd .waitRes 0))).map fun x => waitResReady (launchState (nd .waitRes 0)) x.1 x.2 && !rebound (launchState (nd .waitRes 0)) 0 x.2) = some true ∧
    ((launchOf large).map fun x => waitResReady large x.1 x.2 && !placeable large 0 x.2.lrec) = some true ∧
    ((launchOf small).map fun x => waitResReady small x.1 x.2 && placeable small 0 x.2.lrec) = some true ∧
    ((launchOf old).map fun x => x.2.state == .placing && x.2.ending.isNone && decide (x.2.since + 4096 ≤ old.cycle)) = some true ∧
    ((launchOf full).map fun x => x.1.early.isNone && x.1.nodes.all fun p => p.2.status == 0) = some true ∧
    ((AMap.find full.queues 4).map fun q => q.doneOrder.head? == some 9 && (q.w + 2 ^ 32 - q.chead) % 2 ^ 32 == q.entries) = some true ∧
    ((AMap.find old.queues 4).map fun q => q.doneOrder.head? == some 9 && (q.w + 2 ^ 32 - q.chead) % 2 ^ 32 != q.entries) = some true ∧
    ((launchOf old).map fun x => x.1.unacked.isEmpty) = some true ∧ ((launchOf full).map fun x => x.1.unacked.isEmpty) = some true ∧
    (let w : SysWrite := { core := 0, port := 0, seq := 1, va := 0x40, pa := 0x40 }
     let late : State := { full with launches := full.launches.map fun p => (p.1, { p.2 with unacked := [w] }) }
     ((launchOf late).map fun x => !x.1.unacked.isEmpty) == some true && ((AMap.find late.queues 4).map fun q => q.doneOrder.head? == some 9) == some true) = true ∧
    (List.replicate 16 (0 : DWord)).length = 16 := by decide
set_option maxRecDepth 20000 in
/-- The next gang of a node can be placed. -/
theorem witness_SchedulingEvents_placement : (placement (launchState { state := .placing, lrec := { nthreads := 1, shape := 0 } }) 9 0).isSome = true ∧
    copiedGang (launchState { state := .placing, lrec := { nthreads := 1, shape := 0 } }) 9 0 = none :=
  by decide
/-- A gang that holds its place while its images come, none of which is missing. -/
theorem witness_SchedulingEvents_copied :
    let s : State := { place 1 id (fun t => { t with launch := 9 }) with
      gangs := [(1, { vd := 0, launch := 9, node := 0, number := 0, teams := [2], block := 0, placed := false, fresh := true })],
      launches := [(9, { queue := 4, vd := 0, grid := 1, tag := 7, graph := 0, nodes := [(0, { state := .placing })] })] }
    copiedGang s 9 0 = some 1 ∧ (s.gang? 1).isSome = true ∧ ((AMap.find s.launches 9).bind fun x => AMap.find x.nodes 0).isSome = true := by decide
/-- A team that may retire: its gang is gone, is that team alone, or has another team; and a team that may not. -/
theorem witness_SchedulingEvents_retirement :
    let quiet (t : Team) : Team := { t with threads := [], stream := { retired := true } }
    let s : State := place 1 id quiet
    let pair : State := { s with
      teams := s.teams ++ [(3, someTeam (someThread 1))],
      gangs := [(1, { vd := 0, launch := 0, node := 0, number := 0, teams := [2, 3], block := 0 })] }
    ([s, { s with gangs := [] }, pair].all fun s => ((s.team? 2).map retireReady) == some true) = true ∧ (s.gang? 1).isSome = true ∧
    ((pair.gang? 1).map fun g => g.teams.any fun j => j != 2 && ((pair.team? j).map Team.retired) == some false) = some true ∧
    there (regs []) (fun t _ => !t.threads.isEmpty) = true := by decide
/-- A quantum that has run; a virtual device that stops and one that becomes runnable, alone in its partition or beside another. -/
theorem witness_SchedulingEvents_decisions :
    let late : State := { regs [] with growth := 100000 }
    let gone (res : Bool) : State := { vds := [(0, { quantum := 1000, resident := res, runnable := true })] }
    let woken : State := { launchState { state := .placing } with vds := [(0, { quantum := 1000 })] }
    let due (s : State) (f : Nat → Bool) : Bool := match s.vds.find? fun p => decisionDue s p.1 with
      | some p => f p.1
      | none => false
    let back : State := (regs []).modVd 0 fun v => { v with entering := true }
    (late.vds.any fun p => p.2.resident && quantumOver late p.2) = true ∧
    ((back.vds.find? fun p => decisionDue back p.1).isNone && (back.vds.find? fun p => entered back p.1).any fun p => p.2.entering) = true ∧
    ([true, false].all fun r => due (gone r) fun n => !vdRunnable (gone r) n && ((gone r).vd n).resident == r) = true ∧
    due woken (vdRunnable woken) = true ∧
    (let two : State := { woken with vds := [(0, { quantum := 1000 }), (1, { quantum := 1000, resident := true, vt := 5 })] }
     due two fun n => vdRunnable two n && two.vds.any fun p => p.2.resident && p.2.part == (two.vd n).part && p.1 != n) = true := by decide
/-- The gang of the small state, asked to stop at cycle 0, at a later cycle. -/
def askedToStop (n : Nat) (f : Thread → Thread) (g : Team → Team) : State :=
  { place 1 f g with
    gangs := [(1, { vd := 0, launch := 0, node := 0, number := 0, teams := [2], block := 0, stopAt := some 0 })], cycle := n }
theorem witness_PreemptionEvents :
    let x : Expansion := { ops := [.yield (plain 0 .none .none .none .none)], len := 1, saved := {}, stores := [], checked := false, committed := false }
    let sys : Access := { op := .atom (.v 9) 0 .i32 1, loc := .phys (2 * 2 ^ 48), size := 4, va := 0, flag := none, port := some 0 }
    let w : SysWrite := { core := 0, port := 0, seq := 1, va := 0x40, pa := 0x40 }
    let replay : Replay := { kind := 5, tid := 0, access := none, write := some w, reply := none, acked := false }
    there (askedToStop 1024 id id) (fun _ th => stopTimedOut (askedToStop 1024 id id) 2 th && th.expansion.isNone) = true ∧
    there (askedToStop 1024 (fun th => { th with expansion := some x }) id) (fun _ th =>
      stopTimedOut (askedToStop 1024 id id) 2 th && th.expansion == some x && !x.committed) = true ∧
    (let s := askedToStop drainBound (fun th => { th with out := [sys] }) id
     (s.gang? 1).any fun g => g.teams == [2] && boundPassed s g) = true ∧
    there (askedToStop drainBound (fun th => { th with wait := some (.drain 8), unacked := [w] }) id) (fun _ th =>
      th.wait == some (.drain 8) && th.unacked == [w]) = true ∧
    (let s : State := waitsFor (.nap 5 8) id
     ((s.gang? 1).any fun g => !g.saved && g.stopAt.isNone && !g.fresh && g.teams == [2]) && (there s fun _ th => stopsAtOnce th) &&
       ((requestStop s 1).thread? 2 0).isSome) = true ∧
    (let s : State := { regs [] with gangs := [(1, { vd := 0, launch := 0, node := 0, number := 0, teams := [2], block := 0, placed := false })] }
     (s.gang? 1).any fun g => restoreEnds s 1 g) = true ∧
    (let s := askedToStop 5 (fun th => { th with preempted := true }) id
     (s.gang? 1).any fun g => saveReady s g) = true ∧
    there (place 1 (fun th => { th with out := [sys] }) id) (fun _ th => th.safe.isNone && th.out == [sys] && sys.port.isSome &&
      returnsData sys.op && isWrite sys.op) = true ∧
    there (place 1 id fun t => { t with replays := [replay] }) (fun t th => t.replays == [replay] && replay.write == some w && th.out.isEmpty) = true ∧
    moveOk {} 5 .t0 = true ∧ moveOk { t0 := [5] } 5 .t1 = true := by decide
set_option maxRecDepth 200000 in
theorem witness_PreemptionEvents_image :
    let s : State := (place 1 id fun t => { t with lrec := {} }).modVd 0 fun v => { v with ctxBase := 0x4000, ctxLen := 0x8000 }
    (s.gang? 1).any (fun g => (imagePlace s g.vd (gangImage g (g.teams.filterMap s.team?)).length) == some 0x4000) = true := by decide +kernel
set_option maxRecDepth 20000 in
/-- A saved gang whose virtual device is resident is restored. -/
theorem witness_PreemptionEvents_restore :
    let s : State := { place 1 (fun th => { th with preempted := true }) (fun t => { t with resident := false, lrec := {} }) with
      gangs := [(1, { vd := 0, launch := 0, node := 0, number := 0, teams := [2], block := 0, saved := true })] }
    (s.gang? 1).any (fun g => (restorePlace s g).isSome && !restoreEnds s 1 g) = true := by decide

/-! ### Commands, and what comes from outside -/

/-- A command of port 0 with these values at these offsets. -/
def command (fs : List (Nat × Nat)) : Cmd :=
  { port := 0, entry := 0x9000, bytes := leBytes 64 ((fs.map fun f => f.2 * 256 ^ f.1).sum) }
/-- The hypotheses of a command's three clauses: a port that may not issue it, a reserved byte that is not 0, and, for each row, a state and
a command that pass both and meet the row. -/
def admits (who : Cmd → Option Nat) (fields : List (Nat × Nat)) (checks : State → Cmd → List (Nat × Bool)) (rows : List (State × Cmd × Bool)) : Bool :=
  !roleAllows {} (command []) (who (command [])) &&
  ([0x17, 0x37].any fun o => (paramFail (command [(o, 1)]) fields (checks State.reset (command [(o, 1)]))).isSome) &&
  rows.all fun r => r.1.ready && roleAllows r.1 r.2.1 (who r.2.1) && (paramFail r.2.1 fields (checks r.1 r.2.1)).isNone && r.2.2
def aByte (o : Nat) (c : Cmd) : Option Nat := some (cNat c o 1)
def noVd : Cmd → Option Nat := fun _ => none
def noChecks : State → Cmd → List (Nat × Bool) := fun _ _ => []
/-- The package after reset, with an image of handle 5. -/
def withImage : State := { State.reset with images := [(5, { body := [], digest := 0 })] }

theorem witness_ImageAndQueueCommands :
    let busy : State := { regs [] with images := [(5, { body := [], digest := 0 })] }
    let bound : State := { withImage with vds := [(0, { quantum := 1000, bind := [(1, 5)] })] }
    let known (s : State) (c : Cmd) : Bool := (AMap.find s.images (cNat c 12 4)).isSome
    let index (c : Cmd) : Bool := decide (1 ≤ cNat c 9 1 ∧ cNat c 9 1 ≤ 7)
    let free (s : State) (c : Cmd) : Bool := !contextOn s (cNat c 8 1)
    let bind (s : State) (fs : List (Nat × Nat)) (k i f : Bool) : State × Cmd × Bool :=
      (s, command fs, known s (command fs) == k && (!k || index (command fs) == i) && (!(k && i) || free s (command fs) == f))
    let unbind (s : State) (fs : List (Nat × Nat)) (i f : Bool) : State × Cmd × Bool :=
      (s, command fs, index (command fs) == i && (!i || free s (command fs) == f))
    let used (s : State) (c : Cmd) : Bool := s.vds.any fun p => p.2.bind.any fun b => b.2 == cNat c 12 4
    let drop (s : State) (fs : List (Nat × Nat)) (k u : Bool) : State × Cmd × Bool :=
      (s, command fs, known s (command fs) == k && used s (command fs) == u)
    admits (aByte 8) [(0x08, 2), (0x0C, 4)] noChecks [bind State.reset [(12, 5)] false false false, bind withImage [(12, 5)] true false false,
      bind withImage [(12, 5), (9, 8)] true false false, bind busy [(12, 5), (9, 7)] true true false, bind withImage [(12, 5), (9, 7)] true true true] = true ∧
    admits (aByte 8) [(0x08, 2)] noChecks [unbind State.reset [] false false, unbind State.reset [(9, 8)] false false, unbind busy [(9, 1)] true false,
      unbind State.reset [(9, 1)] true true] = true ∧
    admits noVd [(0x0C, 4)] noChecks [drop State.reset [(12, 5)] false false, drop bound [(12, 5)] true true, drop withImage [(12, 5)] true false] = true := by
  decide
theorem imageBytes_of_one (b : List Byte) : imageBytes { images := [(5, { body := b, digest := 0 })] } 5 = b.length := rfl
/-- Images whose bodies exceed 512 KiB together. -/
theorem witness_ImageAndQueueCommands_large : ∃ b, 524288 < imageBytes { images := [(5, { body := b, digest := 0 })] } 5 :=
  ⟨List.replicate 524289 0, by rw [imageBytes_of_one, List.length_replicate]; decide⟩
def fileState : State := { State.reset with mem := cellsSet [] 0x1000 (tinyImage 3) }
def fileCmd : Cmd := command [(8, 0x1000), (16, 224), (24, 0x2000)]
def fileOk (s : State) (c : Cmd) : Bool := s.ready && roleAllows s c none && (paramFail c [(0x08, 8), (0x10, 4), (0x18, 8)]
  [(0x08, readable (cNat c 8 8) (max (cNat c 0x10 4) 1)), (0x18, readable (cNat c 0x18 8) 128 && cNat c 0x18 8 % 64 == 0)]).isNone
set_option maxRecDepth 20000 in
/-- A file that fails its check, and one that passes it, with the digest of the model's open hash. -/
theorem witness_ImageAndQueueCommands_load : fileOk State.reset fileCmd = true ∧ fileOk fileState fileCmd = true ∧
    (match checkImage State.reset (cellsGet [] 0x1000 224) with
      | .error e => e == (0x20, 0)
      | .ok _ => false) = true ∧
    checkImage fileState (cellsGet fileState.mem 0x1000 224) = .ok (tinyImage 3, Config.sha3_512 (tinyImage 3)) ∧
    (fileState.images.find? fun p => p.2.digest == Config.sha3_512 (tinyImage 3)) = none ∧ fileState.images.length < 64 := by
  refine ⟨by decide, by decide, by decide, ?_, rfl, by decide⟩
  have h : cellsGet fileState.mem 0x1000 224 = tinyImage 3 := by decide +kernel
  have h1 : fileFormatOk (tinyImage 3) = true := by decide +kernel
  have h2 : imgNat (tinyImage 3) 8 4 = (tinyImage 3).length := by decide +kernel
  have h3 : imageCheck (tinyImage 3) = none := by decide +kernel
  rw [h]
  simp [checkImage, h1, h2, h3, show fileState.signedOnly = false from rfl]
/-- The digest is known, and 64 others are. -/
theorem witness_ImageAndQueueCommands_known : let d := Config.sha3_512 (tinyImage 3)
    let i (x : BitVec 512) : Image := { body := [], digest := x }
    ([(7, i d)].find? fun p => p.2.digest == d) = some (7, i d) ∧
    ((List.replicate 64 (7, i (d + 1))).find? fun p => p.2.digest == d) = none ∧ 64 ≤ (List.replicate 64 (7, i (d + 1))).length := by simp

/-- A virtual device 0 that is configured, a queue 4 of it, and a launch of queue 4 and graph 3 that has not ended. -/
def queueState : State := { State.reset with
  vds := [(0, { quantum := 1000, extents := [(0, 65536)] })],
  queues := [(4, { vd := 0, port := 0, ring := 0x1000, entries := 16, msix := none, serial := false })],
  launches := [(9, { queue := 4, vd := 0, grid := 1, tag := 7, graph := 3, nodes := [(0, { state := .placing })] })] }
theorem witness_ImageAndQueueCommands_queues :
    let assign (x : Nat) : Cmd := command [(8, x), (0x0C, 16), (0x10, 0x1000), (0x18, 0xFFFF)]
    let live (s : State) (c : Cmd) : Bool := (s.launches.any fun p => p.2.queue == cNat c 8 2 && !launchDone p.2) ||
      (AMap.find s.queues (cNat c 8 2)).any fun q => q.draining.isSome
    let used (s : State) (c : Cmd) : Bool := s.launches.any fun p => p.2.graph == cNat c 12 4 && !launchDone p.2
    let draining : State := { queueState with
      queues := [(4, { vd := 0, port := 0, ring := 0x1000, entries := 16, msix := none, serial := false, draining := some (command []) })] }
    admits (aByte 0x0A) [(0x08, 16), (0x18, 3)] (fun s c =>
        [(0x08, decide (cNat c 8 2 < 4096)), (0x0B, decide (cNat c 0x0B 1 < 2) && configured (s.vd (cNat c 0x0A 1)) &&
           (AMap.get {} s.ports (cNat c 0x0B 1)).parts.getLsbD (s.vd (cNat c 0x0A 1)).part),
         (0x0C, isPow2 (cNat c 0x0C 4) 16 65536),
         (0x10, readable (cNat c 0x10 8) (16 * cNat c 0x0C 4) && cNat c 0x10 8 % 16 == 0 && regionOf (cNat c 0x10 8) != 1),
         (0x18, decide (cNat c 0x18 2 < 2048) || cNat c 0x18 2 == 0xFFFF), (0x1A, decide (cNat c 0x1A 1 < 2))])
      [(queueState, assign 4, (AMap.find queueState.queues 4).isSome), (queueState, assign 4095, (AMap.find queueState.queues 4095).isNone)] = true ∧
    admits noVd [(0x08, 2)] (fun _ c => [(0x08, decide (cNat c 8 2 < 4096))])
      [(queueState, command [(8, 4)], live queueState (command [(8, 4)])), (draining, command [(8, 4)], live draining (command [(8, 4)])),
       (queueState, command [(8, 5)], !live queueState (command [(8, 5)]))] = true ∧
    admits noVd [(0x0C, 4)] noChecks [(queueState, command [(12, 3)], used queueState (command [(12, 3)])),
      (queueState, command [(12, 4)], !used queueState (command [(12, 4)]))] = true ∧
    ((AMap.find draining.queues 4).map fun q => q.draining.isSome) = some true ∧
    ((AMap.find queueState.queues 4).map fun q => q.draining.isNone) = some true ∧
    (let c := command [(8, 4), (0x0A, 1)]
     queueState.ready && roleAllows queueState c none && decide (cNat c 8 2 < 4096) && decide (cNat c 0x0A 1 < 2) &&
       (paramFail c [(0x08, 3)] [(0x08, true), (0x0A, true)]).isNone) = true ∧
    Memory.wf queueState = true := by decide
/-- A graph of one node at 0x1000, its record at 0x1100, of one thread. -/
def graphState (n : Nat) : State := { queueState with
  mem := cellsSet (cellsSet [] 0x1000 (leBytes 4 0x47524C59 ++ leBytes 2 1 ++ leBytes 2 n ++ List.replicate 56 0 ++ leBytes 8 0x1100)) 0x1100
    (leBytes 8 0x40 ++ List.replicate 24 0 ++ leBytes 4 1 ++ leBytes 2 1 ++ [2, 1]) }
set_option maxRecDepth 20000 in
theorem witness_ImageAndQueueCommands_graph :
    let c := command [(0x10, 0x1000)]
    let ok (s : State) : Option Nat := match checkGraph s 0 0x1000 with
      | .ok g => some g.nodes.length
      | .error _ => none
    (graphState 1).ready = true ∧ roleAllows (graphState 1) c (some 0) = true ∧ paramFail c [(0x08, 1), (0x10, 8)] [] = none ∧ ok (graphState 1) = some 1 ∧
    ok (graphState 0) = none := by decide
/-- A map of PART_SET at 0x1000: virtual device 0, where it is configured, in partition 0. -/
def mapBytes (b : Byte) : List Byte := b :: List.replicate 255 0xFF
def mapMem (b : Byte) : List Host.Cell := ((mapBytes b).zip (List.range 256)).filterMap fun x => if x.1 = 0 then none else some (0x1000 + x.2, x.1)
def partCmd : Cmd := command [(8, 1), (0x10, 0x1000)]
def partState (b : Byte) (s : State) : State := { s with mem := mapMem b }
def partAdmits (s : State) (map : List Byte) : Bool :=
  s.ready && s.partSet.isNone && roleAllows s partCmd none && (paramFail partCmd [(0x08, 1), (0x10, 8)]
    [(0x08, decide (cNat partCmd 8 1 < 3)), (0x10, readable (cNat partCmd 0x10 8) 256 && mapOk s (cNat partCmd 8 1) map)]).isNone &&
  (List.range 4).all fun p => decide (mapCount s map p ≤ 64)
set_option maxRecDepth 20000 in
theorem mapMem_bytes (b : Byte) (h : b = 0 ∨ b = 0xFF) : cellsGet (mapMem b) (cNat partCmd 0x10 8) 256 = mapBytes b := by
  rcases h with rfl | rfl <;> decide
set_option maxRecDepth 20000 in
theorem witness_PartitionAndManagementCommands_partSet :
    partAdmits (partState 0xFF State.reset) (cellsGet (mapMem 0xFF) (cNat partCmd 0x10 8) 256) = true ∧ State.reset.gangs.isEmpty = true ∧
    partAdmits (partState 0 (regs [])) (cellsGet (mapMem 0) (cNat partCmd 0x10 8) 256) = true ∧ (regs []).gangs.length = 1 ∧
    ((regs []).gangs.all fun g => quadrants 0 0 != quadrants (cNat partCmd 8 1) ((regs []).vd g.2.vd).part && !g.2.saved) = true ∧
    command [] ≠ partCmd := by
  rw [mapMem_bytes 0xFF (.inr rfl), mapMem_bytes 0 (.inl rfl)]
  decide
/-- A virtual device is turned away by a quota, by the 64 that are there, by its quantum, by its context; it is configured, and unseated. -/
theorem witness_PartitionAndManagementCommands_vdConfig :
    let v (s : State) (c : Cmd) : VDev := vdFields c (s.vd (cNat c 8 1))
    let full (s : State) (c : Cmd) : Bool :=
      decide (64 ≤ (s.vds.filter fun p => p.1 != cNat c 8 1 && configured p.2 && p.2.part == (v s c).part).length)
    let small (s : State) (c : Cmd) : Bool := decide ((v s c).ctxLen < partCores s (v s c).part * (wcsb (v s c) + 65536))
    let clash (s : State) (c : Cmd) : Bool := (s.vd (cNat c 8 1)).resident && ((v s c).part != (s.vd (cNat c 8 1)).part ||
      s.vds.any fun p => p.1 != cNat c 8 1 && p.2.resident && vdOverlap (v s c) p.2)
    let quota (s : State) (c : Cmd) : Bool := (quotaFail s (v s c)).isNone
    let c (quantum ctx : Nat) : Cmd := command [(0x0B, 128), (0x0E, 256), (0x10, 128), (0x12, quantum), (0x18, 1), (0x30, ctx)]
    let many : State := { State.reset with vds := (List.range 64).map fun i => (i + 1, { quantum := 1000 }) }
    let two : State := { State.reset with vds := [(0, { quantum := 1000, resident := true }), (1, { quantum := 1000, resident := true })] }
    admits (aByte 8) [(0x08, 14), (0x18, 4), (0x20, 24)] noChecks [(State.reset, command [], !quota State.reset (command [])),
      (many, c 1000 0, quota many (c 1000 0) && full many (c 1000 0)),
      (State.reset, c 0 0, quota State.reset (c 0 0) && !full State.reset (c 0 0) && (v State.reset (c 0 0)).quantum == 0),
      (State.reset, c 1 0, quota State.reset (c 1 0) && !full State.reset (c 1 0) && small State.reset (c 1 0)),
      (State.reset, c 1 (2 ^ 33), quota State.reset (c 1 (2 ^ 33)) && !full State.reset (c 1 (2 ^ 33)) && !small State.reset (c 1 (2 ^ 33)) &&
        (v State.reset (c 1 (2 ^ 33))).quantum != 0 && !clash State.reset (c 1 (2 ^ 33))),
      (two, c 1 (2 ^ 33), quota two (c 1 (2 ^ 33)) && !full two (c 1 (2 ^ 33)) && !small two (c 1 (2 ^ 33)) && clash two (c 1 (2 ^ 33)))] = true := by
  decide
set_option maxRecDepth 8000 in
theorem witness_PartitionAndManagementCommands :
    let es (s : State) (c : Cmd) : List (Nat × Nat) := (List.range (cNat c 9 1)).map fun i =>
      (leNat (cellsGet s.mem (cNat c 0x10 8 + 16 * i) 8), leNat (cellsGet s.mem (cNat c 0x10 8 + 16 * i + 8) 8))
    let others (s : State) (c : Cmd) : List (Nat × Nat) := ((s.vds.filter fun p => p.1 != cNat c 8 1).map fun p => p.2.extents).flatten
    let holds (n : Nat) : State := { State.reset with mem := cellsSet [] 0x1008 (leBytes 8 n) }
    let grant : Cmd := command [(9, 1), (0x10, 0x1000)]
    let fits (s : State) (c : Cmd) : Bool := (List.range 4).all fun q => decide (bytesIn (others s c) q + bytesIn (es s c) q ≤ backing s q)
    let term : Cmd := command [(0x0A, 4), (0x0C, 1), (0x10, 0xFFFFFFFF)]
    let running : State := { regs [] with launches := [(0, { queue := 4, vd := 0, grid := 1, tag := 7, graph := 3 })] }
    let cluster (s : State) : State × Cmd × Bool := (s, command [(8, 191)], true)
    let region2 : Nat := 2 * 2 ^ 48
    let sys : Access := { op := .load (.v 9) 0, loc := .phys region2, size := 4, va := 0, flag := none, port := some 0 }
    admits (aByte 8) [(0x08, 2), (0x10, 8)] (fun s c =>
        [(0x09, decide (1 ≤ cNat c 9 1) && decide (cNat c 9 1 ≤ 16)), (0x10, readable (cNat c 0x10 8) (max (16 * cNat c 9 1) 1) &&
          (es s c).all fun e => decide (e.1 + e.2 ≤ 2 ^ 42) && e.1 % 65536 == 0 && e.2 % 65536 == 0)])
      [(holds (2 ^ 38), grant, fits (holds (2 ^ 38)) grant),
       (holds (2 ^ 38 + 65536), grant, decide (backing State.reset 0 < bytesIn (es (holds (2 ^ 38 + 65536)) grant) 0))] = true ∧
    admits (aByte 8) [(0x08, 1)] noChecks [(State.reset, command [], true)] = true ∧
    admits noVd [(0x08, 1), (0x10, 16)] (fun _ c =>
      [(0x08, decide (cNat c 8 1 < 16)), (0x10, ((regionOf (cNat c 0x10 8) == 2 || regionOf (cNat c 0x10 8) == 3) &&
        readable (cNat c 0x10 8) (max (cNat c 0x18 8) 1)) && cNat c 0x10 8 % 65536 == 0), (0x18, cNat c 0x18 8 % 65536 == 0)])
      [(State.reset, command [(8, 15), (0x10, region2), (0x18, 65536)], true)] = true ∧
    admits (aByte 8) [(0x08, 2), (0x10, 8)] (fun s c =>
        [(0x08, !contextOn s (cNat c 8 1)), (0x09, decide (cNat c 9 1 < 4)), (0x10, cNat c 9 1 == 3 || decide (cNat c 0x10 8 < 2 ^ 52))])
      [(State.reset, command [(0x10, 2 ^ 52 - 1)], true), (State.reset, command [(9, 3), (0x10, 2 ^ 52)], true)] = true ∧
    admits (aByte 8) [(0x08, 1), (0x0A, 2), (0x0C, 8)] (fun _ c => [(0x0A, decide (cNat c 0x0A 2 < 4096))])
      [(State.reset, term, State.reset.gangs.isEmpty), (running, term, cNat term 0x10 4 == 0xFFFFFFFF && running.gangs.length == 1 &&
        running.gangs.all fun g => g.2.vd == 0 && !g.2.fresh && (AMap.find running.launches g.2.launch).any fun x => x.queue == cNat term 0x0A 2 &&
          x.grid % 2 ^ 32 == cNat term 0x0C 4)] = true ∧
    admits noVd [(0x08, 2)] (fun _ c => [(0x08, decide (cNat c 8 2 < 192))]) [cluster State.reset, cluster (regs [])] = true ∧
    admits noVd [(0x08, 3)] (fun _ c => [(0x08, decide (cNat c 8 1 < 2)), (0x09, decide (cNat c 9 1 < 2)), (0x0A, decide (cNat c 10 1 < 16))])
      [(State.reset, command [(8, 1), (9, 1), (10, 15)], true)] = true ∧
    admits noVd [(0x08, 1)] (fun _ c => [(0x08, decide (cNat c 8 1 < 16))]) [(State.reset, command [(8, 15)], true)] = true ∧
    admits noVd [(0x08, 2)] (fun _ c => [(0x08, decide (1200 ≤ cNat c 8 2) && decide (cNat c 8 2 ≤ 3600))])
      [(State.reset, command [(8, 1200)], true), (State.reset, command [(8, 3600)], true)] = true ∧
    admits noVd [(0x10, 16)] (fun _ c => [(0x10, readable (cNat c 0x10 8) 64),
       (0x18, (regionOf (cNat c 0x18 8) == 2 || regionOf (cNat c 0x18 8) == 3) && readable (cNat c 0x18 8) (256 + 64 * 64 + 4656))])
      [(State.reset, command [(0x18, region2)], true)] = true ∧
    (let th : Thread := { slot := 0, out := [sys] }
     th.out = [sys] ∧ th.unacked = [] ∧ th.markers = [] ∧ (someTeam th).copies = [] ∧ (someTeam th).replays = [] ∧
       th.expansion = none ∧ lostWrites 0 (someTeam th) 0 th = [] ∧ lostWrites 0 (someTeam th) 0 { th with unacked := [{ core := 0, port := 0, seq := 1, va := 0x40, pa := 0x40 }] } ≠ []) ∧
    (let x : Expansion := { ops := [], len := 1, saved := {}, stores := [{ sys with op := .store [] }], checked := true, committed := false }
     (x.stores.any fun ac => ac.port == some 0) = true ∧ ({ slot := 0, expansion := some x } : Thread).pending = []) ∧
    (let st : Stream := { retired := false, out := [{ sys with port := some 1 }] }
     st.unacked = [] ∧ (st.out.all fun ac => ac.port != some 0) = true) ∧
    (sys.port = some 0 ∧ returnsData sys.op = true ∧ returnsData (AccOp.store []) = false) := by decide

theorem witness_HostAndQueueRegisters :
    let q : Queue := { vd := 0, port := 0, ring := 0x1000, entries := 16, msix := none, serial := false, w := 16 }
    let s (f : Queue → Queue) : State := { State.reset with queues := [(4, f q)], graphs := [(3, { vd := 0, nodes := [] })] }
    let undone (s : State) : Nat := ((launchesOf s 4).filter fun p => !launchDone p.2).length
    let p : Port := { owner := true, parts := 1, cmdsize := 16, evsize := 64 }
    let x : Link := {}
    let lk : State := State.reset
    portReaches State.reset 0 (2 ^ 42 - 4) 4 = true ∧ portReaches State.reset 0 (2 ^ 42) 4 = false ∧
    (Memory.wf State.reset = true ∧ State.reset.teams = [] ∧ (2 ^ 42 - 4) % 64 + [(1 : Byte), 2, 3, 4].length ≤ 64 ∧
      2 ^ 42 - 4 + [(1 : Byte), 2, 3, 4].length ≤ 2 ^ 42 ∧ [(1 : Byte), 2, 3, 4] ≠ []) ∧
    (2 ^ 36 - 4 + max 4 [(1 : Byte)].length ≤ 2 ^ 36 ∧ 2 ^ 36 < 2 ^ 36 - 3 + max 4 [(1 : Byte)].length) ∧
    ((AMap.get {} (s id).ports 0).parts.getLsbD ((s id).vd q.vd).part = true ∧ q.port ≠ 1 ∧
      (AMap.get {} (setPort (s id) 0 { p with parts := 0 }).ports 0).parts.getLsbD ((s id).vd q.vd).part = false) ∧
    (let home : Loc := .phys (2 ^ 42 - 8)
     let s1 := clearOwners lk home (ownerCount lk)
     locPoisoned s1 home 8 = false ∧ leNat (readBytes s1 home 8) = (0 : DWord).toNat % 2 ^ 64 ∧ leNat (readBytes s1 home 8) ≠ (1 : DWord).toNat % 2 ^ 64) ∧
    AMap.find (s id).queues 4 = some q ∧ q.port = 0 ∧ q.draining = none ∧ undone (s id) < 256 ∧
    (AMap.find (s fun q => { q with draining := some (command []) }).queues 4).map (fun q => q.draining.isSome) = some true ∧
    ((q.w + 2 ^ 32 - (0 : Word).toNat) % 2 ^ 32 ≤ q.entries ∧ q.entries < (q.w + 2 ^ 32 - (17 : Word).toNat) % 2 ^ 32) ∧
    ((1 : DWord).getLsbD 0 = true ∧ (2 : DWord).getLsbD 0 = false) ∧
    (bitsOf 0x100003 47 20 ≠ 0 ∧ bitsOf 5 47 20 = 0 ∧ AMap.find (s id).graphs (bitsOf 5 19 0) = none ∧
      ((AMap.find (s id).graphs (bitsOf 3 19 0)).map Graph.vd) = some q.vd) ∧
    AMap.find (setPort State.reset 0 p).ports 0 = some p ∧
    ((15 : Word).toNat < p.cmdsize.toNat ∧ p.cmdsize.toNat ≤ (16 : Word).toNat ∧ (63 : Word).toNat < p.evsize.toNat ∧ p.evsize.toNat ≤ (64 : Word).toNat) ∧
    ((0x40000000 : DWord).toNat % 2 ^ 30 = 0 ∧ (0x40 : DWord).toNat % 64 = 0 ∧ isPow2 16 16 4096 = true ∧ isPow2 65536 64 65536 = true ∧
      0x0100 ∉ [0x0108, 0x1000, 0x1008, 0x1100, 0x1108]) ∧
    AMap.find lk.links 15 = some x ∧ x.up = true ∧ AMap.find (linkDown lk 15).links 15 = some { up := false } ∧
    (2 ^ 42 - 8 + 8 ≤ 2 ^ 42 ∧ (2 ^ 42 - 8) % ((ElTy.ofCode 3).width / 8) = 0 ∧ (portRead lk 17 (2 ^ 42 - 8) 8).2.2 = false) := by decide
set_option maxRecDepth 20000 in
/-- The 64th, 65th and 1025th correction within the hour, and one after it; a register of the understory and one of a dirty near slot; a leased copy; a
canopy tile, its second half, and an accumulator tile; a retired cluster with and without teams; a link whose sixteenth retry has failed; a notice that has
waited a second. -/
theorem witness_ErrorsPowerBoot :
    let at' (n : Nat) : State := { corrections := [(unitKey (.cluster 3), List.replicate n 0)], growth := 360000000000 }
    let tile : Team → Team := fun t => { t with canopy := [(510, .tile 3 false []), (511, .second)], tiles := [(15, {})] }
    let retried : State := { links := [(7, { failed := 17 })] }
    let waits : Port := { notices := [([1], 0)] }
    let s : State := { ports := [(0, waits)], growth := 100000000 }
    ([63, 64, 1024].all fun n => (AMap.find (at' n).corrections (unitKey (.cluster 3))).any fun ts => ts.length == n &&
      ts.all fun t => decide ((at' n).growth.toNat ≤ t + 360000000000)) = true ∧ 1024 < 1026 ∧
    (0 + 360000000000 < (360000000001 : DWord).toNat ∧ 63 ≠ 64 ∧ 63 ≠ 1024) ∧
    (let near : Thread := { slot := 0, held := true, dirty := 0x8000, arch := { wbase := 240, wvalid := true }, bad := [(255, 16)] }
     dirtyNear near 255 = some 15 ∧ dirtyNear near 254 = none ∧ AMap.find near.bad 255 = some 16) ∧
    (let c : Lease := { data := List.replicate 64 0, bad := [false, false], wts := 0, rts := 32 }
     leaseOf { l1 := [(767, [(1, c)])] } 767 (0x7F / 64) = some c ∧ 0x7F < 2 ^ 42) ∧
    (teamsIn (regs []) 0 ≠ [] ∧ teamsIn (regs []) 191 = [] ∧ ({ regs [] with retiring := [191] } : State).retiring = [191]) ∧
    ((2 ^ 48 + 15 * 2 ^ 44) / 2 ^ 48 % 16 = 1 ∧ (2 ^ 48 + 15 * 2 ^ 44) / 2 ^ 44 % 16 = 15 ∧ (AMap.find State.reset.links 15).isSome = true) ∧
    767 < 768 ∧ 63 < 64 ∧
    there (place 1 (fun th => { th with bad := [(255, 0)] }) id) (fun _ th => AMap.find th.bad 255 == some 0) = true ∧
    there (regs []) (fun _ th => th.bad.isEmpty) = true ∧
    there (place 1 id tile) (fun t _ => AMap.find t.canopy 510 == some (.tile 3 false []) && AMap.find t.canopy (510 + 1) == some .second && (AMap.find t.tiles 15).isSome) = true ∧
    AMap.find retried.links 7 = some { failed := 17 } ∧ (retried.links.find? fun p => linkFails p.2) = some (7, { failed := 17 }) ∧
    (watchdogFirst retried = false ∧ ∃ p ∈ retried.links, linkFails p.2 = true) ∧
    (s.ports.find? fun p => dropDue s p.2) = some (0, waits) := by decide
/-- An operation with a pending fault, one that does not decode (its register is beyond the allocation), and one with a false guard. -/
theorem witness_ThreadOperationOrder :
    let i : Instr := .iadd { op2 with guard := .on 0 false }
    let bad : State := place 1 id fun t => { t with lrec := { fullRecord with regs8 := 1 } }
    let p : Pending := { rank := 1, code := 0x14, datum := 0x40 }
    let late : State := place 1 (fun th => { th with pending := [p] }) id
    i.code = some (0, 0) ∧ i.args = some { op2 with guard := .on 0 false } ∧
    (ctxOf late).map (fun c => c.th.pending.find? fun p => p.rank == 1) = some (some p) ∧
    (ctxOf bad).map (fun c => c.th.pending.isEmpty && (decodeFault c 0 0 op2 c.th.expansion.isNone).isSome) = some true ∧
    (ctxOf (regs [])).map (fun c => c.th.pending.isEmpty && (decodeFault c 0 0 op2 c.th.expansion.isNone).isNone && !guardTrue c.th (.on 0 false) &&
      !atCommit c.th 0 0) = some true := by decide
theorem witness_PrivilegeInUserMode :
    let ok (opc : Nat) (a : Args) : Bool := (ctxOf userState).any fun c => c.th.pending.isEmpty && !c.th.arch.mode && opOk 1 opc a &&
      c.th.expansion.isNone && placedOk 1 opc c.th.arch.pc c.th.arch.clause (8 * a.words)
    let n : Args := plain 0 .none .none .none .none
    let all : List (Nat × Args) := [(0xE3, n), (0xE5, plain 3 .none .none .none .none), (0xE6, n), (0xE9, n), (0xE7, plain 0 (.v 8) (.v 1) .none .none),
      (0xE0, plain 0x10 (.v 9) .none .none .none), (0xE1, plain 0x13 .none (.v 2) .none .none)]
    (all.all fun x => ok x.1 x.2) = true ∧ (userState.vd 0).perfctl = false ∧ (plain 0x10 (.v 9) .none .none .none).mod.toNat ∉ [0x000, 0x001, 0x003, 0x040, 0x041] ∧
    ¬(1 = 1 ∧ 0xE2 ∈ [0xE0, 0xE1, 0xE3, 0xE5, 0xE6, 0xE7, 0xE9]) := by decide
theorem witness_RegisterResultFrame : readyAll 0 (regs []) [(0x00, op2), (0x4D, plain 0 (.num 1) (.num 3) (.imm 2) .none), (0x80, op2),
      (0xAE, plain 0x280 (.v 8) (.v 1) .none .none), (0xAF, plain 1 (.v 9) (.v 1) .none .none)] = true ∧
    (let q : Args := plain 0x0B0 (.v 9) (.v 5) (.v 8) (.v 7)
     let d : Args := plain 0x0B0 (.v 9) (.v 5) (.v 8) .none
     let p (m : BitVec 10) : Args := plain m (.v 9) (.v 5) (.v 6) (.v 7)
     meets 0 0xAB q (slotState []) (fun c => quantRuns c.team q) && meets 0 0xAC d (slotState []) (fun c => quantRuns c.team d) &&
     [0x308, 0x009].all fun m => meets 0 0xAD (p m) (slotState []) fun c => packRuns c.team (p m)) = true ∧
    (shapeOf 0 0 0).isSome = true ∧ ((ctxOf (regs [])).map fun c => selKeys c.th.arch (posRegs .w32) (.v 9)) = some [9] ∧
    op2.dst ≠ .sp .fflags false := by decide
/-- The memories are canonical, and a step answers a next state. -/
theorem witness_StepKeepsMemoryCanonical : Memory.wf State.reset = true ∧ (next (step State.reset)).isSome = true ∧
    Memory.wf memState = true ∧ (next (step memState)).isSome = true := by decide
theorem witness_DecodeOfEncode : (Instr.iadd op2).wf = true ∧ (Instr.bra (ext (plain 0 .none .none .none .none) (-8))).wf = true ∧
    (Instr.kadd (plain 0 (.k 1) (.k 2) (.k 3) .none)).wf = true ∧
    (Instr.clauseHeader { wait := 0, aflag := some 2, bflag := none, count := 2, prio := 0 }).wf = true := by decide
/-- The state with this decoded instruction at address 8. -/
def withLine (s : State) (d : Decoded) : State := { s with lines := [(0, [{ id := 7, psel := 15, pa := 8, used := 0, code := [d] }])] }
/-- An IADD at address 8 with and without its line; a header that is due; words that decode to nothing; a misaligned address; a guest
instruction; an expansion and its commit point; a REP; a word of the stream. -/
theorem witness_StepRunsDecodedInstruction :
    let native (w : DWord) : State := { regs [] with mem := cellsSet [] 8 (leBytes 8 w.toNat) }
    let line (w : DWord) (d : Decoded) : State := withLine (native w) d
    let add : Decoded := .run 8 [.iadd op2]
    let turns (s : State) : Bool := !watchdogFirst s && !linkFirst s && s.inputs.isEmpty && !s.stalled && nextAgent s == some (.thread 2 0) && there s fun _ th => th.pending.isEmpty
    let plainNative (th : Thread) : Bool := th.expansion.isNone && th.rep.isNone && th.arch.pix == 0 && decide (th.arch.pc.toNat % 8 = 0)
    let due (d : Decoded) : State := withLine (place 1 (fun th => { th with arch := { th.arch with clause := { due := true } } }) id) d
    let hdr : Instr := .clauseHeader { wait := 0, aflag := some 2, bflag := none, count := 2, prio := 0 }
    let ops (l : List Instr) : Expansion := { ops := l, len := 1, saved := {}, stores := [], checked := true, committed := false }
    let inside (l : List Instr) : State := place 1 (fun th => { th with expansion := some (ops l) }) id
    let rep : State := place 1 (fun th => { th with rep := some { op := .rep (plain 0 .none .none .none .none), a := 0, d := 0 } }) id
    let k (pc : DWord) : State := { stream 1 [] (fun t => { t with stream := { t.stream with pc := pc } }) with mem := cellsSet [] 8 (leBytes 8 0x830010000C470000) }
    let words (s : State) (due stream : Bool) (pc : DWord) : Option (List DWord) := match fetchWords s 0 0 pc due stream with
      | .ok ws => some ws
      | .error _ => none
    turns (line 0x0000000048040400 add) = true ∧ there (line 0x0000000048040400 add) (fun _ th => plainNative th && !th.arch.clause.due) = true ∧
    looked (line 0x0000000048040400 add) = some (.hit { line := 7, ix := 0 } add) ∧
    words (native 0x0000000048040400) false false 8 = some [0x0000000048040400] ∧ decodeWords [0x0000000048040400] = .ok (.iadd op2, 1) ∧
    classFits (.iadd op2) false = true ∧ looked (native 0x0000000048040400) = some (.miss 15 8) ∧
    (match decodeNative (native 0x0000000048040400) 0 0 8 with
      | .ok x => x.2 == add
      | .error _ => false) = true ∧
    turns (due (.run 8 [hdr])) = true ∧ looked (due (.run 8 [hdr])) = some (.hit { line := 7, ix := 0 } (.run 8 [hdr])) ∧ turns (due add) = true ∧
    looked (due add) = some (.hit { line := 7, ix := 0 } add) ∧
    turns (line 0x09C0000000000000 .illegal) = true ∧ looked (line 0x09C0000000000000 .illegal) = some (.hit { line := 7, ix := 0 } .illegal) ∧
    words (native 0x09C0000000000000) false false 8 = some [0x09C0000000000000] ∧ decodeWords [0x09C0000000000000] = .error .unallocated ∧
    turns (place 1 (fun th => { th with arch := { th.arch with pc := 12 } }) id) = true ∧
    turns (guestState 3 0x40 0) = true ∧ there (guestState 3 0x40 0) (fun _ th => th.expansion.isNone && th.rep.isNone && th.arch.pix != 0) = true ∧
    turns (guestMiss 3 0x40 0) = true ∧ there (guestMiss 3 0x40 0) (fun t th => th.out.isEmpty && (imageAt (guestMiss 3 0x40 0) t.vd th.arch.pix.toNat).isSome) = true ∧
    turns (inside [.yield (plain 0 .none .none .none .none)]) = true ∧ turns (inside []) = true ∧ turns rep = true ∧
    ([8, 12].all fun pc => !watchdogFirst (k pc) && !linkFirst (k pc) && (k pc).inputs.isEmpty && !(k pc).stalled && nextAgent (k pc) == some (.stream 2)) = true ∧
    words (k 8) false true 8 = some [0x830010000C470000] ∧
    decodeWords [0x830010000C470000] = .ok (.kcmp (plain 1 (.num 1) (.k 1) (.imm 0) .none), 1) ∧
    classFits (.kcmp (plain 1 (.num 1) (.k 1) (.imm 0) .none)) true = true ∧
    there (waitsFor (.nap 5 8) id) (fun t _ => !stopping (waitsFor (.nap 5 8) id) t) = true ∧
    there (askedToStop 5 id id) (fun t th => stopping (askedToStop 5 id id) t && !threadStopped (askedToStop 5 id id) 2 0 th) = true ∧
    (let s := askedToStop 5 (fun th => { th with wait := some (.nap 5 8) }) id
     there s fun t th => stopping s t && threadStopped s 2 0 th && !th.preempted) = true := by decide

/-! ## Guest instructions, events, the step -/

theorem test_guest_expansion : (threadOf (exec .guestInstructionDecode (guestState 3 0x40 0))).map (fun th => (th.expansion.map fun x => (x.len, x.ops.length), th.arch.pc)) =
    some (some (1, 1), 0x40) := by decide
/-- A miss: the emulation vector, the native personality, and the frame (R297). -/
theorem test_guest_miss : (threadOf (exec .guestInstructionDecode (guestState 3 0x40 1))).map (fun th => (th.arch.pc, th.arch.pix, th.arch.epc, th.arch.elen)) =
    some (0x800, 0, 0x2000000000000040, 1) := by decide
/-- R293: a last CPT, which follows the thread's accesses, finds the buffered store performed. -/
theorem test_commit_lands : (let a : Args := plain 0 (.v 8) (.v 2) .none .none
    let st : Access := { op := .store [0x5A], loc := .phys 0x200, size := 1, va := 0x200, flag := none, port := none, buffered := true }
    let s := (lastIn false (.cpt a) (regs [(2, 1)])).modThread 2 0 fun th => { th with expansion := th.expansion.map fun x => { x with stores := [st] } }
    (memAt (exec (.cpt a) s) 0x200, (threadOf (exec (.cpt a) s)).map fun th => th.out.isEmpty)) = (some 0x5A, some true) := by decide

theorem test_guest_illegal : outCode (exec .guestInstructionDecode (guestState 0 0x40 1)) = some 0x01 := by decide
/-- IADD at 0x8 and IADD in the clause after it: the step runs the word that the thread's place holds. -/
theorem test_step_runs : (threadOf (step (withLine (regs [(1, 3), (2, 4)]) (.run 8 [.iadd op2])))).map (fun th =>
    (vReg th.arch 9, th.arch.pc)) = some (7, 16) := by decide
/-- A GO word with a reserved bit set ends its launch with status 6 (R394). -/
theorem test_doorbell_reserved : ((next (exec (.doorbell 0 4 8 0x100003) queueState)).map fun u =>
    (u.launches.filter fun p => p.2.early == some 6).length) = some 1 := by decide
/-- CHEAD may not pass W (R404). -/
theorem test_chead_beyond : ((next (exec (.chead 0 4 17) queueState)).bind fun u => (AMap.find u.queues 4).map Queue.chead) = some 0 := by decide
/-- A written register holds no error any more, another still does (R453). -/
theorem test_write_clears_error : (setReg { slot := 0, bad := [(5, 0), (9, 3)] } 5 1).bad = [(9, 3)] := by decide
theorem test_host_write : memAt (exec (.hostWrite 0 0x40 [0x5A] false) memState) 0x40 = some 0x5A := by decide
theorem test_tick : ((next (exec .growthRingTick (regs []))).map fun u => u.growth) = some 1 := by decide
/-- A correctable-error record, a link whose sixteenth retry has failed (R478), a drop of a notice. -/
theorem test_link_fails : ((next (exec .linkFailure { State.reset with links := [(7, { failed := 17 })] })).bind fun u => (AMap.find u.links 7).map Link.up) =
    some false := by decide
theorem test_clause_header : (threadOf (exec (.clauseHeader { wait := 0, aflag := some 2, bflag := none, count := 2, prio := 0 })
    (place 1 (fun th => { th with arch := { th.arch with clause := {} } }) id))).map (fun th => (th.arch.pc, th.arch.clause.stop, th.arch.clause.aflag)) =
    some (16, 32, some 2) := by decide
theorem test_portbind : ((next (exec (.portBind (command [(8, 1), (9, 1), (10, 3)])) State.reset)).map fun u =>
    ((AMap.get {} u.ports 1).owner, (AMap.get {} u.ports 1).parts)) = some (false, 3) := by decide
/-- PWR_LIMIT below its range: PARAM_INVALID with the first failing byte (R481). -/
theorem test_pwrlimit_range : ((next (exec (.pwrLimit (command [(8, 1199)])) State.reset)).map fun u => cellsGet u.mem (0x9000 + 56) 2) =
    some [0x42, 8] := by decide

end Sys2Proof.Tests
end

section
/-! SUPPORT. The system drain (R9, R191, R342): a SYNCH and its markers, the acknowledgments of system writes, and the growth-ring tick. -/

namespace Sys2Proof

/-- The value of a key after a change of every value. -/
theorem AMap.find_map {α β : Type} (m : AMap α) (f : Nat × α → β) (k : Nat) :
    AMap.find (m.map fun p => (p.1, f p)) k = (AMap.find m k).map fun x => f (k, x) := by
  induction m with
  | nil => rfl
  | cons p r ih =>
    obtain ⟨j, y⟩ := p
    by_cases h : j = k
    · subst h
      simp [AMap.find]
    · simp [AMap.find, h, ih]

theorem AMap.find_map_some {α β : Type} {m : AMap α} {k : Nat} {x : α} (h : AMap.find m k = some x) (f : Nat × α → β) :
    AMap.find (m.map fun p => (p.1, f p)) k = some (f (k, x)) := by
  rw [AMap.find_map m f, h, Option.map_some]

namespace Machine

/-! ## Threads of a changed state -/

theorem thread?_of_teams {s u : State} (h : u.teams = s.teams) (k tid : Nat) : u.thread? k tid = s.thread? k tid := by
  simp only [State.thread?, State.team?, h]

/-- Two changes that agree on the thread they meet are the same change. -/
theorem modThread_congr {s : State} {k tid : Nat} {th : Thread} (h : s.thread? k tid = some th) {f g : Thread → Thread} (hf : f th = g th) :
    s.modThread k tid f = s.modThread k tid g := by
  cases ht : s.team? k with
  | none => simp [State.thread?, ht] at h
  | some t => rw [modThread_some ht h, modThread_some ht h, hf]

/-! ## Fence markers -/

theorem sendMarkers_concat (s : State) (core : Nat) (ps : List Nat) (p : Nat) :
    sendMarkers s core (ps ++ [p]) =
      ((takeSeq (sendMarkers s core ps).1 core p).1,
        (sendMarkers s core ps).2 ++ [(p, (takeSeq (sendMarkers s core ps).1 core p).2)]) := by
  simp [sendMarkers, List.foldl_append]

/-- One marker goes to each port, in order. -/
theorem sendMarkers_ports (s : State) (core : Nat) (ps : List Nat) : (sendMarkers s core ps).2.map Prod.fst = ps := by
  induction ps using List.reverseRecOn with
  | nil => rfl
  | append_singleton ps p ih => simp [sendMarkers_concat, ih]

@[simp] theorem sendMarkers_mem (s : State) (core : Nat) (ps : List Nat) : (sendMarkers s core ps).1.mem = s.mem := by
  induction ps using List.reverseRecOn with
  | nil => rfl
  | append_singleton ps p ih => simpa [sendMarkers_concat, takeSeq] using ih

@[simp] theorem sendMarkers_teams (s : State) (core : Nat) (ps : List Nat) : (sendMarkers s core ps).1.teams = s.teams := by
  induction ps using List.reverseRecOn with
  | nil => rfl
  | append_singleton ps p ih => simpa [sendMarkers_concat, takeSeq] using ih

/-! ## SYNCH -/

/-- A SYNCH of a thread with copies to system pages has the first of them performed, and stays (log 3). -/
theorem synch_copies {s : State} {c : Ctx} {a : Args} (h : ctxOf s = some c) (hr : ready c 1 0x08 a = true) {p : Nat × Copy}
    {ps : List (Nat × Copy)} (hp : systemCopies c.team c.tid = p :: ps) :
    exec (.synch a) s = .next (afterJump c a (performCopiesTo c.s c.key p.1)) := by
  change execSynch a s = _
  unfold execSynch
  rw [runThread_ready h hr]
  simp only [hp]

/-- A SYNCH without such copies sends its markers and waits: for the tick where nothing is to be acknowledged, else for its drain. -/
theorem synch_marks {s : State} {c : Ctx} {a : Args} (h : ctxOf s = some c) (hr : ready c 1 0x08 a = true)
    (hn : systemCopies c.team c.tid = []) {u : State} {ms : List (Nat × Nat)}
    (hm : sendMarkers c.s c.team.core (c.th.unacked.map SysWrite.port).eraseDups = (u, ms)) :
    exec (.synch a) s = .next (afterJump c a (withThread c u fun th => { th with
      markers := ms, waitFrom := c.s.cycle,
      wait := some (if c.th.unacked.isEmpty && ms.isEmpty then .tick c.s.growth (opLen c.th a) else .drain (opLen c.th a)) })) := by
  have hu : u.thread? c.key c.tid = some c.th := by
    have ht := sendMarkers_teams c.s c.team.core (c.th.unacked.map SysWrite.port).eraseDups
    rw [hm] at ht
    rw [thread?_of_teams ht, ctxOf_state h]
    exact ctxOf_thread h
  change execSynch a s = _
  unfold execSynch
  rw [runThread_ready h hr]
  simp only [hn, hm, withThread]
  congr 2
  apply modThread_congr hu
  simp [drained, opLen, hn]

/-! ## System writes on their way -/

/-- A write without what its way to its destination changes: whether it has arrived, and the bytes under it. -/
def bareWrite (x : SysWrite) : SysWrite := { x with arrived := true, old := [] }

/-- `u` is `s` with some system writes further on their way: memory is as it was, and so is each thread but for the arrival of its writes and
the bytes under them. -/
structure FurtherOn (s u : State) : Prop where
  mem : u.mem = s.mem
  thread : ∀ k tid th, s.thread? k tid = some th →
    ∃ us, u.thread? k tid = some { th with unacked := us } ∧ us.map bareWrite = th.unacked.map bareWrite

theorem furtherOn_refl (s : State) : FurtherOn s s := ⟨rfl, fun _ _ th h => ⟨th.unacked, h, rfl⟩⟩

theorem FurtherOn.trans {s u v : State} (h : FurtherOn s u) (h' : FurtherOn u v) : FurtherOn s v := by
  refine ⟨h'.mem.trans h.mem, fun k tid th hth => ?_⟩
  obtain ⟨us, hus, heq⟩ := h.thread k tid th hth
  obtain ⟨vs, hvs, heq'⟩ := h'.thread k tid _ hus
  exact ⟨vs, hvs, heq'.trans heq⟩

/-- Writes taken one after another, each of which only brings writes further. -/
theorem furtherOn_foldl {f : State → SysWrite → State} (hf : ∀ s w, FurtherOn s (f s w)) (ws : List SysWrite) (s : State) :
    FurtherOn s (ws.foldl f s) := by
  induction ws generalizing s with
  | nil => exact furtherOn_refl s
  | cons w ws ih => exact (hf s w).trans (ih (f s w))

theorem thread?_mapWrites (s : State) (f : SysWrite → Option SysWrite) (k tid : Nat) :
    (mapWrites s f).thread? k tid = (s.thread? k tid).map fun th => { th with unacked := th.unacked.filterMap f } := by
  unfold State.thread? State.team? mapWrites
  dsimp only
  rw [AMap.find_map]
  cases AMap.find s.teams k with
  | none => rfl
  | some t => exact AMap.find_map t.threads _ tid

/-- A change of writes that leaves them what they are but for their way. -/
theorem furtherOn_mapWrites (s : State) {g : SysWrite → SysWrite} (hg : ∀ x, bareWrite (g x) = bareWrite x) :
    FurtherOn s (mapWrites s fun x => some (g x)) := by
  refine ⟨rfl, fun k tid th hth => ⟨th.unacked.map g, ?_, ?_⟩⟩
  · rw [thread?_mapWrites, hth, List.filterMap_eq_map']
    rfl
  · rw [List.map_map]
    exact List.map_congr_left fun x _ => hg x

theorem furtherOn_arriveWrite (s : State) (w : SysWrite) : FurtherOn s (arriveWrite s w) := by
  refine furtherOn_mapWrites s fun x => ?_
  split_ifs <;> rfl

theorem furtherOn_standsOver (s : State) (w : SysWrite) : FurtherOn s (standsOver s w) := by
  unfold standsOver
  dsimp only
  split
  · exact furtherOn_refl s
  · refine furtherOn_mapWrites s fun x => ?_
    split_ifs <;> rfl

/-! ## Acknowledgments -/

/-- Traffic over a link changes nothing but the links. -/
theorem linkWorks_frame (s : State) (port : Nat) : linkWorks s port = { s with links := (linkWorks s port).links } := by
  unfold linkWorks
  split
  · rfl
  · split
    · split_ifs <;> rfl
    · rfl

@[simp] theorem linkWorks_mem (s : State) (port : Nat) : (linkWorks s port).mem = s.mem := by rw [linkWorks_frame]
@[simp] theorem linkWorks_teams (s : State) (port : Nat) : (linkWorks s port).teams = s.teams := by rw [linkWorks_frame]

/-- Removing writes that the way does not tell apart does so whatever way the writes have come. -/
theorem map_bareWrite_filter {us vs : List SysWrite} {p : SysWrite → Bool} (hp : ∀ x, p (bareWrite x) = p x)
    (h : us.map bareWrite = vs.map bareWrite) : (us.filter p).map bareWrite = (vs.filter p).map bareWrite := by
  have hf (ws : List SysWrite) : (ws.filter p).map bareWrite = (ws.map bareWrite).filter p := by
    rw [List.filter_map, show p ∘ bareWrite = p from funext hp]
  rw [hf, hf, h]

/-- The writes `gone`, which a destination acknowledges after some have gone further, are removed, and nothing else of a thread or of memory changes. -/
theorem acknowledged {s s1 : State} (h : FurtherOn s s1) {gone : SysWrite → Bool} (hg : ∀ x, gone (bareWrite x) = gone x) (port : Nat)
    {k tid : Nat} {th : Thread} (hth : s.thread? k tid = some th) :
    (linkWorks (mapWrites s1 fun x => if gone x then none else some x) port).mem = s.mem ∧
    ∃ us, (linkWorks (mapWrites s1 fun x => if gone x then none else some x) port).thread? k tid = some { th with unacked := us } ∧
      us.map bareWrite = (th.unacked.filter fun x => !gone x).map bareWrite := by
  obtain ⟨us, hus, heq⟩ := h.thread k tid th hth
  have hf : us.filterMap (fun x => if gone x then none else some x) = us.filter fun x => !gone x := by
    rw [← List.filterMap_eq_filter]
    congr 1
    funext x
    cases hx : gone x <;> simp [Option.guard, hx]
  refine ⟨(linkWorks_mem ..).trans h.mem, us.filter fun x => !gone x, ?_, map_bareWrite_filter (fun x => by rw [hg]) heq⟩
  rw [thread?_of_teams (linkWorks_teams ..), thread?_mapWrites, hus, Option.map_some, hf]

theorem systemWriteAck_nil {s : State} {k tid : Nat} {th : Thread} (hth : s.thread? k tid = some th) (hnil : th.unacked = []) :
    exec (.systemWriteAck (.thread k tid)) s = .next s := by
  change execSystemWriteAck (.thread k tid) s = _
  simp [execSystemWriteAck, writesOf, hth, hnil, event]

/-- The acknowledgment of a thread's oldest write removes the writes of its core, port and number. -/
theorem systemWriteAck_cons {s : State} {k tid : Nat} {th : Thread} (hth : s.thread? k tid = some th) {w : SysWrite} {ws : List SysWrite}
    (hw : th.unacked = w :: ws) :
    ∃ u us, exec (.systemWriteAck (.thread k tid)) s = .next u ∧ u.mem = s.mem ∧ u.thread? k tid = some { th with unacked := us } ∧
      us.map bareWrite = (th.unacked.filter fun x => !(sameWay x w && x.seq == w.seq)).map bareWrite := by
  have hway := (furtherOn_arriveWrite s w).trans (furtherOn_standsOver (arriveWrite s w) w)
  obtain ⟨hmem, us, hus, heq⟩ := acknowledged hway (gone := fun x => sameWay x w && x.seq == w.seq) (fun _ => rfl) w.port hth
  refine ⟨ackWrite s w, us, ?_, hmem, hus, heq⟩
  change execSystemWriteAck (.thread k tid) s = _
  simp [execSystemWriteAck, writesOf, hth, hw, event]

/-- The write goes the way of a marker of this core, port and number, and is not later than it. -/
def precedesMarker (core port n : Nat) (x : SysWrite) : Bool := x.core == core && x.port == port && seqLe x.seq n

/-- The acknowledgment of a thread's oldest marker removes the marker and the lower-numbered writes of its core and port. -/
theorem markerAck_cons {s : State} {k tid : Nat} {t : Team} {th : Thread} (ht : s.team? k = some t) (hth : s.thread? k tid = some th)
    {p n : Nat} {ms : List (Nat × Nat)} (hm : th.markers = (p, n) :: ms) :
    ∃ u us, exec (.markerAck (.thread k tid)) s = .next u ∧ u.mem = s.mem ∧ u.thread? k tid = some { th with unacked := us, markers := ms } ∧
      us.map bareWrite = (th.unacked.filter fun x => !precedesMarker t.core p n x).map bareWrite := by
  have hway := (furtherOn_foldl furtherOn_arriveWrite ((onTheWay s).filter (precedesMarker t.core p n)) s).trans
    (furtherOn_foldl furtherOn_standsOver ((unackedWrites s).filter (precedesMarker t.core p n)) _)
  obtain ⟨hmem, us, hus, heq⟩ := acknowledged hway (gone := precedesMarker t.core p n) (fun _ => rfl) p hth
  have hdrop := thread?_modThread_same hus fun x => { x with markers := x.markers.drop 1 }
  rw [hm] at hdrop
  refine ⟨_, us, ?_, (modThread_mem ..).trans hmem, hdrop, heq⟩
  change execMarkerAck (.thread k tid) s = _
  simp only [execMarkerAck, ht, hth, hm]
  rfl

/-- The end of a SYNCH's drain begins its wait for the next tick. -/
theorem synchDrainComplete_drained {s : State} {k tid : Nat} {t : Team} {th : Thread} (ht : s.team? k = some t)
    (hth : s.thread? k tid = some th) {len : Nat} (hw : th.wait = some (.drain len)) (hd : drained t tid th = true) :
    ∃ u, exec (.synchDrainComplete (.thread k tid)) s = .next u ∧ u.thread? k tid = some { th with wait := some (.tick s.growth len) } := by
  refine ⟨_, ?_, thread?_modThread_same hth fun th => { th with wait := some (.tick s.growth len) }⟩
  change execSynchDrainComplete (.thread k tid) s = _
  simp [execSynchDrainComplete, ht, hth, hw, hd, event]

/-! ## The growth-ring tick -/

/-- The tick: the counter goes on, the watchdogs of running teams count, SYNCHs that have seen an earlier tick end; memory, scratchpads and
cycles stay. -/
theorem growthRingTick_thread {s : State} {k tid : Nat} {t : Team} {th : Thread} (ht : s.team? k = some t) (hth : s.thread? k tid = some th) :
    ∃ u, exec .growthRingTick s = .next u ∧ u.growth = s.growth + 1 ∧ u.mem = s.mem ∧ u.scratch = s.scratch ∧ u.cycle = s.cycle ∧
      (t.resident = true → t.retired = false → ∀ g len, th.wait = some (.tick g len) →
        u.thread? k tid = some (if g.toNat < (s.growth + 1).toNat then { passOp th len th.after with preempted := stopping s t } else th)) ∧
      (t.resident = true → t.retired = false → t.dbgStop = false → gangPlaced s t = true →
        ∃ t1, u.team? k = some t1 ∧ t1.wdcnt = t.wdcnt + 1) := by
  have hteam : AMap.find s.teams k = some t := ht
  rw [thread?_of_team ht] at hth
  refine ⟨_, rfl, rfl, rfl, rfl, rfl, fun hres hret g len hw => ?_, fun hres hret hdbg hplaced => ?_⟩
  · unfold State.thread? State.team?
    dsimp only [endStopHalts, endHalts]
    rw [AMap.find_map_some hteam, Option.bind_some]
    simp only [hres, hret, Bool.not_false, Bool.and_self, if_true]
    rw [AMap.find_map_some hth _]
    simp only [hw]
  · refine ⟨_, AMap.find_map_some hteam _, ?_⟩
    simp [hres, hret, tickWatchdog, hdbg, hplaced]

/-! ## The statement -/

/-- Settles O27, by the rules above: a SYNCH without copies to perform waits for the tick exactly where its thread owes nothing, and an acknowledgment
brings writes further on their way and then removes those it names. -/
theorem systemDrain : Obligations.SystemDrain := by
  unfold Obligations.SystemDrain
  refine ⟨fun s c a h hr hpre => ?_, fun s c a h hr hpre => ?_, fun _ _ s c a h hr hp => synch_copies h hr hp,
    fun s core ps => ⟨sendMarkers_ports s core ps, sendMarkers_mem s core ps⟩, fun s k tid t th ht hth => ?_⟩
  · obtain ⟨hn, hnil⟩ := hpre
    rw [synch_marks h hr hn (u := c.s) (ms := []) (by rw [hnil]; rfl)]
    simp [hnil]
  · obtain ⟨hn, howes⟩ := hpre
    rw [synch_marks h hr hn (Prod.mk.eta).symm]
    simp [howes]
  · exact ⟨systemWriteAck_nil hth, fun _ _ hw => systemWriteAck_cons hth hw, fun _ _ _ hm => markerAck_cons ht hth hm,
      fun _ hw hd => synchDrainComplete_drained ht hth hw hd, growthRingTick_thread ht hth⟩

end Machine

end Sys2Proof
end

section
/-! SUPPORT. What comes before the effect of a thread operation (R24, R79, R213, R446): the rules of `runThread`, by which each operation runs. -/

namespace Sys2Proof.Machine

/-! ## Before the effect -/

theorem thread?_of_ctx {s : State} {c : Ctx} (h : ctxOf s = some c) : c.s.thread? c.key c.tid = some c.th := by
  rw [ctxOf_state h]
  exact ctxOf_thread h

/-- A fault pending for the operation is taken first. -/
theorem runThread_pending {s : State} {c : Ctx} (h : ctxOf s = some c) (cls opc : Nat) (a : Args) (body : Ctx → Res) {p : Pending}
    (hp : (c.th.pending.find? fun p => p.rank == 1) = some p) : runThread cls opc a s body = .next (faulted c p.code p.datum) := by
  unfold runThread
  simp only [ctxOf_turn h, ctxOf_team h, ctxOf_thread h, hp, faulted, ctxOf_state h]

/-- With no fault pending, a decode fault is taken, whatever the guard. -/
theorem runThread_decodeFault {s : State} {c : Ctx} (h : ctxOf s = some c) {cls opc : Nat} {a : Args} (body : Ctx → Res)
    (hp : (c.th.pending.find? fun p => p.rank == 1) = none) {code : BitVec 8} {d : DWord}
    (hd : decodeFault c cls opc a c.th.expansion.isNone = some (code, d)) : runThread cls opc a s body = .next (faulted c code d) := by
  unfold runThread
  simp only [ctxOf_turn h, ctxOf_team h, ctxOf_thread h, hp, ctxOf_eta h, hd, faulted, ctxOf_state h]

/-- An operation that decodes and whose guard is false completes without any effect; its commit point is not at issue. -/
theorem runThread_guardFalse {s : State} {c : Ctx} (h : ctxOf s = some c) {cls opc : Nat} {a : Args} (body : Ctx → Res)
    (hp : (c.th.pending.find? fun p => p.rank == 1) = none) (hd : decodeFault c cls opc a c.th.expansion.isNone = none)
    (hg : guardTrue c.th a.guard = false) (hc : atCommit c.th cls opc = false) :
    runThread cls opc a s body = .next (afterDone c a s) := by
  unfold runThread
  simp [ctxOf_turn h, ctxOf_team h, ctxOf_thread h, hp, ctxOf_eta h, hd, hg, hc, afterDone]

/-! ## Every thread operation -/

/-- An RVX runs as every thread operation does, whether its thread has a kept wait or not. -/
theorem execRvx_eq_runThread (a : Args) (s : State) : ∃ body, execRvx a s = runThread 1 0x23 a s body := by
  unfold execRvx
  dsimp only
  split
  · split
    · exact ⟨_, rfl⟩
    · exact ⟨_, rfl⟩
  · exact ⟨_, rfl⟩

/-- An operation of class 00 runs under its opcode and fields. -/
theorem exec_class00_eq_runThread {i : Instr} {opc : Nat} {a : Args} (hc : i.code = some (0, opc)) (ha : i.args = some a) (s : State) :
    ∃ body, exec i s = runThread 0 opc a s body := by
  cases i <;> cases hc <;> cases ha <;>
  · simp only [exec, execIadd, execIsum, execIaddc, execIsub, execImul, execImulh, execImad, execImadw, execIdiv, execIrem, execImin, execImax,
      execIabs, execIneg, execIcmp, execIsel, execLea, execAnd, execOr, execXor, execAndn, execLut, execShl, execShr, execSar, execRotl,
      execFunl, execFunr, execMixh, execBext, execBins, execBrev, execPopc, execClz, execCtz, execBperm, execPset, execPlut, execP2v,
      execV2p, execIxset, execLdix, execStix, execRgn, execRgnw, execBra, execBrx, execCall, execCallx, execRet, execLoop, execLend,
      execRep, execExit, execYield, execNap, execSpawn, execWaitf, execSetf, execPxcall, execPxret, execFadd, execFsub, execFmul, execFfma,
      execFmin, execFmax, execFcmp, execFsel, execFclass, execFrnd, execFscale, execFrcp, execFrsq, execFsqrt, execFdiv, execFexp2,
      execFlog2, execFsin, execFcos, execFtanh, execFsigm, execPkadd, execPkmul, execPkfma, execPkmin, execPkmax, execCvt, execCvti,
      execCvtf, execQnt, execDqnt, execPack2, execUnpk, execFflag, runReg, runArith, runBits, runWord, runF, runPk, runCvt]
    exact ⟨_, rfl⟩

/-- An operation of class 01 runs under its opcode and fields. -/
theorem exec_class01_eq_runThread {i : Instr} {opc : Nat} {a : Args} (hc : i.code = some (1, opc)) (ha : i.args = some a) (s : State) :
    ∃ body, exec i s = runThread 1 opc a s body := by
  cases i with
  | rvx =>
    cases hc; cases ha
    exact execRvx_eq_runThread a s
  | _ =>
    cases hc <;> cases ha <;>
    · simp only [exec, execLd, execSt, execLds, execSts, execAtom, execCas, execRed, execPref, execSynch, execCp, execCpw, execCpa, execCpf,
        execCpt, execCfence, execGinit, execGexp, execGarv, execGarvr, execGwait, execGtest, execBara, execBarw, execBars, execCsrr,
        execCsrw, execTrap, execEret, execEmret, execTlbinv, execTlbsync, execPerfr, execBrkpt, execHaltt, execHalttGo, runReg, runAccess,
        runAtomic, runGlade]
      exact ⟨_, rfl⟩

/-- An operation of a thread runs under its class, opcode and fields. -/
theorem exec_eq_runThread {i : Instr} {cls opc : Nat} {a : Args} (hc : i.code = some (cls, opc)) (ha : i.args = some a) (hcls : cls < 2)
    (s : State) : ∃ body, exec i s = runThread cls opc a s body := by
  obtain rfl | rfl : cls = 0 ∨ cls = 1 := by omega
  · exact exec_class00_eq_runThread hc ha s
  · exact exec_class01_eq_runThread hc ha s

/-- Settles O53: an operation of a thread runs by `runThread`, whose order of checks this is. -/
theorem threadOperationOrder : Obligations.ThreadOperationOrder := by
  unfold Obligations.ThreadOperationOrder
  intro s c i cls opc a h hc ha hcls
  obtain ⟨body, hrun⟩ := exec_eq_runThread hc ha hcls s
  rw [hrun]
  refine ⟨runThread_next h cls opc a body, fun p hp => runThread_pending h cls opc a body hp, fun hno => ?_⟩
  have hp : (c.th.pending.find? fun p => p.rank == 1) = none := List.find?_eq_none.2 (by simpa using hno)
  exact ⟨fun code d hd => runThread_decodeFault h body hp hd, fun hd hg hat => runThread_guardFalse h body hp hd hg hat⟩

end Sys2Proof.Machine
end

section
/-! SUPPORT. Operations that write registers alone (R24, R28, R158, R160, R165): what their results change, and that each completes. -/

namespace Sys2Proof.Machine

/-! ## The registers that a result may change -/

/-- `u` is `th` but for the registers that `keys` names, the predicates, sr.fflags, and what is recorded of written registers. -/
structure WritesOnly (keys : List Nat) (th u : Thread) : Prop where
  thread : u = { th with arch := u.arch, dirty := u.dirty, bad := u.bad }
  arch : u.arch = { th.arch with v := u.arch.v, e := u.arch.e, t := u.arch.t, p := u.arch.p, fflags := u.arch.fflags }
  v : ∀ j, j ∉ keys → AMap.get 0 u.arch.v j = AMap.get 0 th.arch.v j
  e : ∀ j, 1000 + j ∉ keys → AMap.get 0 u.arch.e j = AMap.get 0 th.arch.e j
  t : ∀ j, 2000 + j ∉ keys → AMap.get 0 u.arch.t j = AMap.get 0 th.arch.t j

theorem writesOnly_refl (keys : List Nat) (th : Thread) : WritesOnly keys th th :=
  ⟨rfl, rfl, fun _ _ => rfl, fun _ _ => rfl, fun _ _ => rfl⟩

theorem WritesOnly.trans {keys : List Nat} {th u w : Thread} (h : WritesOnly keys th u) (h' : WritesOnly keys u w) : WritesOnly keys th w where
  thread := calc
    w = { u with arch := w.arch, dirty := w.dirty, bad := w.bad } := h'.thread
    _ = { th with arch := w.arch, dirty := w.dirty, bad := w.bad } := by rw [h.thread]
  arch := calc
    w.arch = { u.arch with v := w.arch.v, e := w.arch.e, t := w.arch.t, p := w.arch.p, fflags := w.arch.fflags } := h'.arch
    _ = { th.arch with v := w.arch.v, e := w.arch.e, t := w.arch.t, p := w.arch.p, fflags := w.arch.fflags } := by rw [h.arch]
  v j hj := (h'.v j hj).trans (h.v j hj)
  e j hj := (h'.e j hj).trans (h.e j hj)
  t j hj := (h'.t j hj).trans (h.t j hj)

theorem writesOnly_setPred (keys : List Nat) (th : Thread) (j : Nat) (b : Bool) : WritesOnly keys th (setPred th j b) :=
  ⟨rfl, rfl, fun _ _ => rfl, fun _ _ => rfl, fun _ _ => rfl⟩

theorem writesOnly_raiseF (keys : List Nat) (th : Thread) (f : BitVec 5) : WritesOnly keys th (raiseF th f) :=
  ⟨rfl, rfl, fun _ _ => rfl, fun _ _ => rfl, fun _ _ => rfl⟩

theorem writesOnly_fflags (keys : List Nat) (th : Thread) (f : BitVec 5) :
    WritesOnly keys th { th with arch := { th.arch with fflags := f } } :=
  ⟨rfl, rfl, fun _ _ => rfl, fun _ _ => rfl, fun _ _ => rfl⟩

theorem writesOnly_p (keys : List Nat) (th : Thread) (p : BitVec 16) : WritesOnly keys th { th with arch := { th.arch with p := p } } :=
  ⟨rfl, rfl, fun _ _ => rfl, fun _ _ => rfl, fun _ _ => rfl⟩

theorem writesOnly_setReg {keys : List Nat} (th : Thread) {j : Nat} (w : Word) (h : j ∈ keys) : WritesOnly keys th (setReg th j w) :=
  ⟨rfl, rfl, fun _ hi => AMap.get_set_other 0 _ w fun he => hi (he ▸ h), fun _ _ => rfl, fun _ _ => rfl⟩

theorem writesOnly_setPair {keys : List Nat} (th : Thread) {j : Nat} (w : DWord) (h : j ∈ keys) (h' : j + 1 ∈ keys) :
    WritesOnly keys th (setPair th j w) :=
  (writesOnly_setReg th _ h).trans (writesOnly_setReg _ _ h')

theorem writesOnly_setE {keys : List Nat} (th : Thread) {j : Nat} (w : Word) (h : 1000 + j ∈ keys) :
    WritesOnly keys th { th with arch := { th.arch with e := AMap.set th.arch.e j w } } :=
  ⟨rfl, rfl, fun _ _ => rfl, fun _ hi => AMap.get_set_other 0 _ w fun he => hi (he ▸ h), fun _ _ => rfl⟩

theorem writesOnly_setT {keys : List Nat} (th : Thread) {j : Nat} (w : Word) (h : 2000 + j ∈ keys) :
    WritesOnly keys th { th with arch := { th.arch with t := AMap.set th.arch.t j w } } :=
  ⟨rfl, rfl, fun _ _ => rfl, fun _ _ => rfl, fun _ hi => AMap.get_set_other 0 _ w fun he => hi (he ▸ h)⟩

/-- A run of `n` keys holds each of its first `n`. -/
theorem mem_keyRun {b k n : Nat} (h : k < n) : b + k ∈ (List.range n).map fun i => b + i :=
  List.mem_map.2 ⟨k, List.mem_range.2 h, rfl⟩

/-- A 32-bit result changes the registers of its destination alone. -/
theorem writesOnly_write32 (th : Thread) (d : Sel) (w : Word) {n : Nat} (hn : 1 ≤ n) :
    WritesOnly (selKeys th.arch n d) th (write32 th d w) := by
  cases d with
  | v j => exact writesOnly_setReg th w (mem_keyRun (k := 0) hn)
  | n i => exact writesOnly_setReg th w (mem_keyRun (k := 0) hn)
  | big x => exact writesOnly_setReg th w (mem_keyRun (k := 0) hn)
  | e j => exact writesOnly_setE th w (List.mem_singleton.2 rfl)
  | t j => exact writesOnly_setT th w (mem_keyRun (k := 0) hn)
  | sp s hi =>
    cases s with
    | fflags => exact writesOnly_fflags _ th _
    | _ => exact writesOnly_refl _ th
  | _ => exact writesOnly_refl _ th

/-- A 64-bit result changes the pair of its destination alone. -/
theorem writesOnly_write64 (th : Thread) (d : Sel) (w : DWord) {n : Nat} (hn : 2 ≤ n) :
    WritesOnly (selKeys th.arch n d) th (write64 th d w) := by
  have h0 : 0 < n := by omega
  cases d with
  | v j => exact writesOnly_setPair th w (mem_keyRun (k := 0) h0) (mem_keyRun (k := 1) hn)
  | n i => exact writesOnly_setPair th w (mem_keyRun (k := 0) h0) (mem_keyRun (k := 1) hn)
  | big x => exact writesOnly_setPair th w (mem_keyRun (k := 0) h0) (mem_keyRun (k := 1) hn)
  | t j =>
    have low : 2000 + j.toNat ∈ selKeys th.arch n (.t j) := mem_keyRun (k := 0) h0
    have high : 2000 + (j.toNat + 1) ∈ selKeys th.arch n (.t j) := mem_keyRun (b := 2000 + j.toNat) (k := 1) hn
    exact (writesOnly_setT th _ low).trans (writesOnly_setT _ _ high)
  | _ => exact writesOnly_refl _ th

theorem writesOnly_writeInt (th : Thread) (t : ElTy) (d : Sel) (x : Nat) {n : Nat} (hn : 1 ≤ n) (hw : t.width = 64 → 2 ≤ n) :
    WritesOnly (selKeys th.arch n d) th (writeInt th t d x) := by
  unfold writeInt
  split
  · exact writesOnly_write64 th d _ (hw ‹_›)
  · exact writesOnly_write32 th d _ hn

/-! ## Predicates and flags under a written register -/

@[simp] theorem write32_p (th : Thread) (d : Sel) (w : Word) : (write32 th d w).arch.p = th.arch.p := by
  unfold write32
  split <;> rfl

@[simp] theorem write64_p (th : Thread) (d : Sel) (w : DWord) : (write64 th d w).arch.p = th.arch.p := by
  unfold write64
  split <;> rfl

@[simp] theorem writeInt_p (th : Thread) (t : ElTy) (d : Sel) (x : Nat) : (writeInt th t d x).arch.p = th.arch.p := by
  unfold writeInt
  split <;> simp

/-- sr.fflags changes under a 32-bit result only as its destination. -/
theorem write32_fflags (th : Thread) {d : Sel} (w : Word) (h : ∀ hi, d ≠ .sp .fflags hi) : (write32 th d w).arch.fflags = th.arch.fflags := by
  unfold write32
  split
  case h_6 hi => exact absurd rfl (h hi)
  all_goals rfl

@[simp] theorem write64_fflags (th : Thread) (d : Sel) (w : DWord) : (write64 th d w).arch.fflags = th.arch.fflags := by
  unfold write64
  split <;> rfl

theorem writeInt_fflags (th : Thread) (t : ElTy) {d : Sel} (x : Nat) (h : ∀ hi, d ≠ .sp .fflags hi) :
    (writeInt th t d x).arch.fflags = th.arch.fflags := by
  unfold writeInt
  split
  · exact write64_fflags th d _
  · exact write32_fflags th _ h

/-! ## The result of a register operation -/

theorem or_and_self_left (x f : BitVec 5) : x ||| x &&& f = x := by
  ext i
  simp +contextual

/-- The operations that give a predicate: IADDC, PSET, PLUT, V2P, SETF and FCMP. -/
def predOps : List Nat := [0x02, 0x28, 0x29, 0x2B, 0x4D, 0x86]

/-- What an operation of class 00 that writes registers alone may make of its thread: `n` registers from its destination on, predicates where it gives
one, flags raised by the operations from 0x80 on, and cleared by FFLAG alone (R28, R165). -/
structure RegResult (c : Ctx) (opc : Nat) (a : Args) (n : Nat) (th : Thread) : Prop where
  writes : WritesOnly (selKeys c.th.arch n a.dst) c.th th
  p : opc ∉ predOps → th.arch.p = c.th.arch.p
  quiet : (∀ h, a.dst ≠ .sp .fflags h) → opc < 0x80 → th.arch.fflags = c.th.arch.fflags
  sticky : (∀ h, a.dst ≠ .sp .fflags h) → opc ≠ 0xAF → c.th.arch.fflags &&& th.arch.fflags = c.th.arch.fflags

section
variable {c : Ctx} {opc : Nat} {a : Args} {n : Nat} {th : Thread}

/-- A result that leaves predicates, and flags but as its destination. -/
theorem RegResult.of_kept (hw : WritesOnly (selKeys c.th.arch n a.dst) c.th th) (hp : th.arch.p = c.th.arch.p)
    (hf : (∀ h, a.dst ≠ .sp .fflags h) → th.arch.fflags = c.th.arch.fflags) : RegResult c opc a n th :=
  ⟨hw, fun _ => hp, fun hd _ => hf hd, fun hd _ => by rw [hf hd, BitVec.and_self]⟩

theorem regResult_refl : RegResult c opc a n c.th := .of_kept (writesOnly_refl _ _) rfl fun _ => rfl

theorem regResult_write32 (w : Word) (hn : 1 ≤ n) : RegResult c opc a n (write32 c.th a.dst w) :=
  .of_kept (writesOnly_write32 c.th a.dst w hn) (write32_p ..) (write32_fflags c.th w)

theorem regResult_write64 (w : DWord) (hn : 2 ≤ n) : RegResult c opc a n (write64 c.th a.dst w) :=
  .of_kept (writesOnly_write64 c.th a.dst w hn) (write64_p ..) fun _ => write64_fflags ..

theorem regResult_writeInt (t : ElTy) (x : Nat) (hn : 1 ≤ n) (hw : t.width = 64 → 2 ≤ n) : RegResult c opc a n (writeInt c.th t a.dst x) :=
  .of_kept (writesOnly_writeInt c.th t a.dst x hn hw) (writeInt_p ..) (writeInt_fflags c.th t x)

/-- An operation that gives a predicate may give one. -/
theorem RegResult.setPred (h : RegResult c opc a n th) (hop : opc ∈ predOps) (j : Nat) (b : Bool) :
    RegResult c opc a n (Machine.setPred th j b) :=
  ⟨h.writes.trans (writesOnly_setPred _ th j b), fun hno => absurd hop hno, h.quiet, h.sticky⟩

/-- An operation from 0x80 on may raise flags. -/
theorem RegResult.raiseF (h : RegResult c opc a n th) (hop : 0x80 ≤ opc) (f : BitVec 5) : RegResult c opc a n (Machine.raiseF th f) where
  writes := h.writes.trans (writesOnly_raiseF _ th f)
  p := h.p
  quiet _ hlt := absurd hlt (by omega)
  sticky hd hne := by
    have hs := h.sticky hd hne
    change c.th.arch.fflags &&& (th.arch.fflags ||| f) = c.th.arch.fflags
    rw [BitVec.and_or_distrib_left, hs]
    exact or_and_self_left _ f

theorem regResult_giveF (r : FR) (hn : 1 ≤ n) (hop : 0x80 ≤ opc) : RegResult c opc a n (giveF c.th a.dst r) :=
  (regResult_write32 _ hn).raiseF hop _

/-- The keys of a destination depend on the window's base alone. -/
theorem selKeys_fflags (ar : Arch) (f : BitVec 5) (n : Nat) (d : Sel) : selKeys { ar with fflags := f } n d = selKeys ar n d := by
  cases d <;> rfl

/-- FFLAG may set the flags to any value (R164). -/
theorem regResult_fflag (f : BitVec 5) (w : Word) (hn : 1 ≤ n) :
    RegResult c 0xAF a n (write32 { c.th with arch := { c.th.arch with fflags := f } } a.dst w) where
  writes := by
    have hw := writesOnly_write32 { c.th with arch := { c.th.arch with fflags := f } } a.dst w hn
    dsimp only at hw
    rw [selKeys_fflags] at hw
    exact (writesOnly_fflags _ c.th f).trans hw
  p _ := write32_p ..
  quiet _ hlt := absurd hlt (by decide)
  sticky _ hne := absurd rfl hne

/-- V2P gives predicates (R114). -/
theorem regResult_v2p (p : BitVec 16) : RegResult c 0x2B a n { c.th with arch := { c.th.arch with p := p } } where
  writes := writesOnly_p _ c.th p
  p hno := absurd (by decide) hno
  quiet _ _ := rfl
  sticky _ _ := BitVec.and_self

end

/-! ## How many registers a destination takes -/

theorem posRegs_pos (k : PosKind) : 1 ≤ posRegs k := by
  cases k <;> simp [posRegs]

/-- The rows of R95 whose result has the instruction's type. -/
theorem intShape_dst {opc : Nat} {m : BitVec 10} {sh : Shape} (h : intShape opc m = some sh)
    (hop : opc ∉ [0x07, 0x10, 0x1A, 0x1B, 0x26, 0x23, 0x24, 0x25, 0x28, 0x2A, 0x2B, 0x2C, 0x2D, 0x2E, 0x47]) :
    ∃ r, intRow opc = some r ∧ sh.dst = dstOf (intTy r.dflt m) := by
  unfold intShape at h
  cases hr : intRow opc with
  | none => simp [hr] at h
  | some r =>
    refine ⟨r, rfl, ?_⟩
    simp only [hr, Option.bind_eq_bind, Option.bind_some] at h
    split at h
    · cases h
    · split at h <;> simp at hop <;> (cases h; rfl)

/-- Where the type of an integer operation has 64 bits, its destination is a pair. -/
theorem intShape_pair {opc : Nat} {a : Args} {sh : Shape} (h : intShape opc a.mod = some sh)
    (hop : opc ∉ [0x07, 0x10, 0x1A, 0x1B, 0x26, 0x23, 0x24, 0x25, 0x28, 0x2A, 0x2B, 0x2C, 0x2D, 0x2E, 0x47])
    (hw : (intTyOf opc a).width = 64) : 2 ≤ posRegs sh.dst := by
  obtain ⟨r, hr, hd⟩ := intShape_dst h hop
  have ht : intTyOf opc a = intTy r.dflt a.mod := by simp [intTyOf, hr]
  rw [ht] at hw
  rw [hd, dstOf, if_pos hw]
  exact Nat.le_refl 2

/-- IMADW and LEA have a pair as destination. -/
theorem wideRow_pair {opc : Nat} {m : BitVec 10} {sh : Shape} (h : intShape opc m = some sh) (hop : opc = 0x07 ∨ opc = 0x10) :
    2 ≤ posRegs sh.dst := by
  rcases hop with rfl | rfl <;>
  · simp [intShape, intRow] at h
    obtain ⟨-, rfl⟩ := h
    exact Nat.le_refl 2

theorem unpk_pair {m : BitVec 10} {sh : Shape} (h : shapeOf 0 0xAE m = some sh) : 2 ≤ posRegs sh.dst := by
  simp only [shapeOf, shape0] at h
  split at h
  · cases h
  · cases h
    exact Nat.le_refl 2

theorem lut_pair {m : BitVec 10} {sh : Shape} (h : shapeOf 0 0x15 m = some sh) (hm : modBits m 9 9 = 1) : 2 ≤ posRegs sh.dst := by
  simp only [shapeOf, shape0, hm] at h
  split at h
  · cases h
  · cases h
    exact Nat.le_refl 2

/-! ## The operations -/

/-- A ready operation whose effect is to change its thread. -/
theorem runThread_done {s : State} {c : Ctx} {opc : Nat} {a : Args} (h : ctxOf s = some c) (hr : ready c 0 opc a = true) {body : Ctx → Res}
    {f : Thread → Thread} (hb : body c = .done (c.s.modThread c.key c.tid f)) :
    runThread 0 opc a s body = .next (afterReg c a (f c.th)) := by
  rw [runThread_ready h hr, hb]
  simp only [afterDone, afterReg, modThread_modThread]
  exact congrArg _ (modThread_congr (thread?_of_ctx h) rfl)

/-- The operation completes, and its result is one of registers, predicates and flags that it may give. -/
def GivesReg (c : Ctx) (opc : Nat) (a : Args) (n : Nat) (o : Out) : Prop :=
  ∃ th, o = .next (afterReg c a th) ∧ RegResult c opc a n th

section
variable {s : State} {c : Ctx} {opc : Nat} {a : Args} {n : Nat} (h : ctxOf s = some c) (hr : ready c 0 opc a = true)
include h hr

theorem runReg_gives {f : Ctx → Thread} (hf : RegResult c opc a n (f c)) : GivesReg c opc a n (runReg 0 opc a s f) :=
  ⟨f c, runReg_ready h hr f, hf⟩

theorem runArith_gives (hn : 1 ≤ n) (hw : (intTyOf opc a).width = 64 → 2 ≤ n) (f : ElTy → Int → Int → Int → Int) :
    GivesReg c opc a n (runArith opc a s f) :=
  runReg_gives h hr (regResult_writeInt _ _ hn hw)

theorem runBits_gives (hn : 1 ≤ n) (hw : (intTyOf opc a).width = 64 → 2 ≤ n) (f : ElTy → Ctx → Nat → Nat) :
    GivesReg c opc a n (runBits opc a s f) :=
  runReg_gives h hr (regResult_writeInt _ _ hn hw)

theorem runWord_gives (hn : 1 ≤ n) (f : Ctx → Nat) : GivesReg c opc a n (runWord opc a s f) :=
  runReg_gives h hr (regResult_write32 _ hn)

theorem runF_gives (hn : 1 ≤ n) (hop : 0x80 ≤ opc) (f : Nat → Nat → Nat → FR) : GivesReg c opc a n (runF opc a s f) :=
  runReg_gives h hr (regResult_giveF _ hn hop)

theorem runPk_gives (hn : 1 ≤ n) (hop : 0x80 ≤ opc) (f : Nat → Nat → Nat → FR) : GivesReg c opc a n (runPk opc a s f) :=
  runReg_gives h hr (regResult_giveF _ hn hop)

end

/-- The check of QNT and DQNT passes where their format slot serves (R160). -/
theorem slotFault_quant {t : Team} (hq : quantRuns t a = true) :
    slotFault (modBits a.mod 9 7) ((fslOf t (modBits a.mod 9 7)).ok && (fslOf t (modBits a.mod 9 7)).elem != 0 &&
      decide (modBits a.mod 5 4 < 32 / cellWidth (elemTy (fslOf t (modBits a.mod 9 7)).elem))) = none :=
  if_pos hq

section
variable {s : State} {c : Ctx} {a : Args} {n : Nat} (h : ctxOf s = some c) (hn : 1 ≤ n)
include h hn

/-- IADDC gives its predicate beside its sum (R98). -/
theorem execIaddc_gives (hr : ready c 0 0x02 a = true) (hw : (intTyOf 0x02 a).width = 64 → 2 ≤ n) : GivesReg c 0x02 a n (execIaddc a s) :=
  runReg_gives h hr ((regResult_writeInt _ _ hn hw).setPred (by decide) _ _)

/-- FCMP gives a predicate or a mask, and raises flags (R146). -/
theorem execFcmp_gives (hr : ready c 0 0x86 a = true) : GivesReg c 0x86 a n (execFcmp a s) := by
  refine runReg_gives h hr (RegResult.raiseF ?_ (show 0x80 ≤ 0x86 by decide) _)
  split
  · exact regResult_refl.setPred (by decide) _ _
  · exact regResult_write32 _ hn

theorem execQnt_gives (hr : ready c 0 0xAB a = true) (hq : quantRuns c.team a = true) : GivesReg c 0xAB a n (execQnt a s) := by
  have hop : 0x80 ≤ 0xAB := by decide
  by_cases hm : modBits a.mod 6 6 = 1
  · exact ⟨_, runThread_done h hr (by simp only [slotFault_quant hq, hm, if_true]; rfl), (regResult_write32 _ hn).raiseF hop _⟩
  · exact ⟨_, runThread_done h hr (by simp only [slotFault_quant hq, hm, if_false]; rfl), (regResult_write32 _ hn).raiseF hop _⟩

theorem execDqnt_gives (hr : ready c 0 0xAC a = true) (hq : quantRuns c.team a = true) : GivesReg c 0xAC a n (execDqnt a s) := by
  have hop : 0x80 ≤ 0xAC := by decide
  exact ⟨_, runThread_done h hr (by simp only [slotFault_quant hq]; rfl), regResult_giveF _ hn hop⟩

theorem execPack2_gives (hr : ready c 0 0xAD a = true) (hp : packRuns c.team a = true) : GivesReg c 0xAD a n (execPack2 a s) := by
  have hop : 0x80 ≤ 0xAD := by decide
  by_cases hty : modBits a.mod 9 6 = 0
  · have hs : ((fslOf c.team (modBits a.mod 2 0)).ok && (fslOf c.team (modBits a.mod 2 0)).elem != 0 &&
        !(decide (cellWidth (elemTy (fslOf c.team (modBits a.mod 2 0)).elem) = 16) && modBits a.mod 3 3 == 1)) = true := by
      simpa [packRuns, hty] using hp
    exact ⟨_, runThread_done h hr (by simp only [hty, if_true, hs, bne_self_eq_false, Bool.false_or, slotFault]; rfl),
      (regResult_write32 _ hn).raiseF hop _⟩
  · have hs : (modBits a.mod 9 6 != 0) = true := bne_iff_ne.2 hty
    exact ⟨_, runThread_done h hr (by simp only [hs, Bool.true_or, slotFault, if_true]; rfl), (regResult_write32 _ hn).raiseF hop _⟩

end

/-! ## The statement -/

/-- The operations of the frame: those of class 00 that only write registers, QNT, DQNT and PACK2 where their slot serves. -/
def regOnly (opc : Nat) (t : Team) (a : Args) : Prop :=
  opc < 0x2C ∨ opc = 0x4D ∨ (0x80 ≤ opc ∧ opc < 0xA8) ∨ ((opc = 0xAB ∨ opc = 0xAC) ∧ quantRuns t a = true) ∨
    (opc = 0xAD ∧ packRuns t a = true) ∨ opc = 0xAE ∨ opc = 0xAF

/-- Each of them completes with a result of registers alone. -/
theorem exec_regOnly {s : State} {c : Ctx} {i : Instr} {opc : Nat} {a : Args} {sh : Shape} (h : ctxOf s = some c)
    (hc : i.code = some (0, opc)) (ha : i.args = some a) (hr : ready c 0 opc a = true) (hsh : shapeOf 0 opc a.mod = some sh)
    (hop : regOnly opc c.team a) : GivesReg c opc a (posRegs sh.dst) (exec i s) := by
  have hn := posRegs_pos sh.dst
  cases i with
  | iadd | isum | isub | imul | imulh | imad | idiv | irem | imin | imax | iabs | ineg =>
    cases hc; cases ha
    simp only [exec, execIadd, execIsum, execIsub, execImul, execImulh, execImad, execIdiv, execIrem, execImin, execImax, execIabs, execIneg]
    exact runArith_gives h hr hn (intShape_pair hsh (by decide)) _
  | andB | orB | xorB | andn | shl | shr | sar | rotl | bext | bins | brev =>
    cases hc; cases ha
    simp only [exec, execAnd, execOr, execXor, execAndn, execShl, execShr, execSar, execRotl, execBext, execBins, execBrev]
    exact runBits_gives h hr hn (intShape_pair hsh (by decide)) _
  | icmp | isel =>
    cases hc; cases ha
    simp only [exec, execIcmp, execIsel]
    exact runReg_gives h hr (regResult_writeInt _ _ hn (intShape_pair hsh (by decide)))
  | lut =>
    cases hc; cases ha
    simp only [exec, execLut]
    refine runReg_gives h hr (regResult_writeInt _ _ hn fun hw => lut_pair hsh ?_)
    split at hw
    · assumption
    · cases hw
  | imadw | lea =>
    cases hc; cases ha
    simp only [exec, execImadw, execLea]
    exact runReg_gives h hr (regResult_write64 _ (wideRow_pair hsh (by decide)))
  | iaddc =>
    cases hc; cases ha
    exact execIaddc_gives h hn hr (intShape_pair hsh (by decide))
  | funl | funr | mixh | popc | clz | ctz | bperm =>
    cases hc; cases ha
    simp only [exec, execFunl, execFunr, execMixh, execPopc, execClz, execCtz, execBperm]
    exact runWord_gives h hr hn _
  | p2v | fclass =>
    cases hc; cases ha
    simp only [exec, execP2v, execFclass]
    exact runReg_gives h hr (regResult_write32 _ hn)
  | pset | plut | setf =>
    cases hc; cases ha
    simp only [exec, execPset, execPlut, execSetf]
    exact runReg_gives h hr (regResult_refl.setPred (by decide) _ _)
  | v2p =>
    cases hc; cases ha
    simp only [exec, execV2p]
    exact runReg_gives h hr (regResult_v2p _)
  | fadd | fsub | fmul | ffma | fmin | fmax | frnd | frcp | frsq | fsqrt | fdiv | fexp2 | flog2 | fsin | fcos | ftanh | fsigm =>
    cases hc; cases ha
    simp only [exec, execFadd, execFsub, execFmul, execFfma, execFmin, execFmax, execFrnd, execFrcp, execFrsq, execFsqrt, execFdiv, execFexp2,
      execFlog2, execFsin, execFcos, execFtanh, execFsigm]
    exact runF_gives h hr hn (by decide) _
  | pkadd | pkmul | pkfma | pkmin | pkmax =>
    cases hc; cases ha
    simp only [exec, execPkadd, execPkmul, execPkfma, execPkmin, execPkmax]
    exact runPk_gives h hr hn (by decide) _
  | fscale =>
    cases hc; cases ha
    simp only [exec, execFscale]
    exact runReg_gives h hr (regResult_giveF _ hn (by decide))
  | fcmp =>
    cases hc; cases ha
    exact execFcmp_gives h hn hr
  | fsel =>
    cases hc; cases ha
    simp only [exec, execFsel]
    exact runReg_gives h hr ((regResult_write32 _ hn).raiseF (by decide) _)
  | qnt =>
    cases hc; cases ha
    exact execQnt_gives h hn hr (by simpa [regOnly] using hop)
  | dqnt =>
    cases hc; cases ha
    exact execDqnt_gives h hn hr (by simpa [regOnly] using hop)
  | pack2 =>
    cases hc; cases ha
    exact execPack2_gives h hn hr (by simpa [regOnly] using hop)
  | unpk =>
    cases hc; cases ha
    simp only [exec, execUnpk]
    exact runReg_gives h hr ((regResult_write64 _ (unpk_pair hsh)).raiseF (by decide) _)
  | fflag =>
    cases hc; cases ha
    simp only [exec, execFflag]
    exact runReg_gives h hr (regResult_fflag _ _ hn)
  | _ => cases hc <;> simp [regOnly] at hop

/-- Settles O55: the fields of `RegResult` and `WritesOnly` are the clauses of the frame. -/
theorem registerResultFrame : Obligations.RegisterResultFrame := by
  unfold Obligations.RegisterResultFrame
  intro s c i opc a sh h hc ha hr hsh hop
  obtain ⟨th, hexec, hw, hp, hquiet, hsticky⟩ := exec_regOnly h hc ha hr hsh hop
  exact ⟨th, hexec, hw.thread, hw.arch, hw.v, hw.e, hw.t, hp, fun hd => ⟨hquiet hd, hsticky hd⟩⟩

end Sys2Proof.Machine
end

section
/-! SUPPORT. Windows (R16 to R20, R117, R118): RGN, RGNW, and the events that grant, stage and take a window. -/

namespace Sys2Proof.Machine

@[simp] theorem passOp_held (th : Thread) (len : Nat) (live : Option LiveRec) : (passOp th len live).held = th.held := by
  unfold passOp
  split
  · rfl
  · split
    · rfl
    · split <;> rfl

/-- The thread with a window that it begins to stage at a base (R18). -/
def stagingAt (cycle : Nat) (base : BitVec 8) (th : Thread) : Thread :=
  { th with held := true, dirty := 0, wait := some .staging, waitFrom := cycle, arch := { th.arch with wbase := base, wvalid := true } }

/-- A thread that waits in RGN passes it with its window. -/
theorem grantWindow_region {th : Thread} {base : BitVec 8} {len : Nat} (h : th.wait = some (.region base len)) (cycle : Nat) :
    grantWindow cycle th = stagingAt cycle base (passOp th len th.after) := by
  simp [grantWindow, h, stagingAt]

/-- A thread that wakes has its window staged again at the base it has. -/
theorem grantWindow_awake {th : Thread} (h : th.wait = none) (hv : th.arch.wvalid = true) (cycle : Nat) :
    grantWindow cycle th = stagingAt cycle th.arch.wbase th := by
  simp [grantWindow, h, stagingAt, ← hv]

/-! ## RGN -/

theorem rgn_off {s : State} {c : Ctx} {a : Args} (h : ctxOf s = some c) (hr : ready c 0 0x30 a = true) (hoff : modBits a.mod 9 9 = 1) :
    exec (.rgn a) s = .next (afterDone c a (withThread c c.s fun th =>
      { th with held := false, dirty := 0, arch := { th.arch with wvalid := false } })) := by
  change execRgn a s = _
  unfold execRgn
  rw [runThread_ready h hr]
  simp only [hoff, if_true]
  rfl

theorem rgn_held {s : State} {c : Ctx} {a : Args} (h : ctxOf s = some c) (hr : ready c 0 0x30 a = true) (hon : modBits a.mod 9 9 ≠ 1)
    (hheld : c.th.held = true) :
    exec (.rgn a) s = .next (afterJump c a (withThread c c.s fun th =>
      stagingAt c.s.cycle (BitVec.ofNat 8 (8 * modBits a.mod 4 0)) (passOp th (8 * a.words) a.live))) := by
  change execRgn a s = _
  unfold execRgn withThread
  rw [runThread_ready h hr]
  simp only [hon, if_false]
  congr 2
  apply modThread_congr (thread?_of_ctx h)
  simp [hheld, stagingAt]

theorem rgn_waits {s : State} {c : Ctx} {a : Args} (h : ctxOf s = some c) (hr : ready c 0 0x30 a = true) (hon : modBits a.mod 9 9 ≠ 1)
    (hheld : c.th.held = false) :
    exec (.rgn a) s = .next (waiting c a (.region (BitVec.ofNat 8 (8 * modBits a.mod 4 0)) (8 * a.words))) := by
  change execRgn a s = _
  unfold execRgn waiting withThread
  rw [runThread_ready h hr]
  simp only [hon, if_false]
  congr 2
  apply modThread_congr (thread?_of_ctx h)
  simp [hheld]

/-! ## The events -/

/-- A thread that needs a window is granted a free one. -/
theorem windowGrant_free {s : State} {k tid : Nat} {t : Team} {th : Thread} (ht : s.team? k = some t) (hth : s.thread? k tid = some th)
    (hn : needsWindow th = true) (hf : windowFree s t th = true) :
    ∃ u, exec (.windowGrant (.thread k tid)) s = .next u ∧ u.thread? k tid = some (grantWindow s.cycle th) := by
  refine ⟨_, ?_, thread?_modThread_same hth (grantWindow s.cycle)⟩
  change execWindowGrant (.thread k tid) s = _
  simp [execWindowGrant, ht, hth, hn, hf, event]

/-- RGN's wait ends with the grant of a window (R117). -/
theorem windowGrant_region {s : State} {k tid : Nat} {t : Team} {th : Thread} (ht : s.team? k = some t) (hth : s.thread? k tid = some th)
    {base : BitVec 8} {len : Nat} (hw : th.wait = some (.region base len)) (hf : windowFree s t th = true) :
    ∃ u, exec (.windowGrant (.thread k tid)) s = .next u ∧ u.thread? k tid = some (stagingAt s.cycle base (passOp th len th.after)) := by
  rw [← grantWindow_region hw]
  exact windowGrant_free ht hth (by simp [needsWindow, hw]) hf

/-- A thread that wakes without the window it had needs one again (R19). -/
theorem windowGrant_awake {s : State} {k tid : Nat} {t : Team} {th : Thread} (ht : s.team? k = some t) (hth : s.thread? k tid = some th)
    (hw : th.wait = none) (hv : th.arch.wvalid = true) (hh : th.held = false) (hy : th.yielded = none) (hf : windowFree s t th = true) :
    ∃ u, exec (.windowGrant (.thread k tid)) s = .next u ∧ u.thread? k tid = some (stagingAt s.cycle th.arch.wbase th) := by
  rw [← grantWindow_awake hw hv]
  exact windowGrant_free ht hth (by simp [needsWindow, hw, hv, hh, hy]) hf

/-- A result that lands while the window is staged leaves its slot clean (R20). -/
theorem setReg_dirty_staging {th : Thread} (h : th.wait = some .staging) (j : Nat) (w : Word) : (setReg th j w).dirty = th.dirty := by
  simp [setReg, h]

theorem windowStaged_thread {s : State} {k tid : Nat} {th : Thread} (hth : s.thread? k tid = some th) (hw : th.wait = some .staging) :
    ∃ u, exec (.windowStaged (.thread k tid)) s = .next u ∧ u.thread? k tid = some { th with wait := none, held := true } := by
  refine ⟨_, rfl, (thread?_modThread_same hth _).trans ?_⟩
  simp only [hw]

theorem windowLoss_thread {s : State} {k tid : Nat} {th : Thread} (hth : s.thread? k tid = some th) (hl : losesWindow s th = true) :
    ∃ u, exec (.windowLoss (.thread k tid)) s = .next u ∧ u.thread? k tid = some { th with held := false, dirty := 0 } := by
  refine ⟨_, rfl, (thread?_modThread_same hth _).trans ?_⟩
  simp only [hl, if_true]

/-- Settles O10, by the rules above: RGN and a grant begin the same staging. -/
theorem windows : Obligations.Windows := by
  unfold Obligations.Windows
  refine ⟨fun _ _ _ h hr hoff => rgn_off h hr hoff, ?_, ?_, regOp_of fun _ _ => rfl, ?_⟩
  · rintro s c a h hr ⟨hon, hheld⟩
    exact rgn_held h hr hon hheld
  · rintro s c a h hr ⟨hon, hheld⟩
    exact rgn_waits h hr hon hheld
  · intro s k tid t th ht hth
    exact ⟨fun _ _ hw hf => windowGrant_region ht hth hw hf, fun hw hv hh hy hf => windowGrant_awake ht hth hw hv hh hy hf,
      fun j w hw => setReg_dirty_staging hw j w, fun hw => windowStaged_thread hth hw, fun hl => windowLoss_thread hth hl⟩

end Sys2Proof.Machine
end

section
/-! SUPPORT. REP (R125 to R128): its issue, and its elements one by one. -/

namespace Sys2Proof.Machine

/-! ## What a REP does to its thread -/

/-- The thread after a REP that issues with a count and an address: its operands are read (R32, R36). -/
def repBegun (c : Ctx) (a : Args) (rc : Word) (rnext : DWord) (th : Thread) : Thread :=
  { th with
    rep := some { op := .rep a, a := if modBits a.mod 3 0 = 1 ∨ repSize a = 8 then read64 c a.sa else (read32 c a.sa).zeroExtend 64,
                  d := read64 c a.dst }
    safe := if c.th.expansion.isNone then a.live else none
    arch := { th.arch with rc := rc, rnext := rnext } }

/-- The thread with its REP counted on flag set B (R26). -/
def repCounted (th : Thread) : Thread := { incFlag (decFlag th th.repFlag) (flagB th) with repFlag := flagB th }

/-- The thread with its REP counted no more (R127). -/
def repEnded (th : Thread) : Thread := { decFlag th th.repFlag with repFlag := none }

/-- The thread past an element. -/
def repNext (a : Args) (th : Thread) : Thread :=
  { th with arch := { th.arch with rc := th.arch.rc - 1, rnext := th.arch.rnext + BitVec.ofNat 64 (repSize a) } }

/-- The state with an element of a REP stored (R126). -/
def repStored (c : Ctx) (a : Args) (m : Loc) (bs : List Byte) (s : State) : State :=
  landStore (noteAccess s c.team c.th.arch.rnext m) c.team (.thread c.key c.tid)
    { op := .store bs, loc := m, size := repSize a, va := c.th.arch.rnext, flag := none, port := locPort m, no := c.team.nextCopy } bs false

/-- The state after an element that has been stored: the last one ends the count. -/
def repAfter (c : Ctx) (a : Args) (s : State) : State :=
  if c.th.arch.rc = 1 then afterDone c a (withThread c s fun th => repNext a (repEnded th)) else afterJump c a (withThread c s (repNext a))

/-- A REP is in progress and still counted from an earlier issue. -/
def repGoesOn (c : Ctx) : Bool := !decide (c.th.arch.rc = 0) && c.th.repFlag.isSome

theorem repGoesOn_counted {c : Ctx} (hrc : c.th.arch.rc ≠ 0) (hf : c.th.repFlag ≠ none) : repGoesOn c = true := by
  rw [repGoesOn, decide_eq_false hrc, Option.isSome_iff_ne_none.2 hf]
  rfl

theorem repGoesOn_fresh {c : Ctx} (hrc : c.th.arch.rc = 0) : repGoesOn c = false := by
  rw [repGoesOn, decide_eq_true hrc]
  rfl

theorem repGoesOn_uncounted {c : Ctx} (hf : c.th.repFlag = none) : repGoesOn c = false := by
  rw [repGoesOn, hf]
  exact Bool.and_false _

section
variable {s : State} {c : Ctx} {a : Args} (h : ctxOf s = some c) (hr : ready c 0 0x47 a = true)
include h hr

/-! ## Its issue -/

section
variable (hi : c.th.rep = none)
include hi

/-- A fresh REP of count 0 completes with its address alone. -/
theorem rep_nothing (hrc : c.th.arch.rc = 0) (hb : read32 c a.sb = 0) :
    exec (.rep a) s = .next (afterDone c a (withThread c c.s fun th => { th with arch := { th.arch with rnext := read64 c a.dst } })) := by
  change execRep a s = _
  unfold execRep
  rw [runThread_ready h hr]
  simp only [hi, repIssue, hrc, hb, and_self, if_true, withThread]

/-- A REP issues: a fresh one takes count and address, one in progress keeps its own; it counts on its flag, unless an earlier issue still does. -/
theorem rep_issues (hb : ¬(c.th.arch.rc = 0 ∧ read32 c a.sb = 0)) (hroom : (!repGoesOn c && flagFull c.th (flagB c.th)) = false) :
    exec (.rep a) s = .next (afterJump c a (withThread c c.s fun th =>
      repBegun c a (if c.th.arch.rc = 0 then read32 c a.sb else c.th.arch.rc) (if c.th.arch.rc = 0 then read64 c a.dst else c.th.arch.rnext)
        (if repGoesOn c then th else repCounted th))) := by
  change execRep a s = _
  unfold execRep
  rw [runThread_ready h hr]
  unfold repGoesOn at hroom
  simp only [hi, repIssue, hb, hroom, if_false, Bool.false_eq_true]
  refine congrArg _ (congrArg _ (modThread_congr (thread?_of_ctx h) ?_))
  unfold repGoesOn
  split <;> rfl

/-- One that finds no room on its flag waits for it (R26). -/
theorem rep_waits (hb : ¬(c.th.arch.rc = 0 ∧ read32 c a.sb = 0)) (hg : repGoesOn c = false) (hf : flagFull c.th (flagB c.th) = true) :
    exec (.rep a) s = .next (afterJump c a (withThread c c.s fun th => roomWait th c.s.cycle (flagB th))) := by
  change execRep a s = _
  unfold execRep
  rw [runThread_ready h hr]
  unfold repGoesOn at hg
  simp only [hi, repIssue, hb, hg, hf, if_false, Bool.not_false, Bool.true_and, if_true, withThread]

end

/-! ## Its elements -/

section
variable {r : Rep} (hrep : c.th.rep = some r)
include hrep

/-- An element whose destination is misaligned faults, and the REP counts no more. -/
theorem rep_misaligned (hal : c.th.arch.rnext.toNat % repSize a ≠ 0) :
    exec (.rep a) s = .next (afterJump c a (faultThread (withThread c c.s repEnded) c.key c.tid 0x08 c.th.arch.rnext)) := by
  change execRep a s = _
  unfold execRep
  rw [runThread_ready h hr]
  simp only [hrep, repStep, repElement, hal, ne_eq, not_false_eq_true, if_true]
  rfl

/-- An element that passes its checks, and has no copy or owner to follow, is stored. -/
theorem rep_stores {m : Loc} {src : Option (DWord × Loc)} {s1 : State} {bs : List Byte} (he : repElement c a r = .ok (m, src))
    (hd : repData c a r src = (s1, bs, false)) (hs : ∀ x ∈ src, copyHazard c.team c.tid x.2 (repSize a) false = none)
    (hc : copyHazard c.team c.tid m (repSize a) true = none) (ho : ownerOf c.s (.thread c.key c.tid) m = none) :
    exec (.rep a) s = .next (repAfter c a (repStored c a m bs s1)) := by
  have hsrc : (src.bind fun x => (copyHazard c.team c.tid x.2 (repSize a) false).map fun id => (id, x.2)) = none := by
    cases src with
    | none => rfl
    | some x => simp [hs x rfl]
  change execRep a s = _
  unfold execRep
  rw [runThread_ready h hr]
  simp only [hrep, repStep, he, hd, hsrc, hc, ho, Option.map_none, Option.or_none, Bool.false_eq_true, if_false]
  unfold repAfter
  by_cases hlast : c.th.arch.rc = 1
  · rw [if_pos hlast, if_pos hlast]
    rfl
  · rw [if_neg hlast, if_neg hlast]
    rfl

/-- An element of a fill. -/
theorem rep_fills {m : Loc} (hm : modBits a.mod 3 0 ≠ 1) (hal : c.th.arch.rnext.toNat % repSize a = 0)
    (hres : resolve s c.team c.th.arch.mode c.th.arch.rnext (repSize a) ⟨false, true⟩ = .ok m)
    (hc : copyHazard c.team c.tid m (repSize a) true = none) (ho : ownerOf c.s (.thread c.key c.tid) m = none) :
    exec (.rep a) s = .next (repAfter c a (repStored c a m (leBytes (repSize a) r.a.toNat) s)) := by
  have hs := ctxOf_state h
  refine rep_stores h hr hrep (src := none) ?_ ?_ (by simp) hc ho
  · simp only [repElement, hal, hm, hs, hres, ne_eq, not_true, if_false]
  · simp only [repData, hs]

/-- An element of a copy. -/
theorem rep_copies {l m : Loc} (hm : modBits a.mod 3 0 = 1) (hal : c.th.arch.rnext.toNat % repSize a = 0)
    (hsal : (r.a + (c.th.arch.rnext - r.d)).toNat % repSize a = 0)
    (hres : resolve s c.team c.th.arch.mode (r.a + (c.th.arch.rnext - r.d)) (repSize a) ⟨true, false⟩ = .ok l)
    (hres' : resolve s c.team c.th.arch.mode c.th.arch.rnext (repSize a) ⟨false, true⟩ = .ok m)
    (hbad : (load s c.team.core l (repSize a)).2.2 = false) (hl : copyHazard c.team c.tid l (repSize a) false = none)
    (hc : copyHazard c.team c.tid m (repSize a) true = none) (ho : ownerOf c.s (.thread c.key c.tid) m = none) :
    exec (.rep a) s = .next (repAfter c a (repStored c a m (load s c.team.core l (repSize a)).2.1
      (noteAccess (load s c.team.core l (repSize a)).1 c.team (r.a + (c.th.arch.rnext - r.d)) l))) := by
  have hs := ctxOf_state h
  refine rep_stores h hr hrep (src := some (r.a + (c.th.arch.rnext - r.d), l)) ?_ ?_ (by simpa using hl) hc ho
  · simp only [repElement, hal, hm, hs, hsal, hres, hres', ne_eq, not_true, if_false, if_true]
  · simp only [repData, hs, ← hbad]

end

end

/-- Settles O13, by the rules above: an issue counts, waits or goes on, and an element is stored or faults. -/
theorem stringOperation : Obligations.StringOperation := by
  unfold Obligations.StringOperation
  refine ⟨?_, ?_, ?_, ?_, ?_, ?_, ?_, ?_⟩
  · rintro s c a h hr ⟨hi, hrc, hb⟩
    exact rep_nothing h hr hi hrc hb
  · rintro s c a h hr ⟨hi, hrc, hb, hf⟩
    have hg := repGoesOn_fresh hrc
    rw [rep_issues h hr hi (fun hz => hb hz.2) (by rw [hf, Bool.and_false]), if_pos hrc, if_pos hrc, hg]
    rfl
  · rintro s c a h hr ⟨hi, hrc, hfl⟩
    have hg := repGoesOn_counted hrc hfl
    rw [rep_issues h hr hi (fun hz => hrc hz.1) (by rw [hg]; rfl), if_neg hrc, if_neg hrc, hg]
    rfl
  · rintro s c a h hr ⟨hi, hrc, hfl, hf⟩
    have hg := repGoesOn_uncounted hfl
    rw [rep_issues h hr hi (fun hz => hrc hz.1) (by rw [hf, Bool.and_false]), if_neg hrc, if_neg hrc, hg]
    rfl
  · rintro s c a h hr ⟨hi, hf, ⟨hrc, hb⟩ | ⟨hrc, hfl⟩⟩
    · exact rep_waits h hr hi (fun hz => hb hz.2) (repGoesOn_fresh hrc) hf
    · exact rep_waits h hr hi (fun hz => hrc hz.1) (repGoesOn_uncounted hfl) hf
  · rintro s c a r m h hr hrep hm hal hres ⟨hc, ho⟩
    exact rep_fills h hr hrep hm hal hres hc ho
  · rintro s c a r l m h hr hrep hm hal src hsal hres hres' x hbad hl ⟨hc, ho⟩
    exact rep_copies h hr hrep hm hal hsal hres hres' hbad hl hc ho
  · rintro s c a h hr ⟨hrun, hal⟩
    obtain ⟨r, hrep⟩ := Option.ne_none_iff_exists'.1 hrun
    exact rep_misaligned h hr hrep hal

end Sys2Proof.Machine
end

section
/-! SUPPORT. The uniform stream's accesses, transfers, barriers and end (R230 to R234), and the K registers that threads see (R36). -/

namespace Sys2Proof.Machine

/-! ## The K registers that a thread sees (R36) -/

/-- A thread reads K as the first KBAR that it has not met left it, or as a later one whose phase it has seen did. -/
theorem kFor_unmet {t : Team} {tid : Nat} {l r : List KView} {v : KView} (hk : t.kold = l ++ v :: r)
    (hl : ∀ x ∈ l, tid ∈ (AMap.get {} t.barriers x.b).who) (hv : tid ∉ (AMap.get {} t.barriers v.b).who) :
    kFor t tid = ((AMap.find v.seen tid).getD v.mark).k := by
  have hfind : (t.kold.find? fun v => !(AMap.get {} t.barriers v.b).who.contains tid) = some v := by
    rw [hk, List.find?_append, List.find?_eq_none.2 (by simpa using hl), Option.none_or]
    exact List.find?_cons_of_pos (by simpa using hv)
  rw [kFor, hfind]

/-- A thread that has met every KBAR reads K as it is. -/
theorem kFor_met {t : Team} {tid : Nat} (hall : ∀ x ∈ t.kold, tid ∈ (AMap.get {} t.barriers x.b).who) : kFor t tid = t.k := by
  rw [kFor, List.find?_eq_none.2 (by simpa using hall)]

/-- What a view becomes for a thread that has seen the phase of KBAR `m`. -/
def seesMark (tid : Nat) (m : KMark) (v : KView) : KView :=
  if v.mark.no < m.no ∧ (AMap.find v.seen tid).elim 0 KMark.no < m.no then { v with seen := AMap.set v.seen tid m } else v

theorem seesPhase_kold {t : Team} {tid b : Nat} {tok : BitVec 4} {m : KMark}
    (hm : AMap.find (AMap.get {} t.barriers b).marks tok.toNat = some m) : (seesPhase t tid b tok).kold = t.kold.map (seesMark tid m) := by
  simp only [seesPhase, hm]
  rfl

theorem seesMark_place (tid : Nat) (m : KMark) (v : KView) : (seesMark tid m v).b = v.b ∧ (seesMark tid m v).mark = v.mark := by
  unfold seesMark
  split <;> exact ⟨rfl, rfl⟩

theorem seesMark_other (m : KMark) (v : KView) {tid j : Nat} (hj : j ≠ tid) :
    AMap.find (seesMark tid m v).seen j = AMap.find v.seen j := by
  unfold seesMark
  split
  · exact AMap.find_set_other _ _ hj.symm
  · rfl

/-- A KBAR later than the view's own, and than any the thread has seen, is seen from now on. -/
theorem seesMark_later {tid : Nat} {m : KMark} {v : KView} (hv : v.mark.no < m.no)
    (hs : ∀ x, AMap.find v.seen tid = some x → x.no < m.no) : AMap.find (seesMark tid m v).seen tid = some m := by
  have hlt : (AMap.find v.seen tid).elim 0 KMark.no < m.no := by
    cases hx : AMap.find v.seen tid with
    | none => exact Nat.zero_lt_of_lt hv
    | some x => exact hs x hx
  rw [seesMark, if_pos ⟨hv, hlt⟩]
  exact AMap.find_set_same ..

/-- An earlier one changes nothing. -/
theorem seesMark_earlier {tid : Nat} {m : KMark} {v : KView}
    (h : m.no ≤ v.mark.no ∨ ∃ x, AMap.find v.seen tid = some x ∧ m.no ≤ x.no) : seesMark tid m v = v := by
  refine if_neg fun hlt => ?_
  obtain ⟨hv, hs⟩ := hlt
  rcases h with h | ⟨x, hx, h⟩
  · exact absurd hv (Nat.not_lt.2 h)
  · rw [hx] at hs
    exact absurd hs (Nat.not_lt.2 h)

/-! ## The uniform form of a barrier -/

/-- After the stream has retired, a thread arrives with the uniform form only on a barrier that is open in that form (R234). -/
theorem arriveBarrier_retired {t : Team} (hret : t.stream.retired = true) (tid b n : Nat) : arriveBarrier t tid b n true = none ∨
    (AMap.get {} t.barriers b).opened = true ∧ (AMap.get {} t.barriers b).u = true := by
  unfold arriveBarrier
  dsimp only
  split
  · exact .inl rfl
  · split
    · split
      · exact .inl rfl
      · rename_i hopen hsame
        simp only [not_or, not_not] at hsame
        exact .inr ⟨hopen, hsame.2.symm⟩
    · rw [if_pos (.inr ⟨rfl, hret⟩)]
      exact .inl rfl

/-- A KBAR meets a barrier that is open without the uniform form, or that the stream has met already: BARRIER_MISMATCH (R233). -/
theorem kbarBad_iff (x : Barrier) : ((x.opened && !x.u) || x.uarr) = true ↔ (x.opened = true ∧ x.u = false) ∨ x.uarr = true := by
  simp

/-- A K register written leaves the stream where it is. -/
@[simp] theorem kwrite_stream (t : Team) (d : Sel) (w : DWord) : (kwrite t d w).stream = t.stream := by
  cases d <;> rfl

section
variable {s : State} {k : Nat} {t : Team} {a : Args} (h : streamOf s = some (k, t))
include h

/-! ## KLD and KST -/

/-- A checked access of a stream, with room on its flag and no line of its own KCPs and drains in the way, is outstanding. -/
theorem kAccess_issues {opc : Nat} {mk : Team → AccOp} {size : Nat} {w : Want} {l : Loc} {flag : Option (BitVec 4)}
    (hr : kready s t opc a false = true) (hflag : flag = if w.write then t.stream.clause.bflag else t.stream.clause.aflag)
    (hroom : kflagFull t flag = false) (hl : resolve s t false (kread s t a.sa + a.aux.getD 0) size w = .ok l)
    (hbulk : (t.running.any fun r => (bulkLines s t r).contains (lineKey l)) = false)
    (heng : (t.granted.any fun g => (engineLines s t g.2).contains (lineKey l)) = false) :
    kAccess opc a s mk size w = .next (afterStream k a ((noteAccess s t (kread s t a.sa + a.aux.getD 0) l).modTeam k fun u =>
      kfInc { u with stream := { u.stream with out := u.stream.out ++ [
        { op := mk t, loc := l, size := size, va := kread s t a.sa + a.aux.getD 0, flag := flag, port := locPort l, pc := t.stream.pc }] } }
        flag)) := by
  subst hflag
  unfold kAccess
  rw [runStream_ready h hr]
  simp only [hl, hroom, hbulk, heng, Bool.false_eq_true, if_false]

/-! ## Transfers -/

theorem kbr_goes (hr : kready s t 0x10 a false = true) :
    exec (.kbr a) s = .next (s.setTeam k { t with stream := streamGo t.stream (t.stream.pc + a.aux.getD 0) }) := by
  change execKbr a s = _
  unfold execKbr
  rw [runStream_ready h hr]
  rfl

theorem kcall_goes (hr : kready s t 0x11 a false = true) :
    exec (.kcall a) s = .next (s.setTeam k { kwrite t a.dst (t.stream.pc + BitVec.ofNat 64 (8 * a.words)) with
      stream := streamGo (kwrite t a.dst (t.stream.pc + BitVec.ofNat 64 (8 * a.words))).stream (t.stream.pc + a.aux.getD 0) }) := by
  change execKcall a s = _
  unfold execKcall
  rw [runStream_ready h hr, kwrite_stream]
  rfl

theorem kret_goes (hr : kready s t 0x12 a false = true) (hal : (kread s t a.sa).toNat % 8 = 0) :
    exec (.kret a) s = .next (s.setTeam k { t with stream := streamGo t.stream (kread s t a.sa) }) := by
  change execKret a s = _
  unfold execKret
  rw [runStream_ready h hr]
  simp only [hal, ne_eq, not_true, if_false]

theorem kret_faults (hr : kready s t 0x12 a false = true) (hal : (kread s t a.sa).toNat % 8 ≠ 0) :
    exec (.kret a) s = .next (faultStream s k 0x08 (kread s t a.sa)) := by
  change execKret a s = _
  unfold execKret
  rw [runStream_ready h hr]
  simp only [hal, ne_eq, not_false_eq_true, if_true]
  rfl

/-! ## KBAR -/

section
variable (hr : kready s t 0x13 a false = true)
include hr

theorem kbar_faults (hbad : ((AMap.get {} t.barriers a.sa.toNum).opened = true ∧ (AMap.get {} t.barriers a.sa.toNum).u = false) ∨
    (AMap.get {} t.barriers a.sa.toNum).uarr = true) :
    exec (.kbar a) s = .next (faultStream s k 0x16 (BitVec.ofNat 64 a.sa.toNum)) := by
  change execKbar a s = _
  unfold execKbar
  rw [runStream_ready h hr]
  simp only [(kbarBad_iff _).2 hbad, if_true]
  rfl

section
variable (hok : ¬(((AMap.get {} t.barriers a.sa.toNum).opened = true ∧ (AMap.get {} t.barriers a.sa.toNum).u = false) ∨
  (AMap.get {} t.barriers a.sa.toNum).uarr = true))
include hok

/-- A KBAR that arrives goes on, unless it is one that waits and its phase goes on. -/
theorem kbar_passes (hgo : modBits a.mod 9 9 ≠ 1 ∨
    (AMap.get {} (arriveKbar t a.sa.toNum).barriers a.sa.toNum).phase ≠ (AMap.get {} t.barriers a.sa.toNum).phase) :
    exec (.kbar a) s = .next (afterStream k a (touchBarrier (s.setTeam k (arriveKbar t a.sa.toNum)) k a.sa.toNum)) := by
  have hno := not_and_or.2 hgo
  change execKbar a s = _
  unfold execKbar
  rw [runStream_ready h hr]
  simp only [Bool.eq_false_iff.2 (mt (kbarBad_iff _).1 hok), hno, Bool.false_eq_true, if_false]

theorem kbar_stays (hw : modBits a.mod 9 9 = 1)
    (hph : (AMap.get {} (arriveKbar t a.sa.toNum).barriers a.sa.toNum).phase = (AMap.get {} t.barriers a.sa.toNum).phase) :
    exec (.kbar a) s = .next (touchBarrier (s.setTeam k { arriveKbar t a.sa.toNum with
      stream := { (arriveKbar t a.sa.toNum).stream with
        wait := some (.barrier a.sa.toNum (AMap.get {} t.barriers a.sa.toNum).phase (8 * a.words)) } }) k a.sa.toNum) := by
  change execKbar a s = _
  unfold execKbar
  rw [runStream_ready h hr]
  simp only [Bool.eq_false_iff.2 (mt (kbarBad_iff _).1 hok), hw, hph, and_self, Bool.false_eq_true, if_false, if_true]

end

end

/-! ## KWAIT and KEXIT -/

theorem kwait_passes (hr : kready s t 0x14 a false = true) (hn : AMap.get 0 t.kf a.sa.toNum ≤ (kread s t a.sb).toNat) :
    exec (.kwait a) s = .next (afterStream k a s) := by
  change execKwait a s = _
  unfold execKwait
  rw [runStream_ready h hr]
  simp only [hn, if_true]

theorem kwait_waits (hr : kready s t 0x14 a false = true) (hn : (kread s t a.sb).toNat < AMap.get 0 t.kf a.sa.toNum) :
    exec (.kwait a) s = .next (s.setTeam k { t with
      stream := { t.stream with wait := some (.flag (BitVec.ofNat 4 a.sa.toNum) (kread s t a.sb).toNat (8 * a.words)) } }) := by
  change execKwait a s = _
  unfold execKwait
  rw [runStream_ready h hr]
  simp only [Nat.not_le.2 hn, if_false]

section
variable (hr : kready s t 0x16 a false = true) (hkf : ∀ p ∈ t.kf, p.2 = 0) (hb : t.bulk = []) (hrun : t.running = none) (hm : t.matrix = [])
include hr hkf hb hrun hm

/-- A stream with nothing left to wait for ends, or faults on the first barrier that it has not met. -/
theorem kexit_done : exec (.kexit a) s = .next ((t.barriers.find? fun p => p.2.opened && p.2.u && !p.2.uarr).elim
    (s.setTeam k { t with stream := { t.stream with retired := true } }) fun p => faultStream s k 0x16 (BitVec.ofNat 64 p.1)) := by
  have hkf' : (t.kf.all fun p => p.2 == 0) = true := by simpa using hkf
  change execKexit a s = _
  unfold execKexit
  rw [runStream_ready h hr]
  simp only [hkf', hb, hrun, hm, List.isEmpty_nil, Option.isNone_none, Bool.and_self, if_true]
  cases t.barriers.find? fun p => p.2.opened && p.2.u && !p.2.uarr <;> rfl

theorem kexit_retires (hbar : ∀ p ∈ t.barriers, p.2.opened = true → p.2.u = true → p.2.uarr = true) :
    exec (.kexit a) s = .next (s.setTeam k { t with stream := { t.stream with retired := true } }) := by
  rw [kexit_done h hr hkf hb hrun hm, List.find?_eq_none.2 fun p hp => by simpa using hbar p hp, Option.elim_none]

theorem kexit_faults {b : Nat} {x : Barrier} {l r : List (Nat × Barrier)} (hbs : t.barriers = l ++ (b, x) :: r)
    (hl : ∀ p ∈ l, ¬(p.2.opened = true ∧ p.2.u = true ∧ p.2.uarr = false)) (ho : x.opened = true) (hu : x.u = true) (ha : x.uarr = false) :
    exec (.kexit a) s = .next (faultStream s k 0x16 (BitVec.ofNat 64 b)) := by
  have hfind : (t.barriers.find? fun p => p.2.opened && p.2.u && !p.2.uarr) = some (b, x) := by
    rw [hbs, List.find?_append, List.find?_eq_none.2 fun p hp => by simpa using hl p hp]
    simp [ho, hu, ha]
  rw [kexit_done h hr hkf hb hrun hm, hfind, Option.elim_some]

end

end

/-- Settles O40, by the rules above: each operation of the stream with its cases, and what a thread sees of the K registers. -/
theorem uniformControl : Obligations.UniformControl := by
  unfold Obligations.UniformControl
  refine ⟨?_, fun _ _ _ _ h hr _ => kbr_goes h hr, fun _ _ _ _ h hr _ => kcall_goes h hr, fun _ _ _ _ h hr hal => kret_goes h hr hal,
    fun _ _ _ _ h hr hal => kret_faults h hr hal, ⟨?_, ?_, fun _ _ _ _ h hr hbad => kbar_faults h hr hbad⟩, ?_,
    fun _ _ hall => kFor_met hall, ?_, fun _ _ _ _ h hr hn => kwait_passes h hr hn, fun _ _ _ _ h hr hn => kwait_waits h hr hn, ?_, ?_,
    fun _ tid b n hret => arriveBarrier_retired hret tid b n⟩
  · rintro s k t a l h ⟨hbulk, heng⟩
    refine ⟨fun j hr hd hroom hl => ?_, fun hr hroom hl => ?_⟩
    · change execKld a s = _
      unfold execKld
      rw [hd]
      exact kAccess_issues h hr rfl hroom hl hbulk heng
    · change execKst a s = _
      exact kAccess_issues h hr rfl hroom hl hbulk heng
  · rintro s k t a h hr ⟨hok, hgo⟩
    exact kbar_passes h hr hok hgo
  · rintro s k t a h hr ⟨hok, hw, hph⟩
    exact kbar_stays h hr hok hw hph
  · intro t tid l r v hk hl hv
    rw [kFor_unmet hk hl hv]
    exact ⟨fun hn => by rw [hn, Option.getD_none], fun m hm => by rw [hm, Option.getD_some]⟩
  · intro t tid b tok m hm
    refine ⟨seesMark tid m, seesPhase_kold hm, fun v => ?_⟩
    obtain ⟨hb, hmark⟩ := seesMark_place tid m v
    exact ⟨hb, hmark, fun j hj => seesMark_other m v hj, fun hv hs => seesMark_later hv hs, fun he => by rw [seesMark_earlier he]⟩
  · rintro s k t a h hr ⟨hkf, hb, hrun, hm, hbar⟩
    exact kexit_retires h hr hkf hb hrun hm hbar
  · intro s k b t a x l r h hr hkf hb hrun hm hbs hl ho hu ha
    exact kexit_faults h hr hkf hb hrun hm hbs hl ho hu ha

end Sys2Proof.Machine
end

section
/-! SUPPORT. The state after reset (R12, R484). -/

namespace Sys2Proof.Machine

/-- An unlisted byte reads 0 (log 4). -/
theorem reset_readByte_phys (a : Nat) : readByte State.reset (.phys a) = 0 := rfl

/-- Settles O56: the reset state is written out, so each field has its value by definition. -/
theorem resetState : Obligations.ResetState := by
  unfold Obligations.ResetState
  exact ⟨rfl, rfl, rfl, rfl, rfl, rfl, rfl, rfl, rfl, rfl, rfl, rfl, rfl, rfl, rfl, rfl, rfl, rfl, rfl, reset_wf, reset_readByte_phys,
    fun _ _ _ => rfl⟩

end Sys2Proof.Machine
end

section
/-! SUPPORT. Decode of encode (R66 to R85): each field of an encoded word reads back, and so the instruction or header does. -/

namespace Sys2Proof

/-! ## Selectors -/

/-- The operands that a 9-bit selector of a class names (R69, R71). -/
def Sel.nameable (cls : Nat) : Sel → Bool
  | .v _ | .n _ => cls != 2
  | .k _ | .e _ | .imm _ => true
  | .sp p hi => !hi || p.is64
  | _ => false

theorem specialOf_specialNum (p : Special) (hi : Bool) (h : (!hi || p.is64) = true) :
    specialOf (specialNum p + if hi then 1 else 0) = some (.sp p hi) := by
  revert h
  cases p <;> cases hi <;> decide

theorem specialNum_range (p : Special) (hi : Bool) :
    336 ≤ specialNum p + (if hi then 1 else 0) ∧ specialNum p + (if hi then 1 else 0) < 384 := by
  cases p <;> cases hi <;> decide

theorem specialOf_e : ∀ j : BitVec 3, specialOf (360 + j.toNat) = some (.e j) := by decide

/-- The selectors of the special registers (R69). -/
theorem operandOf_special {cls x : Nat} (hlo : 336 ≤ x) (hhi : x < 384) : operandOf cls x = specialOf x := by
  simp [operandOf, show ¬x < 272 by omega, show ¬x < 336 by omega, hhi]

/-- A selector reads back as the operand that it was written for. -/
theorem operandOf_selNum {cls : Nat} {s : Sel} (h : s.nameable cls = true) : operandOf cls (selNum s) = some s := by
  cases s with
  | v j =>
    have := j.isLt
    have hc : cls ≠ 2 := by simpa [Sel.nameable] using h
    simp [operandOf, selNum, hc, show j.toNat < 272 by omega, show j.toNat < 256 by omega]
  | n i =>
    have := i.isLt
    have hc : cls ≠ 2 := by simpa [Sel.nameable] using h
    simp [operandOf, selNum, hc, show 256 + i.toNat < 272 by omega]
  | k j =>
    have := j.isLt
    simp [operandOf, selNum, show 272 + j.toNat < 336 by omega]
  | sp p hi =>
    obtain ⟨hlo, hhi⟩ := specialNum_range p hi
    exact (operandOf_special hlo hhi).trans (specialOf_specialNum p hi h)
  | e j =>
    have := j.isLt
    exact (operandOf_special (x := 360 + j.toNat) (by omega) (by omega)).trans (specialOf_e j)
  | imm i => simp [operandOf, selNum, show ¬384 + i.toNat < 272 by omega, show ¬384 + i.toNat < 336 by omega]
  | none | ext | num | t | big | val => cases h

theorem selNum_lt (s : Sel) : selNum s < 512 := by
  cases s with
  | sp p hi => have := (specialNum_range p hi).2; simp only [selNum]; omega
  | v j | n j | k j | e j | imm j => have := j.isLt; simp only [selNum]; omega
  | num x => simp only [selNum]; omega
  | none | ext | t | big | val => simp [selNum]

/-! ## Positions -/

/-- The kinds that hold an operand: neither unused nor a number (R70, R96). -/
def PosKind.isOperand : PosKind → Bool
  | .unused | .zero | .num _ => false
  | _ => true

/-- The kinds of the positions of class 10 (R71, R83). -/
def PosKind.uniform : PosKind → Bool
  | .unused | .zero | .num _ | .immU | .ks | .kd | .kli => true
  | _ => false

/-- No position of class 10 holds a thread's register. -/
theorem shape2_uniform {opc : Nat} {m : BitVec 10} {s : Shape} (h : shape2 opc m = some s) :
    s.dst.uniform = true ∧ s.sa.uniform = true ∧ s.sb.uniform = true ∧ s.sc.uniform = true := by
  unfold shape2 at h
  dsimp only at h
  split at h
  all_goals simp only [Option.ite_none_right_eq_some, Option.some.injEq, reduceCtorEq] at h
  all_goals obtain ⟨_, rfl⟩ := h
  all_goals refine ⟨?_, ?_, ?_, ?_⟩ <;> dsimp only
  all_goals repeat' split
  all_goals rfl

/-- What a position of an operand holds natively, and no extension word supplies, its selector names: no register of a thread in class 10, and a
special's odd half only where it has one. -/
theorem nameable_of_okFor {cls : Nat} {k : PosKind} {s : Sel} (hk : k.isOperand = true) (hok : Sel.okFor k s = true) (hn : s.native = true)
    (he : s.isExt = false) (hu : cls = 2 → k.uniform = true) : s.nameable cls = true := by
  cases s with
  | k | e | imm => rfl
  | ext => cases he
  | t | big | val => cases hn
  | none | num => cases k <;> simp [PosKind.isOperand, Sel.okFor] at hk hok
  | v | n =>
    have hc : cls ≠ 2 := fun h => by
      have := hu h
      cases k <;> simp [PosKind.isOperand, PosKind.uniform, Sel.okFor] at hk this hok
    simp [Sel.nameable, hc]
  | sp p hi => cases k <;> simp_all [PosKind.isOperand, Sel.okFor, Sel.nameable]

/-- A selector without what an extension word supplies (R73). -/
def Sel.dropExt : Sel → Sel
  | .ext _ => .none
  | s => s

theorem dropExt_of_not_isExt {s : Sel} (h : s.isExt = false) : s.dropExt = s := by
  cases s with
  | ext x => cases h
  | _ => rfl

theorem parseSel_operand {k : PosKind} (h : k.isOperand = true) (cls x : Nat) : parseSel cls k x = operandOf cls x := by
  cases k with
  | unused | zero | num => cases h
  | _ => rfl

/-- What a position holds natively reads back, unless an extension word supplies it. -/
theorem parseSel_selNum {cls : Nat} {k : PosKind} {s : Sel} (hok : Sel.okFor k s = true) (hn : s.native = true) (he : s.isExt = false)
    (hu : cls = 2 → k.uniform = true) : parseSel cls k (selNum s) = some s := by
  cases hk : k.isOperand with
  | true => rw [parseSel_operand hk, operandOf_selNum (nameable_of_okFor hk hok hn he hu)]
  | false => cases k <;> cases s <;> simp_all [PosKind.isOperand, Sel.okFor, Sel.native, parseSel, selNum]

/-- A position reads back, but for what its extension word supplies. -/
theorem parsePos_selNum {cls : Nat} {k : PosKind} {s : Sel} (hok : Sel.okFor k s = true) (hn : s.native = true)
    (hu : cls = 2 → k.uniform = true) : parsePos cls k (selNum s) s.isExt = .ok s.dropExt := by
  cases he : s.isExt with
  | true => cases s <;> cases he; rfl
  | false => simp [parsePos, parseSel_selNum hok hn he hu, dropExt_of_not_isExt he]

/-- A destination holds no extended operand, so it reads back whole. -/
theorem parsePos_dst {cls : Nat} {k : PosKind} {s : Sel} (hok : Sel.okFor k s = true) (hn : s.native = true) (he : s.isExt = false)
    (hu : cls = 2 → k.uniform = true) : parsePos cls k (selNum s) false = .ok s := by
  simpa [he, dropExt_of_not_isExt he] using parsePos_selNum hok hn hu

/-! ## The fields of an instruction word (R66) -/

theorem guardNum_lt (g : Guard) : guardNum g < 64 := by
  cases g with
  | always => decide
  | on j neg => have := j.isLt; cases neg <;> simp only [guardNum] <;> simp <;> omega

theorem bitNat_le (b : Bool) : bitNat b ≤ 1 := by cases b <;> decide

/-- Every field has its bits of the word. -/
theorem fields_lt (a : Args) : a.mod.toNat < 1024 ∧ guardNum a.guard < 64 ∧ bitNat a.live.isSome ≤ 1 ∧ bitNat (extWord a).isSome ≤ 1 ∧
    selNum a.dst < 512 ∧ selNum a.sa < 512 ∧ selNum a.sb < 512 ∧ selNum a.sc < 512 :=
  ⟨a.mod.isLt, guardNum_lt _, bitNat_le _, bitNat_le _, selNum_lt _, selNum_lt _, selNum_lt _, selNum_lt _⟩

theorem opWord_toNat {cls opc : Nat} (a : Args) (hcls : cls < 3) (hopc : opc < 256) : (opWord cls opc a).toNat =
    cls * 2 ^ 62 + opc * 2 ^ 54 + a.mod.toNat * 2 ^ 44 + guardNum a.guard * 2 ^ 38 + bitNat a.live.isSome * 2 ^ 37 +
      bitNat (extWord a).isSome * 2 ^ 36 + selNum a.dst * 2 ^ 27 + selNum a.sa * 2 ^ 18 + selNum a.sb * 2 ^ 9 + selNum a.sc := by
  obtain ⟨hm, hg, hl, hx, h0, h1, h2, h3⟩ := fields_lt a
  simp only [opWord, BitVec.toNat_ofNat]
  omega

section
variable {cls opc : Nat} (a : Args) (hcls : cls < 3) (hopc : opc < 256)
include hcls hopc

/-- The fields of an instruction word read back. -/
theorem bitsOf_opWord :
    bitsOf (opWord cls opc a) 63 62 = cls ∧ bitsOf (opWord cls opc a) 61 54 = opc ∧ bitsOf (opWord cls opc a) 53 44 = a.mod.toNat ∧
    bitsOf (opWord cls opc a) 37 37 = bitNat a.live.isSome ∧ bitsOf (opWord cls opc a) 36 36 = bitNat (extWord a).isSome ∧
    bitsOf (opWord cls opc a) 35 27 = selNum a.dst ∧ bitsOf (opWord cls opc a) 26 18 = selNum a.sa ∧
    bitsOf (opWord cls opc a) 17 9 = selNum a.sb ∧ bitsOf (opWord cls opc a) 8 0 = selNum a.sc := by
  obtain ⟨hm, hg, hl, hx, h0, h1, h2, h3⟩ := fields_lt a
  simp only [bitsOf, opWord_toNat a hcls hopc]
  refine ⟨?_, ?_, ?_, ?_, ?_, ?_, ?_, ?_, ?_⟩ <;> omega

/-- So do the four bits of its guard. -/
theorem bitsOf_opWord_guard :
    bitsOf (opWord cls opc a) 43 43 = guardNum a.guard / 32 ∧ bitsOf (opWord cls opc a) 42 42 = guardNum a.guard / 16 % 2 ∧
    bitsOf (opWord cls opc a) 41 41 = guardNum a.guard / 8 % 2 ∧ bitsOf (opWord cls opc a) 41 38 = guardNum a.guard % 16 := by
  obtain ⟨hm, hg, hl, hx, h0, h1, h2, h3⟩ := fields_lt a
  simp only [bitsOf, opWord_toNat a hcls hopc]
  refine ⟨?_, ?_, ?_, ?_⟩ <;> omega

/-- The guard reads back; class 10 has q0 to q7 alone (R71). -/
theorem guardOf_opWord (hg : cls = 2 → ∀ j neg, a.guard = .on j neg → j.toNat < 8) : guardOf cls (opWord cls opc a) = some a.guard := by
  obtain ⟨h43, h42, h41, h38⟩ := bitsOf_opWord_guard a hcls hopc
  unfold guardOf
  rw [h43, h42, h41, h38]
  cases hag : a.guard with
  | always => simp [guardNum]
  | on j neg =>
    have hj := j.isLt
    have h8 : cls = 2 → j.toNat < 8 := fun h => hg h j neg hag
    have hn : guardNum (.on j neg) = 32 + bitNat neg * 16 + j.toNat := by cases neg <;> rfl
    have hb := bitNat_le neg
    rw [hn, if_neg (by omega), if_neg (by omega), show (32 + bitNat neg * 16 + j.toNat) % 16 = j.toNat by omega,
      show (32 + bitNat neg * 16 + j.toNat) / 16 % 2 = bitNat neg by omega]
    cases neg <;> simp [bitNat]

end

/-! ## Extension words and live records (R72, R77) -/

/-- An extension word that supplies a value to a position. -/
def extensionWord (sel : Nat) (x : BitVec 48) : DWord := BitVec.ofNat 64 (3 * 2 ^ 62 + 2 * 2 ^ 58 + sel * 2 ^ 50 + x.toNat)

theorem bitsOf_extensionWord {sel : Nat} (x : BitVec 48) (h : sel < 4) :
    bitsOf (extensionWord sel x) 63 62 = 3 ∧ bitsOf (extensionWord sel x) 61 58 = 2 ∧ bitsOf (extensionWord sel x) 51 50 = sel ∧
      bitsOf (extensionWord sel x) 47 0 = x.toNat := by
  have hx := x.isLt
  simp only [bitsOf, extensionWord, BitVec.toNat_ofNat]
  refine ⟨?_, ?_, ?_, ?_⟩ <;> omega

theorem bitsOf_liveWord (l : LiveRec) : bitsOf (liveWord l) 63 62 = 3 ∧ bitsOf (liveWord l) 61 58 = 1 := by
  have hp := l.pmask.isLt
  have hv := l.vmask.isLt
  have h1 := bitNat_le l.lc1
  have h0 := bitNat_le l.lc0
  simp only [bitsOf, liveWord, BitVec.toNat_ofNat]
  constructor <;> omega

theorem bitNat_beq_one (b : Bool) : (bitNat b == 1) = b := by cases b <;> rfl

theorem liveOf_liveWord (l : LiveRec) : liveOf (liveWord l) = l := by
  have hp := l.pmask.isLt
  have hv := l.vmask.isLt
  have h1 := bitNat_le l.lc1
  have h0 := bitNat_le l.lc0
  have e1 : bitsOf (liveWord l) 57 57 = bitNat l.lc1 := by simp only [bitsOf, liveWord, BitVec.toNat_ofNat]; omega
  have e0 : bitsOf (liveWord l) 56 56 = bitNat l.lc0 := by simp only [bitsOf, liveWord, BitVec.toNat_ofNat]; omega
  have ep : bitsOf (liveWord l) 47 32 = l.pmask.toNat := by simp only [bitsOf, liveWord, BitVec.toNat_ofNat]; omega
  have ev : bitsOf (liveWord l) 31 0 = l.vmask.toNat := by simp only [bitsOf, liveWord, BitVec.toNat_ofNat]; omega
  simp [liveOf, e1, e0, ep, ev, bitNat_beq_one]

/-! ## Clause headers (R74) -/

/-- A flag set of a header as its five bits. -/
def flagNum : Option (BitVec 4) → Nat
  | some j => 16 + j.toNat
  | none => 0

theorem flagNum_lt (f : Option (BitVec 4)) : flagNum f < 32 := by
  cases f with
  | none => decide
  | some j => have := j.isLt; simp only [flagNum]; omega

/-- A flag set reads back from its bits. -/
theorem flag_of_flagNum (f : Option (BitVec 4)) :
    (if flagNum f / 16 = 1 then some (BitVec.ofNat 4 (flagNum f % 16)) else none) = f := by
  cases f with
  | none => rfl
  | some j =>
    have := j.isLt
    have hm : (16 + j.toNat) % 16 = j.toNat := by omega
    simp only [flagNum, hm, show (16 + j.toNat) / 16 = 1 by omega, if_true, BitVec.ofNat_toNat, BitVec.setWidth_eq]

theorem headerWord_toNat (h : Header) : (headerWord h).toNat = 3 * 2 ^ 62 + h.wait.toNat * 2 ^ 46 + flagNum h.aflag * 2 ^ 41 +
    flagNum h.bflag * 2 ^ 36 + h.count.toNat * 2 ^ 33 + h.prio.toNat * 2 ^ 24 := by
  have hw := h.wait.isLt
  have hc := h.count.isLt
  have hp := h.prio.isLt
  simp only [headerWord, BitVec.toNat_ofNat]
  cases ha : h.aflag with
  | none => cases hb : h.bflag with
    | none => simp only [flagNum]; omega
    | some j => have := j.isLt; simp only [flagNum]; omega
  | some i => have := i.isLt; cases hb : h.bflag with
    | none => simp only [flagNum]; omega
    | some j => have := j.isLt; simp only [flagNum]; omega

/-- The fields of a header read back. -/
theorem bitsOf_headerWord (h : Header) :
    bitsOf (headerWord h) 63 62 = 3 ∧ bitsOf (headerWord h) 61 58 = 0 ∧ bitsOf (headerWord h) 57 46 = h.wait.toNat ∧
    bitsOf (headerWord h) 45 45 = flagNum h.aflag / 16 ∧ bitsOf (headerWord h) 44 41 = flagNum h.aflag % 16 ∧
    bitsOf (headerWord h) 40 40 = flagNum h.bflag / 16 ∧ bitsOf (headerWord h) 39 36 = flagNum h.bflag % 16 ∧
    bitsOf (headerWord h) 35 33 = h.count.toNat ∧ bitsOf (headerWord h) 31 24 = h.prio.toNat := by
  have hw := h.wait.isLt
  have hc := h.count.isLt
  have hp := h.prio.isLt
  have ha := flagNum_lt h.aflag
  have hb := flagNum_lt h.bflag
  simp only [bitsOf, headerWord_toNat]
  refine ⟨?_, ?_, ?_, ?_, ?_, ?_, ?_, ?_, ?_⟩ <;> omega

/-- A header reads back from its word. -/
theorem decodeHeader_headerWord {h : Header} (hok : h.ok = true) : decodeHeader (headerWord h) = .ok h := by
  obtain ⟨_, _, hwait, ha, haj, hb, hbj, hcount, hprio⟩ := bitsOf_headerWord h
  simp only [decodeHeader, hwait, ha, haj, hb, hbj, hcount, hprio, flag_of_flagNum, BitVec.ofNat_toNat, BitVec.setWidth_eq]
  rw [if_pos hok]

theorem decodeWords_headerWord {h : Header} (hok : h.ok = true) : decodeWords [headerWord h] = .ok (.clauseHeader h, 1) := by
  obtain ⟨hcls, hsub, _⟩ := bitsOf_headerWord h
  simp only [decodeWords, hcls, hsub, if_true, decodeHeader_headerWord hok]
  rfl

/-! ## What an extension word supplies (R73) -/

/-- How many of an instruction's values an extension word would supply. -/
def Args.extensions (a : Args) : Nat :=
  (if a.sa.isExt then 1 else 0) + (if a.sb.isExt then 1 else 0) + (if a.sc.isExt then 1 else 0) + (if a.aux.isSome then 1 else 0)

@[simp] theorem isExt_ext (x : BitVec 48) : (Sel.ext x).isExt = true := rfl

theorem isExt_cases (s : Sel) : s.isExt = false ∨ ∃ x, s = .ext x := by
  cases s with
  | ext x => exact .inr ⟨x, rfl⟩
  | _ => exact .inl rfl

/-- At most one value is supplied, and the extension word names its place. -/
theorem extWord_cases {a : Args} (hone : a.extensions ≤ 1) :
    (a.sa.isExt = false ∧ a.sb.isExt = false ∧ a.sc.isExt = false ∧ a.aux = none ∧ extWord a = none) ∨
    (∃ x, a.sa = .ext x ∧ a.sb.isExt = false ∧ a.sc.isExt = false ∧ a.aux = none ∧ extWord a = some (extensionWord 0 x)) ∨
    (∃ x, a.sa.isExt = false ∧ a.sb = .ext x ∧ a.sc.isExt = false ∧ a.aux = none ∧ extWord a = some (extensionWord 1 x)) ∨
    (∃ x, a.sa.isExt = false ∧ a.sb.isExt = false ∧ a.sc = .ext x ∧ a.aux = none ∧ extWord a = some (extensionWord 2 x)) ∨
    (∃ x : DWord, a.sa.isExt = false ∧ a.sb.isExt = false ∧ a.sc.isExt = false ∧ a.aux = some x ∧
      extWord a = some (extensionWord 3 (x.truncate 48))) := by
  unfold Args.extensions at hone
  unfold extWord
  split
  case h_1 x ha =>
    refine .inr (.inl ⟨x, ha, ?_⟩)
    cases hb : a.sb.isExt <;> cases hc : a.sc.isExt <;> cases hx : a.aux <;> simp_all [extensionWord]
  case h_2 x hb hna =>
    refine .inr (.inr (.inl ⟨x, ?_, hb, ?_⟩))
    all_goals cases ha : a.sa.isExt <;> cases hc : a.sc.isExt <;> cases hx : a.aux <;> simp_all [extensionWord]
  case h_3 x hc hna hnb =>
    refine .inr (.inr (.inr (.inl ⟨x, ?_, ?_, hc, ?_⟩)))
    all_goals cases ha : a.sa.isExt <;> cases hb : a.sb.isExt <;> cases hx : a.aux <;> simp_all [extensionWord]
  case h_4 x hx hna hnb hnc =>
    refine .inr (.inr (.inr (.inr ⟨x, ?_, ?_, ?_, hx, rfl⟩)))
    · exact (isExt_cases a.sa).resolve_right fun ⟨y, h⟩ => hna y h
    · exact (isExt_cases a.sb).resolve_right fun ⟨y, h⟩ => hnb y h
    · exact (isExt_cases a.sc).resolve_right fun ⟨y, h⟩ => hnc y h
  case h_5 hna hnb hnc hnx =>
    refine .inl ⟨?_, ?_, ?_, ?_, rfl⟩
    · exact (isExt_cases a.sa).resolve_right fun ⟨y, h⟩ => hna y h
    · exact (isExt_cases a.sb).resolve_right fun ⟨y, h⟩ => hnb y h
    · exact (isExt_cases a.sc).resolve_right fun ⟨y, h⟩ => hnc y h
    · exact Option.eq_none_iff_forall_ne_some.2 hnx

/-- The fields that the instruction word holds by itself. -/
def Args.ownWord (a : Args) : Args := { a with sa := a.sa.dropExt, sb := a.sb.dropExt, sc := a.sc.dropExt, aux := none }

/-- A value that stands in a position is one that an extension word may supply there. -/
theorem admitsExt_of_okFor {k : PosKind} {x : BitVec 48} (h : Sel.okFor k (.ext x) = true) : k.admitsExt = true := by
  cases k with
  | r32 | r64 | pk | ks | kli => rfl
  | _ => cases h

section
variable {s : Shape} {a : Args} {x : BitVec 48}

/-- What an extension word for each place does. -/
theorem applyExt_sa (h : s.sa.admitsExt = true) : applyExt s a (extensionWord 0 x) = .ok { a with sa := .ext x } := by
  obtain ⟨_, _, hs, hx⟩ := bitsOf_extensionWord x (sel := 0) (by decide)
  simp [applyExt, hs, hx, h]
theorem applyExt_sb (h : s.sb.admitsExt = true) : applyExt s a (extensionWord 1 x) = .ok { a with sb := .ext x } := by
  obtain ⟨_, _, hs, hx⟩ := bitsOf_extensionWord x (sel := 1) (by decide)
  simp [applyExt, hs, hx, h]
theorem applyExt_sc (h : s.sc.admitsExt = true) : applyExt s a (extensionWord 2 x) = .ok { a with sc := .ext x } := by
  obtain ⟨_, _, hs, hx⟩ := bitsOf_extensionWord x (sel := 2) (by decide)
  simp [applyExt, hs, hx, h]
theorem applyExt_aux (h : s.aux ≠ .never) : applyExt s a (extensionWord 3 x) = .ok { a with aux := some (x.signExtend 64) } := by
  obtain ⟨_, _, hs, hx⟩ := bitsOf_extensionWord x (sel := 3) (by decide)
  simp [applyExt, hs, hx, h]

theorem extSel_extensionWord {sel : Nat} (h : sel < 4) : extSel (some (extensionWord sel x)) = some sel :=
  congrArg some (bitsOf_extensionWord x h).2.2.1

end

/-- The extension word of an instruction names the position that is extended. -/
theorem extSel_extWord {a : Args} (hone : a.extensions ≤ 1) :
    (extSel (extWord a) == some 0) = a.sa.isExt ∧ (extSel (extWord a) == some 1) = a.sb.isExt ∧
      (extSel (extWord a) == some 2) = a.sc.isExt := by
  rcases extWord_cases hone with ⟨ha, hb, hc, _, he⟩ | ⟨x, ha, hb, hc, _, he⟩ | ⟨x, ha, hb, hc, _, he⟩ | ⟨x, ha, hb, hc, _, he⟩ |
    ⟨x, ha, hb, hc, _, he⟩
  · simp [he, ha, hb, hc, extSel]
  all_goals rw [he, extSel_extensionWord (by decide)]; simp [ha, hb, hc]

theorem extWord_eq {a : Args} (hone : a.extensions ≤ 1) {y : DWord} (h : extWord a = some y) :
    ∃ sel x, sel < 4 ∧ y = extensionWord sel x := by
  rcases extWord_cases hone with ⟨_, _, _, _, he⟩ | ⟨x, _, _, _, _, he⟩ | ⟨x, _, _, _, _, he⟩ | ⟨x, _, _, _, _, he⟩ |
    ⟨x, _, _, _, _, he⟩ <;> cases he.symm.trans h
  exacts [⟨0, x, by decide, rfl⟩, ⟨1, x, by decide, rfl⟩, ⟨2, x, by decide, rfl⟩, ⟨3, _, by decide, rfl⟩]

/-- It gives back what the instruction word does not hold. -/
theorem applyExt_extWord {s : Shape} {a : Args} (hfit : shapeFits s a = true) (hone : a.extensions ≤ 1)
    (haux : ∀ x, a.aux = some x → (x.truncate 48).signExtend 64 = x) :
    (extWord a).elim (.ok a.ownWord) (applyExt s a.ownWord) = .ok a := by
  simp only [shapeFits, Bool.and_eq_true] at hfit
  obtain ⟨⟨⟨⟨_, hsa⟩, hsb⟩, hsc⟩, hsx⟩ := hfit
  obtain ⟨m, g, l, d, p, q, r, u⟩ := a
  rcases extWord_cases hone with ⟨ha, hb, hc, hx, he⟩ | ⟨x, ha, hb, hc, hx, he⟩ | ⟨x, ha, hb, hc, hx, he⟩ | ⟨x, ha, hb, hc, hx, he⟩ |
    ⟨x, ha, hb, hc, hx, he⟩ <;> rw [he] <;> dsimp only at ha hb hc hx hsa hsb hsc hsx haux
  · simp [Args.ownWord, dropExt_of_not_isExt, ha, hb, hc, hx]
  · subst ha
    exact (applyExt_sa (admitsExt_of_okFor hsa)).trans (by simp [Args.ownWord, dropExt_of_not_isExt, hb, hc, hx])
  · subst hb
    exact (applyExt_sb (admitsExt_of_okFor hsb)).trans (by simp [Args.ownWord, dropExt_of_not_isExt, ha, hc, hx])
  · subst hc
    exact (applyExt_sc (admitsExt_of_okFor hsc)).trans (by simp [Args.ownWord, dropExt_of_not_isExt, ha, hb, hx])
  · subst hx
    have hn : s.aux ≠ .never := by
      intro h
      simp [h, auxOk] at hsx
    exact (applyExt_aux hn).trans (by simp only [Args.ownWord, dropExt_of_not_isExt, ha, hb, hc, haux x rfl])

/-! ## The opcode table -/

/-- The opcode table names every well-formed instruction again. -/
theorem ofCode_of_wf {i : Instr} {cls opc : Nat} {a : Args} (hc : i.code = some (cls, opc)) (ha : i.args = some a) (hw : i.wf = true) :
    Instr.ofCode cls opc a = some i := by
  cases i with
  | haltt b => exact Laws.Coded.haltt b _ _ _ hc ha hw
  | halttGo b => exact Laws.Coded.halttGo b _ _ _ hc ha hw
  | _ => cases hc <;> cases ha <;> rfl

/-- Every opcode has eight bits. -/
theorem code_lt {i : Instr} {cls opc : Nat} (hc : i.code = some (cls, opc)) : cls < 3 ∧ opc < 256 := by
  cases i <;> cases hc <;> decide

/-- The conditions of a well-formed instruction. -/
theorem wf_iff {i : Instr} {cls opc : Nat} {a : Args} (hc : i.code = some (cls, opc)) (ha : i.args = some a) :
    i.wf = true ↔ opOk cls opc a = true ∧ nativeOk cls opc a = true ∧ i.scopeOk = true := by
  cases i with
  | clauseHeader h => cases hc
  | _ => simp only [Instr.wf, hc, ha, Bool.and_eq_true, and_assoc]

/-! ## The round trip -/

/-- The positions of a class-10 shape are those of class 10. -/
theorem shapeOf_uniform {cls opc : Nat} {m : BitVec 10} {s : Shape} (h : shapeOf cls opc m = some s) (hc : cls = 2) :
    s.dst.uniform = true ∧ s.sa.uniform = true ∧ s.sb.uniform = true ∧ s.sc.uniform = true := by
  subst hc
  exact shape2_uniform h

/-- What `nativeOk` says, part by part (R71 to R73). -/
theorem nativeOk_parts {cls opc : Nat} {a : Args} (h : nativeOk cls opc a = true) :
    (a.dst.native = true ∧ a.sa.native = true ∧ a.sb.native = true ∧ a.sc.native = true) ∧ a.dst.isExt = false ∧ a.extensions ≤ 1 ∧
    (∀ x, a.aux = some x → (x.truncate 48).signExtend 64 = x) ∧ (cls = 2 → a.live = none) ∧
    (cls = 2 → ∀ j neg, a.guard = .on j neg → j.toNat < 8) := by
  simp only [nativeOk, Bool.and_eq_true, Bool.not_eq_true', decide_eq_true_eq, Bool.or_eq_true, Option.isNone_iff_eq_none] at h
  obtain ⟨⟨⟨⟨⟨⟨⟨⟨hd, ha⟩, hb⟩, hc⟩, he⟩, hone⟩, haux⟩, _⟩, h2⟩ := h
  refine ⟨⟨hd, ha, hb, hc⟩, he, hone, fun x hx => ?_, fun h => (h2.resolve_left (by simp [h])).1, fun h j neg hj => ?_⟩
  · simpa [hx] using haux
  · have := (h2.resolve_left (by simp [h])).2
    simpa [hj] using this

/-- A word whose parts read as some fields decodes to the instruction that they and its extension word make up. -/
theorem decodeOp_of_parts {w : DWord} {ext : Option DWord} {live : Option LiveRec} {cls opc : Nat} {m : BitVec 10} {s : Shape} {g : Guard}
    {d p q r : Sel} {a : Args} {i : Instr} (hcls : bitsOf w 63 62 = cls) (hopc : bitsOf w 61 54 = opc)
    (hm : BitVec.ofNat 10 (bitsOf w 53 44) = m) (hs : shapeOf cls opc m = some s) (hg : guardOf cls w = some g)
    (hd : parsePos cls s.dst (bitsOf w 35 27) false = .ok d) (hp : parsePos cls s.sa (bitsOf w 26 18) (extSel ext == some 0) = .ok p)
    (hq : parsePos cls s.sb (bitsOf w 17 9) (extSel ext == some 1) = .ok q)
    (hr : parsePos cls s.sc (bitsOf w 8 0) (extSel ext == some 2) = .ok r)
    (hx : ext.elim (.ok { mod := m, guard := g, live := live, dst := d, sa := p, sb := q, sc := r, aux := none })
      (applyExt s { mod := m, guard := g, live := live, dst := d, sa := p, sb := q, sc := r, aux := none }) = .ok a)
    (hi : Instr.ofCode cls opc a = some i) (hw : i.wf = true) : decodeOp w ext live = .ok i := by
  unfold decodeOp
  simp only [hcls, hopc, hm, hs, hg, hd, hp, hq, hr, bind, Except.bind]
  cases ext with
  | none =>
    simp only [Option.elim, Except.ok.injEq] at hx
    simp only [hx, hi, hw, if_true]
  | some x =>
    simp only [Option.elim] at hx
    simp only [hx, hi, hw, if_true]

/-- A well-formed instruction has a shape that its fields fit. -/
theorem shape_of_opOk {cls opc : Nat} {a : Args} (h : opOk cls opc a = true) :
    ∃ s, shapeOf cls opc a.mod = some s ∧ shapeFits s a = true := by
  unfold opOk at h
  cases hs : shapeOf cls opc a.mod with
  | none => simp [hs] at h
  | some s =>
    simp only [hs, Bool.and_eq_true] at h
    exact ⟨s, rfl, h.1⟩

/-- The instruction word of an instruction decodes with its extension word and live record to the instruction. -/
theorem decodeOp_opWord {i : Instr} {cls opc : Nat} {a : Args} (hc : i.code = some (cls, opc)) (ha : i.args = some a) (hw : i.wf = true) :
    decodeOp (opWord cls opc a) (extWord a) a.live = .ok i := by
  obtain ⟨hop, hnat, _⟩ := (wf_iff hc ha).1 hw
  obtain ⟨⟨nd, na, nb, nc⟩, hde, hone, haux, _, hg⟩ := nativeOk_parts hnat
  obtain ⟨hcls, hopc⟩ := code_lt hc
  obtain ⟨s, hs, hfit⟩ := shape_of_opOk hop
  have hu := shapeOf_uniform hs
  obtain ⟨e0, e1, e2⟩ := extSel_extWord hone
  obtain ⟨w1, w2, w3, _, _, w6, w7, w8, w9⟩ := bitsOf_opWord a hcls hopc
  have hx := applyExt_extWord hfit hone haux
  simp only [shapeFits, Bool.and_eq_true] at hfit
  obtain ⟨⟨⟨⟨fd, fa⟩, fb⟩, fc⟩, _⟩ := hfit
  refine decodeOp_of_parts w1 w2 (m := a.mod) ?_ hs (guardOf_opWord a hcls hopc hg) (d := a.dst) ?_ (p := a.sa.dropExt) ?_
    (q := a.sb.dropExt) ?_ (r := a.sc.dropExt) ?_ hx (ofCode_of_wf hc ha hw) hw
  · rw [w3, BitVec.ofNat_toNat, BitVec.setWidth_eq]
  · rw [w6]; exact parsePos_dst fd nd hde fun h => (hu h).1
  · rw [w7, e0]; exact parsePos_selNum fa na fun h => (hu h).2.1
  · rw [w8, e1]; exact parsePos_selNum fb nb fun h => (hu h).2.2.1
  · rw [w9, e2]; exact parsePos_selNum fc nc fun h => (hu h).2.2.2

/-- An instruction word, the extension word and the live record that it announces, decode as one. -/
theorem decodeWords_of_parts {w : DWord} {x l : Option DWord} {i : Instr} (hcls : bitsOf w 63 62 ≠ 3)
    (hX : bitsOf w 36 36 = bitNat x.isSome) (hS : bitsOf w 37 37 = bitNat l.isSome) (h2 : bitsOf w 63 62 = 2 → l = none)
    (hx : ∀ y, x = some y → bitsOf y 63 62 = 3 ∧ bitsOf y 61 58 = 2) (hl : ∀ y, l = some y → bitsOf y 63 62 = 3 ∧ bitsOf y 61 58 = 1)
    (hop : decodeOp w x (l.map liveOf) = .ok i) :
    decodeWords (w :: (x.toList ++ l.toList)) = .ok (i, (w :: (x.toList ++ l.toList)).length) := by
  have hn : (l.isSome && bitsOf w 63 62 == 2) = false := by
    by_cases h : bitsOf w 63 62 = 2
    · simp [h2 h]
    · simp [h]
  simp only [decodeWords, if_neg hcls, hX, hS, bitNat_beq_one, hn]
  cases x with
  | none => cases l with
    | none => simp_all [bind, Except.bind]
    | some y => simp_all [bind, Except.bind]
  | some z => cases l with
    | none => simp_all [bind, Except.bind]
    | some y => simp_all [bind, Except.bind]

/-- The words of an instruction. -/
theorem encode_eq {i : Instr} {cls opc : Nat} {a : Args} (hc : i.code = some (cls, opc)) (ha : i.args = some a) :
    encode i = opWord cls opc a :: ((extWord a).toList ++ (a.live.map liveWord).toList) := by
  cases i with
  | clauseHeader h => cases hc
  | _ => simp only [encode, hc, ha]

/-- What is well-formed is a clause header or has a code and fields. -/
theorem wf_cases {i : Instr} (hw : i.wf = true) :
    (∃ h, i = .clauseHeader h ∧ h.ok = true) ∨ ∃ cls opc a, i.code = some (cls, opc) ∧ i.args = some a := by
  cases i with
  | clauseHeader h => exact .inl ⟨h, rfl, hw⟩
  | _ =>
    simp only [Instr.wf] at hw
    split at hw
    · next hc ha => exact .inr ⟨_, _, _, hc, ha⟩
    · cases hw

/-- The words of a well-formed instruction decode to it, all of them. -/
theorem decodeWords_encode {i : Instr} {cls opc : Nat} {a : Args} (hc : i.code = some (cls, opc)) (ha : i.args = some a)
    (hw : i.wf = true) : decodeWords (encode i) = .ok (i, (encode i).length) := by
  obtain ⟨_, hnat, _⟩ := (wf_iff hc ha).1 hw
  obtain ⟨_, _, hone, _, hlive, _⟩ := nativeOk_parts hnat
  obtain ⟨hcls, hopc⟩ := code_lt hc
  obtain ⟨w1, _, _, wS, wX, _⟩ := bitsOf_opWord a hcls hopc
  rw [encode_eq hc ha]
  refine decodeWords_of_parts (by omega) wX (by simpa using wS) (fun h => ?_) (fun y hy => ?_) (fun y hy => ?_) ?_
  · simp [hlive (w1 ▸ h)]
  · obtain ⟨sel, x, hsel, rfl⟩ := extWord_eq hone hy
    exact ⟨(bitsOf_extensionWord x hsel).1, (bitsOf_extensionWord x hsel).2.1⟩
  · obtain ⟨l, _, rfl⟩ := Option.map_eq_some_iff.1 hy
    exact bitsOf_liveWord l
  · have hl : (a.live.map liveWord).map liveOf = a.live := by cases a.live <;> simp [liveOf_liveWord]
    rw [hl]
    exact decodeOp_opWord hc ha hw

/-- Settles O58: each word is closed, and the decoder computes. -/
theorem specWordsDecode : Obligations.SpecWordsDecode := by
  unfold Obligations.SpecWordsDecode
  refine ⟨?_, ?_, ?_, ?_, ?_, ?_, ?_, ?_, ?_, ?_, ?_, ?_, ?_⟩ <;> decide

/-- Settles O59: every part of the encoding reads back, so the decoder has the instruction's own fields. -/
theorem decodeOfEncode : Obligations.DecodeOfEncode := by
  unfold Obligations.DecodeOfEncode
  intro i hw
  rcases wf_cases hw with ⟨h, rfl, hok⟩ | ⟨cls, opc, a, hc, ha⟩
  · exact decodeWords_headerWord hok
  · exact decodeWords_encode hc ha hw

end Sys2Proof
end

section
/-! SUPPORT. Control transfers (R75, R119, R120): the relative ones, and those to an address operand with its ALIGN check. -/

namespace Sys2Proof.Machine

/-- An operation whose effect sets its thread's place comes to that place. -/
theorem threadOp_jumps {cls opc : Nat} {i : Args → Instr} {body : Args → Ctx → Res} {pre : Ctx → Args → Prop} {post : Ctx → Args → State}
    (he : ∀ a s, exec (i a) s = runThread cls opc a s (body a)) (hb : ∀ c a, pre c a → body a c = .jump (post c a)) :
    ThreadOp cls opc i pre fun c a => afterJump c a (post c a) := fun s c a h hr hp => by
  rw [he, runThread_ready h hr, hb c a hp]

/-- An operation whose check fails takes the fault. -/
theorem threadOp_faults {cls opc : Nat} {i : Args → Instr} {body : Args → Ctx → Res} {pre : Ctx → Args → Prop} {code : BitVec 8}
    {datum : Ctx → Args → DWord} (he : ∀ a s, exec (i a) s = runThread cls opc a s (body a))
    (hb : ∀ c a, pre c a → body a c = .fault code (datum c a)) :
    ThreadOp cls opc i pre fun c a => faulted c code (datum c a) := fun s c a h hr hp => by
  rw [he, runThread_ready h hr, hb c a hp]

/-- An address operand of a template, or an aligned one, is gone to. -/
theorem jumpTo_goes {c : Ctx} {a : Args} (hal : c.th.expansion.isSome ∨ (read64 c a.sa).toNat % 8 = 0) (f : Thread → Thread) :
    jumpTo c a f = .jump (withThread c c.s fun th => goTo (f th) (read64 c a.sa) a.live) := by
  unfold jumpTo
  dsimp only
  rw [if_neg]
  · rfl
  · rcases hal with he | hz
    · simp [Option.isNone_eq_false_iff.2 he]
    · simp [hz]

/-- A misaligned one faults natively. -/
theorem jumpTo_faults {c : Ctx} {a : Args} (hn : c.th.expansion = none) (hal : (read64 c a.sa).toNat % 8 ≠ 0) (f : Thread → Thread) :
    jumpTo c a f = .fault cALIGN (read64 c a.sa) := by
  simp [jumpTo, hn, hal]

theorem exec_bra (a : Args) (s : State) :
    exec (.bra a) s = runThread 0 0x40 a s fun c => .jump (withThread c c.s fun th => goTo th (targetOf c a) a.live) := rfl

theorem exec_call (a : Args) (s : State) :
    exec (.call a) s = runThread 0 0x42 a s fun c =>
      .jump (withThread c c.s fun th => goTo (write64 th a.dst (returnAddr c.th a)) (targetOf c a) a.live) := rfl

theorem exec_brx (a : Args) (s : State) : exec (.brx a) s = runThread 0 0x41 a s fun c => jumpTo c a id := rfl
theorem exec_ret (a : Args) (s : State) : exec (.ret a) s = runThread 0 0x44 a s fun c => jumpTo c a id := rfl

theorem exec_callx (a : Args) (s : State) :
    exec (.callx a) s = runThread 0 0x43 a s fun c => jumpTo c a fun th => write64 th a.dst (returnAddr c.th a) := rfl

/-- Settles O11, by the rules above: a transfer goes to its target, and an address operand is checked before. -/
theorem controlTransfers : Obligations.ControlTransfers := by
  unfold Obligations.ControlTransfers
  refine ⟨?bra, ?call, ?brx, ?callx, ?ret, ?align, ?returns, ?goes⟩
  case bra => exact threadOp_jumps exec_bra fun _ _ _ => rfl
  case call => exact threadOp_jumps exec_call fun _ _ _ => rfl
  case brx => exact threadOp_jumps exec_brx fun c a hal => jumpTo_goes hal id
  case callx => exact threadOp_jumps exec_callx fun c a hal => jumpTo_goes hal fun th => write64 th a.dst (returnAddr c.th a)
  case ret => exact threadOp_jumps exec_ret fun c a hal => jumpTo_goes hal id
  case align =>
    rintro i opc (⟨rfl, rfl⟩ | ⟨rfl, rfl⟩ | ⟨rfl, rfl⟩)
    · exact threadOp_faults exec_brx fun c a hp => jumpTo_faults hp.1 hp.2 id
    · exact threadOp_faults exec_callx fun c a hp => jumpTo_faults hp.1 hp.2 fun th => write64 th a.dst (returnAddr c.th a)
    · exact threadOp_faults exec_ret fun c a hp => jumpTo_faults hp.1 hp.2 id
  case returns =>
    intro th a hn
    simp [returnAddr, opLen, hn]
  case goes => exact fun th x l => ⟨rfl, rfl, rfl, rfl⟩

end Sys2Proof.Machine
end

section
/-! SUPPORT. Clause headers (R74 to R76, R224): what a header does where one is due, and where a word should not be one. -/

namespace Sys2Proof.Machine

/-- A mask is clear where each count that it names is 0. -/
theorem maskClear_iff (f : AMap Nat) (mask : BitVec 12) :
    maskClear f mask = true ↔ ∀ j, j < 12 → mask.getLsbD j = true → AMap.get 0 f j = 0 := by
  simp only [maskClear, List.all_eq_true, List.mem_range, Bool.or_eq_true, Bool.not_eq_true', beq_iff_eq, ← Bool.not_eq_true,
    ← imp_iff_not_or]

/-- A thread's header where one may stand. -/
theorem clauseHeader_thread {s : State} {k tid : Nat} {th : Thread} {h : Header} (ht : s.turn = .thread k tid)
    (hth : s.thread? k tid = some th) (hok : h.ok = true) (hdue : th.arch.clause.due = true) :
    exec (.clauseHeader h) s = .next (s.modThread k tid fun _ => headThread s th h) := by
  have he : exec (.clauseHeader h) s = .next (s.modThread k tid fun th => headThread s th h) := by
    simp [exec, execClauseHeader, ht, hth, hok, hdue]
  exact he.trans (congrArg _ (modThread_congr hth rfl))

/-- A thread's word that is no header, or stands where none may. -/
theorem clauseHeader_illegal {s : State} {k tid : Nat} {th : Thread} {h : Header} (ht : s.turn = .thread k tid)
    (hth : s.thread? k tid = some th) (hbad : h.ok = false ∨ (th.arch.clause.due = false ∧ th.arch.clause.loose = false)) :
    exec (.clauseHeader h) s = .next (faultThread s k tid cILLEGAL 0) := by
  have hc : (!h.ok || !(th.arch.clause.due || th.arch.clause.loose)) = true := by
    rcases hbad with hok | ⟨hd, hl⟩
    · simp [hok]
    · simp [hd, hl]
  simp only [exec, execClauseHeader, ht, hth, if_pos hc]

/-- A stream's header where one is due. -/
theorem clauseHeader_stream {s : State} {k : Nat} {t : Team} {h : Header} (ht : s.turn = .stream k) (hk : s.team? k = some t)
    (hok : h.ok = true) (hdue : t.stream.clause.due = true) : exec (.clauseHeader h) s = .next (s.setTeam k (headStream t h)) := by
  simp [exec, execClauseHeader, ht, hk, hok, hdue, modTeam_some hk]

/-- Settles O43, by the rules above: a header opens its clause and waits for its mask. -/
theorem clauseHeaders : Obligations.ClauseHeaders := by
  unfold Obligations.ClauseHeaders
  refine ⟨?thread, ?illegal, ?stream, maskClear_iff, ?ends⟩
  case thread =>
    intro s k tid th h ht hth hok hdue
    rw [clauseHeader_thread ht hth hok hdue]
    constructor <;> intro hm <;> simp [headThread, hm, clauseOf]
  case illegal => exact fun s k tid th h ht hth hbad => clauseHeader_illegal ht hth hbad
  case stream =>
    intro s k t h ht hk hok hdue
    dsimp only
    rw [clauseHeader_stream ht hk hok hdue]
    constructor <;> intro hm <;> simp [headStream, hm, clauseOf]
  case ends =>
    intro t th m hw hm
    simp [recheck, hw, hm]

end Sys2Proof.Machine
end

section
/-! SUPPORT. TRAP and ERET (R75, R121, R276, R277): a delivery's record, and what a return makes of it. -/

namespace Sys2Proof.Machine

/-! ## CR.FSTAT and CR.FCLS (R270) -/

theorem getLsbD_128 (j : Nat) : (128#32).getLsbD j = decide (j = 7) := by
  rw [show (128#32) = BitVec.twoPow 32 7 from rfl, BitVec.getLsbD_twoPow]
  by_cases h : j = 7
  · simp [h]
  · simp [h, Ne.symm h]

/-- A flag set of CR.FCLS: its number from bit `low` on, and above it whether it is one. -/
def flagField (w : Word) (low : Nat) : Option (BitVec 4) :=
  if w.toNat / 2 ^ (low + 4) % 2 = 1 then some (BitVec.ofNat 4 (w.toNat / 2 ^ low)) else none

theorem flagField_eq (w : Word) (low : Nat) :
    flagField w low = if w.getLsbD (low + 4) then some (w.extractLsb' low 4) else none := by
  have hb : w.getLsbD (low + 4) = decide (w.toNat / 2 ^ (low + 4) % 2 = 1) := by
    rw [BitVec.getLsbD, Nat.testBit_eq_decide_div_mod_eq]
  have hx : w.extractLsb' low 4 = BitVec.ofNat 4 (w.toNat / 2 ^ low) := by
    rw [BitVec.extractLsb', Nat.shiftRight_eq_div_pow]
  simp only [flagField, hb, hx, decide_eq_true_eq]

/-- The flag set that a word holds from bit `low` on. -/
theorem flagField_of_bits {w : Word} {low : Nat} {f : Option (BitVec 4)} (h : w.toNat / 2 ^ low % 32 = flagNum f) : flagField w low = f := by
  have hd : w.toNat / 2 ^ (low + 4) = w.toNat / 2 ^ low / 16 := by rw [pow_add, Nat.div_div_eq_div_mul]; rfl
  have hc : (w.toNat / 2 ^ (low + 4) % 2 = 1) = (flagNum f / 16 = 1) := by rw [hd, ← h, eq_iff_iff]; omega
  have hn : BitVec.ofNat 4 (w.toNat / 2 ^ low) = BitVec.ofNat 4 (flagNum f % 16) := by
    apply BitVec.eq_of_toNat_eq
    simp only [BitVec.toNat_ofNat, ← h]
    omega
  conv_rhs => rw [← flag_of_flagNum f]
  simp only [flagField, hc, hn]

theorem clausePack_toNat (cl : Clause) (prio : BitVec 8) :
    (clausePack cl prio).toNat = prio.toNat + flagNum cl.aflag * 2 ^ 8 + flagNum cl.bflag * 2 ^ 16 := by
  have hp := prio.isLt
  have ha := flagNum_lt cl.aflag
  have hb := flagNum_lt cl.bflag
  simp only [clausePack, BitVec.toNat_ofNat]
  cases cl.aflag with
  | none => cases cl.bflag with
    | none => simp only [flagNum]; omega
    | some j => simp only [flagNum] at hb ⊢; omega
  | some i => cases cl.bflag with
    | none => simp only [flagNum] at ha ⊢; omega
    | some j => simp only [flagNum] at ha hb ⊢; omega

/-- A delivery's CR.FCLS gives back the block priority and the flag sets that it holds. -/
theorem clausePack_prio (cl : Clause) (prio : BitVec 8) : (clausePack cl prio).truncate 8 = prio := by
  have hp := prio.isLt
  apply BitVec.eq_of_toNat_eq
  rw [BitVec.truncate_eq_setWidth, BitVec.toNat_setWidth, clausePack_toNat]
  omega

theorem clausePack_aflag (cl : Clause) (prio : BitVec 8) : flagField (clausePack cl prio) 8 = cl.aflag := by
  have hp := prio.isLt
  have ha := flagNum_lt cl.aflag
  apply flagField_of_bits
  rw [clausePack_toNat]
  omega

theorem clausePack_bflag (cl : Clause) (prio : BitVec 8) : flagField (clausePack cl prio) 16 = cl.bflag := by
  have hp := prio.isLt
  have ha := flagNum_lt cl.aflag
  have hb := flagNum_lt cl.bflag
  apply flagField_of_bits
  rw [clausePack_toNat]
  omega

/-! ## The return (R276) -/

/-- A return to the place that the last delivery recorded resumes in the clause that it recorded. -/
theorem resumeClause_cut {th : Thread} {k : Cut} (hk : th.cut = some k) (hpc : k.pc = th.cr.fpc) :
    resumeClause th = { k.clause with aflag := flagField th.cr.fcls 8, bflag := flagField th.cr.fcls 16 } := by
  simp only [resumeClause, hk, hpc, if_true]
  rfl

section
variable (th : Thread) (fvec resume datum : DWord) (code n : BitVec 8)

/-- The mode and the personality that a delivery records. -/
theorem enterHandler_fstat : ((enterHandler th fvec code n 0 resume datum).cr.fstat.getLsbD 4 = th.arch.mode) ∧
    (enterHandler th fvec code n 0 resume datum).cr.fstat.truncate 3 = th.arch.pix := by
  have hc := code.isLt
  have hn := n.isLt
  have hp := th.arch.pix.isLt
  have hm := bitNat_le th.arch.mode
  have hx : (enterHandler th fvec code n 0 resume datum).cr.fstat.toNat =
      code.toNat * 2 ^ 24 + n.toNat * 2 ^ 8 + 128 + bitNat th.arch.mode * 16 + th.arch.pix.toNat := by
    simp only [enterHandler, BitVec.toNat_ofNat, show (0 : BitVec 8).toNat = 0 from rfl]
    omega
  constructor
  · rw [BitVec.getLsbD, Nat.testBit_eq_decide_div_mod_eq, hx]
    cases th.arch.mode <;> simp only [bitNat] <;> simp <;> omega
  · apply BitVec.eq_of_toNat_eq
    rw [BitVec.truncate_eq_setWidth, BitVec.toNat_setWidth, hx]
    omega

/-- A return to the interrupted place resumes in its clause. -/
theorem resumeClause_enterHandler (h : resume = th.arch.pc) : resumeClause (enterHandler th fvec code n 0 resume datum) = th.arch.clause := by
  have hd : cutClause th.arch resume = th.arch.clause := by simp [cutClause, h]
  rw [resumeClause_cut (th := enterHandler th fvec code n 0 resume datum) rfl rfl]
  change { cutClause th.arch resume with aflag := flagField (clausePack th.arch.clause th.arch.prio) 8,
                                         bflag := flagField (clausePack th.arch.clause th.arch.prio) 16 } = th.arch.clause
  rw [clausePack_aflag, clausePack_bflag, hd]

/-- A return to the end of a clause that a TRAP ended finds a header due (R75). -/
theorem resumeClause_enterHandler_due (hl : th.arch.clause.loose = false) (hs : resume = th.arch.clause.stop) (hpc : resume ≠ th.arch.pc) :
    (resumeClause (enterHandler th fvec code n 0 resume datum)).due = true := by
  simp [resumeClause, enterHandler, cutClause, hl, ← hs, hpc]

end

theorem exec_trap (a : Args) (s : State) : exec (.trap a) s = runThread 1 0xE2 a s fun c =>
    .jump (withThread c (deliver c.s c.key c.tid 0 (BitVec.ofNat 8 (modBits a.mod 7 0)) 0 (returnAddr c.th a) (read64 c a.sa))
      fun th => { th with safe := a.live }) := rfl

theorem exec_eret (a : Args) (s : State) :
    exec (.eret a) s = runThread 1 0xE3 a s fun c => .jump (withThread c c.s fun th => returnFault th a.live) := rfl

/-- Settles O37: a TRAP and an ERET are transfers, and a return reads back what the delivery's record holds. -/
theorem trapAndReturn : Obligations.TrapAndReturn := by
  unfold Obligations.TrapAndReturn
  refine ⟨threadOp_jumps exec_trap fun _ _ _ => rfl, threadOp_jumps exec_eret fun _ _ _ => rfl, ?restores, ?back, ?after⟩
  case restores =>
    intro th l
    refine ⟨rfl, rfl, rfl, rfl, ?_, ?_, flagField_eq _ 8, flagField_eq _ 16, rfl, rfl, rfl, rfl⟩
    · simp [isLive, returnFault]
    · intro j hj
      show (th.cr.fstat &&& ~~~128#32).getLsbD j = th.cr.fstat.getLsbD j
      rw [BitVec.getLsbD_and, BitVec.getLsbD_not, getLsbD_128]
      simp only [hj, decide_false, Bool.not_false, Bool.and_true, Bool.and_eq_left_iff_imp, decide_eq_true_eq]
      exact BitVec.lt_of_getLsbD
  case back =>
    intro th fvec resume datum code l h
    have hc := resumeClause_enterHandler th fvec resume datum code 0 h
    obtain ⟨hm, hp⟩ := enterHandler_fstat th fvec resume datum code 0
    have hq := clausePack_prio th.arch.clause th.arch.prio
    calc (returnFault (enterHandler th fvec code 0 0 resume datum) l).arch
        = { th.arch with pc := resume, mode := (enterHandler th fvec code 0 0 resume datum).cr.fstat.getLsbD 4,
                         pix := (enterHandler th fvec code 0 0 resume datum).cr.fstat.truncate 3,
                         prio := (clausePack th.arch.clause th.arch.prio).truncate 8,
                         clause := resumeClause (enterHandler th fvec code 0 0 resume datum) } := rfl
      _ = th.arch := by rw [hm, hp, hq, hc, h]
  case after =>
    exact fun th fvec resume datum n l hl hs hpc => ⟨rfl, resumeClause_enterHandler_due th fvec resume datum 0 n hl hs hpc⟩

end Sys2Proof.Machine
end

section
/-! SUPPORT. Privilege (R79, R267, R275): which operations fault PRIV_OP in U mode, and where that check stands among the decode faults. -/

namespace Sys2Proof

theorem AMap.mem_of_find {α : Type} {m : AMap α} {k : Nat} {x : α} (h : AMap.find m k = some x) : (k, x) ∈ m := by
  induction m with
  | nil => cases h
  | cons p m ih =>
    obtain ⟨j, y⟩ := p
    unfold AMap.find at h
    by_cases hj : j = k
    · rw [if_pos hj] at h
      simp only [Option.some.injEq] at h
      simp [hj, h]
    · rw [if_neg hj] at h
      exact List.mem_cons_of_mem _ (ih h)

namespace Machine

/-- The control registers open to U mode are those whose U column shows R (R269). -/
theorem crRow_open_iff (n : Nat) : (∃ w k, crRow n = some (w, true, k)) ↔ n ∈ [0x000, 0x001, 0x003, 0x040, 0x041] := by
  constructor
  · rintro ⟨w, k, h⟩
    have hm : (n, w, true, k) ∈ crTable := AMap.mem_of_find h
    simp only [crTable, List.mem_cons, Prod.mk.injEq, List.not_mem_nil, or_false, Bool.true_eq_false, false_and, and_false,
      false_or] at hm ⊢
    omega
  · intro h
    simp only [List.mem_cons, List.not_mem_nil, or_false] at h
    rcases h with rfl | rfl | rfl | rfl | rfl <;> exact ⟨_, _, rfl⟩

/-- CSRR of a register open to U mode has no privilege fault. -/
theorem privOf_csrr_open {a : Args} (h : a.mod.toNat ∈ [0x000, 0x001, 0x003, 0x040, 0x041]) (uen : Bool) :
    privOf 1 0xE0 a false uen = none := by
  obtain ⟨w, k, hr⟩ := (crRow_open_iff _).2 h
  simp [privOf, hr]

/-- CSRR of any other faults in U mode. -/
theorem privOf_csrr_closed {a : Args} (h : a.mod.toNat ∉ [0x000, 0x001, 0x003, 0x040, 0x041]) (uen : Bool) :
    privOf 1 0xE0 a false uen = some (a.mod.zeroExtend 64) := by
  have hn : ∀ w k, crRow a.mod.toNat ≠ some (w, true, k) := fun w k hr => h ((crRow_open_iff _).1 ⟨w, k, hr⟩)
  simp only [privOf, Bool.false_eq_true, ne_eq, not_true, or_self, if_false]

/-- In S mode nothing has a privilege fault. -/
theorem privOf_smode (cls opc : Nat) (a : Args) (uen : Bool) : privOf cls opc a true uen = none := by simp [privOf]

/-- Nor does an operation that the rule does not name. -/
theorem privOf_unnamed {cls opc : Nat} (h : ¬(cls = 1 ∧ opc ∈ [0xE0, 0xE1, 0xE3, 0xE5, 0xE6, 0xE7, 0xE9])) (a : Args) (uen : Bool) :
    privOf cls opc a false uen = none := by
  simp only [List.mem_cons, List.not_mem_nil, or_false, not_and, not_or] at h
  unfold privOf
  split
  · rfl
  · next hc =>
    have hcls : cls = 1 := by simpa using hc
    have := h hcls
    split <;> simp_all

/-- An allocated operation that may stand at its place, CP apart, has the privilege fault as its decode fault. -/
theorem decodeFault_priv {c : Ctx} {opc : Nat} {a : Args} {d : DWord} (hok : opOk 1 opc a = true) (hcp : opc ≠ 0x10)
    (hpl : c.th.expansion = none → placedOk 1 opc c.th.arch.pc c.th.arch.clause (8 * a.words) = true)
    (hd : privOf 1 opc a c.th.arch.mode (c.s.vd c.team.vd).perfctl = some d) :
    decodeFault c 1 opc a c.th.expansion.isNone = some (cPRIV, d) := by
  have hplace : (c.th.expansion.isNone && !placedOk 1 opc c.th.arch.pc c.th.arch.clause (8 * a.words)) = false := by
    cases he : c.th.expansion with
    | none => simp [hpl he]
    | some x => rfl
  simp [decodeFault, hok, hcp, hplace, hd]

/-- Settles O54: `privOf` is the rule, and a thread operation takes its fault before its guard is read. -/
theorem privilegeInUserMode : Obligations.PrivilegeInUserMode := by
  unfold Obligations.PrivilegeInUserMode
  refine ⟨?_, fun cls opc a uen => ⟨privOf_smode cls opc a uen, fun h => privOf_unnamed h a uen, fun h => privOf_csrr_open h uen, rfl⟩⟩
  intro s c i opc a h hc ha hno hmode hok hpl
  obtain ⟨body, hrun⟩ := exec_eq_runThread hc ha (by decide) s
  have hp : (c.th.pending.find? fun p => p.rank == 1) = none := List.find?_eq_none.2 (by simpa using hno)
  have faults : ∀ d, opc ≠ 0x10 → privOf 1 opc a false (c.s.vd c.team.vd).perfctl = some d → exec i s = .next (faulted c 0x04 d) :=
    fun d hcp hd => hrun.trans (runThread_decodeFault h body hp (decodeFault_priv hok hcp hpl (hmode ▸ hd)))
  refine ⟨fun hopc => ?_, fun hopc hcount => ?_, fun hopc hcr => ?_, fun hopc => ?_⟩
  · simp only [List.mem_cons, List.not_mem_nil, or_false] at hopc
    rcases hopc with rfl | rfl | rfl | rfl <;> exact faults _ (by decide) rfl
  · subst hopc
    exact faults _ (by decide) (by simp [privOf, hcount])
  · subst hopc
    exact faults _ (by decide) (privOf_csrr_closed hcr _)
  · subst hopc
    exact faults _ (by decide) rfl

end Machine

end Sys2Proof
end

section
/-! SUPPORT. The step of an agent (R67, R75, R188, R284, R387, R388): what it fetches and runs, and what a thread that stops leaves (R428, R470). -/

namespace Sys2Proof.Machine

/-! ## The agent whose turn it is -/

/-- An agent's step comes to an outcome, after which the turn passes. -/
def afterAgent (s : State) (a : Agent) : Out → Out
  | .next s1 => .next (passTurn (agentsOf s) a s1)
  | r => r

/-- A thread's step comes to an outcome, after which the thread stops where its gang is asked to. -/
def settled (k tid : Nat) : Out → Out
  | .next s1 => .next (settleStop s1 k tid)
  | r => r

section
variable {s : State} {a : Agent} (hw : watchdogFirst s = false) (hl : linkFirst s = false) (hi : s.inputs = []) (hs : s.stalled = false)
include hw hl hi hs

/-- With nothing before it, the next agent takes its step. -/
theorem step_agent (ha : nextAgent s = some a) : step s = afterAgent s a (agentStep { s with turn := a } a) := by
  simp only [step, hw, hl, hi, hs, ha, Bool.false_eq_true, if_false, turnStep]
  cases agentStep { s with turn := a } a <;> rfl

end

/-- Where nothing is pending, no notice is. -/
theorem hasNotice_of_pending_nil (t : Team) {th : Thread} (h : th.pending = []) : hasNotice t th = false := by
  have hm : movablePending t th = none := by
    unfold movablePending
    split
    · rfl
    · simp [h]
  simp [hasNotice, topPending, h, hm]

/-- A thread without pending events runs what it fetches. -/
theorem threadStep_of_pending_nil (s : State) (k tid : Nat) (t : Team) {th : Thread} (h : th.pending = []) :
    threadStep s k tid t th = runFetched s k tid t th (fetchThread s k tid t th) := by
  simp [threadStep, h, hasNotice_of_pending_nil t h]

/-- The step of such a thread at its turn. -/
theorem step_thread {s : State} {k tid : Nat} {t : Team} {th : Thread} (hw : watchdogFirst s = false) (hl : linkFirst s = false)
    (hi : s.inputs = []) (hs : s.stalled = false) (ha : nextAgent s = some (.thread k tid)) (ht : s.team? k = some t)
    (hth : s.thread? k tid = some th) (hp : th.pending = []) :
    step s = afterAgent s (.thread k tid) (settled k tid
      (runFetched { s with turn := .thread k tid } k tid t th (fetchThread { s with turn := .thread k tid } k tid t th))) := by
  have ht' : ({ s with turn := .thread k tid } : State).team? k = some t := ht
  have hth' : ({ s with turn := .thread k tid } : State).thread? k tid = some th := hth
  rw [step_agent hw hl hi hs ha, ← threadStep_of_pending_nil _ _ _ _ hp]
  simp only [agentStep, ht', hth']
  rfl

/-- The step of a uniform stream at its turn. -/
theorem step_stream {s : State} {k : Nat} {t : Team} (hw : watchdogFirst s = false) (hl : linkFirst s = false)
    (hi : s.inputs = []) (hs : s.stalled = false) (ha : nextAgent s = some (.stream k)) (ht : s.team? k = some t) :
    step s = afterAgent s (.stream k) (streamStep { s with turn := .stream k } k t) := by
  have ht' : ({ s with turn := .stream k } : State).team? k = some t := ht
  rw [step_agent hw hl hi hs ha]
  simp only [agentStep, ht']

/-! ## What a thread fetches -/

theorem isHeader_iff (i : Instr) : isHeader i = true ↔ ∃ h, i = .clauseHeader h := by
  constructor
  · intro h
    cases i with
    | clauseHeader x => exact ⟨x, rfl⟩
    | _ => cases h
  · rintro ⟨x, rfl⟩
    rfl

/-- An event that a thread runs is not counted as an issue. -/
theorem runFetched_event {i : Instr} (hc : i.code = none) (s : State) (k tid : Nat) (t : Team) (th : Thread) (s1 : State) :
    runFetched s k tid t th (.op i s1) = exec i s1 := by
  have hn : ∀ s2, countIssue s s2 k tid t th i = s2 := fun s2 => by simp [countIssue, hc]
  simp only [runFetched, hn]
  cases exec i s1 <;> rfl

section
variable {s : State} {k tid : Nat} {t : Team} {th : Thread}

/-! ### The address of a native thread -/

theorem fetchThread_native (he : th.expansion = none) (hr : th.rep = none) (hx : th.arch.pix = 0) :
    fetchThread s k tid t th = fetchNative s k tid t th := by simp [fetchThread, he, hr, hx]

theorem fetchNative_misaligned (h : th.arch.pc.toNat % 8 ≠ 0) : fetchNative s k tid t th = .fault s cILLEGAL 0 := by
  simp [fetchNative, h]

section
variable (hal : th.arch.pc.toNat % 8 = 0)
include hal

theorem fetchNative_hit {p : Spot} {len : Nat} {i : Instr} (hl : lookUp s t th = .hit p (.run len [i]))
    (hd : th.arch.clause.due = true → ∃ h, i = .clauseHeader h) :
    fetchNative s k tid t th = .op i (takeSpot s k tid (clusterOf t.core) p) := by
  have hc : (th.arch.clause.due && !isHeader i) = false := by
    cases hdue : th.arch.clause.due with
    | false => rfl
    | true => simp [(isHeader_iff i).2 (hd hdue)]
  simp [fetchNative, hal, hl, hc]

theorem fetchNative_due {p : Spot} {len : Nat} {i : Instr} (hl : lookUp s t th = .hit p (.run len [i]))
    (hd : th.arch.clause.due = true) (hi : ∀ h, i ≠ .clauseHeader h) : fetchNative s k tid t th = .fault s cILLEGAL 0 := by
  have hh : isHeader i = false := by
    rw [← Bool.not_eq_true, isHeader_iff]
    exact fun ⟨h, e⟩ => hi h e
  simp [fetchNative, hal, hl, hd, hh]

theorem fetchNative_illegal {p : Spot} (hl : lookUp s t th = .hit p .illegal) : fetchNative s k tid t th = .fault s cILLEGAL 0 := by
  simp [fetchNative, hal, hl]

theorem fetchNative_fault {code : BitVec 8} {d : DWord} (hl : lookUp s t th = .fault code d) :
    fetchNative s k tid t th = .fault s code d := by
  simp [fetchNative, hal, hl]

theorem fetchNative_unfetched {psel pa : Nat} {code : BitVec 8} {d : DWord} (hl : lookUp s t th = .miss psel pa)
    (hf : fetchWords s t.vd t.core th.arch.pc th.arch.clause.due false = .error (code, d)) :
    fetchNative s k tid t th = .fault (noteFetch s t.vd t.core th.arch.pc) code d := by
  simp [fetchNative, hal, hl, hf]

theorem fetchNative_fills {psel pa : Nat} {ws : List DWord} {x : Nat × Decoded} (hl : lookUp s t th = .miss psel pa)
    (hf : fetchWords s t.vd t.core th.arch.pc th.arch.clause.due false = .ok ws) (hx : decodeNative s t.vd t.core th.arch.pc = .ok x) :
    fetchNative s k tid t th = .wait (startFill s t th psel pa) := by
  simp [fetchNative, hal, hl, hf, hx]

end

/-! ### Under a guest personality -/

theorem fetchThread_guest (he : th.expansion = none) (hr : th.rep = none) (hx : th.arch.pix ≠ 0) :
    fetchThread s k tid t th = fetchGuestOp s k tid t th := by
  simp only [fetchThread, he, hr, if_neg hx]

theorem fetchGuestOp_decodes (h : ∀ psel pa, lookUp s t th ≠ .miss psel pa) :
    fetchGuestOp s k tid t th = .op .guestInstructionDecode s := by
  unfold fetchGuestOp
  split
  · next psel pa hl => exact absurd hl (h psel pa)
  · rfl

theorem fetchGuestOp_misses {psel pa : Nat} (hl : lookUp s t th = .miss psel pa) (hw : awaitsAccess th = false)
    (him : (imageAt s t.vd th.arch.pix.toNat).isSome = true) : fetchGuestOp s k tid t th = .wait (missGuest s k tid t th psel pa) := by
  simp [fetchGuestOp, hl, hw, him]

/-! ### Inside an expansion or a REP -/

theorem fetchThread_expansion {x : Expansion} (he : th.expansion = some x) :
    fetchThread s k tid t th = .op (x.ops.headD .commitPoint) s := by simp [fetchThread, he]

theorem fetchThread_rep {r : Rep} (he : th.expansion = none) (hr : th.rep = some r) : fetchThread s k tid t th = .op r.op s := by
  simp [fetchThread, he, hr]

end

/-! ## What a line holds (R386, R388) -/

section
variable {s : State} {vd core : Nat} {pc : DWord} {ws : List DWord}

/-- A line begins with the instruction at its address, where that can be fetched and fits. -/
theorem lineCode_head {pix n slots len : Nat} {img : Option Image} {d : Decoded} (h : decodeAt s vd core pix img pc = .ok (len, d))
    (hfit : slotsUsed d ≤ slots) : ∃ ds, lineCode s vd core pix img (n + 1) slots pc = d :: ds := by
  rw [lineCode, h]
  simp only [if_neg (Nat.not_lt.2 hfit)]
  split
  · exact ⟨[], rfl⟩
  · exact ⟨_, rfl⟩

/-- A line that begins with an instruction that ends lines is that one alone. -/
theorem lineCode_ends {pix n slots len : Nat} {img : Option Image} {d : Decoded} (h : decodeAt s vd core pix img pc = .ok (len, d))
    (hfit : slotsUsed d ≤ slots) (he : endsLine d = true) : lineCode s vd core pix img (n + 1) slots pc = [d] := by
  rw [lineCode, h]
  simp only [if_neg (Nat.not_lt.2 hfit), if_pos (Or.inl he)]

theorem readWords_ok {i : Instr} {n : Nat} {due stream : Bool} (hd : decodeWords ws = .ok (i, n))
    (hdue : due = true → ∃ h, i = .clauseHeader h) (hc : classFits i stream = true) : readWords ws due stream = some i := by
  have hh : (due && !isHeader i) = false := by
    cases due with
    | false => rfl
    | true => simp [(isHeader_iff i).2 (hdue rfl)]
  simp [readWords, hd, hh, hc]

theorem readWords_error {e : DecodeErr} (hd : decodeWords ws = .error e) (due stream : Bool) : readWords ws due stream = none := by
  simp [readWords, hd]

section
variable (hal : pc.toNat % 8 = 0) (hf : fetchWords s vd core pc false false = .ok ws)
include hal hf

theorem decodeNative_runs {i : Instr} (hr : readWords ws false false = some i) :
    decodeNative s vd core pc = .ok (8 * ws.length, .run (8 * ws.length) [i]) := by
  simp [decodeNative, hal, hf, Except.map, hr]

theorem decodeNative_illegal (hr : readWords ws false false = none) : decodeNative s vd core pc = .ok (8, .illegal) := by
  simp [decodeNative, hal, hf, Except.map, hr]

end

theorem slotsUsed_single (len : Nat) (i : Instr) : slotsUsed (.run len [i]) ≤ 1 := by
  cases h : isHeader i <;> simp [slotsUsed, h]

end

/-! ## What a stream fetches -/

section
variable {s : State} {k : Nat} {t : Team}

theorem streamStep_misaligned (h : t.stream.pc.toNat % 8 ≠ 0) : streamStep s k t = .next (faultStream s k cILLEGAL 0) := by
  simp [streamStep, fetchStream, h]

theorem streamStep_unfetched {code : BitVec 8} {d : DWord} (hal : t.stream.pc.toNat % 8 = 0)
    (hf : fetchWords s t.vd t.core t.stream.pc t.stream.clause.due true = .error (code, d)) :
    streamStep s k t = .next (faultStream (noteFetch s t.vd t.core t.stream.pc) k code d) := by
  simp [streamStep, fetchStream, hal, hf]

/-- The state after the fetches of a stream's words. -/
def streamFetched (s : State) (t : Team) (ws : List DWord) : State :=
  noteFetch (noteFetch s t.vd t.core t.stream.pc) t.vd t.core (t.stream.pc + BitVec.ofNat 64 (8 * (ws.length - 1)))

theorem streamStep_runs {ws : List DWord} {i : Instr} (hal : t.stream.pc.toNat % 8 = 0)
    (hf : fetchWords s t.vd t.core t.stream.pc t.stream.clause.due true = .ok ws)
    (hr : readWords ws t.stream.clause.due true = some i) : streamStep s k t = exec i (streamFetched s t ws) := by
  simp [streamStep, fetchStream, hal, hf, hr, streamFetched]

theorem streamStep_illegal {ws : List DWord} (hal : t.stream.pc.toNat % 8 = 0)
    (hf : fetchWords s t.vd t.core t.stream.pc t.stream.clause.due true = .ok ws)
    (hr : readWords ws t.stream.clause.due true = none) : streamStep s k t = .next (faultStream (streamFetched s t ws) k cILLEGAL 0) := by
  simp [streamStep, fetchStream, hal, hf, hr, streamFetched]

end

/-! ## A thread that stops (R428, R470) -/

section
variable {s : State} {k tid : Nat} {t : Team} {th : Thread} (ht : s.team? k = some t) (hth : s.thread? k tid = some th)
include ht hth

/-- A thread whose gang is not asked to stop, that goes on, or that has stopped before, is left. -/
theorem settleStop_stays (h : stopping s t = false ∨ threadStopped s k tid th = false ∨ th.preempted = true) : settleStop s k tid = s := by
  have hc : (stopping s t && threadStopped s k tid th && !th.preempted) = false := by
    rcases h with h | h | h <;> simp [h]
  simp only [settleStop, ht, hth, hc, Bool.false_eq_true, if_false]

theorem settleStop_stops (hs : stopping s t = true) (hd : threadStopped s k tid th = true) (hp : th.preempted = false) :
    settleStop s k tid = endStopHalts (s.modThread k tid stopHere) := by
  simp only [settleStop, ht, hth, hs, hd, hp, Bool.not_false, Bool.and_self, if_true]

/-- One of the two. -/
theorem settleStop_cases : settleStop s k tid = s ∨ settleStop s k tid = endStopHalts (s.modThread k tid stopHere) := by
  simp only [settleStop, ht, hth]
  split
  · exact .inr rfl
  · exact .inl rfl

theorem settleStop_mem : (settleStop s k tid).mem = s.mem := by
  rcases settleStop_cases ht hth with h | h <;> rw [h]
  exact modThread_mem ..

theorem settleStop_halts {h : Halt} (hh : h ∈ (settleStop s k tid).halts) : h ∈ s.halts := by
  rcases settleStop_cases ht hth with e | e <;> rw [e] at hh
  · exact hh
  · exact modThread_halts s k tid stopHere ▸ (List.mem_filter.1 hh).1

/-- The halts of a thread that stops end. -/
theorem settleStop_ends_halts (hs : stopping s t = true) (hd : threadStopped s k tid th = true) (hp : th.preempted = false) {h : Halt}
    (hh : h ∈ (settleStop s k tid).halts) : ¬(h.team = k ∧ h.tid = tid) := by
  rintro ⟨rfl, rfl⟩
  rw [settleStop_stops ht hth hs hd hp] at hh
  have hn := (List.mem_filter.1 hh).2
  simp [thread?_modThread_same hth, stopHere] at hn

/-- It stands where it was, or at the boundary before an expansion that has not committed. -/
theorem settleStop_thread : ∃ b, (settleStop s k tid).thread? k tid = some { th with preempted := b } ∨
    (settleStop s k tid).thread? k tid = some { rollback th with preempted := b } := by
  rcases settleStop_cases ht hth with e | e <;> rw [e]
  · exact ⟨th.preempted, .inl hth⟩
  · have hm : (endStopHalts (s.modThread k tid stopHere)).thread? k tid = some (stopHere th) := thread?_modThread_same hth stopHere
    rw [hm]
    refine ⟨true, ?_⟩
    cases hp : atPoint th with
    | true => exact .inl (by simp [stopHere, hp])
    | false => exact .inr (by simp [stopHere, hp])

end

/-! ## The statement -/

/-- Settles O60: the step of the agent whose turn it is, by what it fetches. -/
theorem stepRunsDecodedInstruction : Obligations.StepRunsDecodedInstruction := by
  unfold Obligations.StepRunsDecodedInstruction
  intro then'
  refine ⟨?thread, ?lines, ?stream, ?stops, fun l a s => rfl⟩
  case thread =>
    intro s k tid t th hw hl hi hs ha ht hth hp s' comes runs illegal
    have comes_of : ∀ o, runFetched s' k tid t th (fetchThread s' k tid t th) = o → comes o := by
      rintro o rfl
      exact step_thread hw hl hi hs ha ht hth hp
    have runs_of : ∀ i s1, fetchThread s' k tid t th = .op i s1 → runs i s1 := fun i s1 h => comes_of _ (by rw [h]; rfl)
    have faults_of : ∀ s1 code d, fetchThread s' k tid t th = .fault s1 code d → comes (.next (faultThread s1 k tid code d)) :=
      fun s1 code d h => comes_of (.next (faultThread s1 k tid code d)) (by rw [h]; rfl)
    have waits_of : ∀ s1, fetchThread s' k tid t th = .wait s1 → comes (.next s1) := fun s1 h => comes_of (.next s1) (by rw [h]; rfl)
    have events_of : ∀ i, i.code = none → fetchThread s' k tid t th = .op i s' → comes (exec i s') :=
      fun i hc h => comes_of _ (by rw [h]; exact runFetched_event hc s' k tid t th s')
    refine ⟨fun he hr hx => ?native, fun he hr hx => ?guest, fun x he => ?expansion, fun r he hr => runs_of _ _ (fetchThread_rep he hr)⟩
    case native =>
      have hf : fetchThread s' k tid t th = fetchNative s' k tid t th := fetchThread_native he hr hx
      refine ⟨fun hal => faults_of _ _ _ (hf.trans (fetchNative_misaligned hal)), fun hal => ⟨?_, ?_, ?_, ?_, ?_, ?_⟩⟩
      · exact fun p len i hlook hd => runs_of _ _ (hf.trans (fetchNative_hit hal hlook hd))
      · exact fun p len i hlook hd hh => faults_of _ _ _ (hf.trans (fetchNative_due hal hlook hd hh))
      · exact fun p hlook => faults_of _ _ _ (hf.trans (fetchNative_illegal hal hlook))
      · exact fun code d hlook => faults_of _ _ _ (hf.trans (fetchNative_fault hal hlook))
      · exact fun psel pa code d hlook hw => faults_of _ _ _ (hf.trans (fetchNative_unfetched hal hlook hw))
      · exact fun psel pa ws x hlook hw hx => waits_of _ (hf.trans (fetchNative_fills hal hlook hw hx))
    case guest =>
      have hf : fetchThread s' k tid t th = fetchGuestOp s' k tid t th := fetchThread_guest he hr hx
      exact ⟨fun hlook => events_of _ rfl (hf.trans (fetchGuestOp_decodes hlook)),
        fun psel pa hlook hw him => waits_of _ (hf.trans (fetchGuestOp_misses hlook hw him))⟩
    case expansion =>
      have hf : fetchThread s' k tid t th = .op (x.ops.headD .commitPoint) s' := fetchThread_expansion he
      exact ⟨fun i r hops => runs_of _ _ (by rw [hf, hops]; rfl), fun hops => events_of _ rfl (by rw [hf, hops]; rfl)⟩
  case lines =>
    intro s vd core pc ws img hal hf
    refine ⟨fun i n hd hc => ?_, fun e hd => ?_⟩
    · have hn := decodeNative_runs hal hf (readWords_ok hd (due := false) (fun h => by cases h) hc)
      exact lineCode_head (pix := 0) hn ((slotsUsed_single _ i).trans (by decide))
    · exact lineCode_ends (pix := 0) (decodeNative_illegal hal hf (readWords_error hd _ _)) (by decide) rfl
  case stream =>
    intro s k t hw hl hi hs ha ht s' pc due comes
    have comes_of : ∀ o, streamStep s' k t = o → comes o := by
      rintro o rfl
      exact step_stream hw hl hi hs ha ht
    refine ⟨fun hal => comes_of _ (streamStep_misaligned hal), fun hal => ⟨fun code d hf => comes_of _ (streamStep_unfetched hal hf), ?_⟩⟩
    intro ws hf s1
    exact ⟨fun i n hd hh hc => comes_of _ (streamStep_runs hal hf (readWords_ok hd hh hc)),
      fun e hd => comes_of _ (streamStep_illegal hal hf (readWords_error hd _ _))⟩
  case stops =>
    exact fun s k tid t th ht hth => ⟨settleStop_stays ht hth, settleStop_mem ht hth, fun h => settleStop_halts ht hth,
      fun hs hd hp h => settleStop_ends_halts ht hth hs hd hp, settleStop_thread ht hth⟩

end Sys2Proof.Machine
end

section
/-! SUPPORT. The bit functions (R106, R109 to R112): each as a list of bits, or as fields that do not meet, and so bit by bit. -/

namespace Sys2Proof.Machine

/-! ## Lists of bits -/

theorem bitList_eq_map (w x : Nat) : bitList w x = (List.range w).map x.testBit := by
  induction w generalizing x with
  | zero => rfl
  | succ w ih =>
    rw [List.range_succ_eq_map, List.map_cons, List.map_map, bitList, ih]
    congr 1
    · rw [Nat.testBit_zero]
      rfl
    · exact List.map_congr_left fun i _ => (Nat.testBit_succ x i).symm

theorem testBit_ofBits (l : List Bool) (i : Nat) : (ofBits l).testBit i = l.getD i false := by
  induction l generalizing i with
  | nil => simp [ofBits]
  | cons b r ih =>
    have hb : (if b then 1 else 0) < 2 ^ 1 := by split <;> decide
    have h := Nat.testBit_two_pow_mul_add (ofBits r) hb i
    rw [pow_one, Nat.add_comm] at h
    rw [ofBits, h]
    cases i with
    | zero => cases b <;> rfl
    | succ j => simp [ih]

/-- A bit of a number given by its bits. -/
theorem testBit_ofBits_map {w i : Nat} (h : i < w) (f : Nat → Bool) : (ofBits ((List.range w).map f)).testBit i = f i := by
  simp [testBit_ofBits, h]

/-- The bits of a word from the highest. -/
theorem reverse_bitList (w x : Nat) : (bitList w x).reverse = (List.range w).map fun i => x.testBit (w - 1 - i) := by
  rw [bitList_eq_map]
  exact List.ext_getElem (by simp) fun i _ _ => by simp

/-! ## Truth tables, reversal and counts (R106, R110) -/

theorem tableBit_eq (tt : Nat) (x y z : Bool) :
    tableBit tt x y z = tt.testBit ((if x then 4 else 0) + (if y then 2 else 0) + (if z then 1 else 0)) := by
  rw [Nat.testBit_eq_decide_div_mod_eq]
  rfl

theorem testBit_tableFn (tt a b c : Nat) {w i : Nat} (h : i < w) :
    (tableFn tt w a b c).testBit i = tableBit tt (a.testBit i) (b.testBit i) (c.testBit i) := by
  rw [tableFn, bitList_eq_map, bitList_eq_map, bitList_eq_map, List.zip_map', List.zip_map', List.map_map, testBit_ofBits_map h]
  rfl

theorem testBit_bitReverse (x : Nat) {w i : Nat} (h : i < w) : (bitReverse w x).testBit i = x.testBit (w - 1 - i) := by
  rw [bitReverse, reverse_bitList, testBit_ofBits_map h]

theorem popCount_eq (w x : Nat) : popCount w x = ((List.range w).filter fun i => x.testBit i).length := by
  rw [popCount, bitList_eq_map, List.count_eq_countP, List.countP_map, List.countP_eq_length_filter]
  congr 2
  funext i
  exact beq_true _

/-- The zeros before the first one of `w` bits: all of them, or up to a one. -/
theorem length_takeWhile_zeros (w : Nat) (f : Nat → Bool) {n : Nat} (hn : n = (((List.range w).map f).takeWhile (· == false)).length) :
    n ≤ w ∧ (∀ i, i < n → f i = false) ∧ (n < w → f n = true) := by
  have hf : n = ((List.range w).findIdx f) := by
    rw [hn, List.takeWhile_map, List.length_map, List.takeWhile_eq_take_findIdx_not, List.length_take, Nat.min_eq_left List.findIdx_le_length]
    simp
  have hle : n ≤ w := by simpa [hf] using List.findIdx_le_length (p := f) (xs := List.range w)
  refine ⟨hle, fun i hi => ?_, fun h => ?_⟩
  · have h0 := List.not_of_lt_findIdx (show i < (List.range w).findIdx f from hf ▸ hi)
    rwa [List.getElem_range] at h0
  · have := List.findIdx_getElem (p := f) (xs := List.range w) (w := by simpa [← hf] using h)
    simpa [← hf] using this

theorem leadingZeros_spec (w x : Nat) : leadingZeros w x ≤ w ∧ (∀ i, i < leadingZeros w x → x.testBit (w - 1 - i) = false) ∧
    (leadingZeros w x < w → x.testBit (w - 1 - leadingZeros w x) = true) :=
  length_takeWhile_zeros w (fun i => x.testBit (w - 1 - i)) (by rw [leadingZeros, reverse_bitList])

theorem trailingZeros_spec (w x : Nat) : trailingZeros w x ≤ w ∧ (∀ i, i < trailingZeros w x → x.testBit i = false) ∧
    (trailingZeros w x < w → x.testBit (trailingZeros w x) = true) :=
  length_takeWhile_zeros w x.testBit (by rw [trailingZeros, bitList_eq_map])

/-- A number below `2 ^ w` without a one among its `w` bits is 0. -/
theorem eq_zero_of_bits {w x : Nat} (hx : x < 2 ^ w) (h : ∀ i, i < w → x.testBit i = false) : x = 0 := by
  refine Nat.zero_of_testBit_eq_false fun i => ?_
  rcases Nat.lt_or_ge i w with hi | hi
  · exact h i hi
  · exact Nat.testBit_lt_two_pow (hx.trans_le (Nat.pow_le_pow_right (by decide) hi))

section
variable {w x : Nat} (hx : x < 2 ^ w)
include hx

theorem leadingZeros_eq_width_iff : leadingZeros w x = w ↔ x = 0 := by
  obtain ⟨hle, hzero, hone⟩ := leadingZeros_spec w x
  refine ⟨fun h => eq_zero_of_bits hx fun i hi => ?_, fun h => hle.antisymm (Nat.not_lt.1 fun hlt => ?_)⟩
  · have := hzero (w - 1 - i) (by omega)
    rwa [show w - 1 - (w - 1 - i) = i by omega] at this
  · have hbit := hone hlt
    rw [h, Nat.zero_testBit] at hbit
    cases hbit

theorem trailingZeros_eq_width_iff : trailingZeros w x = w ↔ x = 0 := by
  obtain ⟨hle, hzero, hone⟩ := trailingZeros_spec w x
  refine ⟨fun h => eq_zero_of_bits hx fun i hi => hzero i (h.symm ▸ hi), fun h => hle.antisymm (Nat.not_lt.1 fun hlt => ?_)⟩
  have hbit := hone hlt
  rw [h, Nat.zero_testBit] at hbit
  cases hbit

/-- The highest one lies just below the leading zeros. -/
theorem leadingZeros_bounds (h0 : x ≠ 0) : 2 ^ (w - 1 - leadingZeros w x) ≤ x ∧ x < 2 ^ (w - leadingZeros w x) := by
  obtain ⟨hle, hzero, hone⟩ := leadingZeros_spec w x
  have hlt : leadingZeros w x < w := hle.lt_of_ne (mt (leadingZeros_eq_width_iff hx).1 h0)
  refine ⟨Nat.ge_two_pow_of_testBit (hone hlt), Nat.lt_pow_two_of_testBit x fun i hi => ?_⟩
  rcases Nat.lt_or_ge i w with hw | hw
  · have := hzero (w - 1 - i) (by omega)
    rwa [show w - 1 - (w - 1 - i) = i by omega] at this
  · exact Nat.testBit_lt_two_pow (hx.trans_le (Nat.pow_le_pow_right (by decide) hw))

/-- The lowest one lies just above the trailing zeros. -/
theorem trailingZeros_lowest (h0 : x ≠ 0) : x.testBit (trailingZeros w x) = true ∧ 2 ^ trailingZeros w x ∣ x := by
  obtain ⟨hle, hzero, hone⟩ := trailingZeros_spec w x
  refine ⟨hone (hle.lt_of_ne (mt (trailingZeros_eq_width_iff hx).1 h0)), Nat.dvd_of_mod_eq_zero ?_⟩
  refine Nat.zero_of_testBit_eq_false fun i => ?_
  rw [Nat.testBit_mod_two_pow]
  by_cases hi : i < trailingZeros w x <;> simp [hi, hzero]

end

/-! ## Fields (R109) -/

/-- Numbers without a common one add as they join. -/
theorem add_eq_lor_of_disjoint {a b : Nat} (h : a &&& b = 0) : a + b = a ||| b := by
  obtain ⟨w, hw⟩ : ∃ w, a + b < 2 ^ w := ⟨a + b, Nat.lt_two_pow_self⟩
  have ha : a < 2 ^ w := by omega
  have hb : b < 2 ^ w := by omega
  have hd : BitVec.ofNat w a &&& BitVec.ofNat w b = 0#w := by
    apply BitVec.eq_of_toNat_eq
    simp [Nat.mod_eq_of_lt ha, Nat.mod_eq_of_lt hb, h]
  have := congrArg BitVec.toNat (BitVec.add_eq_or_of_and_eq_zero _ _ hd)
  simpa [Nat.mod_eq_of_lt ha, Nat.mod_eq_of_lt hb, Nat.mod_eq_of_lt hw] using this

/-- What a mask leaves of a number. -/
theorem sub_land_eq_ldiff (a m : Nat) : a - (a &&& m) = a.ldiff m := by
  have hd : a.ldiff m &&& (a &&& m) = 0 := Nat.zero_of_testBit_eq_false fun i => by
    cases h : m.testBit i <;> simp [Nat.testBit_ldiff, h]
  have hj : a.ldiff m ||| (a &&& m) = a := Nat.eq_of_testBit_eq fun i => by
    cases h : m.testBit i <;> simp [Nat.testBit_ldiff, h]
  have := add_eq_lor_of_disjoint hd
  omega

/-- One number under a mask, and another where the mask is clear. -/
theorem testBit_merge (a y m i : Nat) : (a - (a &&& m) + (y &&& m)).testBit i = if m.testBit i then y.testBit i else a.testBit i := by
  have hd : a.ldiff m &&& (y &&& m) = 0 := Nat.zero_of_testBit_eq_false fun i => by
    cases h : m.testBit i <;> simp [Nat.testBit_ldiff, h]
  rw [sub_land_eq_ldiff, add_eq_lor_of_disjoint hd]
  cases h : m.testBit i <;> simp [Nat.testBit_ldiff, h]

theorem testBit_bitInsert (a b ctl : Nat) {w i : Nat} (hi : i < w) : (bitInsert w a b ctl).testBit i =
    if ctl % 256 ≤ i ∧ i < ctl % 256 + min (ctl / 256 % 256) w then b.testBit (i - ctl % 256) else a.testBit i := by
  have hm : ((2 ^ min (ctl / 256 % 256) w - 1) * 2 ^ (ctl % 256) % 2 ^ w).testBit i =
      decide (ctl % 256 ≤ i ∧ i < ctl % 256 + min (ctl / 256 % 256) w) := by
    rw [Nat.testBit_mod_two_pow, Nat.testBit_mul_two_pow, Nat.testBit_two_pow_sub_one, Bool.eq_iff_iff]
    simp only [Bool.and_eq_true, decide_eq_true_eq]
    omega
  refine (testBit_merge a (b * 2 ^ (ctl % 256) % 2 ^ w) _ i).trans ?_
  rw [hm]
  simp only [decide_eq_true_eq]
  refine if_ctx_congr Iff.rfl (fun h => ?_) fun _ => rfl
  rw [Nat.testBit_mod_two_pow, Nat.testBit_mul_two_pow, decide_eq_true hi, decide_eq_true h.1, Bool.true_and, Bool.true_and]

/-- The value of a signed pattern is the library's. -/
theorem toVal_signed_eq_toInt (w x : Nat) : toVal true w x = (BitVec.ofNat w x).toInt := by
  simp only [toVal, BitVec.toInt_eq_toNat_cond, BitVec.toNat_ofNat, Bool.true_and, decide_eq_true_eq]
  rcases Nat.eq_zero_or_pos w with rfl | hw
  · simp [Nat.mod_one]
  · have hp : 2 * 2 ^ (w - 1) = 2 ^ w := mul_pow_sub_one hw.ne' 2
    by_cases h : 2 ^ (w - 1) ≤ x % 2 ^ w
    · rw [if_pos h, if_neg (by omega)]
      push_cast
      rfl
    · rw [if_neg h, if_pos (by omega)]

theorem toVal_unsigned (w x : Nat) : toVal false w x = (x % 2 ^ w : Nat) := by
  simp [toVal]

theorem wrapZ_eq_toNat_ofInt (w : Nat) (x : Int) : wrapZ w x = (BitVec.ofInt w x).toNat := by
  rw [BitVec.toNat_ofInt, wrapZ]
  push_cast
  rfl

/-- The bits of a field's value: its own, and above them its sign. -/
theorem testBit_wrapZ_toVal (signed : Bool) (f : Nat) {len w i : Nat} (hlen : 0 < len) (hi : i < w) :
    (wrapZ w (toVal signed len f)).testBit i = if i < len then f.testBit i else signed && f.testBit (len - 1) := by
  cases signed with
  | true =>
    have hs : (BitVec.ofNat len f).msb = f.testBit (len - 1) := by
      rw [BitVec.msb_eq_getLsbD_last, BitVec.getLsbD_ofNat, decide_eq_true (by omega), Bool.true_and]
    have hb := BitVec.getLsbD_signExtend (BitVec.ofNat len f) (v := w) (i := i)
    rw [decide_eq_true hi, Bool.true_and, hs] at hb
    rw [toVal_signed_eq_toInt, wrapZ_eq_toNat_ofInt, Bool.true_and]
    refine hb.trans (if_ctx_congr Iff.rfl (fun h => ?_) fun _ => rfl)
    rw [BitVec.getLsbD_ofNat, decide_eq_true h, Bool.true_and]
  | false =>
    rw [toVal_unsigned, wrapZ, Bool.false_and]
    norm_cast
    rw [Nat.testBit_mod_two_pow, Nat.testBit_mod_two_pow, decide_eq_true hi, Bool.true_and]
    split_ifs with h <;> simp [h]

theorem testBit_bitExtract (signed : Bool) (a ctl : Nat) {w i : Nat} (hi : i < w) :
    (bitExtract signed w a ctl).testBit i =
      if min (ctl / 256 % 256) w = 0 then false
      else if i < min (ctl / 256 % 256) w then a.testBit (ctl % 256 + i)
      else signed && a.testBit (ctl % 256 + min (ctl / 256 % 256) w - 1) := by
  unfold bitExtract
  generalize min (ctl / 256 % 256) w = len
  dsimp only
  by_cases h0 : len = 0
  · rw [if_pos h0, if_pos h0, Nat.zero_testBit]
  · have hfield (j : Nat) (hj : j < len) : (a / 2 ^ (ctl % 256) % 2 ^ len).testBit j = a.testBit (ctl % 256 + j) := by
      rw [Nat.testBit_mod_two_pow, decide_eq_true hj, Bool.true_and, Nat.testBit_div_two_pow, Nat.add_comm]
    rw [if_neg h0, if_neg h0, testBit_wrapZ_toVal signed _ (Nat.pos_of_ne_zero h0) hi, hfield (len - 1) (by omega),
      Nat.add_sub_assoc (by omega)]
    exact if_ctx_congr Iff.rfl (fun h => hfield i h) fun _ => rfl

/-! ## Byte selection (R111) -/

/-- A bit of a number given by its four bytes. -/
theorem testBit_bytes {x : Nat → Nat} (hx : ∀ i, x i < 2 ^ 8) {i j : Nat} (hi : i < 4) (hj : j < 8) :
    (x 0 + 256 * x 1 + 65536 * x 2 + 16777216 * x 3).testBit (8 * i + j) = (x i).testBit j := by
  have hs : x 0 + 256 * x 1 + 65536 * x 2 + 16777216 * x 3 = 2 ^ 8 * (2 ^ 8 * (2 ^ 8 * (2 ^ 8 * 0 + x 3) + x 2) + x 1) + x 0 := by omega
  have hlow (n : Nat) {b : Nat} (hb : b < 2 ^ 8) : (2 ^ 8 * n + b).testBit j = b.testBit j := by
    rw [Nat.testBit_two_pow_mul_add _ hb, if_pos hj]
  have hnext (n k : Nat) {b : Nat} (hb : b < 2 ^ 8) : (2 ^ 8 * n + b).testBit (8 + k) = n.testBit k := by
    rw [Nat.testBit_two_pow_mul_add _ hb, if_neg (by omega), Nat.add_sub_cancel_left]
  rw [hs]
  match i, hi with
  | 0, _ => rw [show 8 * 0 + j = j by omega, hlow _ (hx 0)]
  | 1, _ => rw [Nat.mul_one, hnext _ _ (hx 0), hlow _ (hx 1)]
  | 2, _ => rw [show 8 * 2 + j = 8 + (8 + j) by omega, hnext _ _ (hx 0), hnext _ _ (hx 1), hlow _ (hx 2)]
  | 3, _ => rw [show 8 * 3 + j = 8 + (8 + (8 + j)) by omega, hnext _ _ (hx 0), hnext _ _ (hx 1), hnext _ _ (hx 2), hlow _ (hx 3)]

/-- The byte that a position of a BPERM's control selects from the eight of b and a. -/
def permSource (a b k : Nat) : Nat := (if k < 4 then a / 2 ^ (8 * k) else b / 2 ^ (8 * (k - 4))) % 256

/-- A byte of a BPERM's result: the selected one, or its sign. -/
def permByte (a b g : Nat) : Nat :=
  if g < 8 then permSource a b (g % 8) else if 128 ≤ permSource a b (g % 8) then 255 else 0

theorem bytePerm_eq (a b c : Nat) : bytePerm a b c = permByte a b (c / 2 ^ (4 * 0) % 16) + 256 * permByte a b (c / 2 ^ (4 * 1) % 16) +
    65536 * permByte a b (c / 2 ^ (4 * 2) % 16) + 16777216 * permByte a b (c / 2 ^ (4 * 3) % 16) := rfl

theorem permSource_lt (a b k : Nat) : permSource a b k < 2 ^ 8 := Nat.mod_lt _ (by decide)

theorem permByte_lt (a b g : Nat) : permByte a b g < 2 ^ 8 := by
  unfold permByte
  split_ifs
  · exact permSource_lt ..
  · decide
  · decide

theorem testBit_permSource (a b k : Nat) {j : Nat} (hk : k < 8) (hj : j < 8) :
    (permSource a b k).testBit j = (if k < 4 then a else b).testBit (8 * (k % 4) + j) := by
  rw [permSource, show (256 : Nat) = 2 ^ 8 from rfl, Nat.testBit_mod_two_pow, decide_eq_true hj, Bool.true_and]
  split_ifs with h
  · rw [Nat.testBit_div_two_pow, Nat.mod_eq_of_lt h, Nat.add_comm]
  · rw [Nat.testBit_div_two_pow, show k % 4 = k - 4 by omega, Nat.add_comm]

theorem testBit_seven {x : Nat} (h : x < 2 ^ 8) : x.testBit 7 = decide (128 ≤ x) := by
  rw [Nat.testBit_eq_decide_div_mod_eq, decide_eq_decide]
  omega

theorem testBit_permByte (a b g : Nat) {j : Nat} (hj : j < 8) :
    (permByte a b g).testBit j = (if g % 8 < 4 then a else b).testBit (8 * (g % 4) + if g < 8 then j else 7) := by
  have hs (j : Nat) (hj : j < 8) := testBit_permSource a b (g % 8) (Nat.mod_lt g (by decide)) hj
  rw [show g % 8 % 4 = g % 4 by omega] at hs
  unfold permByte
  by_cases hg : g < 8
  · rw [if_pos hg, if_pos hg, hs j hj]
  · rw [if_neg hg, if_neg hg, ← hs 7 (by decide), testBit_seven (permSource_lt ..)]
    by_cases h : 128 ≤ permSource a b (g % 8)
    · rw [if_pos h, decide_eq_true h, show (255 : Nat) = 2 ^ 8 - 1 from rfl, Nat.testBit_two_pow_sub_one, decide_eq_true hj]
    · rw [if_neg h, decide_eq_false h, Nat.zero_testBit]

theorem testBit_bytePerm (a b c : Nat) {i j : Nat} (hi : i < 4) (hj : j < 8) : (bytePerm a b c).testBit (8 * i + j) =
    (if c / 2 ^ (4 * i) % 16 % 8 < 4 then a else b).testBit
      (8 * (c / 2 ^ (4 * i) % 16 % 4) + if c / 2 ^ (4 * i) % 16 < 8 then j else 7) := by
  rw [bytePerm_eq, ← testBit_permByte a b _ hj]
  exact testBit_bytes (x := fun i => permByte a b (c / 2 ^ (4 * i) % 16)) (fun i => permByte_lt ..) hi hj

/-! ## The mixing generator (R112) -/

/-- A round. The recursion is unfolded before the sides are compared: folded, the kernel would compare the words that they mix by unfolding the
product. -/
theorem mixRounds_succ (n x b : Nat) : mixRounds (n + 1) x b =
    mixRounds n ((x ^^^ b) * 0x9E3779B1 % 2 ^ 32 ^^^ (x ^^^ b) * 0x9E3779B1 % 2 ^ 32 / 65536) b := by
  delta mixRounds Nat.brecOn Nat.brecOn.go
  rfl

/-! ## The statement -/

/-- Settles O7, by the bits of each function above and the round of the mixing generator. -/
theorem bitFunctions : Obligations.BitFunctions := by
  unfold Obligations.BitFunctions
  refine ⟨?table, ?reverse, ?zeros, ?insert, ?extract, popCount_eq, ?perm, ?rounds, rfl⟩
  case table =>
    intro tt w a b c i hi
    rw [testBit_tableFn tt a b c hi, tableBit_eq]
  case reverse => exact fun w x i hi => testBit_bitReverse x hi
  case zeros =>
    intro w x hx
    refine ⟨leadingZeros_eq_width_iff hx, trailingZeros_eq_width_iff hx, fun h0 => ?_⟩
    obtain ⟨hlow, hhigh⟩ := leadingZeros_bounds hx h0
    exact ⟨hlow, hhigh, trailingZeros_lowest hx h0⟩
  case insert => exact fun w a b ctl i _ hi => testBit_bitInsert a b ctl hi
  case extract => exact fun signed w a ctl i _ hi => testBit_bitExtract signed a ctl hi
  case perm => exact fun a b c i j hi hj => testBit_bytePerm a b c hi hj
  case rounds =>
    intro n x b _ _ y
    rw [Nat.shiftRight_eq_div_pow]
    exact ⟨rfl, mixRounds_succ n x b⟩

end Sys2Proof.Machine
end

section
/-! SUPPORT. The integer arithmetic (R97, R100, R107): wrapped and clamped results, division, shifts; and the instructions that give them. -/

namespace Sys2Proof.Machine

/-! ## Wrapping and clamping (R5, R41) -/

theorem width_pos (t : ElTy) : 0 < t.width := by
  cases t <;> decide

theorem clampZ_signed (w : Nat) (x : Int) : clampZ true w x = max (-(2 ^ (w - 1))) (min x (2 ^ (w - 1) - 1)) := by
  have hp : (0 : Int) < 2 ^ (w - 1) := by positivity
  simp only [clampZ, if_true]
  generalize (2 : Int) ^ (w - 1) = p at hp
  split_ifs <;> omega

theorem clampZ_unsigned (w : Nat) (x : Int) : clampZ false w x = max 0 (min x (2 ^ w - 1)) := by
  have hp : (0 : Int) < 2 ^ w := by positivity
  simp only [clampZ, Bool.false_eq_true, if_false]
  generalize (2 : Int) ^ w = p at hp
  split_ifs <;> omega

/-- The value of a wrapped number. -/
theorem toVal_wrapZ_signed (w : Nat) (x : Int) : toVal true w (wrapZ w x) = x.bmod (2 ^ w) := by
  rw [toVal_signed_eq_toInt, wrapZ_eq_toNat_ofInt, BitVec.ofNat_toNat, BitVec.setWidth_eq, BitVec.toInt_ofInt]

theorem toVal_wrapZ_unsigned (w : Nat) (x : Int) : toVal false w (wrapZ w x) = x % 2 ^ w := by
  have hp : (0 : Int) < 2 ^ w := by positivity
  have hx := Int.emod_nonneg x hp.ne'
  rw [toVal_unsigned, wrapZ]
  push_cast
  rw [Int.toNat_of_nonneg hx, Int.emod_emod]

/-- A number below a power of two keeps its value when it is wrapped. -/
theorem wrapZ_of_lt {w : Nat} {x : Int} (h0 : 0 ≤ x) (h : x < 2 ^ w) : wrapZ w x = x.toNat := by
  rw [wrapZ, Int.emod_eq_of_lt h0 h]

/-! ## Results (R97) -/

/-- The number that a type's width takes: clamped under .sat. -/
def fitted (t : ElTy) (sat : Bool) (x : Int) : Int := if sat then clampZ t.signed t.width x else x

section
variable {t : ElTy} (sat : Bool) (x : Int)

theorem intResult_wide (h : 32 ≤ t.width) : intResult t sat x = wrapZ t.width (fitted t sat x) := by
  rw [intResult, extendTo, if_neg (Nat.not_lt.2 h), fitted]
  split <;> rfl

/-- A narrow result fills the register with its value (R39). -/
theorem intResult_narrow (h : t.width < 32) :
    intResult t sat x = wrapZ 32 (toVal t.signed t.width (wrapZ t.width (fitted t sat x))) := by
  rw [intResult, extendTo, if_pos h, fitted]
  split <;> rfl

theorem intResult_narrow_unsigned (h : t.width < 32) (hs : t.signed = false) :
    intResult t sat x = (if sat then max 0 (min x (2 ^ t.width - 1)) else x % 2 ^ t.width).toNat := by
  have hp : (0 : Int) < 2 ^ t.width := by positivity
  have hw : (2 : Int) ^ t.width < 2 ^ 32 := pow_lt_pow_right₀ (by decide) h
  have hn := Int.emod_nonneg (fitted t sat x) hp.ne'
  have hl := Int.emod_lt_of_pos (fitted t sat x) hp
  rw [intResult_narrow sat x h, hs, toVal_wrapZ_unsigned, wrapZ_of_lt hn (hl.trans hw)]
  cases sat with
  | false => rfl
  | true =>
    rw [fitted, if_pos rfl, if_pos rfl, hs, clampZ_unsigned, Int.emod_eq_of_lt] <;> omega

theorem intResult_narrow_signed (h : t.width < 32) (hs : t.signed = true) :
    intResult t sat x =
      ((if sat then max (-(2 ^ (t.width - 1))) (min x (2 ^ (t.width - 1) - 1)) else Int.bmod x (2 ^ t.width)) % 2 ^ 32).toNat := by
  have hp : (0 : Int) < 2 ^ (t.width - 1) := by positivity
  have hw : (2 : Int) * 2 ^ (t.width - 1) = 2 ^ t.width := mul_pow_sub_one (width_pos t).ne' 2
  rw [intResult_narrow sat x h, hs, toVal_wrapZ_signed, wrapZ]
  cases sat with
  | false => rfl
  | true =>
    rw [fitted, if_pos rfl, if_pos rfl, hs, clampZ_signed, Int.bmod_eq_of_le_mul_two]
    · push_cast
      omega
    · push_cast
      omega

end

theorem intResult_wide_sat_signed {t : ElTy} (h : 32 ≤ t.width) (hs : t.signed = true) (x : Int) :
    intResult t true x = ((max (-(2 ^ (t.width - 1))) (min x (2 ^ (t.width - 1) - 1))) % 2 ^ t.width).toNat := by
  rw [intResult_wide true x h, fitted, if_pos rfl, hs, clampZ_signed, wrapZ]

theorem intResult_wide_sat_unsigned {t : ElTy} (h : 32 ≤ t.width) (hs : t.signed = false) (x : Int) :
    intResult t true x = (max 0 (min x (2 ^ t.width - 1))).toNat := by
  have hp : (0 : Int) < 2 ^ t.width := by positivity
  rw [intResult_wide true x h, fitted, if_pos rfl, hs, clampZ_unsigned, wrapZ_of_lt] <;> omega

/-- An operation that runs on the values of its operands comes to its result. -/
theorem regOp_arith {opc : Nat} {i : Args → Instr} {f : ElTy → Int → Int → Int → Int}
    (h : ∀ a s, exec (i a) s = runArith opc a s f) : RegOp 0 opc i (arithResult opc f) := regOp_of h

/-- Settles O1: each operation runs by the function of its row, and its result is wrapped or clamped as above. -/
theorem integerArithmetic : Obligations.IntegerArithmetic := by
  unfold Obligations.IntegerArithmetic
  have habs : (fun (_ : ElTy) (x _ _ : Int) => |x|) = fun _ x _ _ => if x < 0 then -x else x := by
    funext _ x _ _
    split_ifs with h
    · exact abs_of_neg h
    · exact abs_of_nonneg (Int.not_lt.1 h)
  refine ⟨?iadd, ?isum, ?isub, ?imul, ?imulh, ?imad, ?imin, ?imax, ?iabs, ?ineg, ?wide, ?wideSigned, ?wideUnsigned, ?narrowUnsigned,
    ?narrowSigned, ?lowest⟩
  case iabs => exact habs ▸ regOp_arith fun _ _ => rfl
  case iadd | isum | isub | imul | imulh | imad | imin | imax | ineg => exact regOp_arith fun _ _ => rfl
  case wide => exact fun t x h => intResult_wide false x h
  case wideSigned => exact fun t x hs h => intResult_wide_sat_signed h hs x
  case wideUnsigned => exact fun t x hs h => intResult_wide_sat_unsigned h hs x
  case narrowUnsigned => exact fun t sat x h hs => intResult_narrow_unsigned sat x h hs
  case narrowSigned => exact fun t sat x h hs => intResult_narrow_signed sat x h hs
  case lowest => decide

/-! ## Division and shifts (R100, R107) -/

theorem intDiv_zero (t : ElTy) (x : Int) : intDiv t x 0 = if t.signed then -1 else 2 ^ t.width - 1 := if_pos rfl
theorem intRem_zero (t : ElTy) (x : Int) : intRem t x 0 = x := if_pos rfl

/-- The quotient that does not fit keeps the dividend, and leaves no remainder. -/
theorem intDiv_overflow {t : ElTy} (hs : t.signed = true) : intDiv t (-(2 ^ (t.width - 1))) (-1) = -(2 ^ (t.width - 1)) := by
  simp [intDiv, hs]

theorem intRem_overflow {t : ElTy} (hs : t.signed = true) : intRem t (-(2 ^ (t.width - 1))) (-1) = 0 := by
  simp [intRem, hs]

/-- The quotient that does not fit is that of the lowest value by -1. -/
theorem overflows_iff (t : ElTy) (x y : Int) : (t.signed && x == -(2 ^ (t.width - 1) : Int) && y == -1) = true ↔
    t.signed = true ∧ x = -(2 ^ (t.width - 1)) ∧ y = -1 := by
  simp only [Bool.and_eq_true, beq_iff_eq, and_assoc]

section
variable {t : ElTy} {x y : Int} (hy : y ≠ 0) (ho : ¬(t.signed = true ∧ x = -(2 ^ (t.width - 1)) ∧ y = -1))
include hy ho

theorem intDiv_other : intDiv t x y = Int.tdiv x y := by
  rw [intDiv, if_neg hy, if_neg (mt (overflows_iff t x y).1 ho)]

theorem intRem_other : intRem t x y = x - Int.tdiv x y * y := by
  rw [intRem, if_neg hy, if_neg (mt (overflows_iff t x y).1 ho)]

end

theorem shiftA_short {w n : Nat} (h : n < w) (a : Nat) : (shiftA w a n : Int) = (toVal true w a / 2 ^ n) % 2 ^ w := by
  have hp : (0 : Int) < 2 ^ w := by positivity
  rw [shiftA, if_pos h, wrapZ, Int.toNat_of_nonneg (Int.emod_nonneg _ hp.ne')]

/-- Beyond the width every bit is the sign. -/
theorem shiftA_long {w n a : Nat} (hw : 0 < w) (ha : a < 2 ^ w) (h : w ≤ n) : shiftA w a n = if 2 ^ (w - 1) ≤ a then 2 ^ w - 1 else 0 := by
  have hp : (0 : Int) < 2 ^ (w - 1) := by positivity
  have hpow : (2 : Int) * 2 ^ (w - 1) = 2 ^ w := mul_pow_sub_one hw.ne' 2
  have ha' : (a : Int) < 2 ^ w := by exact_mod_cast ha
  have hv : toVal true w a / 2 ^ (w - 1) = if 2 ^ (w - 1) ≤ a then -1 else 0 := by
    simp only [toVal, Nat.mod_eq_of_lt ha, Bool.true_and, decide_eq_true_eq]
    split_ifs with hs
    · have hs' : (2 : Int) ^ (w - 1) ≤ a := by exact_mod_cast hs
      rw [Int.ediv_eq_iff_of_pos hp]
      omega
    · have hs' : (a : Int) < 2 ^ (w - 1) := by exact_mod_cast Nat.lt_of_not_le hs
      exact Int.ediv_eq_zero_of_lt (Int.natCast_nonneg a) hs'
  have hone : (-1 : Int) % 2 ^ w = (2 ^ w - 1 : Nat) := by
    rw [← Int.add_emod_right, Int.emod_eq_of_lt, Nat.cast_sub Nat.one_le_two_pow] <;> push_cast <;> omega
  rw [shiftA, if_neg (Nat.not_lt.2 h), hv, wrapZ]
  split_ifs
  · rw [hone, Int.toNat_natCast]
  · rfl

theorem rotL_mod (w a n : Nat) : rotL w a n = rotL w a (n % w) := by
  rw [rotL, rotL, Nat.mod_mod]

/-- A rotation moves each bit up by the count, around the width. -/
theorem testBit_rotL {w a i : Nat} (ha : a < 2 ^ w) (n : Nat) (hi : i < w) : (rotL w a n).testBit ((i + n) % w) = a.testBit i := by
  have hk : n % w < w := Nat.mod_lt n (by omega)
  have hin : (i + n) % w = (i + n % w) % w := by rw [Nat.add_mod, Nat.mod_eq_of_lt hi]
  have hhigh : a / 2 ^ (w - n % w) < 2 ^ (n % w) := by
    rw [Nat.div_lt_iff_lt_mul (by positivity), ← pow_add, Nat.add_sub_cancel' hk.le]
    exact ha
  rw [hin, rotL]
  generalize n % w = k at *
  have hj : (i + k) % w < w := Nat.mod_lt _ (by omega)
  rw [Nat.testBit_mod_two_pow, decide_eq_true hj, Bool.true_and, Nat.mul_comm, Nat.testBit_two_pow_mul_add _ hhigh]
  rcases Nat.lt_or_ge (i + k) w with h | h
  · rw [Nat.mod_eq_of_lt h, if_neg (by omega), Nat.add_sub_cancel]
  · have hm : (i + k) % w = i + k - w := by rw [Nat.mod_eq_sub_mod h, Nat.mod_eq_of_lt (by omega)]
    rw [hm, if_pos (by omega), Nat.testBit_div_two_pow, show i + k - w + (w - k) = i by omega]

/-- Settles O2: IDIV and IREM run by the functions of their table; the rows of the shifts are those above. -/
theorem divisionAndShiftTables : Obligations.DivisionAndShiftTables := by
  unfold Obligations.DivisionAndShiftTables
  refine ⟨regOp_arith fun _ _ => rfl, regOp_arith fun _ _ => rfl, ?signed, ?unsigned, ?overflow, ?other, ?shifts⟩
  case signed => exact fun t x hs => ⟨by rw [intDiv_zero, if_pos hs], intRem_zero t x⟩
  case unsigned => exact fun t x hs => ⟨by rw [intDiv_zero, hs]; rfl, intRem_zero t x⟩
  case overflow => exact fun t hs => ⟨intDiv_overflow hs, intRem_overflow hs⟩
  case other => exact fun t x y hy ho => ⟨intDiv_other hy ho, intRem_other hy ho⟩
  case shifts =>
    intro w a n hw ha
    refine ⟨fun h => ⟨if_pos h, if_pos h, shiftA_short h a⟩, fun h => ?_, rotL_mod w a n, fun i hi => testBit_rotL ha n hi⟩
    exact ⟨if_neg (Nat.not_lt.2 h), if_neg (Nat.not_lt.2 h), shiftA_long hw ha h⟩

end Sys2Proof.Machine
end

section
/-! SUPPORT. The other integer and predicate operations (R98 to R114): carry, comparison, selection, addresses, bits, predicates. -/

namespace Sys2Proof.Machine

/-! ## Operations on registers -/

/-- An operation on the bits of operand a comes to its result. -/
theorem regOp_bits {opc : Nat} {i : Args → Instr} {f : ElTy → Ctx → Args → Nat → Nat}
    (h : ∀ a s, exec (i a) s = runBits opc a s fun t c x => f t c a x) : RegOp 0 opc i (bitsResult opc f) := regOp_of h

/-- So does one of a 32-bit result. -/
theorem regOp_word {opc : Nat} {i : Args → Instr} {f : Ctx → Args → Nat} (h : ∀ a s, exec (i a) s = runWord opc a s fun c => f c a) :
    RegOp 0 opc i (wordResult f) := regOp_of h

/-- Settles O3: IADDC changes its thread alone, by its sum and its carry. -/
theorem addWithCarry : Obligations.AddWithCarry := by
  unfold Obligations.AddWithCarry
  exact regOp_of fun _ _ => rfl

/-- Settles O4: each operation changes its thread alone, by the result that it computes. -/
theorem wideCompareSelectAddress : Obligations.WideCompareSelectAddress := by
  unfold Obligations.WideCompareSelectAddress
  exact ⟨regOp_of fun _ _ => rfl, regOp_of fun _ _ => rfl, regOp_of fun _ _ => rfl, regOp_of fun _ _ => rfl⟩

/-- Settles O6: each operation runs by the function of its row. -/
theorem bitOperations : Obligations.BitOperations := by
  unfold Obligations.BitOperations
  refine ⟨?and, ?or, ?xor, ?andn, ?lut, ?shl, ?shr, ?sar, ?rotl, ?funl, ?funr, ?mixh, ?bext, ?bins, ?brev, ?popc, ?clz, ?ctz, ?bperm⟩
  case lut => exact regOp_of fun _ _ => rfl
  case and | or | xor | andn | shl | shr | sar | rotl | bext | bins | brev => exact regOp_bits fun _ _ => rfl
  case funl | funr | mixh | popc | clz | ctz | bperm => exact regOp_word fun _ _ => rfl

/-! ## Conditions (R101) -/

/-- A condition code that its row of R95 does not have is unallocated. -/
theorem intShape_subs {opc : Nat} {r : IntRow} {m : BitVec 10} (hr : intRow opc = some r) (h : r.subs ≤ modBits m 3 0) :
    intShape opc m = none := by
  have hm : intModOk r m = false := by simp [intModOk, Nat.not_lt.2 h]
  simp [intShape, hr, hm]

/-- An unallocated operation is ILLEGAL_OP. -/
theorem decodeFault_illegal {c : Ctx} {cls opc : Nat} {a : Args} (h : shapeOf cls opc a.mod = none) (native : Bool) :
    decodeFault c cls opc a native = some (cILLEGAL, 0) := by
  simp [decodeFault, opOk, h]

/-- An integer operation with a code that its row does not have faults. -/
theorem runThread_badSub {s : State} {c : Ctx} (h : ctxOf s = some c) {opc : Nat} {r : IntRow} {a : Args} (body : Ctx → Res)
    (hp : ∀ p ∈ c.th.pending, p.rank ≠ 1) (hs : shape0 opc a.mod = intShape opc a.mod) (hr : intRow opc = some r)
    (hsub : r.subs ≤ modBits a.mod 3 0) : runThread 0 opc a s body = .next (faulted c cILLEGAL 0) :=
  runThread_decodeFault h body (List.find?_eq_none.2 (by simpa using hp)) (decodeFault_illegal (cls := 0) (hs.trans (intShape_subs hr hsub)) _)

/-- Settles O5: a code is compared by its row, and one above 7 is unallocated. -/
theorem comparisonConditions : Obligations.ComparisonConditions := by
  unfold Obligations.ComparisonConditions
  refine ⟨?rows, ?values, ?illegal⟩
  case rows =>
    intro x y bx bz
    exact ⟨beq_iff_eq, bne_iff_ne, decide_eq_true_iff, decide_eq_true_iff, decide_eq_true_iff, decide_eq_true_iff, bne_iff_ne, beq_iff_eq⟩
  case values =>
    intro c t x
    simp only [intVal, toVal, Bool.and_eq_true, decide_eq_true_eq]
  case illegal =>
    rintro i opc (⟨rfl, rfl⟩ | ⟨rfl, rfl⟩) s c a h hp hsub
    · obtain ⟨body, hrun⟩ := exec_class00_eq_runThread (i := .icmp a) rfl rfl s
      exact hrun.trans (runThread_badSub h body hp rfl (r := ⟨.i32, allInt, false, 8⟩) rfl hsub)
    · obtain ⟨body, hrun⟩ := exec_class00_eq_runThread (i := .pset a) rfl rfl s
      exact hrun.trans (runThread_badSub h body hp rfl (r := ⟨.i32, allInt, false, 8⟩) rfl hsub)

/-! ## Predicates (R114) -/

/-- One predicate written leaves the others. -/
theorem pred_setPred (th : Thread) {j k : Nat} (b : Bool) (hj : j < 16) (hk : k < 16) :
    pred (setPred th j b) k = if k = j then b else pred th k := by
  have hm : (1#16 <<< j).getLsbD k = decide (k = j) := by
    rw [← BitVec.twoPow_eq, BitVec.getLsbD_twoPow, Bool.eq_iff_iff]
    simp only [Bool.and_eq_true, decide_eq_true_eq]
    omega
  cases b with
  | true =>
    change (th.arch.p ||| 1#16 <<< j).getLsbD k = _
    rw [BitVec.getLsbD_or, hm]
    by_cases h : k = j <;> simp [h, pred]
  | false =>
    change (th.arch.p &&& ~~~(1#16 <<< j)).getLsbD k = _
    rw [BitVec.getLsbD_and, BitVec.getLsbD_not, hm, decide_eq_true hk]
    by_cases h : k = j <;> simp [h, pred]

/-- Settles O8: each operation changes its thread alone, and a predicate written is one bit. -/
theorem predicateOperations : Obligations.PredicateOperations := by
  unfold Obligations.PredicateOperations
  exact ⟨regOp_of fun _ _ => rfl, regOp_of fun _ _ => rfl, regOp_of fun _ _ => rfl, regOp_of fun _ _ => rfl,
    fun th j k b hj hk => pred_setPred th b hj hk⟩

end Sys2Proof.Machine
end

section
/-! SUPPORT. Index registers, counted loops and personality transfers (R22, R115, R116, R122, R123, R134, R135, R295, R298). -/

namespace Sys2Proof.Machine

/-- An operation whose effect leaves it complete goes on past it. -/
theorem threadOp_completes {cls opc : Nat} {i : Args → Instr} {body : Args → Ctx → Res} {pre : Ctx → Args → Prop} {post : Ctx → Args → State}
    (he : ∀ a s, exec (i a) s = runThread cls opc a s (body a)) (hb : ∀ c a, pre c a → body a c = .done (post c a)) :
    ThreadOp cls opc i pre fun c a => afterDone c a (post c a) := fun s c a h hr hp => by
  rw [he, runThread_ready h hr, hb c a hp]

/-! ## Index registers (R22, R115, R116) -/

/-- An index access that passes its checks reaches base and offset. -/
theorem indexed_ok {c : Ctx} {j n : Nat} {o : Word} (h : indexed c j o = .ok n) :
    n = (AMap.get {} c.th.arch.x j).base.toNat + o.toNat := by
  unfold indexed at h
  dsimp only at h
  split_ifs at h
  exact (Except.ok.inj h).symm

/-- A register that no error has struck is read. -/
theorem softError_single {c : Ctx} {n : Nat} (h : AMap.find c.th.bad n = none) : softError c [n] = none := by
  simp [softError, h]

theorem exec_ixset (a : Args) (s : State) : exec (.ixset a) s = runThread 0 0x2C a s fun c =>
    if 255 < (read32 c a.sa).toNat ∨ 256 < (read32 c a.sb).toNat then .fault cINDEX ((read32 c a.sa).zeroExtend 64)
    else .done (withThread c c.s fun th => { th with arch := { th.arch with
      x := AMap.set th.arch.x a.dst.toNum { base := (read32 c a.sa).truncate 8, bound := (read32 c a.sb).truncate 9 } } }) := rfl

theorem exec_ldix (a : Args) (s : State) : exec (.ldix a) s = runThread 0 0x2D a s fun c =>
    match indexed c a.sa.toNum (read32 c a.sb) with
    | .error (code, d) => .fault code d
    | .ok n =>
      match softError c [n] with
      | some (code, d) => .fault code d
      | none => .done (withThread c c.s fun th => write32 th a.dst (vReg th.arch n)) := rfl

theorem exec_stix (a : Args) (s : State) : exec (.stix a) s = runThread 0 0x2E a s fun c =>
    match indexed c a.sa.toNum (read32 c a.sb) with
    | .error (code, d) => .fault code d
    | .ok n => .done (withThread c c.s fun th => setReg th n (read32 c a.sc)) := rfl

/-- Settles O9: an index access is checked by `indexed`, and moves the register that it reaches. -/
theorem indexedRegisters : Obligations.IndexedRegisters := by
  unfold Obligations.IndexedRegisters
  refine ⟨?ixset, ?range, ?ldix, ?stix, fun _ _ _ => rfl, ?faults⟩
  case ixset =>
    exact threadOp_completes exec_ixset fun c a ⟨ha, hb⟩ => if_neg (not_or.2 ⟨Nat.not_lt.2 ha, Nat.not_lt.2 hb⟩)
  case range => exact threadOp_faults exec_ixset fun c a h => if_pos h
  case ldix =>
    refine threadOp_completes exec_ldix fun c a ⟨n, hn, hbad⟩ => ?_
    rw [hn, ← indexed_ok hn]
    dsimp only
    rw [softError_single hbad]
  case stix =>
    refine threadOp_completes exec_stix fun c a ⟨n, hn⟩ => ?_
    rw [hn, ← indexed_ok hn]
  case faults =>
    rintro i opc (⟨rfl, rfl⟩ | ⟨rfl, rfl⟩) s c a code d h hr hi
    · rw [exec_ldix, runThread_ready h hr, hi]
    · rw [exec_stix, runThread_ready h hr, hi]

/-! ## Counted loops (R122, R123, R295) -/

/-- The loop that a LOOP begins. -/
def loopBegun (c : Ctx) (a : Args) : Loop := { count := read32 c a.sa, start := returnAddr c.th a, stop := targetOf c a }

theorem exec_loop (a : Args) (s : State) : exec (.loopL a) s = runThread 0 0x45 a s fun c =>
    if read32 c a.sa = 0 then
      (if c.th.expansion.isSome then .done (withThread c c.s fun th => setLoop th a.dst.toNum (loopBegun c a))
       else .jump (withThread c c.s fun th => goTo (setLoop th a.dst.toNum (loopBegun c a)) (targetOf c a) a.live))
    else .done (withThread c c.s fun th => setLoop th a.dst.toNum (loopBegun c a)) := rfl

theorem exec_lend (a : Args) (s : State) : exec (.lend a) s = runThread 0 0x46 a s fun c =>
    if (getLoop c.th a.dst.toNum).count.toNat ≤ 1 then
      .done (withThread c c.s fun th => setLoop th a.dst.toNum { getLoop c.th a.dst.toNum with count := 0 })
    else .jump (withThread c c.s fun th => goTo (setLoop th a.dst.toNum
      { getLoop c.th a.dst.toNum with count := (getLoop c.th a.dst.toNum).count - 1 }) (getLoop c.th a.dst.toNum).start a.live) := rfl

/-- Settles O12: a LOOP of count 0 is a transfer but in a template; a LEND is one while the count is above 1. -/
theorem countedLoops : Obligations.CountedLoops := by
  unfold Obligations.CountedLoops
  refine ⟨?counts, ?template, ?skips, ?ends, ?again⟩
  case counts => exact threadOp_completes exec_loop fun c a h => if_neg h
  case template =>
    refine threadOp_completes exec_loop fun c a ⟨h, he⟩ => ?_
    rw [if_pos h, if_pos he, loopBegun, h]
    rfl
  case skips =>
    refine threadOp_jumps exec_loop fun c a ⟨h, he⟩ => ?_
    rw [if_pos h, he, loopBegun, h]
    rfl
  case ends => exact threadOp_completes exec_lend fun c a h => if_pos h
  case again => exact threadOp_jumps exec_lend fun c a h => if_neg (Nat.not_le.2 h)

/-! ## Personality transfers (R134, R135, R298) -/

theorem exec_pxcall (a : Args) (s : State) : exec (.pxcall a) s = runThread 0 0x4E a s fun c =>
    if !isBound (c.s.vd c.team.vd) (read32 c a.sb).toNat then .fault cILLEGAL 0
    else .jump (withThread c c.s fun th => goToPix (write64 th a.dst (returnAddr c.th a ||| (c.th.arch.pix.zeroExtend 64 <<< 61)))
      (read64 c a.sa) (BitVec.ofNat 3 (read32 c a.sb).toNat) a.live) := rfl

/-- What PXRET and EMRET make of a packed address: its bits 60:52 are checked before its personality index, and the thread goes on at a place
that its low bits give. -/
def unpackTo (c : Ctx) (a : Args) (x : DWord) (place : Nat → Nat) : Res :=
  if x.toNat / 2 ^ 52 % 2 ^ 9 ≠ 0 then .fault cADDR x
  else if !isBound (c.s.vd c.team.vd) (x.toNat / 2 ^ 61) then .fault cILLEGAL 0
  else .jump (withThread c c.s fun th =>
    goToPix th (BitVec.ofNat 64 (place (x.toNat % 2 ^ 52))) (BitVec.ofNat 3 (x.toNat / 2 ^ 61)) a.live)

section
variable {c : Ctx} {a : Args} {x : DWord} {place : Nat → Nat}

theorem unpackTo_enters (hx : x.toNat / 2 ^ 52 % 2 ^ 9 = 0) (hb : isBound (c.s.vd c.team.vd) (x.toNat / 2 ^ 61) = true) :
    unpackTo c a x place = .jump (withThread c c.s fun th =>
      goToPix th (BitVec.ofNat 64 (place (x.toNat % 2 ^ 52))) (BitVec.ofNat 3 (x.toNat / 2 ^ 61)) a.live) := by
  rw [unpackTo, if_neg (not_not.2 hx), hb]
  rfl

theorem unpackTo_range (hx : x.toNat / 2 ^ 52 % 2 ^ 9 ≠ 0) : unpackTo c a x place = .fault cADDR x := if_pos hx

theorem unpackTo_unbound (hx : x.toNat / 2 ^ 52 % 2 ^ 9 = 0) (hb : isBound (c.s.vd c.team.vd) (x.toNat / 2 ^ 61) = false) :
    unpackTo c a x place = .fault cILLEGAL 0 := by
  rw [unpackTo, if_neg (not_not.2 hx), hb]
  rfl

end

theorem exec_pxret (a : Args) (s : State) : exec (.pxret a) s = runThread 0 0x4F a s fun c => unpackTo c a (read64 c a.sa) id := rfl

theorem exec_emret (a : Args) (s : State) : exec (.emret a) s = runThread 1 0xE4 a s fun c => unpackTo c a c.th.arch.epc
    fun base => if modBits a.mod 0 0 = 1 then base else (base + c.th.arch.elen.toNat) % 2 ^ 52 := rfl

theorem isBound_of_le {p : Nat} (v : VDev) (h : 8 ≤ p) : isBound v p = false := by
  have h0 : p ≠ 0 := by omega
  simp [isBound, h0, Nat.not_lt.2 h]

/-- Settles O16: PXRET and EMRET check and enter a packed address alike. -/
theorem personalityTransfers : Obligations.PersonalityTransfers := by
  unfold Obligations.PersonalityTransfers
  refine ⟨?call, ?callUnbound, ?ret, ?retRange, ?retUnbound, ?emret, ?emretRange, ?emretUnbound, fun v p h => isBound_of_le v h⟩
  case call =>
    refine threadOp_jumps exec_pxcall fun c a hb => ?_
    rw [if_neg (by simp [hb])]
    rfl
  case callUnbound => exact threadOp_faults exec_pxcall fun c a hb => if_pos (by simp [hb])
  case ret => exact threadOp_jumps exec_pxret fun c a ⟨hx, hb⟩ => unpackTo_enters hx hb
  case retRange => exact threadOp_faults exec_pxret fun c a hx => unpackTo_range hx
  case retUnbound => exact threadOp_faults exec_pxret fun c a ⟨hx, hb⟩ => unpackTo_unbound hx hb
  case emret => exact threadOp_jumps exec_emret fun c a ⟨hx, hb⟩ => unpackTo_enters hx hb
  case emretRange => exact threadOp_faults exec_emret fun c a hx => unpackTo_range hx
  case emretUnbound => exact threadOp_faults exec_emret fun c a ⟨hx, hb⟩ => unpackTo_unbound hx hb

end Sys2Proof.Machine
end

section
/-! SUPPORT. EXIT, YIELD, NAP, WAITF and SETF (R129 to R132, R219), and the events that end these waits. -/

namespace Sys2Proof

theorem AMap.find_del_same {α : Type} (m : AMap α) (k : Nat) : AMap.find (AMap.del m k) k = none := by
  induction m with
  | nil => rfl
  | cons p r ih =>
    obtain ⟨j, y⟩ := p
    by_cases h : j = k
    · rw [AMap.del, if_pos h, ih]
    · rw [AMap.del, if_neg h, AMap.find, if_neg h, ih]

namespace Machine

/-! ## Kept waits (R219) -/

/-- The kept wait that a thread finds is one of its own, for the instruction at which it stands. -/
theorem keptHere_some {th : Thread} {kp : Kept} (h : keptHere th = some kp) : kp ∈ th.kept ∧ kp.pc = th.arch.pc :=
  ⟨List.mem_of_find?_eq_some h, by simpa using List.find?_some h⟩

theorem keptHere_dropKept (th : Thread) : keptHere (dropKept th) = none :=
  List.find?_eq_none.2 fun _ hkp => by simpa [dropKept] using (List.mem_filter.1 hkp).2

/-- The kept waits of other instructions stay. -/
theorem mem_dropKept {th : Thread} {kp : Kept} (h : kp.pc ≠ th.arch.pc) : kp ∈ (dropKept th).kept ↔ kp ∈ th.kept := by
  simp [dropKept, h]

/-! ## NAP (R131) -/

section
variable {s : State} {c : Ctx} {a : Args} (h : ctxOf s = some c) (hr : ready c 0 0x4A a = true)
include h hr

/-- A NAP without a kept wait completes for a count of 0, and else waits. -/
theorem nap_begins (hk : keptHere c.th = none) : exec (.nap a) s = .next (if read32 c a.sa = 0 then afterDone c a c.s
    else waiting c a (.nap (c.s.growth + (read32 c a.sa).zeroExtend 64) (opLen c.th a))) := by
  change execNap a s = _
  unfold execNap
  rw [runThread_ready h hr, hk]
  by_cases hn : read32 c a.sa = 0
  · simp only [hn, if_true]
  · simp only [hn, if_false]
    rfl

/-- One with a kept wait stands by its deadline. -/
theorem nap_resumes {g : DWord} {len : Nat} (hk : (keptHere c.th).map Kept.wait = some (.nap g len)) : exec (.nap a) s = .next
    (if g.toNat ≤ c.s.growth.toNat then afterDone c a (withThread c c.s dropKept)
     else afterJump c a (withThread c c.s fun th => { dropKept th with wait := some (.nap g len), waitFrom := c.s.cycle })) := by
  obtain ⟨⟨pc, w, r⟩, hkp, rfl⟩ := Option.map_eq_some_iff.1 hk
  change execNap a s = _
  unfold execNap
  rw [runThread_ready h hr, hkp]
  by_cases hg : g.toNat ≤ c.s.growth.toNat
  · simp only [hg, if_true]
    rfl
  · simp only [hg, if_false]
    rfl

end

/-! ## The other instructions -/

theorem exec_exit (a : Args) (s : State) : exec (.exitT a) s = runThread 0 0x48 a s fun c => startWait c .exit := rfl

theorem exec_waitf (a : Args) (s : State) : exec (.waitf a) s = runThread 0 0x4C a s fun c =>
    if flagCount c.th (BitVec.ofNat 4 a.sa.toNum) ≤ flagLimit a then .done c.s
    else startWait c (.flag (BitVec.ofNat 4 a.sa.toNum) (flagLimit a) (opLen c.th a)) := rfl

/-! ## The events -/

section
variable {s : State} {k tid : Nat} {th : Thread} (hth : s.thread? k tid = some th)
include hth

/-- A NAP ends at its deadline, and not before. -/
theorem napDeadline_thread {g : DWord} {len : Nat} (hw : th.wait = some (.nap g len)) :
    ∃ u, exec (.napDeadline (.thread k tid)) s = .next u ∧
      u.thread? k tid = some (if g.toNat ≤ s.growth.toNat then passOp th len th.after else th) := by
  refine ⟨_, rfl, (thread?_modThread_same hth _).trans ?_⟩
  simp only [hw]

theorem yieldExpiry_thread {x : Nat} (hy : th.yielded = some x) (hx : x ≤ s.cycle) :
    ∃ u, exec (.yieldExpiry (.thread k tid)) s = .next u ∧ u.thread? k tid = some { th with yielded := none } := by
  refine ⟨_, rfl, (thread?_modThread_same hth _).trans ?_⟩
  simp [yieldOver, hy, hx]

end

/-- A change of a team that leaves a thread out. -/
theorem thread?_modTeam_none (s : State) {k tid : Nat} {f : Team → Team} (hf : ∀ t, AMap.find (f t).threads tid = none) :
    (s.modTeam k f).thread? k tid = none := by
  cases ht : s.team? k with
  | none => simp [State.modTeam, State.thread?, ht]
  | some t => rw [thread?_of_team (team?_modTeam_same ht f), hf]

/-- A thread that leaves its team is there no more. -/
theorem thread?_removeThread (s : State) (k tid : Nat) : (removeThread s k tid).thread? k tid = none :=
  thread?_modTeam_none _ fun t => AMap.find_del_same t.threads tid

/-- A drained EXIT ends its thread; one in a live handler of S mode would end its gang (R448). -/
theorem exitDrainComplete_removes {s : State} {k tid : Nat} {t : Team} {th : Thread} (ht : s.team? k = some t) (hth : s.thread? k tid = some th)
    (hw : th.wait = some .exit) (ho : th.out = []) (hp : topPending th = none) (hl : (th.arch.mode && isLive th) = false) :
    exec (.exitDrainComplete (.thread k tid)) s = .next (removeThread s k tid) := by
  have hready : exitReady th = true := by simp [exitReady, hw, ho, hp]
  change execExitDrainComplete (.thread k tid) s = _
  simp only [execExitDrainComplete, ht, hth, hready, hl, Bool.not_true, Bool.false_eq_true, if_false, event]

/-- Settles O14, by the rules above. -/
theorem waitsAndExit : Obligations.WaitsAndExit := by
  unfold Obligations.WaitsAndExit
  refine ⟨?exit, regOp_of fun _ _ => rfl, ?napZero, ?nap, ?kept, ?keptWaits, ?records, ?waitf, ?waitfWaits, regOp_of fun _ _ => rfl, ?events⟩
  case exit => exact threadOp_jumps exec_exit fun _ _ _ => rfl
  case napZero =>
    rintro s c a h hr ⟨hk, hn⟩
    rw [nap_begins h hr hk, if_pos hn]
  case nap =>
    rintro s c a h hr ⟨hk, hn⟩
    rw [nap_begins h hr hk, if_neg hn]
  case kept =>
    rintro g len s c a h hr ⟨hk, hg⟩
    rw [nap_resumes h hr hk, if_pos hg]
  case keptWaits =>
    rintro g len s c a h hr ⟨hk, hg⟩
    rw [nap_resumes h hr hk, if_neg (Nat.not_le.2 hg)]
  case records =>
    exact fun th => ⟨fun kp hkp => keptHere_some hkp, keptHere_dropKept th, fun kp hpc => mem_dropKept hpc, rfl⟩
  case waitf => exact threadOp_completes exec_waitf fun c a hn => if_pos hn
  case waitfWaits => exact threadOp_jumps exec_waitf fun c a hn => if_neg (Nat.not_le.2 hn)
  case events =>
    intro s k tid t th ht hth
    refine ⟨fun g len hw hg => ?_, fun g len hw hg => ?_, fun x hy hx => yieldExpiry_thread hth hy hx, fun hw ho hp hl => ?_⟩
    · simpa only [hg, if_true] using napDeadline_thread hth hw
    · simpa only [Nat.not_le.2 hg, if_false] using napDeadline_thread hth hw
    · exact ⟨_, exitDrainComplete_removes ht hth hw ho hp hl, rfl, thread?_removeThread s k tid⟩

end Machine

end Sys2Proof
end

section
/-! SUPPORT. SPAWN, its bins and the threads that its requests become (R133, R311, R312). -/

namespace Sys2Proof.Machine

/-! ## Requests of a bin (R312) -/

/-- A request goes last where none of its cycle has a higher slot. -/
theorem addRequest_last {rs : List Request} {r : Request} (h : ∀ x ∈ rs, ¬(x.cycle = r.cycle ∧ r.slot < x.slot)) :
    addRequest rs r = rs ++ [r] := by
  have hl : ∀ x ∈ rs, (!(x.cycle == r.cycle && decide (r.slot < x.slot))) = true := fun x hx => by simpa [imp_iff_not_or] using h x hx
  simp only [addRequest]
  rw [List.takeWhile_eq_self_iff.2 hl, List.dropWhile_eq_nil_iff.2 hl]

/-- It goes before one of its cycle with a higher slot. -/
theorem addRequest_before {rs : List Request} {x r : Request} (hc : x.cycle = r.cycle) (hs : r.slot < x.slot) :
    addRequest (x :: rs) r = r :: x :: rs := by
  simp [addRequest, hc, hs]

theorem addRequest_length (rs : List Request) (r : Request) : (addRequest rs r).length = rs.length + 1 := by
  have := congrArg List.length
    (List.takeWhile_append_dropWhile (p := fun x => !(x.cycle == r.cycle && decide (r.slot < x.slot))) (l := rs))
  rw [List.length_append] at this
  simp only [addRequest, List.length_append, List.length_cons]
  omega

/-! ## SPAWN (R133, R311) -/

theorem spawn_places {s s1 : State} {c : Ctx} {a : Args} {placed : Bool} (h : ctxOf s = some c) (hr : ready c 0 0x4B a = true)
    (hp : placeRequest c.s c.key (targetOf c a) c.th.arch.pix (spawnRequest c a) c.th.spawn.isSome = (s1, placed)) :
    exec (.spawn a) s = .next (if placed then afterDone c a s1
      else afterStay c a (withThread c s1 fun th =>
        { th with spawn := if (ownBin c.team (targetOf c a) c.th.arch.pix).isSome then none
                           else some { req := spawnRequest c a, entry := targetOf c a, len := 8 * a.words } })) := by
  change execSpawn a s = _
  unfold execSpawn
  rw [runThread_ready h hr]
  simp only [hp]
  cases placed <;> rfl

/-- The only bin of a team takes a request of its key while it has room for another. -/
theorem placeRequest_own {s : State} {k : Nat} {t : Team} {b : Bin} (r : Request) (again : Bool) (ht : s.team? k = some t)
    (hb : t.bins = [b]) (hlen : b.reqs.length < 31) :
    placeRequest s k b.entry b.pix r again = (s.setTeam k { t with bins := [{ b with reqs := addRequest b.reqs r }] }, true) := by
  have hroom : ¬32 ≤ b.reqs.length := by omega
  have hfull : (addRequest b.reqs r).length ≠ 32 := by rw [addRequest_length]; omega
  simp [placeRequest, ht, hb, hroom, hfull]

/-! ## A SPAWN that waits for a bin (R311) -/

/-- A native thread whose SPAWN has its bin goes on. -/
theorem passSpawn_native {th : Thread} (h : th.expansion = none) (len : Nat) : passSpawn len th = passNative th len th.after := by
  simp [passSpawn, h, passOp]

@[simp] theorem countPerf_mem (s : State) (vd core n : Nat) : (countPerf s vd core n).mem = s.mem := rfl
@[simp] theorem countPerf_thread? (s : State) (vd core n k tid : Nat) : (countPerf s vd core n).thread? k tid = s.thread? k tid := rfl

/-- A team with one bin more. -/
def withBin (t : Team) (b : Bin) : Team := { t with bins := t.bins ++ [b] }

section
variable {s : State} {k : Nat} {t : Team} (ht : s.team? k = some t)
include ht

theorem takeBin_team (e : DWord) (pix : BitVec 3) (r : Request) :
    (takeBin s k e pix r).team? k = some (withBin t { entry := e, pix := pix, reqs := [r], since := s.cycle }) :=
  team?_modTeam_same ht _

theorem takeBin_thread (e : DWord) (pix : BitVec 3) (r : Request) (tid : Nat) :
    (takeBin s k e pix r).thread? k tid = s.thread? k tid := by
  rw [thread?_of_team (takeBin_team ht e pix r), thread?_of_team ht]
  rfl

/-- A thread of the team changed. -/
theorem team?_modThread_same {tid : Nat} {th : Thread} (hth : s.thread? k tid = some th) (f : Thread → Thread) :
    (s.modThread k tid f).team? k = some { t with threads := AMap.set t.threads tid (f th) } := by
  rw [modThread_some ht hth, team?_setTeam_same]

variable {core tid : Nat} {th : Thread} {w : SpawnWait} (hth : s.thread? k tid = some th)
include hth

theorem grantSpawn_full (hfull : 16 ≤ (binsOn s core).length) : grantSpawn s core (k, tid, w) = s := by
  simp [grantSpawn, ht, hth, hfull]

/-- A SPAWN that waits takes a free bin of the core, and its thread goes on. -/
theorem grantSpawn_takes (hx : th.expansion = none) (hown : ownBin t w.entry th.arch.pix = none) (hroom : (binsOn s core).length < 16) :
    ∃ u t1, grantSpawn s core (k, tid, w) = u ∧ u.team? k = some t1 ∧ u.mem = s.mem ∧
      t1.bins = t.bins ++ [{ entry := w.entry, pix := th.arch.pix, reqs := [w.req], since := s.cycle }] ∧
      u.thread? k tid = some (passNative th w.len th.after) := by
  have hteam := takeBin_team ht w.entry th.arch.pix w.req
  have hthread := (takeBin_thread ht w.entry th.arch.pix w.req tid).trans hth
  have hgrant : grantSpawn s core (k, tid, w) = countPerf (countPerf
      ((takeBin s k w.entry th.arch.pix w.req).modThread k tid (passSpawn w.len)) t.vd core 0x200) t.vd core 0x100 := by
    simp [grantSpawn, ht, hth, Nat.not_le.2 hroom, hown]
  refine ⟨_, _, hgrant, team?_modThread_same hteam hthread (passSpawn w.len), ?mem, rfl, ?thread⟩
  case mem => rw [countPerf_mem, countPerf_mem, modThread_mem, takeBin, modTeam_mem]
  case thread =>
    rw [countPerf_thread?, countPerf_thread?, thread?_modThread_same hthread, passSpawn_native hx]

end

/-! ## The events of the bins (R312) -/

theorem spawnTimerExpiry_flushes {s : State} {core j k : Nat} {b : Bin} (hb : (binsOn s core)[j]? = some (k, b))
    (hd : binDue s (k, b) = true) : exec (.spawnTimerExpiry core j) s = .next (flushBin s k b) := by
  change execSpawnTimerExpiry core j s = _
  simp only [execSpawnTimerExpiry, hb, hd, if_true, event]

theorem spawnTeamWaiting_flushes {s : State} {k : Nat} {t : Team} (ht : s.team? k = some t) (hres : t.resident = true)
    (hw : allWaiting s k t = true) : exec (.spawnTeamWaiting k) s = .next (t.bins.foldl (fun s b => flushBin s k b) s) := by
  change execSpawnTeamWaiting k s = _
  simp only [execSpawnTeamWaiting, ht, hres, hw, Bool.and_self, if_true, event]

/-! ## The thread that a request becomes (R133) -/

/-- A thread as a request makes it: fresh, but for v0 to v2. -/
def spawnedThread (slot : Nat) (e : DWord) (pix : BitVec 3) (r : Request) : Thread :=
  { freshThread slot e pix with arch := { (freshThread slot e pix).arch with v := [(0, r.a), (1, r.b), (2, r.by')] } }

theorem spawnThread_thread {s u : State} {k tid : Nat} {t : Team} {e : DWord} {pix : BitVec 3} {r : Request} (ht : s.team? k = some t)
    (hf : freeTid t = some tid) (hu : spawnThread s k e pix r = some u) : ∃ slot, u.thread? k tid = some (spawnedThread slot e pix r) := by
  simp only [spawnThread, ht, hf] at hu
  split_ifs at hu
  split at hu
  · cases hu
  · next run _ =>
    cases hu
    refine ⟨slotIn run tid, ?_⟩
    rw [thread?_of_team (team?_setTeam_same ..), AMap.find_set_same]
    rfl

theorem vReg_spawnedThread (slot : Nat) (e : DWord) (pix : BitVec 3) (r : Request) {j : Nat} (h : 3 ≤ j) :
    vReg (spawnedThread slot e pix r).arch j = 0 := by
  have h0 : 0 ≠ j := by omega
  have h1 : 1 ≠ j := by omega
  have h2 : 2 ≠ j := by omega
  simp [vReg, spawnedThread, AMap.get, AMap.find, h0, h1, h2]

/-- Settles O15, by the rules above: a SPAWN by `placeRequest`, a waiting one by `grantSpawn`, a flush by its event, a thread by `spawnThread`. -/
theorem spawnAndBins : Obligations.SpawnAndBins := by
  unfold Obligations.SpawnAndBins
  refine ⟨?spawn, ?own, ?waiting, fun rs r h => addRequest_last h, fun rs x r hc hs => addRequest_before hc hs,
    fun s core j k b hb hd => spawnTimerExpiry_flushes hb hd, fun s k t ht hres hw => spawnTeamWaiting_flushes ht hres hw, ?thread⟩
  case spawn =>
    intro s s1 c a placed h hr entry r hp
    have hs := ctxOf_state h
    subst hs
    exact spawn_places h hr hp
  case own =>
    rintro s k t b pix e r again ht hb rfl rfl hlen
    exact placeRequest_own r again ht hb hlen
  case waiting =>
    intro s core k tid t th w ht hth hx hown
    exact ⟨fun hroom => grantSpawn_takes ht hth hx hown hroom, fun hfull => grantSpawn_full ht hth hfull⟩
  case thread =>
    intro s u k tid t e pix r ht hf hu
    obtain ⟨slot, hth⟩ := spawnThread_thread ht hf hu
    exact ⟨_, hth, rfl, rfl, rfl, rfl, rfl, rfl, fun j hj => vReg_spawnedThread slot e pix r hj⟩

end Sys2Proof.Machine
end

section
/-! SUPPORT. f32 numbers (R43, R45, R53): what a code decodes to, what the nearest rounding keeps, and which code a rounded number takes. -/

namespace Sys2Proof.Machine

/-! ## Codes and their values (R43) -/

/-- A finite f32 code is read by its exponent and fraction fields. -/
theorem decodeF_f32_fields (neg : Bool) {ex fr : Nat} (hex : ex < 255) (hfr : fr < 2 ^ 23) :
    decodeF .f32 (signBit .f32 neg + (ex * 2 ^ 23 + fr)) =
      if ex = 0 then (if fr = 0 then .zero neg else .fin neg fr (-149)) else .fin neg (2 ^ 23 + fr) ((ex : Int) - 150) := by
  have hs : signBit .f32 neg = 2 ^ 31 * neg.toNat := by cases neg <;> rfl
  have hneg : neg.toNat < 2 := Bool.toNat_lt neg
  have hsign : (signBit .f32 neg + (ex * 2 ^ 23 + fr)) / 2 ^ (8 + 23) % 2 = neg.toNat := by omega
  have hexp : (signBit .f32 neg + (ex * 2 ^ 23 + fr)) / 2 ^ 23 % 2 ^ 8 = ex := by omega
  have hfrac : (signBit .f32 neg + (ex * 2 ^ 23 + fr)) % 2 ^ 23 = fr := by omega
  have hinf : ¬(ex = 2 ^ 8 - 1 ∧ ElTy.f32 ≠ .e4m3) := by omega
  have hbit : (neg.toNat == 1) = neg := by cases neg <;> rfl
  have he : (ex : Int) - 127 - (23 : Nat) = ex - 150 := by omega
  simp only [decodeF, isTapered, ieee, hsign, hexp, hfrac, hbit, hinf, he, if_false, reduceCtorEq, false_and, Bool.false_eq_true]
  rfl

/-- The value of a code that is no zero, in units of 2^−512. -/
theorem valueFix_of_fin {b m p : Nat} {neg : Bool} {e : Int} (h : decodeF .f32 b = .fin neg m e) (hp : (e + 512).toNat = p) :
    valueFix b = some (if neg then -((m * 2 ^ p : Nat) : Int) else (m * 2 ^ p : Nat)) := by
  rw [valueFix, h, ← hp]

/-- The value of a finite code, by its fields. -/
theorem valueFix_fields (neg : Bool) {ex fr n d : Nat} (hex : ex < 255) (hfr : fr < 2 ^ 23)
    (hv : (if ex = 0 then fr else 2 ^ 23 + fr) * 2 ^ (max ex 1 + 362) = n * 2 ^ d) :
    valueFix (signBit .f32 neg + (ex * 2 ^ 23 + fr)) = some (if neg then -((n * 2 ^ d : Nat) : Int) else (n * 2 ^ d : Nat)) := by
  have hd := decodeF_f32_fields neg hex hfr
  rw [← hv]
  by_cases hex0 : ex = 0
  · rw [if_pos hex0] at hd ⊢
    by_cases hfr0 : fr = 0
    · rw [if_pos hfr0] at hd
      rw [valueFix, hd]
      simp only [hfr0, Nat.zero_mul, Nat.cast_zero, neg_zero, ite_self]
    · rw [if_neg hfr0] at hd
      exact valueFix_of_fin hd (by subst hex0; rfl)
  · rw [if_neg hex0] at hd ⊢
    exact valueFix_of_fin hd (by omega)

/-! ## Rounding (R53) -/

/-- Rounding to the nearest does not go up below one half. -/
theorem roundsUp_below_half (neg odd ix : Bool) : roundsUp 0 neg odd .lt ix = false := rfl

/-- A number rounded to the nearest multiple of 2^(e+d), d > 0: the multiple is at most half of it above, and less than one below. -/
theorem roundAt_nearest (neg : Bool) (m : Nat) (e : Int) (sticky : Bool) {k : Int} {d : Nat} (hk : k = e + d) (hd : 0 < d) :
    (roundAt 0 neg m e sticky k).1 * 2 ^ d ≤ m + 2 ^ (d - 1) ∧ m < ((roundAt 0 neg m e sticky k).1 + 1) * 2 ^ d := by
  have hke : ¬k ≤ e := by omega
  have hde : (k - e).toNat = d := by omega
  have htwo : 2 ^ d = 2 * 2 ^ (d - 1) := (mul_pow_sub_one hd.ne' 2).symm
  have hdiv : m / 2 ^ d * 2 ^ d + m % 2 ^ d = m := Nat.div_add_mod' m (2 ^ d)
  have hmod : m % 2 ^ d < 2 ^ d := Nat.mod_lt m (by positivity)
  simp only [roundAt, if_neg hke, hde]
  by_cases hlt : m % 2 ^ d < 2 ^ (d - 1)
  · simp only [if_pos hlt, roundsUp_below_half, Bool.false_eq_true, if_false, Nat.add_mul]
    omega
  · rw [if_neg hlt]
    generalize roundsUp 0 neg _ _ _ = up
    cases up <;> simp only [Bool.false_eq_true, if_false, if_true, Nat.add_mul] <;> omega

/-- A multiple of 2^k keeps its value, in every mode. -/
theorem roundAt_exact (mode : Nat) (neg : Bool) {m n d : Nat} {e k : Int} (hk : k = e + d) (hm : m = n * 2 ^ d) :
    roundAt mode neg m e false k = (n, false) := by
  have hp : 0 < 2 ^ d := by positivity
  rcases Nat.eq_zero_or_pos d with rfl | hd
  · rw [roundAt, if_pos (by omega), hm]
    simp [hk]
  · have hde : (k - e).toNat = d := by omega
    have hround : roundsUp mode neg (n % 2 == 1) .lt false = false := by
      unfold roundsUp
      split <;> rfl
    simp [roundAt, show ¬k ≤ e by omega, hde, hm, hround]

/-- A number on a finer grid keeps its value, in every mode. -/
theorem roundAt_finer (mode : Nat) (neg sticky : Bool) (m : Nat) {d : Nat} {e k : Int} (he : e = k + d) :
    roundAt mode neg m e sticky k = (m * 2 ^ d, sticky) := by
  have hd : (e - k).toNat = d := by omega
  rw [roundAt, if_pos (by omega), hd]

/-! ## The code of a rounded number (R43, R53) -/

/-- The code that an f32 takes of the magnitude n × 2^k to which a number is rounded. -/
def codeF32 (n : Nat) (k : Int) : Nat :=
  if n < 2 ^ 23 then n
  else (k + bitLen n - 1 + 127).toNat * 2 ^ 23 + (n / 2 ^ (bitLen n - 1 - 23) - 2 ^ 23)

/-- The grid on which an f32 rounds m × 2^e. -/
def gridF32 (m : Nat) (e : Int) : Int := max (e + bitLen m - 1) (-126) - 23

/-- A rounded f32 that does not overflow has its sign and its code. -/
theorem roundF_f32_bits {r : Rnd} (hftz : r.ftz = false) (neg : Bool) (m : Nat) (e : Int) (sticky : Bool)
    (hmax : codeF32 (roundAt r.mode neg m e sticky (gridF32 m e)).1 (gridF32 m e) ≤ 0x7F7FFFFF) :
    (roundF .f32 r neg m e sticky).bits =
      signBit .f32 neg + codeF32 (roundAt r.mode neg m e sticky (gridF32 m e)).1 (gridF32 m e) := by
  have hno : ¬((roundAt r.mode neg m e sticky (gridF32 m e)).1 ≠ 0 ∧
      maxBits .f32 < codeF32 (roundAt r.mode neg m e sticky (gridF32 m e)).1 (gridF32 m e)) := by
    simp only [maxBits]
    omega
  simp only [roundF, isTapered, roundIeee, ieee, hftz, Bool.false_and, Bool.false_eq_true, if_false]
  exact congrArg FR.bits (if_neg hno)

/-- A normal magnitude: its exponent field and its fraction. -/
theorem codeF32_normal {n : Nat} {k : Int} (hl : 2 ^ 23 ≤ n) (hu : n < 2 ^ 24) : codeF32 n k = (k + 150).toNat * 2 ^ 23 + (n - 2 ^ 23) := by
  have hb : bitLen n = 24 := by
    rw [bitLen, if_neg (by omega), (Nat.log2_eq_iff (by omega)).2 ⟨hl, hu⟩]
  have he : k + (24 : Nat) - 1 + 127 = k + 150 := by omega
  rw [codeF32, if_neg (Nat.not_lt.2 hl), hb, he]
  simp

/-- One that rounding carried to the next power of two. -/
theorem codeF32_carried (k : Int) : codeF32 (2 ^ 24) k = (k + 151).toNat * 2 ^ 23 := by
  have hb : bitLen (2 ^ 24) = 25 := by decide
  have he : k + (25 : Nat) - 1 + 127 = k + 151 := by omega
  rw [codeF32, if_neg (by decide), hb, he]
  simp

/-! ## Numbers that an f32 holds exactly -/

/-- A number on a finer grid than its rounding takes its own code. -/
theorem roundF_f32_finer {r : Rnd} (hftz : r.ftz = false) (neg sticky : Bool) {m d : Nat} {e k : Int} (hk : gridF32 m e = k) (he : e = k + d)
    (hmax : codeF32 (m * 2 ^ d) k ≤ 0x7F7FFFFF) : (roundF .f32 r neg m e sticky).bits = signBit .f32 neg + codeF32 (m * 2 ^ d) k := by
  have hround := roundAt_finer r.mode neg sticky m he
  subst hk
  rw [roundF_f32_bits hftz neg m e sticky (by rwa [hround]), hround]

theorem bitLen_of_pos {n : Nat} (h : 0 < n) : bitLen n = Nat.log2 n + 1 := if_neg h.ne'

/-- The normal powers of two. -/
theorem roundF_f32_two_pow_normal {z : Int} (hl : -126 ≤ z) (hu : z < 128) : (roundF .f32 {} false 1 z false).bits = (z + 127).toNat * 2 ^ 23 := by
  have hcode : codeF32 (1 * 2 ^ 23) (z - 23) = (z + 127).toNat * 2 ^ 23 := by
    rw [codeF32_normal (by decide) (by decide), show z - 23 + 150 = z + 127 by omega, Nat.one_mul, Nat.sub_self, Nat.add_zero]
  have hgrid : gridF32 1 z = z - 23 := by
    rw [gridF32, bitLen_of_pos Nat.one_pos, show Nat.log2 1 = 0 by decide]
    omega
  rw [roundF_f32_finer rfl false false hgrid (d := 23) (by omega) (by omega), hcode]
  exact Nat.zero_add _

/-- The subnormal ones. -/
theorem roundF_f32_two_pow_subnormal {d : Nat} (h : d < 23) : (roundF .f32 {} false 1 ((d : Int) - 149) false).bits = 2 ^ d := by
  have hlt : 2 ^ d < 2 ^ 23 := Nat.pow_lt_pow_right (by decide) h
  have hcode : codeF32 (1 * 2 ^ d) (-149) = 2 ^ d := by rw [Nat.one_mul, codeF32, if_pos hlt]
  have hgrid : gridF32 1 ((d : Int) - 149) = -149 := by
    rw [gridF32, bitLen_of_pos Nat.one_pos, show Nat.log2 1 = 0 by decide]
    omega
  rw [roundF_f32_finer rfl false false hgrid (d := d) (by omega) (by omega), hcode]
  exact Nat.zero_add _

/-- An integer of at most 24 bits reads back. -/
theorem decodeF_roundF_nat (neg : Bool) {n : Nat} (hpos : 0 < n) (hlt : n < 2 ^ 24) :
    decodeF .f32 (roundF .f32 {} neg n 0 false).bits = .fin neg (n * 2 ^ (23 - Nat.log2 n)) (-((23 - Nat.log2 n : Nat) : Int)) := by
  have hlog : Nat.log2 n < 24 := (Nat.log2_lt hpos.ne').2 hlt
  have hlow : 2 ^ 23 ≤ n * 2 ^ (23 - Nat.log2 n) := calc
    2 ^ 23 = 2 ^ Nat.log2 n * 2 ^ (23 - Nat.log2 n) := by rw [← pow_add, Nat.add_sub_cancel' (by omega)]
    _ ≤ n * 2 ^ (23 - Nat.log2 n) := Nat.mul_le_mul_right _ (Nat.log2_self_le hpos.ne')
  have hhigh : n * 2 ^ (23 - Nat.log2 n) < 2 ^ 24 := calc
    n * 2 ^ (23 - Nat.log2 n) < 2 ^ (Nat.log2 n + 1) * 2 ^ (23 - Nat.log2 n) := Nat.mul_lt_mul_of_pos_right Nat.lt_log2_self (by positivity)
    _ = 2 ^ 24 := by rw [← pow_add, show Nat.log2 n + 1 + (23 - Nat.log2 n) = 24 by omega]
  have hgrid : gridF32 n 0 = -((23 - Nat.log2 n : Nat) : Int) := by
    rw [gridF32, bitLen_of_pos hpos]
    omega
  have hex : (-((23 - Nat.log2 n : Nat) : Int) + 150).toNat = Nat.log2 n + 127 := by omega
  have hexp : ((Nat.log2 n + 127 : Nat) : Int) - 150 = -((23 - Nat.log2 n : Nat) : Int) := by omega
  have hcode := codeF32_normal (k := -((23 - Nat.log2 n : Nat) : Int)) hlow hhigh
  rw [hex] at hcode
  rw [roundF_f32_finer rfl neg false hgrid (d := 23 - Nat.log2 n) (by omega) (by omega), hcode, decodeF_f32_fields neg (by omega) (by omega),
    if_neg (by omega), Nat.add_sub_cancel' hlow, hexp]

/-! ## The nearest number of a magnitude in units of 2^−512 -/

/-- A magnitude n × 2^(d−512) on the grid of its binade, or of the subnormal numbers, has fields with its value. -/
theorem codeF32_fields {n d : Nat} (hd : 363 ≤ d) (hn : n ≤ 2 ^ 24) (hsub : n < 2 ^ 23 → d = 363) (hmax : d ≤ 616)
    (htop : d = 616 → n < 2 ^ 24) :
    ∃ ex fr, ex < 255 ∧ fr < 2 ^ 23 ∧ codeF32 n ((d : Int) - 512) = ex * 2 ^ 23 + fr ∧
      (if ex = 0 then fr else 2 ^ 23 + fr) * 2 ^ (max ex 1 + 362) = n * 2 ^ d := by
  rcases Nat.lt_or_ge n (2 ^ 23) with hlow | hlow
  · have hd0 : d = max 0 1 + 362 := hsub hlow
    refine ⟨0, n, by omega, hlow, ?_, by rw [if_pos rfl, hd0]⟩
    rw [codeF32, if_pos hlow, Nat.zero_mul, Nat.zero_add]
  rcases Nat.lt_or_ge n (2 ^ 24) with hhigh | hhigh
  · have hex : ((d : Int) - 512 + 150).toNat = d - 362 := by omega
    have hp : max (d - 362) 1 + 362 = d := by omega
    refine ⟨d - 362, n - 2 ^ 23, by omega, by omega, ?_, ?_⟩
    · rw [codeF32_normal hlow hhigh, hex]
    · rw [if_neg (by omega), Nat.add_sub_cancel' hlow, hp]
  · obtain rfl : n = 2 ^ 24 := Nat.le_antisymm hn hhigh
    have hex : ((d : Int) - 512 + 151).toNat = d - 361 := by omega
    have hp : max (d - 361) 1 + 362 = d + 1 := by omega
    refine ⟨d - 361, 0, by omega, by omega, ?_, ?_⟩
    · rw [codeF32_carried, hex, Nat.add_zero]
    · rw [if_neg (by omega), hp, Nat.add_zero, pow_succ 2 d, pow_succ 2 23, mul_right_comm, mul_assoc]

/-- The exponent of the grid on which an f32 rounds the magnitude y, both in units of 2^−512. -/
def unitFix (y : Nat) : Nat := max (Nat.log2 y) 386 - 23

theorem gridF32_eq_unitFix (y : Nat) : gridF32 y (-512) = (unitFix y : Int) - 512 := by
  unfold gridF32 unitFix bitLen
  split_ifs with h
  · subst h
    decide
  · push_cast
    omega

/-- A magnitude of the upper binades has 24 bits on its grid, any magnitude at most 24. -/
theorem lt_two_pow_unitFix (y : Nat) : y < 2 ^ 24 * 2 ^ unitFix y := by
  have := Nat.lt_log2_self (n := y)
  refine this.trans_le ?_
  rw [← pow_add]
  exact Nat.pow_le_pow_right (by decide) (by unfold unitFix; omega)

theorem two_pow_unitFix_le {y : Nat} (h : unitFix y ≠ 363) : 2 ^ 23 * 2 ^ unitFix y ≤ y := by
  have hy : y ≠ 0 := by
    rintro rfl
    exact h rfl
  have he : 23 + unitFix y = Nat.log2 y := by
    unfold unitFix at h ⊢
    omega
  rw [← pow_add, he]
  exact Nat.log2_self_le hy

theorem unitFix_le {y k : Nat} (h : y < 2 ^ k) (hk : 386 < k) : unitFix y ≤ k - 24 := by
  have hlog : Nat.log2 y < k := by
    rcases Nat.eq_zero_or_pos y with rfl | hpos
    · exact Nat.zero_lt_of_lt hk
    · exact (Nat.log2_lt hpos.ne').2 h
  unfold unitFix
  omega

/-- Rounding to the nearest comes to a number of at most 24 bits, to 2^24, or to less than that just below the overflow. -/
theorem bits_of_nearest {y n : Nat} (hle : n * 2 ^ unitFix y ≤ y + 2 ^ (unitFix y - 1)) (hlt : y < (n + 1) * 2 ^ unitFix y) :
    n ≤ 2 ^ 24 ∧ (n < 2 ^ 23 → unitFix y = 363) ∧ (y < 2 ^ 640 - 2 ^ 615 → unitFix y = 616 → n < 2 ^ 24) := by
  have hpos : 0 < unitFix y := by unfold unitFix; omega
  have hhigh := lt_two_pow_unitFix y
  have hlow := @two_pow_unitFix_le y
  have htwo : 2 ^ unitFix y = 2 * 2 ^ (unitFix y - 1) := (mul_pow_sub_one hpos.ne' 2).symm
  refine ⟨?cap, fun h23 => ?subnormal, fun hy h616 => ?top⟩
  case cap =>
    by_contra hn
    have := Nat.mul_le_mul_right (2 ^ unitFix y) (show 2 ^ 24 + 1 ≤ n by omega)
    omega
  case subnormal =>
    by_contra hd
    have := Nat.mul_le_mul_right (2 ^ unitFix y) (show n + 1 ≤ 2 ^ 23 by omega)
    have := hlow hd
    omega
  case top =>
    by_contra hn
    have hbig := Nat.mul_le_mul_right (2 ^ unitFix y) (show 2 ^ 24 ≤ n by omega)
    have hhalf : 2 ^ 615 = 2 ^ (unitFix y - 1) := by rw [h616]
    rw [show 640 = 25 + 615 from rfl, pow_add, hhalf] at hy
    omega

/-- The nearest f32 of a magnitude y (in units of 2^−512, and a little more) that does not round past the largest number. -/
theorem valueFix_nearest (neg : Bool) {y : Nat} (hy : y < 2 ^ 640 - 2 ^ 615) :
    ∃ n, valueFix (roundF .f32 {} neg y (-512) true).bits =
        some (if neg then -((n * 2 ^ unitFix y : Nat) : Int) else (n * 2 ^ unitFix y : Nat)) ∧
      n * 2 ^ unitFix y ≤ y + 2 ^ (unitFix y - 1) ∧ y < (n + 1) * 2 ^ unitFix y := by
  have hgrid := gridF32_eq_unitFix y
  have h363 : 363 ≤ unitFix y := by unfold unitFix; omega
  obtain ⟨hle, hlt⟩ := roundAt_nearest neg y (-512) true (k := gridF32 y (-512)) (d := unitFix y) (by omega) (by omega)
  obtain ⟨hcap, hsub, htop⟩ := bits_of_nearest hle hlt
  obtain ⟨ex, fr, hex, hfr, hcode, hvalue⟩ :=
    codeF32_fields h363 hcap hsub (unitFix_le (hy.trans_le (Nat.sub_le _ _)) (by decide)) (htop hy)
  rw [← hgrid] at hcode
  refine ⟨_, ?_, hle, hlt⟩
  rw [roundF_f32_bits rfl neg y (-512) true (by rw [hcode]; omega), hcode]
  exact valueFix_fields neg hex hfr hvalue

end Sys2Proof.Machine
end

section
/-! SUPPORT. The exact floating-point operations and tests (R142 to R149, R151): special operands, and values in each rounding mode. -/

namespace Sys2Proof.Machine

/-! ## Special operands (R151) -/

/-- A reciprocal square root of a negative number is invalid. -/
theorem opRsqrt_negative {x m : Nat} {e : Int} (r : Rnd) (hx : decodeF .f32 x = .inf true ∨ decodeF .f32 x = .fin true m e) :
    opRsqrt r x = { bits := 0x7FC00000, flags := fNV } := by
  unfold opRsqrt
  rcases hx with hx | hx <;> rw [hx] <;> rfl

/-- So is a square root. -/
theorem opSqrt_negative {x m : Nat} {e : Int} (r : Rnd) (hx : decodeF .f32 x = .inf true ∨ decodeF .f32 x = .fin true m e) :
    opSqrt r x = { bits := 0x7FC00000, flags := fNV } := by
  unfold opSqrt
  rcases hx with hx | hx <;> rw [hx] <;> rfl

section
variable {x y m : Nat} {n k : Bool} {e : Int} (r : Rnd) (hx : decodeF .f32 x = .fin n m e)
include hx

/-- A finite number divided by zero is infinite. -/
theorem opDiv_zero (hy : decodeF .f32 y = .zero k) : opDiv r x y = { bits := infBits .f32 (n != k), flags := fDZ } := by
  unfold opDiv
  rw [hx, hy]
  rfl

/-- A finite number divided by an infinity is zero. -/
theorem opDiv_inf (hy : decodeF .f32 y = .inf k) : opDiv r x y = { bits := signBit .f32 (n != k) } := by
  unfold opDiv
  rw [hx, hy]
  rfl

end

/-- Settles O17: each operation runs by the function of its row; its values compute. -/
theorem floatArithmetic : Obligations.FloatArithmetic := by
  unfold Obligations.FloatArithmetic
  refine ⟨?fadd, ?fsub, ?fmul, ?ffma, ?fmin, ?fmax, ?frnd, ?fscale, ?frcp, ?frsq, ?fsqrt, ?fdiv, ?pkadd, ?pkmul, ?pkfma, ?pkmin, ?pkmax,
    ?values, ?special, ?negative, ?division⟩
  case fadd | fsub | fmul | ffma | fmin | fmax | frnd | fscale | frcp | frsq | fsqrt | fdiv => exact regOp_of fun _ _ => rfl
  case pkadd | pkmul | pkfma | pkmin | pkmax => exact regOp_of fun _ _ => rfl
  case values =>
    refine ⟨?add, ?sub, ?sum, ?mul, ?mulTiny, ?div, ?divNegative, ?rcp, ?sqrt, ?sqrtExact, ?rsqrt, ?scale, ?scaleTiny, ?round,
      ?roundNegative, ?addHalf, ?mulBrain⟩ <;> decide
  case special =>
    rintro r (_ | _)
    · exact ⟨rfl, rfl, rfl, rfl, rfl, rfl, rfl, rfl, rfl, rfl⟩
    · exact ⟨rfl, rfl, rfl, rfl, rfl, rfl, rfl, rfl, rfl, rfl⟩
  case negative => exact fun r x m e hx => ⟨opRsqrt_negative r hx, opSqrt_negative r hx⟩
  case division => exact fun r x y n k m e hx => ⟨opDiv_zero r hx, opDiv_inf r hx⟩

/-- Settles O18: the rows of the table compute; an invalid product is invalid in every mode. -/
theorem fusedMultiplyAddTable : Obligations.FusedMultiplyAddTable := by
  unfold Obligations.FusedMultiplyAddTable
  refine ⟨?zero, ?zeroDown, ?flushed, ?overflowZero, ?overflowZeroFlags, ?overflowNearest, ?overflowNearestFlags, ?invalid⟩
  case invalid => exact fun mode => ⟨rfl, rfl⟩
  all_goals decide

/-! ## Tests (R146) -/

/-- The condition `ne` excludes `eq`. -/
theorem floatCond_ne_of_eq {x y : Nat} (h : (floatCond 0 x y).1 = true) : (floatCond 1 x y).1 = false := by
  simp only [floatCond, show 0 < 6 by decide, show 1 < 6 by decide, if_true] at h ⊢
  rw [h, Bool.not_true, Bool.and_false]

/-- Settles O20: each operation runs by the function of its row; its conditions compute. -/
theorem floatTests : Obligations.FloatTests := by
  unfold Obligations.FloatTests
  refine ⟨regOp_of fun _ _ => rfl, regOp_of fun _ _ => rfl, regOp_of fun _ _ => rfl, fun x y => floatCond_ne_of_eq, ?zeros, ?ordered,
    ?unordered⟩
  case zeros | ordered | unordered => decide

end Sys2Proof.Machine
end

section
/-! SUPPORT. The approximate operations (R150, R151): their bound, the nearest number that keeps it, and the operands with exact results. -/

namespace Sys2Proof.Machine

/-! ## The bound (R150) -/

/-- A magnitude within the bound, on the exact value's side. -/
theorem withinBound_iff (op : Nat) (neg : Bool) (m : Nat) (e : Int) (b : Nat) : withinBound op neg m e b = true ↔
    ∃ v, valueFix b = some v ∧
      (exactMag op neg m e : Int) < (if exactFix op neg m e < 0 then -v else v) + boundFix op (exactMag op neg m e) ∧
      (if exactFix op neg m e < 0 then -v else v) ≤ exactMag op neg m e + boundFix op (exactMag op neg m e) := by
  simp only [withinBound, Option.any_eq_true, Bool.and_eq_true, decide_eq_true_eq]

/-- A value within the bound is no further from the exact one than the bound and what the exact one exceeds its known magnitude by. -/
theorem abs_sub_le_of_withinBound {op : Nat} {neg : Bool} {m : Nat} {e : Int} {b : Nat} (h : withinBound op neg m e b = true) :
    ∃ v, valueFix b = some v ∧
      ((|exactFix op neg m e - v| : Int) ≤ boundFix op (exactMag op neg m e) + fixSlack op (exactFix op neg m e)) := by
  obtain ⟨v, hv, hlt, hle⟩ := (withinBound_iff op neg m e b).1 h
  refine ⟨v, hv, ?_⟩
  have hmag : exactMag op neg m e = (exactFix op neg m e).natAbs - fixSlack op (exactFix op neg m e) := rfl
  rw [abs_le]
  generalize fixSlack op (exactFix op neg m e) = slack at *
  generalize boundFix op (exactMag op neg m e) = bound at *
  split_ifs at hlt hle with hneg
  · omega
  · omega

/-- The bound is at least two units of the number's grid. -/
theorem two_units_le_boundFix (op y : Nat) : 2 * 2 ^ unitFix y ≤ boundFix op y := by
  have hexp : max (Nat.log2 y) 386 - 22 = unitFix y + 1 := by unfold unitFix; omega
  have hulp : 2 * 2 ^ unitFix y = 2 ^ (max (Nat.log2 y) 386 - 22) := by rw [hexp, pow_succ']
  unfold boundFix
  rw [hulp]
  dsimp only
  split_ifs
  · exact Nat.le_max_left _ _
  · exact Nat.le_refl _

/-- The nearest number keeps the bound, where it does not round past the largest. -/
theorem withinBound_nearestFix {op : Nat} {neg : Bool} {m : Nat} {e : Int} (h : exactMag op neg m e < 2 ^ 640 - 2 ^ 615) :
    withinBound op neg m e (nearestFix op neg m e) = true := by
  obtain ⟨n, hvalue, hle, hlt⟩ := valueFix_nearest (decide (exactFix op neg m e < 0)) h
  have hbound := two_units_le_boundFix op (exactMag op neg m e)
  have hhalf : 2 ^ (unitFix (exactMag op neg m e) - 1) ≤ 2 ^ unitFix (exactMag op neg m e) := Nat.pow_le_pow_right (by decide) (Nat.sub_le _ _)
  have hpos : 0 < 2 ^ unitFix (exactMag op neg m e) := by positivity
  rw [Nat.add_mul, Nat.one_mul] at hlt
  refine (withinBound_iff ..).2 ⟨_, hvalue, ?_⟩
  simp only [decide_eq_true_eq]
  generalize boundFix op (exactMag op neg m e) = bound at *
  generalize n * 2 ^ unitFix (exactMag op neg m e) = value at *
  split_ifs with hneg
  · omega
  · omega

/-! ## Results -/

/-- The flags of an approximate result, and its flush under FTZ (R150). -/
theorem approxResult_eq (op : Nat) (ftz : Bool) (x : Nat) (neg : Bool) (m : Nat) (e : Int) :
    ∃ b, (withinBound op neg m e b = true ∨ b = nearestFix op neg m e) ∧
      approxResult op ftz x neg m e = (if b / 2 ^ 23 % 256 = 0 then { bits := if ftz then b / 2 ^ 31 * 2 ^ 31 else b, flags := fUF ||| fNX }
        else { bits := b, flags := fNX }) := by
  by_cases h : withinBound op neg m e (Config.approx op ftz (BitVec.ofNat 32 x)).toNat = true
  · exact ⟨_, .inl h, by simp only [approxResult, if_pos h]⟩
  · exact ⟨_, .inr rfl, by simp only [approxResult, if_neg h]⟩

section
variable {x m : Nat} {neg : Bool} {e : Int} (op : Nat) (ftz : Bool) (hx : decodeF .f32 x = .fin neg m e)
include hx

/-- A finite operand without a row in R151 has an approximate result. -/
theorem opTrans_eq_approxResult
    (h0 : op = 0 → (neg = false → (roundInt 1 neg m e).1 < 128) ∧ ((roundInt 1 neg m e).2 = true ∨ (roundInt 1 neg m e).1 < -149))
    (h1 : op = 1 → neg = false ∧ powerOf m e = none) : opTrans op ftz x = approxResult op ftz x neg m e := by
  match op, h0, h1 with
  | 0, h0, _ =>
    obtain ⟨hbig, hint⟩ := h0 rfl
    have hover : ¬(neg = false ∧ 128 ≤ (roundInt 1 neg m e).1) := fun ⟨hn, hz⟩ => absurd (hbig hn) (Int.not_lt.2 hz)
    have hexact : ¬((roundInt 1 neg m e).2 = false ∧ -149 ≤ (roundInt 1 neg m e).1) := by
      rintro ⟨hix, hz⟩
      rcases hint with hint | hint
      · rw [hint] at hix
        cases hix
      · omega
    simp only [opTrans, hx, if_neg hover, if_neg hexact]
  | 1, _, h1 =>
    obtain ⟨rfl, hpow⟩ := h1 rfl
    simp only [opTrans, hx, hpow, Bool.false_eq_true, if_false]
  | k + 2, _, _ => simp only [opTrans, hx]

end

/-! ## The exact results of R151 -/

section
variable {x m : Nat} {e : Int}

theorem opTrans_log2_negative (ftz : Bool) (hx : decodeF .f32 x = .fin true m e) : opTrans 1 ftz x = { bits := 0x7FC00000, flags := fNV } := by
  simp only [opTrans, hx, if_true]
  rfl

theorem opTrans_log2_power (ftz : Bool) {n : Int} (hx : decodeF .f32 x = .fin false m e) (hn : powerOf m e = some n) :
    opTrans 1 ftz x = { bits := intF32 n } := by
  simp only [opTrans, hx, hn, Bool.false_eq_true, if_false]

theorem opTrans_exp2_overflow (ftz : Bool) (hx : decodeF .f32 x = .fin false m e) (h : 128 ≤ (roundInt 1 false m e).1) :
    opTrans 0 ftz x = { bits := 0x7F800000, flags := fOF ||| fNX } := by
  simp only [opTrans, hx, h, and_self, if_true]
  rfl

theorem opTrans_exp2_integer {neg : Bool} {z : Int} (hx : decodeF .f32 x = .fin neg m e) (hz : roundInt 1 neg m e = (z, false))
    (hl : -149 ≤ z) (hu : z < 128) : opTrans 0 false x = { bits := (roundF .f32 {} false 1 z false).bits } := by
  have hover : ¬(neg = false ∧ 128 ≤ z) := fun h => absurd h.2 (Int.not_le.2 hu)
  simp only [opTrans, hx, hz, if_neg hover, hl, and_self, if_true]
  rfl

end

/-- FEXP2 of an integer is the power of two. -/
theorem opTrans_exp2_intF32 {z : Int} (h0 : z ≠ 0) (hl : -149 ≤ z) (hu : z < 128) :
    opTrans 0 false (intF32 z) = { bits := (roundF .f32 {} false 1 z false).bits } := by
  have hint : intF32 z = (roundF .f32 {} (decide (z < 0)) z.natAbs 0 false).bits := if_neg h0
  have hround : roundInt 1 (decide (z < 0)) (z.natAbs * 2 ^ (23 - Nat.log2 z.natAbs)) (-((23 - Nat.log2 z.natAbs : Nat) : Int)) = (z, false) := by
    rw [roundInt, roundAt_exact 1 _ (neg_add_cancel _).symm rfl]
    simp only [decide_eq_true_eq, Prod.mk.injEq, and_true]
    omega
  exact opTrans_exp2_integer (hint ▸ decodeF_roundF_nat _ (by omega) (by omega)) hround hl hu

/-- FLOG2 of a normal power of two is its exponent. -/
theorem opTrans_log2_two_pow {n : Nat} (hpos : 0 < n) (hle : n ≤ 254) : opTrans 1 false (n * 2 ^ 23) = { bits := intF32 ((n : Int) - 127) } := by
  have hx : decodeF .f32 (n * 2 ^ 23) = .fin false (2 ^ 23) ((n : Int) - 150) := by
    have h := decodeF_f32_fields false (ex := n) (fr := 0) (by omega) (by decide)
    rwa [if_neg hpos.ne', show signBit .f32 false = 0 from rfl, Nat.zero_add, Nat.add_zero, Nat.add_zero] at h
  have hp : powerOf (2 ^ 23) ((n : Int) - 150) = some ((n : Int) - 127) := by
    rw [powerOf, Nat.log2_two_pow, if_pos rfl]
    congr 1
    omega
  exact opTrans_log2_power false hx hp

/-- A value beside the exact one of FTANH 101, which lies below 1, and of FEXP2 0.5: inside the bound, and just outside. -/
theorem withinBound_values :
    (withinBound 4 false 0xCA0000 (-17) 0x3F800000 = true ∧ withinBound 4 false 0xCA0000 (-17) 0x3F7FFFFE = true ∧
      withinBound 4 false 0xCA0000 (-17) 0x3F800001 = false ∧ withinBound 4 false 0xCA0000 (-17) 0x3F7FFFFD = false) ∧
    withinBound 0 false 1 (-1) 0x3FB504F5 = true ∧ withinBound 0 false 1 (-1) 0x3FB504F6 = false ∧
    withinBound 0 false 1 (-1) 0x3FB504F2 = true ∧ withinBound 0 false 1 (-1) 0x3FB504F1 = false := by
  decide +kernel

/-- Settles O19: opTrans has the rows of R151 and else an approximate result, whose open value or nearest number keeps the bound. -/
theorem floatApproximations : Obligations.FloatApproximations := by
  unfold Obligations.FloatApproximations
  refine ⟨regOp_of fun _ _ => rfl, regOp_of fun _ _ => rfl, regOp_of fun _ _ => rfl, regOp_of fun _ _ => rfl, regOp_of fun _ _ => rfl,
    regOp_of fun _ _ => rfl, ?approximate, ?bound, ?nearest, ?values, ?special, ?exact, ?exp2, ?exp2Negative, ?log2, ?nan⟩
  case approximate =>
    intro op ftz x neg m e hx hop h0 h1
    obtain ⟨b, hb, hresult⟩ := approxResult_eq op ftz x neg m e
    exact ⟨b, hb, (opTrans_eq_approxResult op ftz hx h0 h1).trans hresult⟩
  case bound => exact fun op neg m e b h => abs_sub_le_of_withinBound h
  case nearest => exact fun op neg m e h => withinBound_nearestFix h
  case values =>
    obtain ⟨⟨h1, h2, h3, h4⟩, hexp2⟩ := withinBound_values
    exact ⟨h1, h2, h3, h4, hexp2⟩
  case special =>
    intro ftz
    cases ftz <;> decide
  case exact =>
    exact fun ftz x m e => ⟨opTrans_log2_negative ftz, fun n => opTrans_log2_power ftz, opTrans_exp2_overflow ftz⟩
  case exp2 =>
    intro n hn
    rcases Nat.eq_zero_or_pos n with rfl | hpos
    · rfl
    · rw [opTrans_exp2_intF32 (by omega) (by omega) (by omega), roundF_f32_two_pow_normal (by omega) (by omega), if_neg hpos.ne']
      rfl
  case exp2Negative =>
    intro n hpos hn
    rw [opTrans_exp2_intF32 (by omega) (by omega) (by omega)]
    split_ifs with hnormal
    · rw [roundF_f32_two_pow_normal (by omega) (by omega), show (-(n : Int) + 127).toNat = 127 - n by omega]
    · have he : -(n : Int) = ((149 - n : Nat) : Int) - 149 := by omega
      rw [he, roundF_f32_two_pow_subnormal (by omega)]
  case log2 => exact fun n hle hpos => opTrans_log2_two_pow hpos hle
  case nan => exact fun op ftz => ⟨rfl, rfl⟩

end Sys2Proof.Machine
end

section
/-! SUPPORT. Conversions, quantization and packing (R153 to R164): an operation under its format slot completes, or faults FORMAT_SLOT. -/

namespace Sys2Proof.Machine

/-! ## An operation under a format slot (R64) -/

@[simp] theorem slotFault_ok (j : Nat) : slotFault j true = none := rfl
@[simp] theorem slotFault_bad (j : Nat) : slotFault j false = some (0x1A, BitVec.ofNat 64 j) := rfl

/-- The effect of an operation that changes its thread by `g` where it runs under its slot, and else faults on the slot's index. -/
def slotBody (runs : Ctx → Args → Bool) (idx : Args → Nat) (g : Ctx → Args → Thread → Thread) (a : Args) (c : Ctx) : Res :=
  if runs c a then .done (withThread c c.s (g c a)) else .fault 0x1A (BitVec.ofNat 64 (idx a))

/-- An operation that completes where it runs and else faults has that effect. -/
theorem runThread_eq_slotBody {opc : Nat} {a : Args} {body : Ctx → Res} {runs : Ctx → Args → Bool} {idx : Args → Nat}
    {g : Ctx → Args → Thread → Thread} (hok : ∀ c, runs c a = true → body c = .done (withThread c c.s (g c a)))
    (hbad : ∀ c, runs c a = false → body c = .fault 0x1A (BitVec.ofNat 64 (idx a))) (s : State) :
    runThread 0 opc a s body = runThread 0 opc a s (slotBody runs idx g a) := by
  refine congrArg (runThread 0 opc a s) (funext fun c => ?_)
  rw [slotBody]
  cases hr : runs c a with
  | true => exact hok c hr
  | false => exact hbad c hr

section
variable {opc : Nat} {i : Args → Instr} {runs : Ctx → Args → Bool} {idx : Args → Nat} {g : Ctx → Args → Thread → Thread}
  {pre : Ctx → Args → Prop} (he : ∀ a s, exec (i a) s = runThread 0 opc a s (slotBody runs idx g a))
include he

theorem threadOp_slot_completes {f : Ctx → Args → Thread → Thread} (hs : ∀ c a, pre c a → runs c a = true)
    (hg : ∀ c a, pre c a → g c a = f c a) : ThreadOp 0 opc i pre fun c a => afterDone c a (withThread c c.s (f c a)) :=
  threadOp_completes he fun c a hp => by rw [slotBody, if_pos (hs c a hp), hg c a hp]

theorem threadOp_slot_faults (hs : ∀ c a, pre c a → runs c a = false) :
    ThreadOp 0 opc i pre fun c a => faulted c 0x1A (BitVec.ofNat 64 (idx a)) :=
  threadOp_faults he fun c a hp => if_neg (Bool.eq_false_iff.1 (hs c a hp))

end

/-! ## Conversions (R153 to R157) -/

/-- A conversion runs without a slot, or under one that can serve. -/
def cvtRuns (c : Ctx) (a : Args) : Bool := !cvtFsv a || (fslOf c.team (cvtFs a)).ok

theorem cvtRuns_iff (c : Ctx) (a : Args) : cvtRuns c a = true ↔ (cvtFsv a = true → (fslOf c.team (cvtFs a)).ok = true) := by
  cases hv : cvtFsv a <;> simp [cvtRuns, hv]

theorem cvtRuns_eq_false_iff (c : Ctx) (a : Args) : cvtRuns c a = false ↔ cvtFsv a = true ∧ (fslOf c.team (cvtFs a)).ok = false := by
  cases hv : cvtFsv a <;> simp [cvtRuns, hv]

/-- The slot that a conversion names. -/
def cvtSlot (c : Ctx) (a : Args) : Option Slot := if cvtFsv a then some (fslOf c.team (cvtFs a)) else none

/-- How a conversion rounds. -/
def cvtRnd (c : Ctx) (a : Args) : Rnd :=
  if cvtFsv a then { (fslOf c.team (cvtFs a)).rounding (modBits a.mod 1 0) with ftz := cvtFtz a } else { mode := modBits a.mod 1 0, ftz := cvtFtz a }

@[simp] theorem cvtRnd_ftz (c : Ctx) (a : Args) : (cvtRnd c a).ftz = cvtFtz a := by
  unfold cvtRnd
  split <;> rfl

/-- The format that a code of CVT names: under a slot, 0 is the slot's. -/
def cvtTy (c : Ctx) (a : Args) (code : Nat) : ElTy :=
  if cvtFsv a = true ∧ code = 0 then elemTy (fslOf c.team (cvtFs a)).elem else ElTy.ofCode code

/-- The format of CVTI's source and of CVTF's destination: under a slot, the slot's. -/
def cvtSide (c : Ctx) (a : Args) (code : Nat) : ElTy :=
  if cvtFsv a then elemTy (fslOf c.team (cvtFs a)).elem else ElTy.ofCode code

/-- A conversion runs under its slot. -/
theorem runCvt_eq_runThread {opc : Nat} {a : Args} {f : Ctx → Option Slot → Rnd → Thread} {g : Ctx → Args → Thread}
    (h : ∀ c, f c (cvtSlot c a) (cvtRnd c a) = g c a) (s : State) :
    runCvt opc a s f = runThread 0 opc a s (slotBody cvtRuns cvtFs (fun c a _ => g c a) a) := by
  refine runThread_eq_slotBody (fun c hok => ?_) (fun c hbad => ?_) s
  · rw [← h c, cvtSlot, cvtRnd]
    by_cases hv : cvtFsv a = true
    · simp only [hv, if_true, (cvtRuns_iff c a).1 hok hv, slotFault_ok]
      rfl
    · simp only [hv]
      rfl
  · obtain ⟨hv, hf⟩ := (cvtRuns_eq_false_iff c a).1 hbad
    simp only [hv, if_true, hf, slotFault_bad]

/-- CVT's result, by the scale bits of its source and its destination. -/
def cvtResult (c : Ctx) (a : Args) : Thread :=
  let x := (read32 c a.sa).toNat
  let src := cvtTy c a (modBits a.mod 5 2)
  if a.sc.toNum / 32 % 2 == 1 && a.sc.toNum / 64 % 2 == 1 then write32 c.th a.dst (BitVec.ofNat 32 (x % 256))
  else if a.sc.toNum / 64 % 2 == 1 then
    raiseF (write32 c.th a.dst (BitVec.ofNat 32 (toE8M0 (cvtRnd c a).mode (convIn src (cvtFtz a) x)).1))
      (toE8M0 (cvtRnd c a).mode (convIn src (cvtFtz a) x)).2
  else if a.sc.toNum / 32 % 2 == 1 then giveF c.th a.dst (fromE8M0 (cvtFtz a) (x % 256))
  else giveF c.th a.dst (convF src (cvtTy c a (modBits a.mod 9 6)) (cvtRnd c a) (convIn src (cvtFtz a) x))

theorem exec_cvt (a : Args) (s : State) : exec (.cvt a) s = runThread 0 0xA8 a s (slotBody cvtRuns cvtFs (fun c a _ => cvtResult c a) a) := by
  change execCvt a s = _
  refine runCvt_eq_runThread (fun c => ?_) s
  cases hv : cvtFsv a
  · simp only [cvtRnd_ftz, cvtResult, cvtSlot, cvtTy, hv, Bool.false_eq_true, false_and, if_false]
  · simp only [cvtRnd_ftz, cvtResult, cvtSlot, cvtTy, hv, true_and, if_true]

/-- CVTI's result. -/
def cvtiResult (c : Ctx) (a : Args) : Thread :=
  let src := cvtSide c a (modBits a.mod 5 2)
  let dst := ElTy.ofCode (modBits a.mod 9 6)
  let sat := a.sc.toNum / 32 % 2 == 1
  if src.isInt then writeInt c.th dst a.dst (extendTo dst.signed dst.width (intToInt src dst sat (readTy c src a.sa)))
  else
    let q := floatToInt dst sat (cvtRnd c a).mode (convIn src (cvtFtz a) (read32 c a.sa).toNat)
    raiseF (writeInt c.th dst a.dst (extendTo dst.signed dst.width q.1)) q.2

theorem exec_cvti (a : Args) (s : State) : exec (.cvti a) s = runThread 0 0xA9 a s (slotBody cvtRuns cvtFs (fun c a _ => cvtiResult c a) a) := by
  change execCvti a s = _
  refine runCvt_eq_runThread (fun c => ?_) s
  cases hv : cvtFsv a
  · simp only [cvtRnd_ftz, cvtiResult, cvtSlot, cvtSide, hv, Bool.false_eq_true, if_false]
  · simp only [cvtRnd_ftz, cvtiResult, cvtSlot, cvtSide, hv, if_true]

/-- CVTF's result. -/
def cvtfResult (c : Ctx) (a : Args) : Thread :=
  let src := ElTy.ofCode (modBits a.mod 5 2)
  let dst := cvtSide c a (modBits a.mod 9 6)
  giveF c.th a.dst (intToFloat dst { cvtRnd c a with ftz := cvtFtz a && dst == .f32 } (toVal src.signed src.width (readTy c src a.sa)))

theorem exec_cvtf (a : Args) (s : State) : exec (.cvtf a) s = runThread 0 0xAA a s (slotBody cvtRuns cvtFs (fun c a _ => cvtfResult c a) a) := by
  change execCvtf a s = _
  refine runCvt_eq_runThread (fun c => ?_) s
  cases hv : cvtFsv a
  · simp only [cvtRnd_ftz, cvtfResult, cvtSlot, cvtSide, hv, Bool.false_eq_true, if_false]
  · simp only [cvtRnd_ftz, cvtfResult, cvtSlot, cvtSide, hv, if_true]

/-- Settles O21: each conversion runs under its slot, and its result is that of its scale bits and formats. -/
theorem conversions : Obligations.Conversions := by
  unfold Obligations.Conversions
  refine ⟨?float, ?scale, ?fromScale, ?toScale, ⟨?integer, ?toInteger⟩, ?fromInteger, ?fault⟩
  case float =>
    exact threadOp_slot_completes exec_cvt (fun c a hp => (cvtRuns_iff c a).2 hp.1) fun c a ⟨_, hfrom, hto⟩ => funext fun _ => by
      simp only [cvtResult, hfrom, hto, Bool.and_self, Bool.false_eq_true, if_false]
      rfl
  case scale =>
    exact threadOp_slot_completes exec_cvt (fun c a hp => (cvtRuns_iff c a).2 hp.1) fun c a ⟨_, hfrom, hto⟩ => funext fun _ => by
      simp only [cvtResult, hfrom, hto, Bool.and_self, if_true]
  case fromScale =>
    exact threadOp_slot_completes exec_cvt (fun c a hp => (cvtRuns_iff c a).2 hp.1) fun c a ⟨_, hfrom, hto⟩ => funext fun _ => by
      simp only [cvtResult, hfrom, hto, Bool.and_false, Bool.false_eq_true, if_false, if_true]
  case toScale =>
    exact threadOp_slot_completes exec_cvt (fun c a hp => (cvtRuns_iff c a).2 hp.1) fun c a ⟨_, hfrom, hto⟩ => funext fun _ => by
      simp only [cvtResult, hfrom, hto, Bool.false_and, Bool.false_eq_true, if_false, if_true]
      rfl
  case integer =>
    exact threadOp_slot_completes exec_cvti (fun c a hp => (cvtRuns_iff c a).2 hp.1) fun c a ⟨_, hint⟩ =>
      funext fun _ => if_pos hint
  case toInteger =>
    exact threadOp_slot_completes exec_cvti (fun c a hp => (cvtRuns_iff c a).2 hp.1) fun c a ⟨_, hint⟩ =>
      funext fun _ => if_neg (Bool.eq_false_iff.1 hint)
  case fromInteger => exact threadOp_slot_completes exec_cvtf (fun c a hp => (cvtRuns_iff c a).2 hp) fun _ _ _ => rfl
  case fault =>
    rintro i opc (⟨rfl, rfl⟩ | ⟨rfl, rfl⟩ | ⟨rfl, rfl⟩)
    · exact threadOp_slot_faults exec_cvt fun c a => (cvtRuns_eq_false_iff c a).2
    · exact threadOp_slot_faults exec_cvti fun c a => (cvtRuns_eq_false_iff c a).2
    · exact threadOp_slot_faults exec_cvtf fun c a => (cvtRuns_eq_false_iff c a).2

end Sys2Proof.Machine
end

section
/-! SUPPORT. Quantization and packing (R158 to R164): each operation by its slot, its element and its result. -/

namespace Sys2Proof.Machine

/-! ## Quantization (R160 to R163) -/

/-- The slot of QNT and DQNT: its index, its word and its format. -/
def quantFs (a : Args) : Nat := modBits a.mod 9 7
def quantSlot (c : Ctx) (a : Args) : Slot := fslOf c.team (quantFs a)
def quantTy (c : Ctx) (a : Args) : ElTy := elemTy (quantSlot c a).elem

/-- The scale code of operand b; a slot without scales has 2^0. -/
def quantScale (c : Ctx) (a : Args) : Nat := if (quantSlot c a).scale = 0 then 127 else (read32 c a.sb).toNat % 256

/-- A value under a scale written in a format: a NaN scale and a NaN value are NaN. -/
def scaledResult (t : ElTy) (r : Rnd) (scale : Nat) (v : FV) (k : Int) : FR :=
  if scale = 255 then nanResult t r fNV
  else if v.isNan then nanResult t r (if v.isSnan then fNV else 0)
  else toFormat t r (v.scale k)

/-- QNT's result: a scale, or an element. -/
def qntResult (c : Ctx) (a : Args) (th : Thread) : Thread :=
  let t := quantTy c a
  let x := (read32 c a.sa).toNat
  if modBits a.mod 6 6 = 1 then raiseF (write32 th a.dst (BitVec.ofNat 32 (qntScale t x).1)) (qntScale t x).2
  else
    let q := scaledResult t ((quantSlot c a).rounding 0) (quantScale c a) (decodeF .f32 x) (127 - (quantScale c a : Int))
    raiseF (write32 th a.dst (BitVec.ofNat 32
      (elemSet (cellWidth t) (modBits a.mod 5 4) (readPack c (cellWidth t) a.sc).toNat q.bits))) q.flags

/-- DQNT's result. -/
def dqntResult (c : Ctx) (a : Args) (th : Thread) : Thread :=
  let t := quantTy c a
  let x := elemCode t (elemGet (cellWidth t) (modBits a.mod 5 4) (readPack c (cellWidth t) a.sa).toNat)
  giveF th a.dst (scaledResult .f32 ((quantSlot c a).rounding 0) (quantScale c a) (decodeF t x) ((quantScale c a : Int) - 127))

theorem exec_qnt (a : Args) (s : State) :
    exec (.qnt a) s = runThread 0 0xAB a s (slotBody (fun c a => quantRuns c.team a) quantFs qntResult a) := by
  change execQnt a s = _
  refine runThread_eq_slotBody (fun c hok => ?_) (fun c hbad => ?_) s
  · rw [quantRuns] at hok
    simp only [hok, slotFault_ok]
    by_cases hsc : modBits a.mod 6 6 = 1
    · simp only [hsc, if_true]
      exact congrArg (fun f => Res.done (withThread c c.s f)) (funext fun th => (if_pos hsc).symm)
    · simp only [hsc, if_false]
      exact congrArg (fun f => Res.done (withThread c c.s f)) (funext fun th => (if_neg hsc).symm)
  · rw [quantRuns] at hbad
    simp only [hbad, slotFault_bad]
    rfl

theorem exec_dqnt (a : Args) (s : State) :
    exec (.dqnt a) s = runThread 0 0xAC a s (slotBody (fun c a => quantRuns c.team a) quantFs dqntResult a) := by
  change execDqnt a s = _
  refine runThread_eq_slotBody (fun c hok => ?_) (fun c hbad => ?_) s
  · rw [quantRuns] at hok
    simp only [hok, slotFault_ok]
    rfl
  · rw [quantRuns] at hbad
    simp only [hbad, slotFault_bad]
    rfl

/-- QNT and DQNT run where their slot is set and sound, and has the element (R160). -/
theorem quantRuns_iff (c : Ctx) (a : Args) : quantRuns c.team a = true ↔
    (quantSlot c a).ok = true ∧ (quantSlot c a).elem ≠ 0 ∧ modBits a.mod 5 4 < 32 / cellWidth (quantTy c a) := by
  simp only [quantRuns, Bool.and_eq_true, bne_iff_ne, decide_eq_true_eq, and_assoc]
  rfl

/-! ## Packing (R158) -/

/-- The index of PACK2's slot, and the format and the rounding that it uses. -/
def packFs (a : Args) : Nat := modBits a.mod 2 0
def packTy (c : Ctx) (a : Args) : ElTy :=
  if modBits a.mod 9 6 = 0 then elemTy (fslOf c.team (packFs a)).elem else ElTy.ofCode (modBits a.mod 9 6)
def packRnd (c : Ctx) (a : Args) : Rnd :=
  if modBits a.mod 9 6 = 0 then (fslOf c.team (packFs a)).rounding (modBits a.mod 5 4) else { mode := modBits a.mod 5 4 }

/-- An element that PACK2 converts. -/
def packElem (c : Ctx) (a : Args) (x : Sel) : FR := convF .f32 (packTy c a) (packRnd c a) (convIn .f32 false (read32 c x).toNat)

/-- PACK2's result. -/
def packResult (c : Ctx) (a : Args) (th : Thread) : Thread :=
  let w := cellWidth (packTy c a)
  let hi := modBits a.mod 3 3
  let base := if w = 16 then 0 else (readPack c 8 a.sc).toNat
  raiseF (write32 th a.dst (BitVec.ofNat 32
    (elemSet w (2 * hi + 1) (elemSet w (2 * hi) base (packElem c a a.sa).bits) (packElem c a a.sb).bits)))
    ((packElem c a a.sa).flags ||| (packElem c a a.sb).flags)

/-- The pair is asked of the format in use. -/
theorem packRuns_eq (c : Ctx) (a : Args) : packRuns c.team a =
    (modBits a.mod 9 6 != 0 || ((fslOf c.team (packFs a)).ok && (fslOf c.team (packFs a)).elem != 0 &&
      !(decide (cellWidth (packTy c a) = 16) && modBits a.mod 3 3 == 1))) := by
  by_cases h : modBits a.mod 9 6 = 0
  · rw [packTy, if_pos h]
    rfl
  · simp only [packRuns, bne_iff_ne.2 h, Bool.true_or]

/-- PACK2 runs where it names its format, or its slot is set and sound, and has the pair (R158). -/
theorem packRuns_iff (c : Ctx) (a : Args) : packRuns c.team a = true ↔
    modBits a.mod 9 6 ≠ 0 ∨ ((fslOf c.team (packFs a)).ok = true ∧ (fslOf c.team (packFs a)).elem ≠ 0 ∧
      ¬(cellWidth (packTy c a) = 16 ∧ modBits a.mod 3 3 = 1)) := by
  simp only [packRuns_eq, Bool.or_eq_true, Bool.and_eq_true, bne_iff_ne, Bool.not_eq_true', ← Bool.not_eq_true, decide_eq_true_eq, beq_iff_eq,
    and_assoc]

theorem exec_pack2 (a : Args) (s : State) :
    exec (.pack2 a) s = runThread 0 0xAD a s (slotBody (fun c a => packRuns c.team a) packFs packResult a) := by
  change execPack2 a s = _
  refine runThread_eq_slotBody (fun c hok => ?_) (fun c hbad => ?_) s
  · rw [packRuns_eq, packTy, packFs] at hok
    simp only [hok, slotFault_ok]
    rfl
  · rw [packRuns_eq, packTy, packFs] at hbad
    simp only [hbad, slotFault_bad]
    rfl

/-- Settles O22: QNT, DQNT and PACK2 run by their slot, UNPK and FFLAG by the functions of their rows. -/
theorem quantizationAndPacking : Obligations.QuantizationAndPacking := by
  unfold Obligations.QuantizationAndPacking
  refine ⟨?scale, ?element, ?dequantized, ?quantFault, ?packFault, ?packed, regOp_of fun _ _ => rfl, regOp_of fun _ _ => rfl⟩
  case scale =>
    exact threadOp_slot_completes exec_qnt (fun c a hp => (quantRuns_iff c a).2 hp.1) fun c a hp => funext fun th => if_pos hp.2
  case element =>
    exact threadOp_slot_completes exec_qnt (fun c a hp => (quantRuns_iff c a).2 hp.1) fun c a hp => funext fun th => if_neg hp.2
  case dequantized => exact threadOp_slot_completes exec_dqnt (fun c a hp => (quantRuns_iff c a).2 hp) fun c a hp => rfl
  case quantFault =>
    rintro i opc (⟨rfl, rfl⟩ | ⟨rfl, rfl⟩)
    · exact threadOp_slot_faults exec_qnt fun c a hp => Bool.eq_false_iff.2 (mt (quantRuns_iff c a).1 hp)
    · exact threadOp_slot_faults exec_dqnt fun c a hp => Bool.eq_false_iff.2 (mt (quantRuns_iff c a).1 hp)
  case packFault => exact threadOp_slot_faults exec_pack2 fun c a hp => hp
  case packed => exact threadOp_slot_completes exec_pack2 (fun c a hp => (packRuns_iff c a).2 hp) fun c a hp => rfl

end Sys2Proof.Machine
end

section
/-! SUPPORT. Caches, times and tiers hold no teams (R327, R331, R421, R425): the operations on them leave every team as it is. -/

namespace Sys2Proof.Machine

/-! ## Times and copies in the L1 caches -/

@[simp] theorem raiseCt_teams (s : State) (core : Nat) (t : DWord) : (raiseCt s core t).teams = s.teams := by
  unfold raiseCt
  split <;> rfl

@[simp] theorem makeRoom_teams (s : State) (line : Nat) : (makeRoom s line).teams = s.teams := by
  unfold makeRoom
  dsimp only
  split
  · rfl
  · split <;> rfl

@[simp] theorem setTimes_teams (s : State) (l : Loc) (x : Times) : (setTimes s l x).teams = s.teams := by
  unfold setTimes
  cases cached l with
  | none => rfl
  | some n =>
    dsimp only
    split
    · rfl
    · exact makeRoom_teams s n

@[simp] theorem passLink_teams (s : State) (l : Loc) : (passLink s l).teams = s.teams := by
  unfold passLink
  split
  · split
    · split
      · split <;> rfl
      · rfl
    · rfl
  · rfl

@[simp] theorem touch_teams (s : State) (core : Nat) (l : Loc) (w : Bool) : (touch s core l w).teams = s.teams := by
  unfold touch
  cases w <;> simp

@[simp] theorem recallLine_teams (s : State) (l : Loc) : (recallLine s l).teams = s.teams := by
  unfold recallLine
  split <;> rfl

@[simp] theorem dropLease_teams (s : State) (cache line : Nat) : (dropLease s cache line).teams = s.teams := by
  unfold dropLease
  split <;> rfl

@[simp] theorem roomInL1_teams (s : State) (core line : Nat) : (roomInL1 s core line).teams = s.teams := by
  unfold roomInL1
  dsimp only
  split
  · rfl
  · split
    · exact dropLease_teams ..
    · rfl
    · rfl

@[simp] theorem takeLine_teams (s : State) (core : Nat) (l : Loc) : (takeLine s core l).teams = s.teams := by
  unfold takeLine
  split
  · rfl
  · split <;> simp

@[simp] theorem grantLease_teams (s : State) (cache line : Nat) (x : Lease) : (grantLease s cache line x).teams = s.teams := by
  unfold grantLease
  dsimp only
  split <;> simp

/-! ## Tiers -/

@[simp] theorem trimT1_teams (s : State) (slice keep : Nat) : (trimT1 s slice keep).teams = s.teams := by
  unfold trimT1
  dsimp only
  split
  · rfl
  · split <;> rfl

@[simp] theorem comeUp_teams (s : State) (g : Nat) : (comeUp s g).teams = s.teams := by
  unfold comeUp
  rw [trimT1_teams]
  dsimp only
  generalize pinsIt s g = p
  split
  · rfl
  · split <;> rfl

@[simp] theorem reachGranule_teams (s : State) (l : Loc) : (reachGranule s l).teams = s.teams := by
  unfold reachGranule
  split
  · rfl
  · dsimp only
    split
    · exact comeUp_teams ..
    · rfl

/-! ## Reads -/

@[simp] theorem loadMiss_teams (s : State) (cache core line : Nat) (l : Loc) : (loadMiss s cache core line l).teams = s.teams := by
  simp [loadMiss]

@[simp] theorem load_teams (s : State) (core : Nat) (l : Loc) (n : Nat) : (load s core l n).1.teams = s.teams := by
  unfold load loadVia
  dsimp only
  split
  · split
    · split <;> simp
    · split <;> simp
  · simp

@[simp] theorem readHome_teams (s : State) (core : Nat) (l : Loc) : (readHome s core l).teams = s.teams := by simp [readHome]

@[simp] theorem touchHome_teams (s : State) (core : Nat) (l : Loc) : (touchHome s core l).teams = s.teams := by simp [touchHome]

/-! ## Writes -/

@[simp] theorem writeByte_teams (s : State) (l : Loc) (b : Byte) : (writeByte s l b).teams = s.teams := by
  unfold writeByte
  split
  · rfl
  · split <;> rfl

@[simp] theorem writeBytes_teams (s : State) (l : Loc) (bs : List Byte) : (writeBytes s l bs).teams = s.teams := by
  induction bs generalizing s l with
  | nil => rfl
  | cons b r ih => rw [writeBytes, ih, writeByte_teams]

@[simp] theorem putData_teams (s : State) (core : Nat) (l : Loc) (bs : List Byte) (bad : Bool) : (putData s core l bs bad).teams = s.teams := by
  unfold putData
  split <;> simp

@[simp] theorem store_teams (s : State) (core : Nat) (l : Loc) (bs : List Byte) (bad : Bool) : (store s core l bs bad).teams = s.teams := by
  simp [store]

@[simp] theorem storeHome_teams (s : State) (core : Nat) (l : Loc) (bs : List Byte) (bad : Bool) :
    (storeHome s core l bs bad).teams = s.teams := by
  simp [storeHome]

/-! ## Translations and homes -/

@[simp] theorem fillTlb_teams (s : State) (vd core va : Nat) : (fillTlb s vd core va).teams = s.teams := by
  have hwalk (as : List Nat) (u : State) : (as.foldl (fun s a => readHome s core (.phys a)) u).teams = u.teams := by
    induction as generalizing u with
    | nil => rfl
    | cons a as ih => rw [List.foldl_cons, ih, readHome_teams]
  unfold fillTlb
  split
  · rfl
  · split
    · rfl
    · dsimp only
      split
      · exact hwalk ..
      · exact hwalk ..

@[simp] theorem noteHome_teams (s : State) (t : Trans) (l : Loc) : (noteHome s t l).teams = s.teams := by
  unfold noteHome
  split
  · rfl
  · dsimp only
    split
    · split <;> rfl
    · split <;> rfl

@[simp] theorem recordGranule_teams (s : State) (vd : Nat) (l : Loc) : (recordGranule s vd l).teams = s.teams := by
  unfold recordGranule
  split
  · split
    · dsimp only
      split <;> rfl
    · rfl
  · rfl

@[simp] theorem noteAccess_teams (s : State) (t : Team) (ea : DWord) (l : Loc) : (noteAccess s t ea l).teams = s.teams := by
  unfold noteAccess
  split
  · dsimp only
    split <;> simp
  · rfl

end Sys2Proof.Machine
end

section
/-! SUPPORT. The oldest access of an agent performed (R180, R181, R184, R185, R332): what it reads, what it writes, what its thread becomes. -/

namespace Sys2Proof.Machine

/-! ## The events -/

section
variable {s : State} {ag : Agent} {ac : Access} {rest : List Access} (hout : outOf s ag = ac :: rest)
include hout

theorem loadDataReturn_performs (hret : returnsData ac.op = true) : exec (.loadDataReturn ag) s = .next (performOldest s ag) := by
  change execLoadDataReturn ag s = _
  simp only [execLoadDataReturn, performIf, hout, hret, if_true, event]

theorem storePerformed_performs (hret : returnsData ac.op = false) : exec (.storePerformed ag) s = .next (performOldest s ag) := by
  change execStorePerformed ag s = _
  simp only [execStorePerformed, performIf, hout, hret, Bool.not_false, if_true, event]

theorem bufferedStorePerformed_performs (hbuf : ac.buffered = true) :
    exec (.bufferedStorePerformed ag) s = .next (performOldest s ag) := by
  change execBufferedStorePerformed ag s = _
  simp only [execBufferedStorePerformed, hout, hbuf, if_true, event]

end

/-! ## The teams under a performed access -/

theorem team?_of_teams {s u : State} (h : u.teams = s.teams) (k : Nat) : u.team? k = s.team? k := by
  simp only [State.team?, h]

/-- A thread changes alike in states of the same teams. -/
theorem modThread_teams_congr {s u : State} (h : u.teams = s.teams) (k tid : Nat) (f : Thread → Thread) :
    (u.modThread k tid f).teams = (s.modThread k tid f).teams := by
  unfold State.modThread State.modTeam
  rw [team?_of_teams h]
  cases s.team? k with
  | none => exact h
  | some t => simp only [State.setTeam, h]

/-- The teams of `u` are those of `s`, but that a thread may await the acknowledgment of one more write (R342). -/
def MoreUnacked (k tid : Nat) (s u : State) : Prop :=
  u.teams = s.teams ∨ ∃ w, u.teams = (s.modThread k tid fun th => { th with unacked := th.unacked ++ [w] }).teams

/-- Such a thread is as it was, but for what it awaits. -/
theorem MoreUnacked.thread {k tid : Nat} {s u : State} (h : MoreUnacked k tid s u) {th : Thread} (hth : s.thread? k tid = some th) :
    ∃ t1 ws, u.team? k = some t1 ∧ AMap.find t1.threads tid = some { th with unacked := th.unacked ++ ws } := by
  have hu : ∃ ws, u.thread? k tid = some { th with unacked := th.unacked ++ ws } := by
    rcases h with h | ⟨w, h⟩
    · exact ⟨[], by rw [thread?_of_teams h, hth, List.append_nil]⟩
    · exact ⟨[w], by rw [thread?_of_teams h, thread?_modThread_same hth]⟩
  obtain ⟨ws, hws⟩ := hu
  obtain ⟨t1, ht1, hfind⟩ := Option.bind_eq_some_iff.1 hws
  exact ⟨t1, ws, ht1, hfind⟩

@[simp] theorem takeSeq_teams (s : State) (core port : Nat) : (takeSeq s core port).1.teams = s.teams := rfl

theorem landStore_moreUnacked (s : State) (t : Team) (k tid : Nat) (ac : Access) (bs : List Byte) (home : Bool) :
    MoreUnacked k tid s (landStore s t (.thread k tid) ac bs home) := by
  have hstore : (if home then storeHome s t.core ac.loc bs false else store s t.core ac.loc bs false).teams = s.teams := by
    cases home
    · exact store_teams ..
    · exact storeHome_teams ..
  unfold landStore
  dsimp only
  split
  · exact .inl hstore
  · exact .inr ⟨_, modThread_teams_congr ((takeSeq_teams ..).trans hstore) k tid _⟩

/-- What a performed access leaves of the teams. -/
theorem performAt_moreUnacked (s : State) (t : Team) (k tid : Nat) (ac : Access) :
    MoreUnacked k tid s (performAt s t (.thread k tid) ac).1 := by
  have hload : (if ac.nol1 then (readHome s t.core ac.loc, readBytes s ac.loc ac.size, locPoisoned s ac.loc ac.size)
      else load s t.core ac.loc ac.size).1.teams = s.teams := by
    cases ac.nol1
    · exact load_teams ..
    · exact readHome_teams ..
  unfold performAt
  dsimp only
  split
  · exact landStore_moreUnacked ..
  · split <;> exact .inl hload
  · split <;> exact .inl hload
  · exact landStore_moreUnacked ..
  · split
    · exact .inl (touchHome_teams ..)
    · split
      · exact landStore_moreUnacked ..
      · exact .inl (touchHome_teams ..)

/-- A thread's oldest access, whose line nobody owns, is performed: the thread receives the data, its flag falls, a wait for it may end. -/
theorem performOldest_thread {s : State} {k tid : Nat} {t t1 : Team} {th th1 : Thread} {ac : Access} {rest : List Access}
    (ht : s.team? k = some t) (hth : s.thread? k tid = some th) (hout : th.out = ac :: rest)
    (hown : isWrite ac.op = true → ownerOf s (.thread k tid) ac.loc = none)
    (ht1 : (performAt s t (.thread k tid) ac).1.team? k = some t1) (hth1 : AMap.find t1.threads tid = some th1) :
    performOldest s (.thread k tid) = (performAt s t (.thread k tid) ac).1.modThread k tid fun _ =>
      recheck t1 (decFlag (giveData { th1 with out := rest } ac (performAt s t (.thread k tid) ac).2) ac.flag) := by
  have hfree : (if isWrite ac.op then ownerOf s (.thread k tid) ac.loc else none) = none := by
    split
    · exact hown ‹_›
    · rfl
  rw [modThread_some ht1 ((thread?_of_team ht1).trans hth1)]
  simp only [performOldest, outOf, agentTeam, hth, ht, hout, hfree, Option.map_some, Option.getD_some, modTeam_some ht1, hth1]

/-! ## Loads -/

/-- A load that asks for its home's data reads the bytes of its place (R174). -/
theorem performAt_load_home {s : State} {t : Team} {ag : Agent} {ac : Access} {d : Sel} {wid : Nat} (hop : ac.op = .load d wid)
    (hearly : ac.early = none) (hnol1 : ac.nol1 = true) :
    performAt s t ag ac = (readHome s t.core ac.loc, some (leNat (readBytes s ac.loc ac.size), locPoisoned s ac.loc ac.size)) := by
  simp only [performAt, hop, hearly, hnol1, if_true]

theorem performAt_load {s : State} {t : Team} {ag : Agent} {ac : Access} {d : Sel} {wid : Nat} (hop : ac.op = .load d wid)
    (hearly : ac.early = none) (hnol1 : ac.nol1 = false) :
    performAt s t ag ac =
      ((load s t.core ac.loc ac.size).1, some (leNat (load s t.core ac.loc ac.size).2.1, (load s t.core ac.loc ac.size).2.2)) := by
  simp only [performAt, hop, hearly, hnol1, Bool.false_eq_true, if_false]

theorem performAt_store {s : State} {t : Team} {ag : Agent} {ac : Access} {bs : List Byte} (hop : ac.op = .store bs) :
    performAt s t ag ac = (landStore s t ag ac bs false, none) := by
  simp only [performAt, hop]

/-- Where the core has no leased copy, a load reads the bytes of its place. -/
theorem load_unleased {s : State} {core : Nat} {l : Loc} (h : ∀ line, cached l = some line → leaseOf s core line = none) (n : Nat) :
    (load s core l n).2 = (readBytes s l n, locPoisoned s l n) := by
  unfold load loadVia
  dsimp only
  split
  · rename_i line hline
    rw [h line hline]
    dsimp only
    split <;> rfl
  · rfl

/-- A leased copy answers while its lease lasts, and the bytes of the place after that (R332). -/
theorem load_leased {s : State} {core pa : Nat} {x : Lease} (hpa : pa < 2 ^ 42) (hx : leaseOf s core (pa / 64) = some x) (n : Nat) :
    (load s core (.phys pa) n).2 = if (maxD (ctOf s core) x.wts).toNat ≤ x.rts.toNat then leaseBytes x pa n
      else (readBytes s (.phys pa) n, locPoisoned s (.phys pa) n) := by
  have hline : cached (.phys pa) = some (pa / 64) := if_pos hpa
  simp only [load, loadVia, hline, hx]
  split <;> rfl

/-! ## Atomics -/

section
variable {s : State} {t : Team} {ag : Agent} {ac : Access} (hgood : locPoisoned s ac.loc ac.size = false)
include hgood

/-- An atomic reads its old value and writes the new one at the home, in one access (R184). -/
theorem performAt_atom {d : Sel} {op : Nat} {ty : ElTy} {b : DWord} (hop : ac.op = .atom d op ty b) :
    performAt s t ag ac =
      (landStore s t ag ac (leBytes ac.size (atomNew op ty (leNat (readBytes s ac.loc ac.size)) (b.toNat % 2 ^ (8 * ac.size)))) true,
        some (leNat (readBytes s ac.loc ac.size), false)) := by
  simp only [performAt, hop, hgood, Bool.false_and]

/-- A CAS writes where it finds what it compares with, and nowhere else (R185). -/
theorem performAt_cas {d : Sel} {w : Bool} {b c : DWord} (hop : ac.op = .cas d w b c) :
    performAt s t ag ac =
      (if leNat (readBytes s ac.loc ac.size) = b.toNat % 2 ^ (8 * ac.size) then landStore s t ag ac (leBytes ac.size c.toNat) true
        else touchHome s t.core ac.loc, some (leNat (readBytes s ac.loc ac.size), false)) := by
  simp only [performAt, hop, hgood, Bool.false_eq_true, if_false]
  split <;> rfl

end

/-! ## The statement -/

/-- Settles O25, by the rules above: each event performs the oldest access, which changes memory as its kind does, and its thread by what it returns. -/
theorem accessesPerformed : Obligations.AccessesPerformed := by
  unfold Obligations.AccessesPerformed
  refine ⟨?events, ?thread, ?access, ?load, ?atomic, ?data⟩
  case events =>
    exact fun s ag ac rest hout =>
      ⟨loadDataReturn_performs hout, storePerformed_performs hout, bufferedStorePerformed_performs hout⟩
  case thread =>
    intro s k tid t th ac rest ht hth hout hown
    obtain ⟨t1, ws, ht1, hth1⟩ := (performAt_moreUnacked s t k tid ac).thread hth
    refine ⟨t1, _, ht1, hth1, rfl, rfl, rfl, ?_⟩
    rw [performOldest_thread ht hth hout hown ht1 hth1]
    exact ⟨thread?_modThread_same ((thread?_of_team ht1).trans hth1) _, modThread_mem .., modThread_scratch ..⟩
  case access =>
    exact fun s t ag ac => ⟨fun _ _ => performAt_load_home, fun _ _ => performAt_load, fun _ => performAt_store⟩
  case load =>
    refine fun s core l n => ⟨load_mem .., load_scratch .., fun h => load_unleased h n, ?_⟩
    rintro pa x rfl hpa hx
    rw [load_leased hpa hx n]
    exact ⟨fun hle => if_pos hle, fun hlt => if_neg (Nat.not_le.2 hlt)⟩
  case atomic =>
    refine fun s t ag ac hgood => ⟨fun _ _ _ _ => performAt_atom hgood, fun d w b c hop heq => ?_, fun d w b c hop hne => ?_⟩
    · rw [performAt_cas hgood hop, if_pos heq]
    · rw [performAt_cas hgood hop, if_neg hne]
  case data =>
    refine fun th ac x d => ⟨fun wid hop => ?_, fun op ty b hop hsize => ?_, fun w b c hop hsize => ?_⟩
    · simp only [giveData, hop, Bool.false_eq_true, if_false]
    · simp only [giveData, hop, hsize, Bool.false_eq_true, if_false, Nat.reduceEqDiff]
    · simp only [giveData, hop, hsize, Bool.false_eq_true, if_false, if_true]

end Sys2Proof.Machine
end

section
/-! SUPPORT. The bytes of a store (R181, R205): which bytes it changes, and what it leaves of the teams. -/

namespace Sys2Proof

theorem AMap.mem_set {α : Type} {m : AMap α} {k : Nat} {x : α} {p : Nat × α} (h : p ∈ AMap.set m k x) : p = (k, x) ∨ p ∈ m := by
  induction m with
  | nil => exact .inl (List.mem_singleton.1 h)
  | cons q r ih =>
    obtain ⟨j, y⟩ := q
    rw [AMap.set] at h
    split_ifs at h with hlt heq
    · exact List.mem_cons.1 h
    · exact (List.mem_cons.1 h).imp_right (List.mem_cons_of_mem _)
    · rcases List.mem_cons.1 h with rfl | h
      · exact .inr List.mem_cons_self
      · exact (ih h).imp_right (List.mem_cons_of_mem _)

namespace Machine

/-! ## Links

A line that comes to a core leaves the links as they are. -/

@[simp] theorem dropLease_links (s : State) (cache line : Nat) : (dropLease s cache line).links = s.links := by
  unfold dropLease
  split <;> rfl

@[simp] theorem roomInL1_links (s : State) (core line : Nat) : (roomInL1 s core line).links = s.links := by
  unfold roomInL1
  dsimp only
  split
  · rfl
  · split
    · exact dropLease_links ..
    · rfl
    · rfl

@[simp] theorem recallLine_links (s : State) (l : Loc) : (recallLine s l).links = s.links := by
  unfold recallLine
  split <;> rfl

@[simp] theorem takeLine_links (s : State) (core : Nat) (l : Loc) : (takeLine s core l).links = s.links := by
  unfold takeLine
  split
  · rfl
  · split <;> simp

@[simp] theorem trimT1_links (s : State) (slice keep : Nat) : (trimT1 s slice keep).links = s.links := by
  unfold trimT1
  dsimp only
  split
  · rfl
  · split <;> rfl

@[simp] theorem comeUp_links (s : State) (g : Nat) : (comeUp s g).links = s.links := by
  unfold comeUp
  rw [trimT1_links]
  dsimp only
  generalize pinsIt s g = p
  split
  · rfl
  · split <;> rfl

@[simp] theorem reachGranule_links (s : State) (l : Loc) : (reachGranule s l).links = s.links := by
  unfold reachGranule
  split
  · rfl
  · dsimp only
    split
    · exact comeUp_links ..
    · rfl

theorem linkCut_of_links {s u : State} (h : u.links = s.links) (l : Loc) : linkCut u l = linkCut s l := by
  cases l <;> simp only [linkCut, h]

/-! ## Bytes that no glade keeps -/

/-- A live glade of the resident team covers the 16-byte place (R205). -/
def coversPlace (t : Team) (core off : Nat) : Bool :=
  t.resident && !t.retired && t.core == core && decide (t.winBase ≤ off) && (AMap.find t.glades ((off - t.winBase) / 16 * 16)).isSome

theorem gladeAt_eq_none_iff {s : State} {core off : Nat} : gladeAt s core off = none ↔ ∀ p ∈ s.teams, coversPlace p.2 core off = false := by
  simp only [gladeAt, Option.map_eq_none_iff, List.find?_eq_none, Bool.not_eq_true]
  rfl

theorem gladeAt_of_teams {s u : State} (h : u.teams = s.teams) (core off : Nat) : gladeAt u core off = gladeAt s core off := by
  simp only [gladeAt, h]

/-- A thread's change brings no glade. -/
theorem gladeAt_modThread_none {s : State} {core off : Nat} (h : gladeAt s core off = none) (k tid : Nat) (f : Thread → Thread) :
    gladeAt (s.modThread k tid f) core off = none := by
  cases ht : s.team? k with
  | none => rwa [State.modThread, State.modTeam, ht]
  | some t =>
    rw [gladeAt_eq_none_iff] at h ⊢
    rw [State.modThread, modTeam_some ht]
    intro p hp
    rcases AMap.mem_set hp with rfl | hp
    · have hcovers := h _ (AMap.mem_of_find ht)
      dsimp only
      split <;> exact hcovers
    · exact h p hp

/-- A byte that an ordinary store writes and an ordinary load reads: none of the directory bytes of a live glade (R205). -/
def plainAt (s : State) : Loc → Prop
  | .phys _ => True
  | .scr core off => off % 16 < 8 ∨ gladeAt s core off = none

theorem readByte_scr {s : State} {core off : Nat} (h : plainAt s (.scr core off)) :
    readByte s (.scr core off) = cellGet s.scratch (core * 2 ^ 19 + off) := by
  rcases h with h | h
  · exact if_pos h
  · simp only [readByte, h, ite_self]

theorem plainAt_of_teams {s u : State} (h : u.teams = s.teams) (l : Loc) : plainAt u l = plainAt s l := by
  cases l with
  | phys a => rfl
  | scr core off => simp only [plainAt, gladeAt_of_teams h]

theorem plainAt_modThread {s : State} {l : Loc} (h : plainAt s l) (k tid : Nat) (f : Thread → Thread) : plainAt (s.modThread k tid f) l := by
  cases l with
  | phys a => trivial
  | scr core off => exact h.imp_right fun h => gladeAt_modThread_none h k tid f

/-! ## Bytes written -/

theorem writeBytes_phys (s : State) (a : Nat) (bs : List Byte) : writeBytes s (.phys a) bs = { s with mem := cellsSet s.mem a bs } := by
  induction bs generalizing s a with
  | nil => rfl
  | cons b r ih => exact ih _ (a + 1)

@[simp] theorem writeByte_scr_mem (s : State) (core off : Nat) (b : Byte) : (writeByte s (.scr core off) b).mem = s.mem := by
  unfold writeByte
  dsimp only
  split <;> rfl

@[simp] theorem writeBytes_scr_mem (s : State) (core off : Nat) (bs : List Byte) : (writeBytes s (.scr core off) bs).mem = s.mem := by
  induction bs generalizing s off with
  | nil => rfl
  | cons b r ih =>
    rw [writeBytes, locAdd, ih]
    exact writeByte_scr_mem s core off b

/-- A byte of a scratchpad after another, or itself, is written. -/
theorem cellGet_writeByte_scr {s : State} (hwf : cellsWf 0 s.scratch = true) {core off c o : Nat} (hoff : off < 2 ^ 19) (ho : o < 2 ^ 19)
    (hplain : plainAt s (.scr c o)) (b : Byte) :
    cellGet (writeByte s (.scr core off) b).scratch (c * 2 ^ 19 + o) =
      if c = core ∧ o = off then b else cellGet s.scratch (c * 2 ^ 19 + o) := by
  have hplace : core * 2 ^ 19 + off = c * 2 ^ 19 + o ↔ c = core ∧ o = off := by omega
  unfold writeByte
  dsimp only
  split
  · rename_i hkept
    rw [if_neg]
    rintro ⟨rfl, rfl⟩
    rw [Bool.and_eq_true, decide_eq_true_eq] at hkept
    obtain ⟨hhigh, hglade⟩ := hkept
    rcases hplain with hlow | hnone
    · omega
    · rw [hnone] at hglade
      cases hglade
  · rw [cellGet_cellSet hwf]
    simp only [hplace]

/-- The bytes of a scratchpad after a run of them is written. -/
theorem cellGet_writeBytes_scr {s : State} (hwf : Memory.wf s = true) {core off c o : Nat} {bs : List Byte} (hoff : off + bs.length ≤ 2 ^ 19)
    (ho : o < 2 ^ 19) (hplain : plainAt s (.scr c o)) :
    cellGet (writeBytes s (.scr core off) bs).scratch (c * 2 ^ 19 + o) =
      if c = core ∧ off ≤ o ∧ o < off + bs.length then bs.getD (o - off) 0 else cellGet s.scratch (c * 2 ^ 19 + o) := by
  induction bs generalizing s off with
  | nil =>
    rw [if_neg]
    · rfl
    · rintro ⟨-, hle, hlt⟩
      exact absurd hle (Nat.not_le.2 hlt)
  | cons b r ih =>
    rw [List.length_cons] at hoff ⊢
    have hscratch := ((wf_iff s).1 hwf).2
    rw [writeBytes, locAdd, ih (writeByte_wf hwf _ b) (by omega) (by rwa [plainAt_of_teams (writeByte_teams ..)]),
      cellGet_writeByte_scr hscratch (by omega) ho hplain]
    by_cases hlater : c = core ∧ off + 1 ≤ o ∧ o < off + 1 + r.length
    · have hin : c = core ∧ off ≤ o ∧ o < off + (r.length + 1) := by omega
      have hix : o - off = o - (off + 1) + 1 := by omega
      rw [if_pos hlater, if_pos hin, hix, List.getD_cons_succ]
    · rw [if_neg hlater]
      by_cases hhere : c = core ∧ o = off
      · have hin : c = core ∧ off ≤ o ∧ o < off + (r.length + 1) := by omega
        rw [if_pos hhere, if_pos hin, hhere.2, Nat.sub_self, List.getD_cons_zero]
      · have hout : ¬(c = core ∧ off ≤ o ∧ o < off + (r.length + 1)) := by omega
        rw [if_neg hhere, if_neg hout]

/-! ## A store -/

/-- A store over a link that works writes its bytes, and moves caches, times and tiers. -/
theorem store_memories {s : State} {l : Loc} (hlink : linkCut s l = false) (core : Nat) (bs : List Byte) (bad : Bool) :
    (store s core l bs bad).mem = (writeBytes (takeLine (reachGranule s l) core l) l bs).mem ∧
    (store s core l bs bad).scratch = (writeBytes (takeLine (reachGranule s l) core l) l bs).scratch := by
  have hcut : linkCut (takeLine (reachGranule s l) core l) l = false := by rw [linkCut_of_links (s := s) (by simp), hlink]
  simp only [store, putData, hcut, Bool.false_eq_true, if_false, touch_mem, touch_scratch, and_self]

/-- Landing a store awaits its acknowledgment; the memories are those that the store leaves. -/
theorem landStore_memories (s : State) (t : Team) (ag : Agent) (ac : Access) (bs : List Byte) :
    (landStore s t ag ac bs false).mem = (store s t.core ac.loc bs false).mem ∧
    (landStore s t ag ac bs false).scratch = (store s t.core ac.loc bs false).scratch := by
  unfold landStore
  simp only [Bool.false_eq_true, if_false]
  split
  · exact ⟨rfl, rfl⟩
  · split <;> simp [takeSeq]

section
variable {s : State} {t : Team} {ag : Agent} {ac : Access} {bs : List Byte} (hwf : Memory.wf s = true) (hlink : linkCut s ac.loc = false)
include hwf hlink

/-- A store to a physical place gives its bytes and changes no other. -/
theorem landStore_phys {p : Nat} (hloc : ac.loc = .phys p) :
    (∀ a, cellGet (landStore s t ag ac bs false).mem a = if p ≤ a ∧ a < p + bs.length then bs.getD (a - p) 0 else cellGet s.mem a) ∧
    (landStore s t ag ac bs false).scratch = s.scratch := by
  obtain ⟨hmem, hscratch⟩ := landStore_memories s t ag ac bs
  obtain ⟨hmem', hscratch'⟩ := store_memories hlink t.core bs false
  rw [hmem, hscratch, hmem', hscratch', hloc, writeBytes_phys]
  refine ⟨fun a => ?_, by simp⟩
  dsimp only
  rw [takeLine_mem, reachGranule_mem, cellGet_cellsSet ((wf_iff s).1 hwf).1]

/-- So does one to a place of a scratchpad, but for the directory bytes of glades. -/
theorem landStore_scr {core off : Nat} (hloc : ac.loc = .scr core off) (hoff : off + bs.length ≤ 2 ^ 19) :
    (landStore s t ag ac bs false).mem = s.mem ∧
    ∀ c o, o < 2 ^ 19 → plainAt s (.scr c o) → cellGet (landStore s t ag ac bs false).scratch (c * 2 ^ 19 + o) =
      if c = core ∧ off ≤ o ∧ o < off + bs.length then bs.getD (o - off) 0 else cellGet s.scratch (c * 2 ^ 19 + o) := by
  obtain ⟨hmem, hscratch⟩ := landStore_memories s t ag ac bs
  obtain ⟨hmem', hscratch'⟩ := store_memories hlink t.core bs false
  rw [hmem, hscratch, hmem', hscratch', hloc]
  refine ⟨by simp, fun c o ho hplain => ?_⟩
  rw [cellGet_writeBytes_scr (wf_of_eq hwf (by simp) (by simp)) hoff ho (by rwa [plainAt_of_teams (s := s) (by simp)])]
  simp

end

/-! ## What else a performed access leaves -/

/-- `u` has the teams of `s`, but that one thread may have changed: the other threads and the glades are the same, and no place has a glade more. -/
structure OnlyThread (k tid : Nat) (s u : State) : Prop where
  threads : ∀ j i, ¬(j = k ∧ i = tid) → u.thread? j i = s.thread? j i
  glades : ∀ j, (u.team? j).map Team.glades = (s.team? j).map Team.glades
  plain : ∀ l, plainAt s l → plainAt u l

theorem onlyThread_of_teams {s u : State} (h : u.teams = s.teams) (k tid : Nat) : OnlyThread k tid s u :=
  ⟨fun j i _ => thread?_of_teams h j i, fun j => by rw [team?_of_teams h], fun l hl => by rwa [plainAt_of_teams h]⟩

theorem OnlyThread.trans {k tid : Nat} {s u v : State} (h : OnlyThread k tid s u) (h' : OnlyThread k tid u v) : OnlyThread k tid s v :=
  ⟨fun j i hji => (h'.threads j i hji).trans (h.threads j i hji), fun j => (h'.glades j).trans (h.glades j), fun l hl => h'.plain l (h.plain l hl)⟩

theorem onlyThread_modThread (s : State) (k tid : Nat) (f : Thread → Thread) : OnlyThread k tid s (s.modThread k tid f) where
  threads j i hji := thread?_modThread_other s f (by omega)
  glades j := by
    unfold State.modThread
    by_cases hj : k = j
    · subst hj
      cases ht : s.team? k with
      | none => simp [State.modTeam, ht]
      | some t =>
        rw [team?_modTeam_same ht, Option.map_some, Option.map_some]
        split <;> rfl
    · rw [team?_modTeam_other s _ hj]
  plain _ hl := plainAt_modThread hl k tid f

theorem MoreUnacked.onlyThread {k tid : Nat} {s u : State} (h : MoreUnacked k tid s u) : OnlyThread k tid s u := by
  rcases h with h | ⟨w, h⟩
  · exact onlyThread_of_teams h k tid
  · exact (onlyThread_modThread s k tid _).trans (onlyThread_of_teams h k tid)

/-- A thread's oldest access, whose line nobody owns, leaves the memories as it is performed, and changes no other thread. -/
theorem performOldest_leaves {s : State} {k tid : Nat} {t : Team} {th : Thread} {ac : Access} {rest : List Access}
    (ht : s.team? k = some t) (hth : s.thread? k tid = some th) (hout : th.out = ac :: rest)
    (hown : isWrite ac.op = true → ownerOf s (.thread k tid) ac.loc = none) :
    OnlyThread k tid s (performOldest s (.thread k tid)) ∧
    (performOldest s (.thread k tid)).mem = (performAt s t (.thread k tid) ac).1.mem ∧
    (performOldest s (.thread k tid)).scratch = (performAt s t (.thread k tid) ac).1.scratch := by
  have hmore := performAt_moreUnacked s t k tid ac
  obtain ⟨t1, ws, ht1, hth1⟩ := hmore.thread hth
  rw [performOldest_thread ht hth hout hown ht1 hth1]
  exact ⟨hmore.onlyThread.trans (onlyThread_modThread ..), modThread_mem .., modThread_scratch ..⟩

/-! ## The statement -/

/-- Settles O26: the store lands, and then its thread alone changes; the bytes of both memories follow from where it lands. -/
theorem storeWritesItsBytes : Obligations.StoreWritesItsBytes := by
  unfold Obligations.StoreWritesItsBytes
  intro s k tid t th ac rest bs hwf ht hth hout hop hown hlink
  obtain ⟨honly, hmem, hscratch⟩ := performOldest_leaves ht hth hout fun _ => hown
  rw [performAt_store hop] at hmem hscratch
  have hperforms : exec (.storePerformed (.thread k tid)) s = .next (performOldest s (.thread k tid)) :=
    storePerformed_performs (ac := ac) (rest := rest) (by simp [outOf, hth, hout]) (by rw [hop]; rfl)
  refine ⟨_, hperforms, fun p hloc => ?phys, fun core off hloc hoff => ?scr, honly.glades, honly.threads⟩
  case phys =>
    obtain ⟨hbytes, hsame⟩ := landStore_phys (t := t) (ag := .thread k tid) (bs := bs) hwf hlink hloc
    refine ⟨fun a => ?_, fun core off hplain => ?_⟩
    · rw [readByte, hmem]
      exact hbytes a
    · rw [readByte_scr (honly.plain (.scr core off) hplain), readByte_scr hplain, hscratch, hsame]
  case scr =>
    obtain ⟨hsame, hbytes⟩ := landStore_scr (t := t) (ag := .thread k tid) (bs := bs) hwf hlink hloc hoff
    refine ⟨fun a => ?_, fun c o ho hplain => ?_⟩
    · rw [readByte, readByte, hmem, hsame]
    · rw [readByte_scr (honly.plain (.scr c o) hplain), readByte_scr hplain, hscratch, hbytes c o ho hplain]

end Machine

end Sys2Proof
end

section
/-! SUPPORT. The issue of accesses (R25, R26, R174 to R178, R181, R186, R288): a checked one goes out, a failing check faults, a host page may refuse. -/

namespace Sys2Proof.Machine

/-! ## An access that goes out -/

/-- An access with the number that it takes among its team's replayable operations (R430). -/
def withNumber (c : Ctx) (ac : Access) : Access := { ac with no := if ac.port.isSome then c.team.nextCopy else 0 }

/-- A thread takes a store of its expansion: into the buffer before the commit point, among its outstanding accesses after it (R288, R292). -/
def takeStore (x : Expansion) (ac : Access) (th : Thread) : Thread :=
  if x.committed then { th with out := th.out ++ [ac] } else { th with expansion := some { x with stores := x.stores ++ [ac] } }

/-- A store of an expansion, which counts on no flag (R287). -/
def bufferedStore (c : Ctx) (bs : List Byte) (l : Loc) (n : Nat) (ea : DWord) : Access :=
  { op := .store bs, loc := l, size := n, va := ea, flag := none, port := locPort l, buffered := true,
    no := if (locPort l).isSome then c.team.nextCopy else 0 }

/-- The checks of an access leave its thread as it is. -/
theorem numbered_thread {s : State} {c : Ctx} (h : ctxOf s = some c) (ac : Access) : (numbered c ac).thread? c.key c.tid = some c.th := by
  have hnoted : (noteAccess c.s c.team ac.va ac.loc).thread? c.key c.tid = some c.th := by
    rw [thread?_of_teams (noteAccess_teams ..)]
    exact thread?_of_ctx h
  unfold numbered
  dsimp only
  split
  · obtain ⟨t, ht, hth⟩ := Option.bind_eq_some_iff.1 hnoted
    rw [thread?_of_team (team?_modTeam_same ht _)]
    exact hth
  · exact hnoted

section
variable {s : State} {c : Ctx} {ac : Access} {write : Bool} (h : ctxOf s = some c) (hroom : flagFull c.th ac.flag = false)
  (hhazard : copyHazard c.team c.tid ac.loc ac.size write = none)
include h hroom hhazard

/-- A checked access is outstanding, unless it is a store of an expansion, and its flag counts it. -/
theorem issue_outstanding (hop : (∀ bs, ac.op ≠ .store bs) ∨ c.th.expansion = none) :
    issue c ac write = .done (withThread c (numbered c ac) fun th => incFlag { th with out := th.out ++ [withNumber c ac] } ac.flag) := by
  unfold issue
  simp only [hroom, hhazard, Bool.false_eq_true, if_false]
  refine congrArg Res.done (modThread_congr (numbered_thread h ac) ?_)
  rcases hop with hop | hop
  · split
    · exact absurd ‹ac.op = _› (hop _)
    · rfl
  · rw [hop]
    rfl

/-- A store of an expansion waits in its buffer for the commit point, and is outstanding after it (R288). -/
theorem issue_buffered {x : Expansion} (hx : c.th.expansion = some x) {bs : List Byte} (hop : ac.op = .store bs) :
    issue c ac write = .done (withThread c (numbered c ac) (takeStore x { withNumber c ac with buffered := true })) := by
  unfold issue
  simp only [hroom, hhazard, Bool.false_eq_true, if_false]
  refine congrArg Res.done (modThread_congr (numbered_thread h ac) ?_)
  simp only [hx, hop, takeStore, withNumber]

end

/-! ## Loads and stores -/

section
variable {opc : Nat} {i : Args → Instr} {addr datum : Ctx → Args → DWord} {size : Args → Nat} {w : Want} {op : Ctx → Args → AccOp}
  (he : ∀ a s, exec (i a) s = runAccess opc a s (fun c => addr c a) (fun c => datum c a) (fun c => op c a) (size a) w)
include he

theorem accessOp_of_runAccess {pre : Ctx → Args → Prop} {flag : Thread → Option (BitVec 4)} {nol1 : Args → Bool}
    (hflag : ∀ th, (if w.write then flagB th else flagA th) = flag th) (hnol1 : ∀ a, (opc == 0x00 && modBits a.mod 6 5 == 3) = nol1 a)
    (hop : ∀ c a, pre c a → (∀ bs, op c a ≠ .store bs) ∨ c.th.expansion = none) :
    AccessOp opc i pre addr datum size w flag op nol1 := by
  intro s c a l h hr hp hroom hl hhazard
  obtain rfl := ctxOf_state h
  rw [he, runAccess, runThread_ready h hr]
  simp only [hl, hflag, hnol1]
  rw [issue_outstanding h hroom hhazard (hop c a hp)]
  rfl

theorem accessFault_of_runAccess (pre : Ctx → Args → Prop) : AccessFault opc i pre addr datum size w := by
  intro s c a code d h hr _ hl
  obtain rfl := ctxOf_state h
  rw [he, runAccess, runThread_ready h hr]
  simp only [hl]

theorem runAccess_buffers (hw : w.write = true) (hopc : opc ≠ 0x00) {s : State} {c : Ctx} {a : Args} {l : Loc} {x : Expansion} {bs : List Byte}
    (h : ctxOf s = some c) (hr : ready c 1 opc a = true) (hx : c.th.expansion = some x) (hop : op c a = .store bs)
    (hl : resolveAs s c.team c.th.arch.mode (addr c a) (size a) (size a) w (datum c a) = .ok l)
    (hhazard : copyHazard c.team c.tid l (size a) true = none) :
    exec (i a) s = .next (afterDone c a (withThread c (numbered c (bufferedStore c bs l (size a) (addr c a)))
      (takeStore x (bufferedStore c bs l (size a) (addr c a))))) := by
  have hflag : flagB c.th = none := by rw [flagB, hx]; rfl
  obtain rfl := ctxOf_state h
  rw [he, runAccess, runThread_ready h hr]
  simp only [hl, hw, hflag, hop, beq_false_of_ne hopc, Bool.false_and, if_true]
  rw [issue_buffered h rfl hhazard hx rfl]
  rfl

end

/-! ## The bytes of a store, the extension of a load (R174, R176) -/

@[simp] theorem leBytes_length (n x : Nat) : (leBytes n x).length = n := by
  induction n generalizing x with
  | zero => rfl
  | succ n ih => rw [leBytes, List.length_cons, ih]

theorem storeBytes_length (c : Ctx) (wid : Nat) (x : Sel) : (storeBytes c wid x).length = widSize wid := by
  unfold storeBytes
  split
  · exact leBytes_length ..
  · split <;> simp [widSize]
  · exact leBytes_length ..

/-- Extension by the sign, from fewer bits than a register has (R39). -/
theorem ofNat_extendTo_signed {w : Nat} (hw : w < 32) (x : Nat) : BitVec.ofNat 32 (extendTo true w x) = (BitVec.ofNat w x).signExtend 32 := by
  rw [extendTo, if_pos hw, toVal_signed_eq_toInt, wrapZ_eq_toNat_ofInt, BitVec.ofNat_toNat, BitVec.setWidth_eq, BitVec.signExtend]

/-! ## The four instructions -/

/-- What an LD or LDS asks for. -/
def loadOp (c : Ctx) (a : Args) : AccOp := .load (fixDst c.th.arch a.dst) (widOf a)

/-- What an ST or STS brings. -/
def storeOp (c : Ctx) (a : Args) : AccOp := .store (storeBytes c (widOf a) a.sb)

/-- The generic address of an LDS or STS (R175). -/
def ownWindowAddr (c : Ctx) (a : Args) : DWord := windowAddr (windowOff c a)

/-- The offset that its faults name (R490). -/
def ownWindowDatum (c : Ctx) (a : Args) : DWord := (windowOff c a).zeroExtend 64

theorem exec_ld (a : Args) (s : State) : exec (.ld a) s =
    runAccess 0x00 a s (fun c => effective c a) (fun c => effective c a) (fun c => loadOp c a) (widSize (widOf a)) ⟨true, false⟩ := rfl

theorem exec_st (a : Args) (s : State) : exec (.st a) s =
    runAccess 0x01 a s (fun c => effective c a) (fun c => effective c a) (fun c => storeOp c a) (widSize (widOf a)) ⟨false, true⟩ := rfl

theorem exec_lds (a : Args) (s : State) : exec (.lds a) s =
    runAccess 0x02 a s (fun c => ownWindowAddr c a) (fun c => ownWindowDatum c a) (fun c => loadOp c a) (widSize (widOf a)) ⟨true, false⟩ := rfl

theorem exec_sts (a : Args) (s : State) : exec (.sts a) s =
    runAccess 0x03 a s (fun c => ownWindowAddr c a) (fun c => ownWindowDatum c a) (fun c => storeOp c a) (widSize (widOf a)) ⟨false, true⟩ := rfl

/-- Settles O23: the four instructions are accesses of one form, whose addresses, data and flags are those of R174 to R178. -/
theorem loadsAndStores : Obligations.LoadsAndStores := by
  unfold Obligations.LoadsAndStores
  refine ⟨?ld, accessFault_of_runAccess exec_ld _, ?st, accessFault_of_runAccess exec_st _, ?lds, accessFault_of_runAccess exec_lds _,
    ?sts, accessFault_of_runAccess exec_sts _, ?buffered, storeBytes_length, ?extension⟩
  case ld => exact accessOp_of_runAccess exec_ld (fun _ => rfl) (fun _ => rfl) fun _ _ _ => .inl nofun
  case lds => exact accessOp_of_runAccess exec_lds (fun _ => rfl) (fun _ => rfl) fun _ _ _ => .inl nofun
  case st => exact accessOp_of_runAccess exec_st (fun _ => rfl) (fun _ => rfl) fun _ _ hnative => .inr hnative
  case sts => exact accessOp_of_runAccess exec_sts (fun _ => rfl) (fun _ => rfl) fun _ _ hnative => .inr hnative
  case buffered =>
    rintro i opc ea da (⟨rfl, rfl, rfl, rfl⟩ | ⟨rfl, rfl, rfl, rfl⟩) s c a l x h hr hx hl hhazard
    · exact runAccess_buffers exec_st rfl (by decide) h hr hx rfl hl hhazard
    · exact runAccess_buffers exec_sts rfl (by decide) h hr hx rfl hl hhazard
  case extension =>
    refine fun th d x _ => ⟨rfl, ?_, rfl, ?_⟩
    · rw [loadReg, ofNat_extendTo_signed (by decide)]
    · rw [loadReg, ofNat_extendTo_signed (by decide), show BitVec.ofNat 8 (x % 2 ^ 8) = BitVec.ofNat 8 x by bv_omega]

end Sys2Proof.Machine
end

section
/-! SUPPORT. Atomics (R182 to R187): their issue, the rule of a host page, and the new value of every operation. -/

namespace Sys2Proof.Machine

/-! ## Issue and refusal -/

section
variable {opc : Nat} {i : Args → Instr} {oper : Args → Option Nat} {ty : Args → ElTy} {size : Args → Nat} {onA : Bool} {op : Ctx → Args → AccOp}
  (he : ∀ a s, exec (i a) s = runAtomic opc a s (oper a) (ty a) (size a) onA fun c => op c a)
include he

/-- An atomic that its page does not refuse goes out. -/
theorem accessOp_of_runAtomic {flag : Thread → Option (BitVec 4)} (hflag : ∀ th, (if onA then flagA th else flagB th) = flag th)
    (hop : ∀ c a bs, op c a ≠ .store bs) :
    AccessOp opc i (fun c a => ¬hostDenied c.s c.team (effective c a) (oper a) (ty a) = true) effective effective size ⟨true, true⟩ flag op
      fun _ => false := by
  intro s c a l h hr hfree hroom hl hhazard
  obtain rfl := ctxOf_state h
  rw [he, runAtomic, runThread_ready h hr]
  simp only [resolve, hl, hfree, hflag]
  rw [issue_outstanding h hroom hhazard (.inl (hop c a))]
  rfl

theorem accessFault_of_runAtomic :
    AccessFault opc i (fun c a => ¬hostDenied c.s c.team (effective c a) (oper a) (ty a) = true) effective effective size ⟨true, true⟩ := by
  intro s c a code d h hr hfree hl
  obtain rfl := ctxOf_state h
  rw [he, runAtomic, runThread_ready h hr]
  simp only [resolve, hl, hfree, Bool.and_false, Bool.false_eq_true, if_false]

section
variable {s : State} {c : Ctx} {a : Args} (h : ctxOf s = some c) (hr : ready c 1 opc a = true)
  (hdenied : hostDenied c.s c.team (effective c a) (oper a) (ty a) = true)
include h hr hdenied

/-- A refused atomic whose checks pass faults PROT_WRITE (R186). -/
theorem runAtomic_refused {l : Loc} (hl : resolve s c.team c.th.arch.mode (effective c a) (size a) ⟨true, true⟩ = .ok l) :
    exec (i a) s = .next (faulted c 0x0B (effective c a)) := by
  obtain rfl := ctxOf_state h
  rw [he, runAtomic, runThread_ready h hr]
  simp only [hl, hdenied, if_true]
  rfl

/-- One whose checks fail takes their fault, and PROT_WRITE before the fault of a gate (R178). -/
theorem runAtomic_refused_fault {code : BitVec 8} {d : DWord}
    (hl : resolve s c.team c.th.arch.mode (effective c a) (size a) ⟨true, true⟩ = .error (code, d)) :
    exec (i a) s = .next (faulted c (if code = 0x12 then 0x0B else code) d) := by
  obtain rfl := ctxOf_state h
  rw [he, runAtomic, runThread_ready h hr]
  by_cases hgate : code = cGATE
  · subst hgate
    simp only [hl, hdenied, decide_true, Bool.and_self, if_true]
    rfl
  · simp only [hl, hgate, decide_false, Bool.false_and, Bool.false_eq_true, if_false]
    rw [if_neg (show ¬code = 0x12 from hgate)]

end

end

/-! ## The new values (R183, R184) -/

/-- The minimum by value of two patterns of a type. -/
theorem toVal_atomNew_min (t : ElTy) (x y : Nat) :
    toVal t.signed t.width (atomNew 1 t x y) = min (toVal t.signed t.width x) (toVal t.signed t.width y) := by
  simp only [atomNew, apply_ite (toVal t.signed t.width), min_def]

theorem toVal_atomNew_max (t : ElTy) (x y : Nat) :
    toVal t.signed t.width (atomNew 2 t x y) = max (toVal t.signed t.width x) (toVal t.signed t.width y) := by
  simp only [atomNew, apply_ite (toVal t.signed t.width), max_def]

/-- A sum with a NaN is the canonical NaN. -/
theorem opAdd_nan {x y : Nat} {sg : Bool} (h : decodeF .f32 x = .nan sg ∨ decodeF .f32 y = .nan sg) : (opAdd .f32 {} x y).bits = 0x7FC00000 := by
  unfold opAdd
  rcases h with h | h
  · rw [h]
    rfl
  · rw [h]
    cases decodeF .f32 x <;> rfl

/-- What an atomic returns raises no flag. -/
theorem giveData_atom_fflags {ac : Access} {d : Sel} {op : Nat} {t : ElTy} {b : DWord} (hop : ac.op = .atom d op t b)
    (hd : ∀ h, d ≠ .sp .fflags h) (th : Thread) (x : Nat) : (giveData th ac (some (x, false))).arch.fflags = th.arch.fflags := by
  simp only [giveData, hop, Bool.false_eq_true, if_false]
  split
  · exact write64_fflags ..
  · exact write32_fflags th _ hd

/-! ## The instructions -/

/-- The operand b of an ATOM or RED (R182). -/
def atomOperand (c : Ctx) (a : Args) : DWord := atomArg c ((atomTy a).width == 64) a.sb

/-- What an ATOM, a RED and a CAS ask for (R182, R185). -/
def atomOf (c : Ctx) (a : Args) : AccOp := .atom (fixDst c.th.arch a.dst) (atomOp a) (atomTy a) (atomOperand c a)
def redOf (c : Ctx) (a : Args) : AccOp := .atom .none (atomOp a) (atomTy a) (atomOperand c a)
def casWide (a : Args) : Bool := modBits a.mod 9 9 == 1
def casOf (c : Ctx) (a : Args) : AccOp := .cas (fixDst c.th.arch a.dst) (casWide a) (atomArg c (casWide a) a.sb) (atomArg c (casWide a) a.sc)

theorem exec_atom (a : Args) (s : State) :
    exec (.atom a) s = runAtomic 0x04 a s (some (atomOp a)) (atomTy a) ((atomTy a).width / 8) true fun c => atomOf c a := rfl

theorem exec_red (a : Args) (s : State) :
    exec (.red a) s = runAtomic 0x06 a s (some (atomOp a)) (atomTy a) ((atomTy a).width / 8) false fun c => redOf c a := rfl

theorem exec_cas (a : Args) (s : State) :
    exec (.cas a) s = runAtomic 0x05 a s none (if casWide a then .n64 else .n32) (if casWide a then 8 else 4) true fun c => casOf c a := rfl

/-- Settles O24: the three instructions are atomics of one form; the operations compute, and that of f32 is the rounded sum. -/
theorem atomics : Obligations.Atomics := by
  unfold Obligations.Atomics
  refine ⟨?atom, ?atomFault, ?red, ?redFault, ?cas, ?casFault, ?refused, ?prefetch, ?integers, fun x => ?wrapping, ?floats,
    fun th ac d b x hop hd => giveData_atom_fflags hop hd th x⟩
  case atomFault => exact accessFault_of_runAtomic exec_atom
  case redFault => exact accessFault_of_runAtomic exec_red
  case casFault => exact accessFault_of_runAtomic exec_cas
  case atom => exact accessOp_of_runAtomic exec_atom (fun _ => rfl) fun _ _ _ => nofun
  case red => exact accessOp_of_runAtomic exec_red (fun _ => rfl) fun _ _ _ => nofun
  case cas => exact accessOp_of_runAtomic exec_cas (fun _ => rfl) fun _ _ _ => nofun
  case refused =>
    rintro i opc op ty n (⟨rfl, rfl, rfl, rfl, rfl⟩ | ⟨rfl, rfl, rfl, rfl, rfl⟩ | ⟨rfl, rfl, rfl, rfl, rfl⟩) s c a h hr hdenied
    · exact ⟨fun l => runAtomic_refused exec_atom h hr hdenied, fun code d => runAtomic_refused_fault exec_atom h hr hdenied⟩
    · exact ⟨fun l => runAtomic_refused exec_red h hr hdenied, fun code d => runAtomic_refused_fault exec_red h hr hdenied⟩
    · exact ⟨fun l => runAtomic_refused exec_cas h hr hdenied, fun code d => runAtomic_refused_fault exec_cas h hr hdenied⟩
  case prefetch => exact regOp_of fun _ _ => rfl
  case integers =>
    exact fun t x y ht _ _ => ⟨if_neg ht, toVal_atomNew_min t x y, toVal_atomNew_max t x y, rfl, rfl, rfl, rfl, rfl, rfl⟩
  case wrapping =>
    change (if 3 ≤ x then 0 else x + 1) = _
    simp only [← Nat.not_lt, ite_not]
  case floats => exact ⟨fun _ _ => rfl, fun _ _ _ => opAdd_nan, by decide⟩

end Sys2Proof.Machine
end

section
/-! SUPPORT. The uniform stream's arithmetic (R226, R227) and the posting of commands to its queues (R229, R235, R245). -/

namespace Sys2Proof.Machine

/-! ## K arithmetic (R226) -/

/-- An operation of the stream that gives one K register completes with its result. -/
theorem streamOp_of_runK {opc : Nat} {i : Args → Instr} {f : State → Team → Args → DWord}
    (h : ∀ a s, exec (i a) s = runK opc a s fun t => f s t a) :
    StreamOp opc false i (fun _ _ _ => True) fun s k t a => afterStream k a (s.setTeam k (kwrite t a.dst (f s t a))) :=
  fun s _ _ a hs hr _ => by rw [h, runK_ready hs hr]

/-- A count of 64 or more shifts every bit out. -/
theorem shiftLeft_word (x : DWord) (n : Nat) : (if 64 ≤ n then 0 else x <<< n) = x <<< n := by
  split
  · exact (BitVec.shiftLeft_eq_zero ‹_›).symm
  · rfl

theorem ushiftRight_word (x : DWord) (n : Nat) : (if 64 ≤ n then 0 else x >>> n) = x >>> n := by
  split
  · exact (BitVec.ushiftRight_eq_zero ‹_›).symm
  · rfl

/-- An arithmetic shift by more than 64 is one by 64: all sign bits. -/
theorem sshiftRight_word (x : DWord) (n : Nat) : x.sshiftRight (min n 64) = x.sshiftRight n := by
  refine BitVec.eq_of_getLsbD_eq fun i hi => ?_
  rw [BitVec.getLsbD_sshiftRight, BitVec.getLsbD_sshiftRight]
  rcases Nat.le_total n 64 with h | h
  · rw [min_eq_left h]
  · have hout : ¬(64 + i < 64) := by omega
    have hout' : ¬(n + i < 64) := by omega
    rw [min_eq_right h, if_neg hout, if_neg hout']

/-- KLI.hi puts its operand above the low half of the register (R226). -/
theorem kli_high (x y : DWord) : (x.truncate 32 : Word) ++ (y.truncate 32 : Word) = (x <<< 32) ||| (y &&& 0xFFFFFFFF) := by
  have hlow (i : Nat) : (0xFFFFFFFF : DWord).getLsbD i = decide (i < 32) := by
    have hmask : (0xFFFFFFFF : DWord).toNat = 2 ^ 32 - 1 := rfl
    rw [← BitVec.testBit_toNat, hmask, Nat.testBit_two_pow_sub_one]
  refine BitVec.eq_of_getLsbD_eq fun i hi => ?_
  rw [BitVec.getLsbD_append, BitVec.getLsbD_or, BitVec.getLsbD_and, BitVec.getLsbD_shiftLeft, hlow]
  by_cases h : i < 32
  · simp [h]
  · have hsub : i - 32 < 32 := by omega
    simp [h, hi, hsub]

theorem exec_kshl (a : Args) (s : State) : exec (.kshl a) s = runK 0x06 a s fun t => kread s t a.sa <<< (kread s t a.sb).toNat := by
  change execKshl a s = _
  unfold execKshl
  simp only [shiftLeft_word]

theorem exec_kshr (a : Args) (s : State) : exec (.kshr a) s = runK 0x07 a s fun t =>
    if modBits a.mod 9 9 = 1 then (kread s t a.sa).sshiftRight (kread s t a.sb).toNat else kread s t a.sa >>> (kread s t a.sb).toNat := by
  change execKshr a s = _
  unfold execKshr
  simp only [ushiftRight_word, sshiftRight_word]

theorem exec_kli (a : Args) (s : State) : exec (.kli a) s = runK 0x09 a s fun t =>
    if modBits a.mod 9 9 = 1 then (kread s t a.sa <<< 32) ||| (kread s t a.dst &&& 0xFFFFFFFF) else kread s t a.sa := by
  change execKli a s = _
  unfold execKli
  simp only [kli_high]

/-- Settles O39, by the rule of the stream's register operations; the shifts and KLI.hi in the words of R226. -/
theorem uniformArithmetic : Obligations.UniformArithmetic := by
  unfold Obligations.UniformArithmetic
  refine ⟨streamOp_of_runK fun _ _ => rfl, streamOp_of_runK fun _ _ => rfl, streamOp_of_runK fun _ _ => rfl, streamOp_of_runK fun _ _ => rfl,
    streamOp_of_runK fun _ _ => rfl, streamOp_of_runK fun _ _ => rfl, streamOp_of_runK exec_kshl, streamOp_of_runK exec_kshr,
    streamOp_of_runK fun _ _ => rfl, streamOp_of_runK exec_kli, fun s k t a h hr _ => ?compare, fun t j x i => ?written⟩
  case compare =>
    change execKcmp a s = _
    unfold execKcmp
    rw [runStream_ready h hr]
  case written =>
    by_cases hi : i = j.toNat
    · rw [hi, if_pos rfl]
      exact AMap.get_set_same ..
    · rw [if_neg hi]
      exact AMap.get_set_other _ _ _ (Ne.symm hi)

/-! ## Posted commands (R229, R245) -/

/-- The operands of a command as its queue takes them (R235, R245): a KCP's a is its destination. -/
def postedCommand (s : State) (t : Team) (a : Args) (op : Instr) (q : QueueKind) (flag : Option (BitVec 4)) : PCmd :=
  { op := op, no := t.nextCopy, addr := t.stream.pc, d := kread s t a.sc,
    a := kread s t (match q with | .bulk => a.dst | .matrix => a.sa), b := kread s t (match q with | .bulk => a.sa | .matrix => a.sb),
    c := kread s t (match q with | .bulk => a.sb | .matrix => .none), guard := qTrue t a.guard, flag := flag }

section
variable {s : State} {k : Nat} {t : Team} {a : Args} {opc : Nat} (h : streamOf s = some (k, t)) (hr : kready s t opc a true = true)
include h hr

/-- A KCP whose queue and flag have room enters its queue. -/
theorem post_bulk {op : Instr} {flagOf : Clause → Option (BitVec 4)} (hroom : t.bulk.length + (if t.running.isSome then 1 else 0) < 16)
    (hflag : kflagFull t (flagOf t.stream.clause) = false) :
    post opc op a s .bulk flagOf = .next (afterStream k a (s.setTeam k (kfInc { t with
      bulk := t.bulk ++ [postedCommand s t a op .bulk (flagOf t.stream.clause)], nextCopy := t.nextCopy + 1 } (flagOf t.stream.clause)))) := by
  unfold post
  rw [runStream_ready h hr]
  simp only [Nat.not_le.2 hroom, hflag, decide_false, Bool.or_self, Bool.false_eq_true, if_false]
  rfl

/-- So does a matrix command. -/
theorem post_matrix {op : Instr} {flagOf : Clause → Option (BitVec 4)} (hroom : t.matrix.length < 16)
    (hflag : kflagFull t (flagOf t.stream.clause) = false) :
    post opc op a s .matrix flagOf = .next (afterStream k a (s.setTeam k (kfInc { t with
      matrix := t.matrix ++ [postedCommand s t a op .matrix (flagOf t.stream.clause)], nextCopy := t.nextCopy + 1 }
      (flagOf t.stream.clause)))) := by
  unfold post
  rw [runStream_ready h hr]
  simp only [Nat.not_le.2 hroom, hflag, decide_false, Bool.or_self, Bool.false_eq_true, if_false]
  rfl

/-- At a full queue the stream waits. -/
theorem post_matrix_full {op : Instr} {flagOf : Clause → Option (BitVec 4)} (hfull : 16 ≤ t.matrix.length) :
    post opc op a s .matrix flagOf = .next { s with stalled := true } := by
  unfold post
  rw [runStream_ready h hr]
  simp only [hfull, decide_true, Bool.true_or, if_true]

end

/-- A counted command raises its flag by one, and no other (R25). -/
theorem kfInc_count (t : Team) (j : BitVec 4) (i : Nat) :
    AMap.get 0 (kfInc t (some j)).kf i = AMap.get 0 t.kf i + if i = j.toNat then 1 else 0 := by
  by_cases hi : i = j.toNat
  · rw [hi, if_pos rfl]
    exact AMap.get_set_same ..
  · rw [if_neg hi, Nat.add_zero]
    exact AMap.get_set_other _ _ _ (Ne.symm hi)

/-- Settles O41, by the rules of the two queues: each matrix command is posted with the flag that R245 gives it. -/
theorem postedCommands : Obligations.PostedCommands := by
  unfold Obligations.PostedCommands
  refine ⟨fun s k t a h hr hroom => post_bulk h hr hroom.1 hroom.2, fun opc i flag hmem s k t a h hr hroom => ?matrix, kfInc_count,
    fun t hfull s k a h hr => post_matrix_full h hr hfull⟩
  obtain ⟨hroom, hflag⟩ := hroom
  have hposted (op : Instr) := post_matrix (op := op) h hr hroom hflag
  simp only [List.mem_cons, Prod.mk.injEq, List.not_mem_nil, or_false] at hmem
  rcases hmem with ⟨rfl, rfl, rfl⟩ | ⟨rfl, rfl, rfl⟩ | ⟨rfl, rfl, rfl⟩ | ⟨rfl, rfl, rfl⟩ | ⟨rfl, rfl, rfl⟩ | ⟨rfl, rfl, rfl⟩ |
    ⟨rfl, rfl, rfl⟩ | ⟨rfl, rfl, rfl⟩ | ⟨rfl, rfl, rfl⟩ | ⟨rfl, rfl, rfl⟩ <;> exact hposted _

end Sys2Proof.Machine
end

section
/-! SUPPORT. The heads of the two queues of posted commands (R225, R229, R237, R246 to R248): a false guard, a failed check, the commands that act at the
head. -/

namespace Sys2Proof.Machine

/-! ## The head of a queue -/

section
variable {s : State} {k : Nat} {t : Team} {c : PCmd} {rest : List PCmd} (ht : s.team? k = some t)
include ht

/-- A KCP whose guard was false leaves the queue with its count. -/
theorem bulkHead_guardFalse (hres : t.resident = true) (hg : c.guard = false) (hq : t.bulk = c :: rest) :
    bulkHead s k = s.setTeam k (recheckTeam (kfDec { t with bulk := rest } c.flag)) := by
  have hready : bulkHeadReady t = true := by simp [bulkHeadReady, hq, hres, hg]
  simp only [bulkHead, ht, hq, hready, hg, Bool.not_true, Bool.not_false, Bool.false_eq_true, if_false, if_true, modTeam_some ht]

/-- So does a matrix command. -/
theorem matrixHead_guardFalse (hres : t.resident = true) (hg : c.guard = false) (hq : t.matrix = c :: rest) :
    matrixHead s k = s.setTeam k (recheckTeam (kfDec { t with matrix := rest } c.flag)) := by
  have hready : matrixHeadReady s t = true := by simp [matrixHeadReady, hq, hres, hg]
  simp only [matrixHead, ht, hq, hready, hg, Bool.not_true, Bool.not_false, Bool.false_eq_true, if_false, if_true, modTeam_some ht]

section
variable (hq : t.matrix = c :: rest) (hg : c.guard = true) (hready : matrixHeadReady s t = true)
include hq hg hready

/-- A command whose check fails faults the stream (R246). -/
theorem matrixHead_fails {s1 : State} {code : BitVec 8} {d : DWord} (hcheck : headCheck s t c = .error (s1, code, d)) :
    matrixHead s k = failMatrix s1 k c rest code d := by
  simp only [matrixHead, ht, hq, hready, hg, hcheck, Bool.not_true, Bool.false_eq_true, if_false]

/-- One that passes checks which touch no memory is dispatched. -/
theorem matrixHead_dispatches (hcheck : headCheck s t c = .ok (s, [])) : matrixHead s k = dispatch s k t { c with held := [] } rest := by
  simp only [matrixHead, ht, hq, hready, hg, hcheck, Bool.not_true, Bool.false_eq_true, if_false, Option.getD_some]

end

end

/-! ## Checks and dispatch of the configuration commands (R242, R243, R254, R257) -/

section
variable {s : State} {t : Team} {c : PCmd} {a : Args}

theorem headCheck_macq_held (hop : c.op = .macq a) (hne : t.tiles ≠ []) :
    headCheck s t c = .error (s, 0x18, BitVec.ofNat 64 (accOf a)) := by
  have hsome : (!t.tiles.isEmpty) = true := by simpa using hne
  simp only [headCheck, hop, hsome, if_true]
  rfl

theorem headCheck_mscl (hop : c.op = .mscl a) : headCheck s t c = .ok (s, []) := by
  simp only [headCheck, hop]

theorem headCheck_mrel (hop : c.op = .mrel a) (hheld : ∀ j ∈ cmdTiles c, tileHeld t j = true) : headCheck s t c = .ok (s, []) := by
  have hnone : ((cmdTiles c).find? fun j => !tileHeld t j) = none := List.find?_eq_none.2 fun j hj => by simp [hheld j hj]
  simp only [headCheck, hop, hnone]

theorem headCheck_mzero (hop : c.op = .mzero a) (hheld : tileHeld t (accOf a) = true) : headCheck s t c = .ok (s, []) := by
  simp only [headCheck, hop, hheld, if_true]

end

/-! ## A failed command (R225, R237, R246) -/

@[simp] theorem noteTeamFault_teams (s : State) (k : Nat) (code : BitVec 8) (d : DWord) : (noteTeamFault s k code d).teams = s.teams := by
  unfold noteTeamFault noteFault
  split
  · split
    · exact fillTlb_teams ..
    · rfl
  · rfl

/-- A failed command with nothing behind it and no flag stops the stream, with its record. -/
theorem failMatrix_last {s : State} {k : Nat} {t : Team} {c : PCmd} (ht : s.team? k = some t) (hf : c.flag = none)
    (hw : t.stream.wait = none) (code : BitVec 8) (d : DWord) : (failMatrix s k c [] code d).team? k = some (recheckTeam { t with
      matrix := [], stream := { t.stream with stopped := true, wait := none }, ufcmd := c.addr,
      ufpc := if t.stream.clause.due then t.stream.pc + 8 else t.stream.pc,
      ufault := t.ufault ++ [{ code := code, datum := d }] }) := by
  have hnext : nextPc t = if t.stream.clause.due then t.stream.pc + 8 else t.stream.pc := by simp only [nextPc, hw]
  have ht' : (noteTeamFault s k code d).team? k = some t := by rw [team?_of_teams (noteTeamFault_teams ..), ht]
  rw [failMatrix, team?_modTeam_same ht', ← hnext, hf]
  rfl

/-- A KWAIT or KBAR in its wait has issued: the next instruction follows it (log 14). -/
theorem nextPc_waiting {t : Team} {len : Nat}
    (hw : (∃ j n, t.stream.wait = some (.flag j n len)) ∨ ∃ b x, t.stream.wait = some (.barrier b x len))
    (hstop : t.stream.pc + BitVec.ofNat 64 len ≠ t.stream.clause.stop) : nextPc t = t.stream.pc + BitVec.ofNat 64 len := by
  rcases hw with ⟨j, n, hw⟩ | ⟨b, x, hw⟩ <;> simp only [nextPc, hw, hstop, if_false]

/-! ## Commands that wait at the head (R248, R255) -/

/-- The scale lines that an MMA reads, with the first that is poisoned (R255). -/
def scaleReads (s : State) (t : Team) (c : PCmd) (a : Args) : State × Option DWord :=
  (scalePlaces t c (modBits a.mod 5 3) (modBits a.mod 2 0)).foldl (fun p ea =>
    ((engineRead p.1 t (scaleCache t) c.held ea 1 1).1, p.2.or (engineRead p.1 t (scaleCache t) c.held ea 1 1).2.2)) (s, none)

section
variable {s : State} {k : Nat} {t : Team} {c : PCmd} {rest : List PCmd} {a : Args} (ht : s.team? k = some t) (hres : t.resident = true)
  (hq : t.matrix = c :: rest) (hck : c.checked = true)
include hq hck hres

theorem waitingMma_head (hop : c.op = .mma a) : waitingMma t = some (c, rest, a) := by
  simp only [waitingMma, hq, hop, hck, hres, Bool.and_self, if_true]

theorem waitingMstat_head (hop : c.op = .mstat a) : waitingMstat t = some (c, rest, a) := by
  simp only [waitingMstat, hq, hop, hck, hres, Bool.and_self, if_true]

include ht

theorem execScaleLinesPresent_head (hop : c.op = .mma a) : exec (.scaleLinesPresent k) s = .next
    ((scaleReads s t c a).2.elim (enterTable ((scaleReads s t c a).1.modTeam k fun t => { t with matrix := rest }) k c)
      fun ea => failMatrix (scaleReads s t c a).1 k c rest 0x22 ea) := by
  change execScaleLinesPresent k s = _
  simp only [execScaleLinesPresent, ht, waitingMma_head hres hq hck hop]
  change (match (scaleReads s t c a).2 with | some ea => _ | none => _) = _
  cases (scaleReads s t c a).2 <;> rfl

/-- An MSTAT without CLR writes the status word of its tile (R248, R258). -/
theorem mstatWrite_head (hop : c.op = .mstat a) (hclr : modBits a.mod 5 5 = 0) : exec (.mstatWrite k) s = .next (s.setTeam k (recheckTeam (kfDec
      (kwrite { t with matrix := rest } a.dst ((tileOf t (accOf a)).status.zeroExtend 64)) c.flag))) := by
  change execMstatWrite k s = _
  simp only [execMstatWrite, ht, waitingMstat_head hres hq hck hop, hclr, Nat.zero_ne_one, if_false]
  rfl

end

end Sys2Proof.Machine
end

section
/-! SUPPORT. The reservation table (R256, R261): which entry a unit is granted, when a command is granted as it enters, how an entry ages. -/

namespace Sys2Proof

namespace AMap

/-- What was listed still is, but for the value that the key had. -/
theorem mem_set_of_mem {α : Type} {m : AMap α} {p : Nat × α} (h : p ∈ m) (k : Nat) (x : α) :
    p ∈ set m k x ∨ (p.1 = k ∧ find m k = some p.2) := by
  induction m with
  | nil => cases h
  | cons q r ih =>
    obtain ⟨j, y⟩ := q
    rw [set, find]
    split_ifs with hlt hne heq
    · exact .inl (List.mem_cons_of_mem _ h)
    · exact .inl (List.mem_cons_of_mem _ h)
    · rcases List.mem_cons.1 h with rfl | h
      · exact .inr ⟨heq.symm, rfl⟩
      · exact .inl (List.mem_cons_of_mem _ h)
    · omega
    · omega
    · rcases List.mem_cons.1 h with rfl | h
      · exact .inl List.mem_cons_self
      · exact (ih h).imp_left (List.mem_cons_of_mem _)

theorem mem_set_self {α : Type} (m : AMap α) (k : Nat) (x : α) : (k, x) ∈ set m k x :=
  mem_of_find (find_set_same m k x)

/-- A choice that takes nothing of a map takes from the changed one what it takes of the new value. -/
theorem filterMap_set {α β : Type} {m : AMap α} {f : Nat × α → Option β} (h : ∀ p ∈ m, f p = none) (k : Nat) (x : α) :
    (set m k x).filterMap f = (f (k, x)).toList := by
  induction m with
  | nil => cases hf : f (k, x) <;> simp [set, hf]
  | cons q r ih =>
    have hq := h q List.mem_cons_self
    have hr : ∀ p ∈ r, f p = none := fun p hp => h p (List.mem_cons_of_mem _ hp)
    have hnil : r.filterMap f = [] := List.filterMap_eq_nil_iff.2 hr
    obtain ⟨j, y⟩ := q
    rw [set]
    split_ifs
    · cases hf : f (k, x) <;> simp [hf, hq, hnil]
    · cases hf : f (k, x) <;> simp [hf, hnil]
    · rw [List.filterMap_cons_none hq, ih hr]

end AMap

namespace Machine

/-! ## The soonest of some teams (R256) -/

/-- The order of R256 looks at the cycle first. -/
theorem le_of_sooner {x b : Nat × Nat × Team} (h : sooner x b = true) : x.1 ≤ b.1 := by
  by_contra hlt
  have hne : ¬x.1 = b.1 := by omega
  simp [sooner, List.lex, hne] at h
  omega

theorem le_of_not_sooner {x b : Nat × Nat × Team} (h : sooner x b = false) : b.1 ≤ x.1 := by
  by_contra hlt
  rw [Nat.not_le] at hlt
  simp [sooner, List.lex, hlt] at h

/-- The one kept of two that come after each other. -/
def soonerOf (best : Option (Nat × Nat × Team)) (x : Nat × Nat × Team) : Option (Nat × Nat × Team) :=
  match best with
  | none => some x
  | some b => if sooner x b then some x else some b

theorem soonerOf_some (best : Option (Nat × Nat × Team)) (x : Nat × Nat × Team) : ∃ y, soonerOf best x = some y ∧ (y = x ∨ best = some y) ∧
    y.1 ≤ x.1 ∧ ∀ b, best = some b → y.1 ≤ b.1 := by
  cases best with
  | none => exact ⟨x, rfl, .inl rfl, Nat.le_refl _, fun _ hb => nomatch hb⟩
  | some b =>
    cases hs : sooner x b
    · exact ⟨b, by simp [soonerOf, hs], .inr rfl, le_of_not_sooner hs, fun _ hb => Option.some.inj hb ▸ Nat.le_refl _⟩
    · exact ⟨x, by simp [soonerOf, hs], .inl rfl, Nat.le_refl _, fun _ hb => Option.some.inj hb ▸ le_of_sooner hs⟩

/-- The soonest is one of those compared, and none of them has an earlier cycle. -/
theorem foldl_soonerOf (xs : List (Nat × Nat × Team)) (best : Option (Nat × Nat × Team)) {r : Nat × Nat × Team}
    (h : xs.foldl soonerOf best = some r) : (r ∈ xs ∨ best = some r) ∧ (∀ x ∈ xs, r.1 ≤ x.1) ∧ ∀ b, best = some b → r.1 ≤ b.1 := by
  induction xs generalizing best with
  | nil => exact ⟨.inr h, fun _ hx => absurd hx List.not_mem_nil, fun _ hb => Option.some.inj (h.symm.trans hb) ▸ Nat.le_refl _⟩
  | cons x xs ih =>
    obtain ⟨y, hy, hfrom, hyx, hyb⟩ := soonerOf_some best x
    rw [List.foldl_cons, hy] at h
    obtain ⟨hmem, hall, hbest⟩ := ih _ h
    have hry := hbest y rfl
    refine ⟨?_, fun z hz => ?_, fun b hb => hry.trans (hyb b hb)⟩
    · rcases hmem with hmem | hmem
      · exact .inl (List.mem_cons_of_mem _ hmem)
      · obtain rfl : y = r := Option.some.inj hmem
        exact hfrom.imp_left fun h => List.mem_cons.2 (.inl h)
    · rcases List.mem_cons.1 hz with rfl | hz
      · exact hry.trans hyx
      · exact hall z hz

theorem soonest_some {xs : List (Nat × Nat × Team)} {k : Nat} {t : Team} (h : soonest xs = some (k, t)) :
    ∃ n, (n, k, t) ∈ xs ∧ ∀ x ∈ xs, n ≤ x.1 := by
  obtain ⟨⟨n, p⟩, hr, hp⟩ := Option.map_eq_some_iff.1 h
  dsimp only at hp
  subst hp
  obtain ⟨hmem, hall, -⟩ := foldl_soonerOf xs none hr
  exact ⟨n, hmem.resolve_right (fun h => nomatch h), hall⟩

/-! ## The next entry of a unit (R261) -/

/-- A team's entry for a unit, with the team. -/
def entryFor (u : UnitKind) (p : Nat × Team) : Option (Nat × Team × Entry) :=
  (p.2.entry.filter fun e => unitOf e.cmd == some u).map fun e => (p.1, p.2, e)

theorem entryFor_some {u : UnitKind} {p : Nat × Team} {e : Entry} (he : p.2.entry = some e) (hu : unitOf e.cmd = some u) :
    entryFor u p = some (p.1, p.2, e) := by
  simp [entryFor, he, hu]

theorem entryFor_eq_some {u : UnitKind} {p : Nat × Team} {x : Nat × Team × Entry} (h : entryFor u p = some x) :
    x.2.1.entry = some x.2.2 := by
  obtain ⟨e, he, rfl⟩ := Option.map_eq_some_iff.1 h
  exact (Option.filter_eq_some_iff.1 he).1

theorem entryFor_eq_none {u : UnitKind} {p : Nat × Team} (h : ∀ e, p.2.entry = some e → unitOf e.cmd ≠ some u) : entryFor u p = none := by
  have hnone : p.2.entry.filter (fun e => unitOf e.cmd == some u) = none := Option.filter_eq_none_iff.2 fun e he => by simpa using h e he
  rw [entryFor, hnone, Option.map_none]

/-- A unit of a cluster runs a command of some team. -/
def unitBusy (s : State) (cl : Nat) (u : UnitKind) : Bool := (teamsIn s cl).any fun p => p.2.granted.any fun g => g.1 == u

/-- The entries of a cluster for a unit. -/
def entriesFor (s : State) (cl : Nat) (u : UnitKind) : List (Nat × Team × Entry) := (teamsIn s cl).filterMap (entryFor u)

/-- The highest priority among some entries. -/
def topPrio (s : State) (es : List (Nat × Team × Entry)) : Nat := (es.map fun x => matrixPrio s.cycle x.2.1 x.2.2).foldl max 0

/-- The soonest of the entries with the highest priority. -/
def firstEntry (s : State) (es : List (Nat × Team × Entry)) : Option (Nat × Team) :=
  soonest ((es.filter fun x => matrixPrio s.cycle x.2.1 x.2.2 == topPrio s es).map fun x => (x.2.2.since, x.1, x.2.1))

theorem unitBusy_eq_false_iff {s : State} {cl : Nat} {u : UnitKind} :
    unitBusy s cl u = false ↔ ∀ p ∈ teamsIn s cl, ∀ g ∈ p.2.granted, g.1 ≠ u := by
  simp only [unitBusy, List.any_eq_false, List.any_eq_true, beq_iff_eq, not_exists, not_and, ne_eq]

theorem nextEntry_busy {s : State} {cl : Nat} {u : UnitKind} (h : unitBusy s cl u = true) : nextEntry s cl u = none := if_pos h

theorem nextEntry_idle {s : State} {cl : Nat} {u : UnitKind} (h : unitBusy s cl u = false) :
    nextEntry s cl u = (firstEntry s (entriesFor s cl u)).bind fun p => p.2.entry.map fun e => (p.1, p.2, e) := by
  have hfree : ¬unitBusy s cl u = true := by simp [h]
  refine (if_neg hfree).trans ?_
  change (match firstEntry s (entriesFor s cl u) with | some (k, t) => _ | none => _) = _
  cases firstEntry s (entriesFor s cl u) <;> rfl

theorem le_foldl_max (xs : List Nat) (n : Nat) : n ≤ xs.foldl max n ∧ ∀ x ∈ xs, x ≤ xs.foldl max n := by
  induction xs generalizing n with
  | nil => exact ⟨Nat.le_refl _, nofun⟩
  | cons y ys ih =>
    obtain ⟨hn, hall⟩ := ih (max n y)
    refine ⟨(Nat.le_max_left ..).trans hn, fun x hx => ?_⟩
    rcases List.mem_cons.1 hx with rfl | hx
    · exact (Nat.le_max_right ..).trans hn
    · exact hall x hx

/-- No entry for the unit has a higher priority than the one granted, nor as high a one and an earlier cycle (R261). -/
theorem nextEntry_first {s : State} {cl k : Nat} {u : UnitKind} {t : Team} {e : Entry} (h : nextEntry s cl u = some (k, t, e))
    {p : Nat × Team} {e2 : Entry} (hp : p ∈ teamsIn s cl) (he2 : p.2.entry = some e2) (hu : unitOf e2.cmd = some u) :
    matrixPrio s.cycle p.2 e2 ≤ matrixPrio s.cycle t e ∧ (matrixPrio s.cycle p.2 e2 = matrixPrio s.cycle t e → e.since ≤ e2.since) := by
  have hfree : unitBusy s cl u = false := by
    by_contra hb
    rw [nextEntry_busy (by simpa using hb)] at h
    cases h
  rw [nextEntry_idle hfree] at h
  obtain ⟨⟨k', t'⟩, hsoon, hmap⟩ := Option.bind_eq_some_iff.1 h
  obtain ⟨e', he, heq⟩ := Option.map_eq_some_iff.1 hmap
  cases heq
  have hin : (p.1, p.2, e2) ∈ entriesFor s cl u := List.mem_filterMap.2 ⟨p, hp, entryFor_some he2 hu⟩
  have htop (x) (hx : x ∈ entriesFor s cl u) : matrixPrio s.cycle x.2.1 x.2.2 ≤ topPrio s (entriesFor s cl u) :=
    (le_foldl_max _ 0).2 _ (List.mem_map_of_mem hx)
  obtain ⟨n, hmem, hleast⟩ := soonest_some hsoon
  obtain ⟨x, hx, hxeq⟩ := List.mem_map.1 hmem
  obtain ⟨hxin, hxtop⟩ := List.mem_filter.1 hx
  obtain ⟨q, -, hq⟩ := List.mem_filterMap.1 hxin
  have hxe := entryFor_eq_some hq
  obtain ⟨xk, xt, xe⟩ := x
  cases hxeq
  dsimp only at hxe hxtop he
  obtain rfl : xe = e := Option.some.inj (hxe.symm.trans he)
  rw [beq_iff_eq.1 hxtop]
  exact ⟨htop _ hin, fun heq => hleast _ (List.mem_map.2 ⟨_, List.mem_filter.2 ⟨hin, beq_iff_eq.2 heq⟩, rfl⟩)⟩

theorem grantNext_some {s : State} {cl k : Nat} {u : UnitKind} {t : Team} {e : Entry} (h : nextEntry s cl u = some (k, t, e)) :
    grantNext s cl u = (recallKeys s (engineLines s t e.cmd)).setTeam k { t with entry := none, granted := t.granted ++ [(u, e.cmd)] } := by
  simp only [grantNext, h]

theorem grantNext_none {s : State} {cl : Nat} {u : UnitKind} (h : nextEntry s cl u = none) : grantNext s cl u = s := by
  simp only [grantNext, h]

/-- Where no entry names the unit, none is granted. -/
theorem nextEntry_noEntry {s : State} {cl : Nat} {u : UnitKind}
    (h : ∀ p ∈ teamsIn s cl, ∀ e, p.2.entry = some e → unitOf e.cmd ≠ some u) : nextEntry s cl u = none := by
  cases hb : unitBusy s cl u
  · have hnil : entriesFor s cl u = [] := List.filterMap_eq_nil_iff.2 fun p hp => entryFor_eq_none (h p hp)
    rw [nextEntry_idle hb, hnil]
    rfl
  · exact nextEntry_busy hb

/-- A free unit with one entry is granted it. -/
theorem nextEntry_only {s : State} {cl k : Nat} {u : UnitKind} {t : Team} {e : Entry} (hb : unitBusy s cl u = false)
    (hes : entriesFor s cl u = [(k, t, e)]) (he : t.entry = some e) : nextEntry s cl u = some (k, t, e) := by
  have hfirst : firstEntry s [(k, t, e)] = some (k, t) := by simp [firstEntry, topPrio, soonest]
  rw [nextEntry_idle hb, hes, hfirst, Option.bind_some, he, Option.map_some]

/-! ## A command that enters the table (R261) -/

/-- A command in its team's entry of the table. -/
def reserved (s : State) (t : Team) (c : PCmd) : Team := { t with entry := some { cmd := c, since := s.cycle } }

/-- A team counts in its cluster: resident, and not retired. -/
def countsIn (cl : Nat) (p : Nat × Team) : Bool := p.2.resident && !p.2.retired && clusterOf p.2.core == cl

section
variable {s : State} {k : Nat} {t : Team} {c : PCmd} {u : UnitKind} (ht : s.team? k = some t) (hres : t.resident = true)
  (hret : t.retired = false)
include hres hret

theorem countsIn_reserved : countsIn (clusterOf t.core) (k, reserved s t c) = true := by
  simp [countsIn, reserved, hres, hret]

include ht

theorem mem_teamsIn_self : (k, t) ∈ teamsIn s (clusterOf t.core) :=
  List.mem_filter.2 ⟨AMap.mem_of_find ht, by simp [hres, hret]⟩

/-- A reservation makes no unit idle or busy. -/
theorem unitBusy_reserved :
    unitBusy (s.setTeam k (reserved s t c)) (clusterOf t.core) u = unitBusy s (clusterOf t.core) u := by
  rw [Bool.eq_iff_iff]
  simp only [unitBusy, List.any_eq_true (l := teamsIn ..)]
  constructor
  · rintro ⟨p, hp, hg⟩
    obtain ⟨hmem, hin⟩ := List.mem_filter.1 hp
    rcases AMap.mem_set hmem with rfl | hmem
    · exact ⟨_, mem_teamsIn_self ht hres hret, hg⟩
    · exact ⟨p, List.mem_filter.2 ⟨hmem, hin⟩, hg⟩
  · rintro ⟨p, hp, hg⟩
    obtain ⟨hmem, hin⟩ := List.mem_filter.1 hp
    rcases AMap.mem_set_of_mem hmem k (reserved s t c) with hmem | ⟨-, hfind⟩
    · exact ⟨p, List.mem_filter.2 ⟨hmem, hin⟩, hg⟩
    · obtain rfl : t = p.2 := Option.some.inj (ht.symm.trans hfind)
      exact ⟨_, List.mem_filter.2 ⟨AMap.mem_set_self .., countsIn_reserved hres hret⟩, hg⟩

section
variable (hu : unitOf c = some u) (hnone : ∀ p ∈ teamsIn s (clusterOf t.core), ∀ e, p.2.entry = some e → unitOf e.cmd ≠ some u)
include hu hnone

omit ht in
/-- Where no other entry awaits the unit, the command's is the only one. -/
theorem entriesFor_reserved :
    entriesFor (s.setTeam k (reserved s t c)) (clusterOf t.core) u = [(k, reserved s t c, { cmd := c, since := s.cycle })] := by
  have hold : ∀ p ∈ s.teams, (if countsIn (clusterOf t.core) p then entryFor u p else none) = none := fun p hp => by
    split
    · exact entryFor_eq_none (hnone p (List.mem_filter.2 ⟨hp, ‹_›⟩))
    · rfl
  have hnew : (if countsIn (clusterOf t.core) (k, reserved s t c) then entryFor u (k, reserved s t c) else none) =
      some (k, reserved s t c, { cmd := c, since := s.cycle }) := by
    rw [if_pos (countsIn_reserved hres hret)]
    exact entryFor_some rfl hu
  have hset := AMap.filterMap_set hold k (reserved s t c)
  rw [hnew] at hset
  rw [entriesFor, teamsIn, List.filterMap_filter]
  exact hset

/-- With the unit idle the command is granted as it enters. -/
theorem enterTable_idle (hent : t.entry = none) (hidle : ∀ p ∈ teamsIn s (clusterOf t.core), ∀ g ∈ p.2.granted, g.1 ≠ u) :
    (enterTable s k c).team? k = some { t with granted := t.granted ++ [(u, c)] } := by
  have hfree := unitBusy_eq_false_iff.2 hidle
  have hnext : nextEntry (s.setTeam k (reserved s t c)) (clusterOf t.core) u = some (k, reserved s t c, { cmd := c, since := s.cycle }) :=
    nextEntry_only ((unitBusy_reserved ht hres hret).trans hfree) (entriesFor_reserved hres hret hu hnone) rfl
  have henter : enterTable s k c = grantNext (s.setTeam k (reserved s t c)) (clusterOf t.core) u := by
    simp only [enterTable, ht, hu, grantNext_none (nextEntry_noEntry hnone), modTeam_some ht]
    rfl
  rw [henter, grantNext_some hnext, team?_setTeam_same]
  simp only [reserved, ← hent]

/-- With the unit busy it waits in its entry. -/
theorem enterTable_busy (hbusy : ¬∀ p ∈ teamsIn s (clusterOf t.core), ∀ g ∈ p.2.granted, g.1 ≠ u) :
    enterTable s k c = s.setTeam k (reserved s t c) := by
  have hb : unitBusy s (clusterOf t.core) u = true := Bool.eq_true_of_not_eq_false (mt unitBusy_eq_false_iff.1 hbusy)
  simp only [enterTable, ht, hu, grantNext_none (nextEntry_noEntry hnone), modTeam_some ht]
  exact grantNext_none (nextEntry_busy ((unitBusy_reserved ht hres hret).trans hb))

end

end

/-! ## Priority and age (R261) -/

theorem matrixPrio_old {cycle : Nat} {e : Entry} (t : Team) (h : e.aged = true ∨ e.since + 4096 ≤ cycle) : matrixPrio cycle t e = 8 := if_pos h

theorem matrixPrio_young {cycle : Nat} {e : Entry} (t : Team) (ha : e.aged = false) (hc : cycle < e.since + 4096) :
    matrixPrio cycle t e = t.lrec.gprio := by
  have hyoung : ¬(e.aged = true ∨ e.since + 4096 ≤ cycle) := by
    rintro (h | h)
    · exact absurd (ha.symm.trans h) Bool.false_ne_true
    · omega
  exact if_neg hyoung

theorem reservationAging_ages {s : State} {k : Nat} {t : Team} {e : Entry} (ht : s.team? k = some t) (he : t.entry = some e)
    (hc : e.since + 4096 ≤ s.cycle) :
    exec (.reservationAging k) s = .next (s.setTeam k { t with entry := some { e with aged := true } }) := by
  change execReservationAging k s = _
  simp only [execReservationAging, modTeam_some ht, he, hc, if_true]
  rfl

end Machine

end Sys2Proof
end

section
/-! SUPPORT. What checks, walks and times leave of a state (R331, R420, R421, R426): the bytes of the memories, the poison, the copies in the caches and
the links that work. -/

namespace Sys2Proof.Machine

/-- `u` has the bytes of `s`: the same memories and poison, the same copies in the caches, and each place behind a link as near. -/
structure SameBytes (s u : State) : Prop where
  mem : u.mem = s.mem
  scratch : u.scratch = s.scratch
  poison : u.poison = s.poison
  l1 : u.l1 = s.l1
  cut : ∀ l, linkCut u l = linkCut s l

namespace SameBytes

theorem refl (s : State) : SameBytes s s := ⟨rfl, rfl, rfl, rfl, fun _ => rfl⟩

theorem trans {s u v : State} (h : SameBytes s u) (h' : SameBytes u v) : SameBytes s v where
  mem := h'.mem.trans h.mem
  scratch := h'.scratch.trans h.scratch
  poison := h'.poison.trans h.poison
  l1 := h'.l1.trans h.l1
  cut l := (h'.cut l).trans (h.cut l)

/-- The fields that hold bytes, poison, copies and links are as they were. -/
theorem of_fields {s u : State} (hm : u.mem = s.mem) (hs : u.scratch = s.scratch) (hp : u.poison = s.poison) (hl : u.l1 = s.l1)
    (hk : u.links = s.links) : SameBytes s u := ⟨hm, hs, hp, hl, linkCut_of_links hk⟩

theorem foldl {α : Type} {f : State → α → State} (hf : ∀ s a, SameBytes s (f s a)) (as : List α) (s : State) : SameBytes s (as.foldl f s) := by
  induction as generalizing s with
  | nil => exact refl s
  | cons a as ih => exact (hf s a).trans (ih _)

variable {s u : State} (h : SameBytes s u)
include h

theorem wf (hwf : Memory.wf s = true) : Memory.wf u = true := wf_of_eq hwf h.mem h.scratch

theorem leaseOf_eq (cache line : Nat) : leaseOf u cache line = leaseOf s cache line := by
  simp only [leaseOf, h.l1]

theorem locPoisoned_eq (l : Loc) (n : Nat) : locPoisoned u l n = locPoisoned s l n := by
  simp only [locPoisoned, h.cut, h.poison]

theorem readByte_phys (a : Nat) : readByte u (.phys a) = readByte s (.phys a) := by
  simp only [readByte, h.mem]

end SameBytes

/-! ## Times -/

theorem sameBytes_raiseCt (s : State) (core : Nat) (t : DWord) : SameBytes s (raiseCt s core t) := by
  unfold raiseCt
  split
  · exact .of_fields rfl rfl rfl rfl rfl
  · exact .refl s

theorem sameBytes_makeRoom (s : State) (line : Nat) : SameBytes s (makeRoom s line) := by
  unfold makeRoom
  dsimp only
  split
  · exact .refl s
  · split
    · exact .refl s
    · exact .of_fields rfl rfl rfl rfl rfl

theorem sameBytes_setTimes (s : State) (l : Loc) (t : Times) : SameBytes s (setTimes s l t) := by
  have hset (u : State) : SameBytes u { u with times := AMap.set u.times (lineKey l) t } := .of_fields rfl rfl rfl rfl rfl
  unfold setTimes
  dsimp only
  split
  · split
    · exact hset s
    · exact (sameBytes_makeRoom ..).trans (hset _)
  · exact hset s

/-- A link that an access passes works as before: its retries alone are forgotten (R478). -/
theorem sameBytes_passLink (s : State) (l : Loc) : SameBytes s (passLink s l) := by
  unfold passLink
  split
  · rename_i a
    split
    · split
      · rename_i x hx
        split
        · exact .refl s
        · refine ⟨rfl, rfl, rfl, rfl, fun m => ?_⟩
          cases m with
          | scr core off => rfl
          | phys b =>
            simp only [linkCut]
            by_cases hb : a / 2 ^ 44 % 16 = b / 2 ^ 44 % 16
            · rw [← hb, AMap.get_set_same, AMap.get, hx]
              rfl
            · rw [AMap.get_set_other _ _ _ hb]
      · exact .refl s
    · exact .refl s
  · exact .refl s

theorem sameBytes_touch (s : State) (core : Nat) (l : Loc) (w : Bool) : SameBytes s (touch s core l w) := by
  unfold touch
  dsimp only
  split <;> exact (sameBytes_passLink s l).trans ((sameBytes_setTimes ..).trans (sameBytes_raiseCt ..))

/-! ## Lines and granules -/

theorem sameBytes_recallLine (s : State) (l : Loc) : SameBytes s (recallLine s l) := by
  unfold recallLine
  split
  · exact .of_fields rfl rfl rfl rfl rfl
  · exact .refl s

theorem sameBytes_trimT1 (s : State) (slice keep : Nat) : SameBytes s (trimT1 s slice keep) := by
  unfold trimT1
  dsimp only
  split
  · exact .refl s
  · split
    · exact .of_fields rfl rfl rfl rfl rfl
    · exact .refl s

theorem sameBytes_comeUp (s : State) (g : Nat) : SameBytes s (comeUp s g) := by
  unfold comeUp
  refine SameBytes.trans ?_ (sameBytes_trimT1 ..)
  dsimp only
  generalize pinsIt s g = p
  split
  · exact .of_fields rfl rfl rfl rfl rfl
  · split
    · exact .of_fields rfl rfl rfl rfl rfl
    · exact .of_fields rfl rfl rfl rfl rfl

theorem sameBytes_reachGranule (s : State) (l : Loc) : SameBytes s (reachGranule s l) := by
  unfold reachGranule
  split
  · exact .refl s
  · rename_i n _
    have hstamped : SameBytes s { s with granUse := AMap.set s.granUse (n / 1024) s.cycle } := .of_fields rfl rfl rfl rfl rfl
    dsimp only
    split
    · exact hstamped.trans (sameBytes_comeUp ..)
    · exact hstamped

theorem sameBytes_readHome (s : State) (core : Nat) (l : Loc) : SameBytes s (readHome s core l) :=
  (sameBytes_reachGranule s l).trans ((sameBytes_recallLine ..).trans (sameBytes_touch ..))

/-! ## Translations -/

theorem sameBytes_fillTlb (s : State) (vd core va : Nat) : SameBytes s (fillTlb s vd core va) := by
  have hcached (u : State) (t : Trans) : SameBytes u (cacheTrans u core t) := .of_fields rfl rfl rfl rfl rfl
  have hwalked (as : List Nat) (u : State) : SameBytes u (as.foldl (fun s a => readHome s core (.phys a)) u) :=
    .foldl (fun s a => sameBytes_readHome s core (.phys a)) as u
  unfold fillTlb
  split
  · exact .refl s
  · split
    · exact hcached ..
    · dsimp only
      split
      · exact (hwalked ..).trans (hcached ..)
      · exact hwalked ..

theorem sameBytes_noteHome (s : State) (t : Trans) (l : Loc) : SameBytes s (noteHome s t l) := by
  unfold noteHome
  split
  · exact .refl s
  · dsimp only
    split
    · split
      · exact .refl s
      · exact .of_fields rfl rfl rfl rfl rfl
    · split
      · exact .of_fields rfl rfl rfl rfl rfl
      · exact .refl s

theorem sameBytes_recordGranule (s : State) (vd : Nat) (l : Loc) : SameBytes s (recordGranule s vd l) := by
  unfold recordGranule
  split
  · split
    · dsimp only
      split
      · exact .refl s
      · exact .of_fields rfl rfl rfl rfl rfl
    · exact .refl s
  · exact .refl s

theorem sameBytes_noteAccess (s : State) (t : Team) (ea : DWord) (l : Loc) : SameBytes s (noteAccess s t ea l) := by
  unfold noteAccess
  split
  · refine (sameBytes_fillTlb s t.vd t.core ea.toNat).trans ?_
    dsimp only
    split
    · exact (sameBytes_noteHome ..).trans (sameBytes_recordGranule ..)
    · exact sameBytes_recordGranule ..
  · exact .refl s

theorem sameBytes_noteHeld (s : State) (t : Team) (held : List Trans) (ea : DWord) (l : Loc) : SameBytes s (noteHeld s t held ea l) := by
  unfold noteHeld
  split
  · exact sameBytes_recordGranule ..
  · exact sameBytes_noteAccess ..

/-! ## A load -/

@[simp] theorem grantLease_links (s : State) (cache line : Nat) (x : Lease) : (grantLease s cache line x).links = s.links := by
  unfold grantLease
  dsimp only
  split
  · exact roomInL1_links ..
  · rfl

@[simp] theorem loadMiss_linkCut (s : State) (cache core line : Nat) (l m : Loc) : linkCut (loadMiss s cache core line l) m = linkCut s m := by
  rw [loadMiss, linkCut_of_links (grantLease_links ..)]
  exact (sameBytes_readHome s core l).cut m

/-- Through any cache, a read leaves the teams and the memories, and the links that work. -/
theorem loadVia_frame (s : State) (cache core : Nat) (l : Loc) (n : Nat) :
    (loadVia s cache core l n).1.teams = s.teams ∧ (loadVia s cache core l n).1.mem = s.mem ∧
    ∀ m, linkCut (loadVia s cache core l n).1 m = linkCut s m := by
  unfold loadVia
  dsimp only
  split
  · split
    · split
      · exact ⟨raiseCt_teams .., raiseCt_mem .., (sameBytes_raiseCt ..).cut⟩
      · exact ⟨loadMiss_teams .., loadMiss_mem .., loadMiss_linkCut s cache core _ _⟩
    · split
      · exact ⟨by simp, by simp, ((sameBytes_setTimes ..).trans (sameBytes_raiseCt ..)).cut⟩
      · exact ⟨loadMiss_teams .., loadMiss_mem .., loadMiss_linkCut s cache core _ _⟩
  · exact ⟨touch_teams .., touch_mem .., (sameBytes_touch ..).cut⟩

/-- A read whose line the cache does not hold leased gives the bytes of its place (R332). -/
theorem loadVia_unleased {s : State} {cache : Nat} {l : Loc} (h : ∀ line, cached l = some line → leaseOf s cache line = none) (core n : Nat) :
    (loadVia s cache core l n).2 = (readBytes s l n, locPoisoned s l n) := by
  unfold loadVia
  dsimp only
  split
  · rename_i line hline
    rw [h line hline]
    dsimp only
    split <;> rfl
  · rfl

/-- The line of a physical place of device memory (R327). -/
theorem cached_phys {p line : Nat} (h : cached (.phys p) = some line) : line = p / 64 := by
  simp only [cached, Option.ite_none_right_eq_some, Option.some.injEq] at h
  exact h.2.symm

theorem readBytes_eq_map (s : State) (l : Loc) (n : Nat) : readBytes s l n = (List.range n).map fun i => readByte s (locAdd l i) := by
  induction n generalizing l with
  | zero => rfl
  | succ n ih =>
    rw [readBytes, ih, List.range_succ_eq_map, List.map_cons, List.map_map]
    cases l <;> simp [locAdd, Function.comp_def, Nat.add_assoc, Nat.add_comm 1]

end Sys2Proof.Machine
end

section
/-! SUPPORT. What the matrix engine and the bulk copy read and write (R188, R196, R235, R236, R259, R341): the bytes, and what stays of the teams. -/

namespace Sys2Proof.Machine

/-! ## Reads of an engine -/

/-- One read of an engine, of `u` bytes: the state, the bytes so far, the first poisoned address. -/
def readUnit (t : Team) (cache : Nat) (held : List Trans) (ea : DWord) (u : Nat) (r : State × List Byte × Option DWord) (i : Nat) :
    State × List Byte × Option DWord :=
  match heldLoc r.1 t held (ea + BitVec.ofNat 64 (u * i)) ⟨true, false⟩ with
  | some l => ((loadVia r.1 cache t.core l u).1, r.2.1 ++ (loadVia r.1 cache t.core l u).2.1,
      r.2.2.or (if (loadVia r.1 cache t.core l u).2.2 then some (ea + BitVec.ofNat 64 (u * i)) else none))
  | none => (r.1, r.2.1 ++ List.replicate u 0, r.2.2)

theorem engineRead_eq_foldl (s : State) (t : Team) (cache : Nat) (held : List Trans) (ea : DWord) (n u : Nat) :
    engineRead s t cache held ea n u = (List.range (n / u)).foldl (readUnit t cache held ea u) (s, [], none) := rfl

/-- A read leaves the teams and the memory. -/
theorem readUnit_frame (t : Team) (cache : Nat) (held : List Trans) (ea : DWord) (u : Nat) (r : State × List Byte × Option DWord) (i : Nat) :
    (readUnit t cache held ea u r i).1.teams = r.1.teams ∧ (readUnit t cache held ea u r i).1.mem = r.1.mem := by
  unfold readUnit
  split
  · obtain ⟨hteams, hmem, -⟩ := loadVia_frame r.1 cache t.core ‹_› u
    exact ⟨hteams, hmem⟩
  · exact ⟨rfl, rfl⟩

theorem engineRead_frame (s : State) (t : Team) (cache : Nat) (held : List Trans) (ea : DWord) (n u : Nat) :
    (engineRead s t cache held ea n u).1.teams = s.teams ∧ (engineRead s t cache held ea n u).1.mem = s.mem := by
  have hfold (is : List Nat) (r : State × List Byte × Option DWord) : (is.foldl (readUnit t cache held ea u) r).1.teams = r.1.teams ∧
      (is.foldl (readUnit t cache held ea u) r).1.mem = r.1.mem := by
    induction is generalizing r with
    | nil => exact ⟨rfl, rfl⟩
    | cons i is ih =>
      obtain ⟨hteams, hmem⟩ := ih (readUnit t cache held ea u r i)
      obtain ⟨hteams', hmem'⟩ := readUnit_frame t cache held ea u r i
      exact ⟨hteams.trans hteams', hmem.trans hmem'⟩
  exact hfold _ (s, [], none)

/-- An address for which a command holds a translation (R196). -/
theorem heldLoc_held {s : State} {t : Team} {held : List Trans} {ea : DWord} {p : Nat} (hea : ea.toNat < 2 ^ 52)
    (h : (held.find? fun h => h.covers t.vd ea.toNat).map (fun h => h.pa ea.toNat) = some p) (w : Want) :
    heldLoc s t held ea w = some (.phys p) := by
  obtain ⟨x, hx, rfl⟩ := Option.map_eq_some_iff.1 h
  simp only [heldLoc, hea, if_true, hx]

/-- One read at a held address, of a line that the cache does not hold leased, gives the bytes of its place and its poison. -/
theorem engineRead_held {s : State} {t : Team} {cache u p : Nat} {held : List Trans} {ea : DWord} (hea : ea.toNat < 2 ^ 52) (hu : 0 < u)
    (h : (held.find? fun h => h.covers t.vd ea.toNat).map (fun h => h.pa ea.toNat) = some p) (hlease : leaseOf s cache (p / 64) = none) :
    (engineRead s t cache held ea u u).2 =
      ((List.range u).map (fun i => readByte s (.phys (p + i))), if locPoisoned s (.phys p) u = true then some ea else none) := by
  have hstart : ea + BitVec.ofNat 64 (u * 0) = ea := BitVec.add_zero ea
  have hload := loadVia_unleased (s := s) (cache := cache) (l := .phys p) (fun line hline => by rw [cached_phys hline, hlease]) t.core u
  have hone : engineRead s t cache held ea u u = readUnit t cache held ea u (s, [], none) 0 := by
    rw [engineRead_eq_foldl, Nat.div_self hu]
    rfl
  rw [hone]
  simp only [readUnit, hstart, heldLoc_held hea h, hload, List.nil_append, Option.none_or, readBytes_eq_map, locAdd]

/-! ## Reads of the window (R253) -/

/-- A generic address in the window (R167). -/
def windowEa (off : Nat) : DWord := (0x800 : BitVec 12) ++ BitVec.ofNat 52 off

theorem windowEa_add {off n : Nat} (h : off + n < 2 ^ 52) : (windowEa off + BitVec.ofNat 64 n).toNat = 0x800 * 2 ^ 52 + (off + n) := by
  have happend : (windowEa off).toNat = 0x800 * 2 ^ 52 + off := by
    rw [windowEa, BitVec.toNat_append, BitVec.toNat_ofNat, Nat.mod_eq_of_lt (a := off) (by omega), Nat.shiftLeft_eq,
      Nat.mul_comm, ← Nat.two_pow_add_eq_or_of_lt (by omega), Nat.mul_comm]
    rfl
  rw [BitVec.toNat_add, happend, BitVec.toNat_ofNat]
  omega

/-- A place of the window, whatever the command holds. -/
theorem heldLoc_window {s : State} {t : Team} {off n : Nat} (held : List Trans) (h : off + n + 1 ≤ t.lrec.scratch) (hs : t.lrec.scratch ≤ 2 ^ 19)
    (w : Want) : heldLoc s t held (windowEa off + BitVec.ofNat 64 n) w = some (winLoc t (off + n)) := by
  have hea := windowEa_add (off := off) (n := n) (by omega)
  have hfar : ¬(0x800 * 2 ^ 52 + (off + n) < 2 ^ 52) := by omega
  have hspace : (0x800 * 2 ^ 52 + (off + n)) / 2 ^ 52 = 0x800 := by omega
  have hlow : (0x800 * 2 ^ 52 + (off + n)) % 2 ^ 52 = off + n := by omega
  have hin : ¬(2 ^ 19 ≤ off + n ∨ t.lrec.scratch < off + n + 1) := by omega
  simp only [heldLoc, hea, hfar, if_false, resolveAs, hspace, hlow, hin, Nat.mod_one, beq_self_eq_true, Bool.not_true, Bool.false_eq_true]
  rfl

/-- One read of the window: the bytes of its place, and times alone changed. -/
theorem readUnit_window {t : Team} {off : Nat} (cache : Nat) (held : List Trans) (hs : t.lrec.scratch ≤ 2 ^ 19) {n : Nat}
    (h : off + 8 * n + 8 ≤ t.lrec.scratch) (r : State × List Byte × Option DWord) :
    (readUnit t cache held (windowEa off) 8 r n).1 = touch r.1 t.core (winLoc t (off + 8 * n)) false ∧
    (readUnit t cache held (windowEa off) 8 r n).2.1 = r.2.1 ++ (List.range 8).map fun i => readByte r.1 (winLoc t (off + (8 * n + i))) := by
  simp only [readUnit, heldLoc_window held (s := r.1) (show off + 8 * n + 1 ≤ t.lrec.scratch by omega) hs]
  refine ⟨rfl, ?_⟩
  change _ ++ readBytes r.1 (winLoc t (off + 8 * n)) 8 = _
  simp only [readBytes_eq_map, winLoc, locAdd, Nat.add_assoc]

/-- The window is read 8 bytes at a time, with nothing of memory, teams or scratchpads changed. -/
theorem readWindow {s : State} {t : Team} {off n : Nat} (cache : Nat) (held : List Trans) (hs : t.lrec.scratch ≤ 2 ^ 19)
    (h : off + 8 * n ≤ t.lrec.scratch) : let r := (List.range n).foldl (readUnit t cache held (windowEa off) 8) (s, [], none)
    r.1.teams = s.teams ∧ r.1.mem = s.mem ∧ r.1.scratch = s.scratch ∧
    r.2.1 = (List.range (8 * n)).map fun i => readByte s (winLoc t (off + i)) := by
  induction n with
  | zero => exact ⟨rfl, rfl, rfl, rfl⟩
  | succ n ih =>
    obtain ⟨hteams, hmem, hscratch, hbytes⟩ := ih (by omega)
    obtain ⟨hstate, hnew⟩ := readUnit_window (off := off) cache held hs (n := n) (by omega)
      ((List.range n).foldl (readUnit t cache held (windowEa off) 8) (s, [], none))
    have hsame (l : Loc) : readByte ((List.range n).foldl (readUnit t cache held (windowEa off) 8) (s, [], none)).1 l = readByte s l := by
      cases l <;> simp only [readByte, gladeAt_of_teams hteams, team?_of_teams hteams, hmem, hscratch]
    rw [List.range_succ, List.foldl_append, List.foldl_cons, List.foldl_nil]
    dsimp only
    rw [hstate, hnew, hbytes]
    refine ⟨(touch_teams ..).trans hteams, (touch_mem ..).trans hmem, (touch_scratch ..).trans hscratch, ?_⟩
    simp only [hsame, Nat.mul_succ, List.range_add, List.map_append, List.map_map, Function.comp_def]

/-- A run of window bytes, of which the window has all (R253). -/
theorem engineRead_window {s : State} {t : Team} {off n : Nat} (cache : Nat) (held : List Trans) (hs : t.lrec.scratch ≤ 2 ^ 19)
    (h8 : n % 8 = 0) (h : off + n ≤ t.lrec.scratch) : let r := engineRead s t cache held (windowEa off) n 8
    r.1.teams = s.teams ∧ r.1.mem = s.mem ∧ r.1.scratch = s.scratch ∧
    r.2.1 = (List.range n).map fun i => readByte s (winLoc t (off + i)) := by
  have hn : 8 * (n / 8) = n := by omega
  have hread := readWindow (s := s) cache held hs (off := off) (n := n / 8) (by omega)
  rwa [hn] at hread

/-! ## Writes of an engine -/

/-- Teams keep all but what their streams await. -/
def OnlyStreams (s u : State) : Prop := ∀ k t, s.team? k = some t → ∃ st, u.team? k = some { t with stream := st }

theorem onlyStreams_of_teams {s u : State} (h : u.teams = s.teams) : OnlyStreams s u :=
  fun k t ht => ⟨t.stream, by rw [team?_of_teams h, ht]⟩

theorem OnlyStreams.trans {s u v : State} (h : OnlyStreams s u) (h' : OnlyStreams u v) : OnlyStreams s v := fun k t ht => by
  obtain ⟨st, hu⟩ := h k t ht
  obtain ⟨st', hv⟩ := h' k _ hu
  exact ⟨st', hv⟩

theorem onlyStreams_modTeam (s : State) (k : Nat) (f : Stream → Stream) : OnlyStreams s (s.modTeam k fun t => { t with stream := f t.stream }) :=
  fun j t ht => by
    by_cases hj : k = j
    · subst hj
      exact ⟨f t.stream, team?_modTeam_same ht _⟩
    · exact ⟨t.stream, by rw [team?_modTeam_other s _ hj, ht]⟩

@[simp] theorem mend_teams (s : State) (op : Nat × Nat) (l : Loc) (n : Nat) : (mend s op l n).teams = s.teams := by
  unfold mend
  generalize List.range _ = is
  induction is generalizing s with
  | nil => rfl
  | cons i is ih =>
    rw [List.foldl_cons, ih]
    simp only [apply_ite State.teams, ite_self]

@[simp] theorem mend_links (s : State) (op : Nat × Nat) (l : Loc) (n : Nat) : (mend s op l n).links = s.links := by
  unfold mend
  generalize List.range _ = is
  induction is generalizing s with
  | nil => rfl
  | cons i is ih =>
    rw [List.foldl_cons, ih]
    simp only [apply_ite State.links, ite_self]

@[simp] theorem writeByte_links (s : State) (l : Loc) (b : Byte) : (writeByte s l b).links = s.links := by
  unfold writeByte
  split
  · rfl
  · split <;> rfl

@[simp] theorem writeBytes_links (s : State) (l : Loc) (bs : List Byte) : (writeBytes s l bs).links = s.links := by
  induction bs generalizing s l with
  | nil => rfl
  | cons b r ih => rw [writeBytes, ih, writeByte_links]

/-- A store leaves each place behind a link as near as it was. -/
theorem store_linkCut (s : State) (core : Nat) (l : Loc) (bs : List Byte) (bad : Bool) (m : Loc) :
    linkCut (store s core l bs bad) m = linkCut s m := by
  have hplaced : linkCut (takeLine (reachGranule s l) core l) m = linkCut s m := linkCut_of_links (by simp) m
  rw [store, putData]
  split
  · exact hplaced
  · exact ((sameBytes_touch ..).cut m).trans (linkCut_of_links (by simp) m)

/-- What a drain, a swap or a KCP stores over a link that works. -/
def stored (s : State) (op : Nat × Nat) (t : Team) (l : Loc) (bs : List Byte) (bad : Bool) : State :=
  if bad then store s t.core l bs bad else mend (store s t.core l bs bad) op l bs.length

theorem stored_frame (s : State) (op : Nat × Nat) (t : Team) (l : Loc) (bs : List Byte) (bad : Bool) :
    (stored s op t l bs bad).teams = s.teams ∧ (stored s op t l bs bad).mem = (store s t.core l bs bad).mem ∧
    (stored s op t l bs bad).scratch = (store s t.core l bs bad).scratch ∧ ∀ m, linkCut (stored s op t l bs bad) m = linkCut s m := by
  unfold stored
  split
  · exact ⟨store_teams .., rfl, rfl, store_linkCut s t.core l bs bad⟩
  · exact ⟨(mend_teams ..).trans (store_teams ..), mend_mem .., mend_scratch ..,
      fun m => (linkCut_of_links (mend_links ..) m).trans (store_linkCut ..)⟩

/-- A write to a system page takes a number, and the team's stream awaits it; nothing else is changed by that (R341, R342). -/
theorem engineStore_awaits {s : State} {l : Loc} (hcut : linkCut s l = false) (op : Nat × Nat) (t : Team) (va : DWord) (bs : List Byte) (bad : Bool) :
    OnlyStreams (stored s op t l bs bad) (engineStore s op t va l bs bad) ∧
    (engineStore s op t va l bs bad).mem = (stored s op t l bs bad).mem ∧
    (engineStore s op t va l bs bad).scratch = (stored s op t l bs bad).scratch ∧
    (engineStore s op t va l bs bad).links = (stored s op t l bs bad).links := by
  unfold engineStore
  rw [hcut, if_neg Bool.false_ne_true]
  generalize hu : stored s op t l bs bad = u
  rw [stored] at hu
  dsimp only
  rw [hu]
  split
  · exact ⟨onlyStreams_of_teams rfl, rfl, rfl, rfl⟩
  · split
    · rename_i q _
      exact ⟨(onlyStreams_of_teams (takeSeq_teams ..)).trans (onlyStreams_modTeam _ q.1 fun st => { st with unacked := st.unacked ++ [_] }),
        modTeam_mem .., modTeam_scratch .., modTeam_links ..⟩
    · exact ⟨onlyStreams_of_teams rfl, rfl, rfl, rfl⟩

theorem onlyStreams_engineStore (s : State) (op : Nat × Nat) (t : Team) (va : DWord) (l : Loc) (bs : List Byte) (bad : Bool) :
    OnlyStreams s (engineStore s op t va l bs bad) := by
  cases hcut : linkCut s l
  · exact (onlyStreams_of_teams (stored_frame ..).1).trans (engineStore_awaits hcut op t va bs bad).1
  · rw [engineStore, hcut]
    exact onlyStreams_of_teams rfl

/-- A write of an engine to a physical place over a link that works: its bytes, and no others. -/
theorem engineStore_phys {s : State} {q : Nat} (hcut : linkCut s (.phys q) = false) (op : Nat × Nat) (t : Team) (va : DWord) (bs : List Byte)
    (bad : Bool) : (engineStore s op t va (.phys q) bs bad).mem = cellsSet s.mem q bs ∧
    (engineStore s op t va (.phys q) bs bad).scratch = s.scratch ∧
    ∀ m, linkCut (engineStore s op t va (.phys q) bs bad) m = linkCut s m := by
  obtain ⟨-, hmem, hscratch, hlinks⟩ := engineStore_awaits hcut op t va bs bad
  obtain ⟨-, hmem', hscratch', hcuts⟩ := stored_frame s op t (.phys q) bs bad
  obtain ⟨hmem'', hscratch''⟩ := store_memories hcut t.core bs bad
  rw [hmem, hmem', hmem'', hscratch, hscratch', hscratch'', writeBytes_phys]
  exact ⟨by simp, by simp, fun m => (linkCut_of_links hlinks m).trans (hcuts m)⟩

/-- The bytes of memory after a run of them is written. -/
theorem readByte_of_cellsSet {s u : State} (hwf : Memory.wf s = true) {q : Nat} {bs : List Byte} (hmem : u.mem = cellsSet s.mem q bs) (a : Nat) :
    readByte u (.phys a) = if q ≤ a ∧ a < q + bs.length then bs.getD (a - q) 0 else readByte s (.phys a) := by
  simp only [readByte, hmem, cellGet_cellsSet ((wf_iff s).1 hwf).1]

/-! ## A run of units (R259, R260) -/

/-- One unit of 16 bytes of an engine's run. -/
def writeUnit (key : Nat) (t : Team) (c : PCmd) (ea : DWord) (bs : List Byte) (s : State) (i : Nat) : State :=
  match heldLoc s t c.held (ea + BitVec.ofNat 64 (16 * i)) ⟨false, true⟩ with
  | some l => engineStore s (key, c.no) t (ea + BitVec.ofNat 64 (16 * i)) l ((bs.drop (16 * i)).take 16) false
  | none => s

theorem engineWrite_eq_foldl (s : State) (key : Nat) (t : Team) (c : PCmd) (ea : DWord) (bs : List Byte) :
    engineWrite s key t c ea bs = (List.range ((bs.length + 15) / 16)).foldl (writeUnit key t c ea bs) s := rfl

theorem onlyStreams_engineWrite (s : State) (key : Nat) (t : Team) (c : PCmd) (ea : DWord) (bs : List Byte) :
    OnlyStreams s (engineWrite s key t c ea bs) := by
  rw [engineWrite_eq_foldl]
  generalize List.range _ = is
  induction is generalizing s with
  | nil => exact onlyStreams_of_teams rfl
  | cons i is ih =>
    refine OnlyStreams.trans ?_ (ih _)
    unfold writeUnit
    split
    · exact onlyStreams_engineStore s _ t _ _ _ _
    · exact onlyStreams_of_teams rfl

section
variable {s : State} {t : Team} {c : PCmd} {ea : DWord} {bs : List Byte} {p : Nat} (hwf : Memory.wf s = true)
  (hheld : ∀ i, i < bs.length / 16 → (ea + BitVec.ofNat 64 (16 * i)).toNat < 2 ^ 52 ∧
    (c.held.find? fun h => h.covers t.vd (ea + BitVec.ofNat 64 (16 * i)).toNat).map (fun h => h.pa (ea + BitVec.ofNat 64 (16 * i)).toNat) =
      some (p + 16 * i))
  (hcut : ∀ i, i < bs.length → linkCut s (.phys (p + i)) = false)
include hwf hheld hcut

/-- The first `n` units write their bytes in order, and leave the links as they work. -/
theorem writeUnits_phys (key : Nat) {n : Nat} (hn : 16 * n ≤ bs.length) :
    let u := (List.range n).foldl (writeUnit key t c ea bs) s
    Memory.wf u = true ∧ (∀ m, linkCut u m = linkCut s m) ∧
    ∀ a, readByte u (.phys a) = if p ≤ a ∧ a < p + 16 * n then bs.getD (a - p) 0 else readByte s (.phys a) := by
  induction n with
  | zero => exact ⟨hwf, fun _ => rfl, fun a => (if_neg (by omega)).symm⟩
  | succ n ih =>
    obtain ⟨hwf', hcut', hbytes⟩ := ih (by omega)
    obtain ⟨hea, hplace⟩ := hheld n (by omega)
    rw [List.range_succ, List.foldl_append, List.foldl_cons, List.foldl_nil]
    generalize (List.range n).foldl (writeUnit key t c ea bs) s = u at hwf' hcut' hbytes ⊢
    have hunit : writeUnit key t c ea bs u n = engineStore u (key, c.no) t (ea + BitVec.ofNat 64 (16 * n)) (.phys (p + 16 * n))
        ((bs.drop (16 * n)).take 16) false := by
      simp only [writeUnit, heldLoc_held hea hplace]
    have hhere : linkCut u (.phys (p + 16 * n)) = false := by rw [hcut', hcut _ (by omega)]
    obtain ⟨hmem, hscratch, hcuts⟩ := engineStore_phys hhere (key, c.no) t (ea + BitVec.ofNat 64 (16 * n)) ((bs.drop (16 * n)).take 16) false
    rw [hunit]
    refine ⟨?_, fun m => (hcuts m).trans (hcut' m), fun a => ?_⟩
    · rw [wf_iff] at hwf' ⊢
      rw [hmem, hscratch]
      exact ⟨cellsSet_wf hwf'.1 _ _, hwf'.2⟩
    · have hlen : ((bs.drop (16 * n)).take 16).length = 16 := by
        rw [List.length_take, List.length_drop]
        omega
      rw [readByte_of_cellsSet hwf' hmem, hbytes, hlen]
      by_cases hin : p + 16 * n ≤ a ∧ a < p + 16 * n + 16
      · have hall : p ≤ a ∧ a < p + 16 * (n + 1) := by omega
        have hoff : 16 * n + (a - (p + 16 * n)) = a - p := by omega
        have hlt : a - (p + 16 * n) < 16 := by omega
        rw [if_pos hin, if_pos hall, List.getD_eq_getElem?_getD, List.getD_eq_getElem?_getD, List.getElem?_take_of_lt hlt,
          List.getElem?_drop, hoff]
      · rw [if_neg hin]
        have hsame : (p ≤ a ∧ a < p + 16 * n) ↔ (p ≤ a ∧ a < p + 16 * (n + 1)) := by omega
        simp only [hsame]

/-- A run whose units all have their place writes its bytes, and no others (R259, R260). -/
theorem engineWrite_held (key : Nat) (h16 : bs.length % 16 = 0) (a : Nat) : readByte (engineWrite s key t c ea bs) (.phys a) =
    if p ≤ a ∧ a < p + bs.length then bs.getD (a - p) 0 else readByte s (.phys a) := by
  have hn : (bs.length + 15) / 16 = bs.length / 16 := by omega
  have hall : 16 * (bs.length / 16) = bs.length := by omega
  obtain ⟨-, -, hbytes⟩ := writeUnits_phys hwf hheld hcut key (n := bs.length / 16) (by omega)
  rw [engineWrite_eq_foldl, hn, hbytes, hall]

end

/-! ## A unit of a KCP (R235, R236) -/

/-- A unit without a glade copies its 16 bytes, where its source is neither leased nor poisoned and no link is down. -/
theorem bulkUnit_phys {s : State} {t : Team} {c : PCmd} {src dst : DWord} {p q : Nat} (key : Nat) (hwf : Memory.wf s = true)
    (hglade : bulkGlade c = none) (hsrc : heldLoc s t c.held src ⟨true, false⟩ = some (.phys p))
    (hdst : heldLoc s t c.held dst ⟨false, true⟩ = some (.phys q)) (hlease : leaseOf s t.core (p / 64) = none)
    (hpoison : locPoisoned s (.phys p) 16 = false) (hcut : linkCut s (.phys q) = false) (a : Nat) :
    readByte (bulkUnit s key t c src dst) (.phys a) =
      if q ≤ a ∧ a < q + 16 then readByte s (.phys (p + (a - q))) else readByte s (.phys a) := by
  have hnoted := (sameBytes_noteHeld s t c.held src (.phys p)).trans (sameBytes_noteHeld _ t c.held dst (.phys q))
  generalize hu : noteHeld (noteHeld s t c.held src (.phys p)) t c.held dst (.phys q) = u at hnoted
  have hread : (load u t.core (.phys p) 16).2 = (readBytes u (.phys p) 16, false) := by
    rw [load_unleased fun line hline => by rw [cached_phys hline, hnoted.leaseOf_eq, hlease], hnoted.locPoisoned_eq, hpoison]
  have hlater := sameBytes_raiseCt (load u t.core (.phys p) 16).1 t.core (ctOf (load u t.core (.phys p) 16).1 t.core + 1)
  obtain ⟨-, -, hcuts⟩ := loadVia_frame u t.core t.core (.phys p) 16
  have hcut' : linkCut (laterCt (load u t.core (.phys p) 16).1 t.core) (.phys q) = false := by
    rw [laterCt, hlater.cut, load, hcuts, hnoted.cut, hcut]
  have hunit : bulkUnit s key t c src dst =
      engineStore (laterCt (load u t.core (.phys p) 16).1 t.core) (key, c.no) t dst (.phys q) (readBytes u (.phys p) 16) false := by
    simp only [bulkUnit, hsrc, hdst, hu, hread, hglade, Bool.false_eq_true, if_false]
  obtain ⟨hmem, -, -⟩ := engineStore_phys hcut' (key, c.no) t dst (readBytes u (.phys p) 16) false
  have hstate : (laterCt (load u t.core (.phys p) 16).1 t.core).mem = s.mem := by rw [laterCt, hlater.mem, load_mem, hnoted.mem]
  rw [hstate] at hmem
  have hlen : (readBytes u (.phys p) 16).length = 16 := by rw [readBytes_eq_map, List.length_map, List.length_range]
  rw [hunit, readByte_of_cellsSet hwf hmem, hlen]
  by_cases hin : q ≤ a ∧ a < q + 16
  · have hlt : a - q < 16 := by omega
    rw [if_pos hin, if_pos hin, readBytes_eq_map, List.getD_eq_getElem?_getD, List.getElem?_map, List.getElem?_range hlt]
    exact hnoted.readByte_phys _
  · rw [if_neg hin, if_neg hin]

end Sys2Proof.Machine
end

section
/-! SUPPORT. One element of a pass of an MMA (R252, R266): NaN operands and scales, and the examples. -/

namespace Sys2Proof.Machine

/-! ## Sums that are no number -/

/-- An exact result that is no number: invalid, or NaN (R142). -/
def noNumber : Option FV → Bool
  | none | some (.nan _) => true
  | _ => false

/-- The sum of two exact results. -/
def sumV (x y : Option FV) : Option FV := x.bind fun a => y.bind fun b => addV 0 a b

theorem noNumber_mulV_left (s : Bool) (y : FV) : noNumber (mulV (.nan s) y) = true := rfl

theorem noNumber_mulV_right (x : FV) (s : Bool) : noNumber (mulV x (.nan s)) = true := by
  cases x <;> rfl

theorem noNumber_addV_right (x : FV) (s : Bool) : noNumber (addV 0 x (.nan s)) = true := by
  cases x <;> rfl

theorem noNumber_sumV_left {x : Option FV} (h : noNumber x = true) (y : Option FV) : noNumber (sumV x y) = true := by
  match x, h with
  | none, _ => rfl
  | some (.nan s), _ => cases y <;> rfl

theorem noNumber_sumV_right {y : Option FV} (h : noNumber y = true) (x : Option FV) : noNumber (sumV x y) = true := by
  match y, h with
  | none, _ => cases x <;> rfl
  | some (.nan s), _ =>
    cases x with
    | none => rfl
    | some a => exact noNumber_addV_right a s

/-- One term that is no number makes the sum none. -/
theorem noNumber_foldl {acc : Option FV} {qs : List (Option FV)} (h : noNumber acc = true ∨ ∃ q ∈ qs, noNumber q = true) :
    noNumber (qs.foldl sumV acc) = true := by
  induction qs generalizing acc with
  | nil => exact h.resolve_right fun ⟨_, hq, _⟩ => absurd hq List.not_mem_nil
  | cons q qs ih =>
    refine ih ?_
    rcases h with h | ⟨p, hp, h⟩
    · exact .inl (noNumber_sumV_left h q)
    · rcases List.mem_cons.1 hp with rfl | hp
      · exact .inl (noNumber_sumV_right h acc)
      · exact .inr ⟨p, hp, h⟩

/-- A product that is no number makes the chunk none (R252). -/
theorem noNumber_chunkSum {xs ys : List FV} {p : FV × FV} (hp : p ∈ xs.zip ys) (h : noNumber (mulV p.1 p.2) = true) :
    noNumber (chunkSum xs ys) = true := by
  have hq : mulV p.1 p.2 ∈ (xs.zip ys).map fun p => mulV p.1 p.2 := List.mem_map.2 ⟨p, hp, rfl⟩
  unfold chunkSum
  generalize ((xs.zip ys).map fun p => mulV p.1 p.2) = qs at hq
  cases qs with
  | nil => exact absurd hq List.not_mem_nil
  | cons q qs =>
    refine noNumber_foldl (acc := q) ?_
    rcases List.mem_cons.1 hq with rfl | hq
    · exact .inl h
    · exact .inr ⟨_, hq, h⟩

/-- A NaN among the operands of a chunk makes it no number. -/
theorem noNumber_chunkSum_of_nan {xs ys : List FV} (hlen : xs.length = ys.length) {b : Bool} (h : .nan b ∈ xs ∨ .nan b ∈ ys) :
    noNumber (chunkSum xs ys) = true := by
  rcases h with h | h
  · obtain ⟨i, hi, hx⟩ := List.getElem_of_mem h
    have hp : (xs[i], ys[i]) ∈ xs.zip ys := List.mem_iff_getElem.2 ⟨i, by simp; omega, List.getElem_zip⟩
    refine noNumber_chunkSum hp ?_
    rw [hx]
    exact noNumber_mulV_left ..
  · obtain ⟨i, hi, hy⟩ := List.getElem_of_mem h
    have hp : (xs[i], ys[i]) ∈ xs.zip ys := List.mem_iff_getElem.2 ⟨i, by simp; omega, List.getElem_zip⟩
    refine noNumber_chunkSum hp ?_
    rw [hy]
    exact noNumber_mulV_right ..

/-! ## An element that becomes NaN -/

/-- The event of a NaN that comes in: an operand, or a scale of 0xFF (R252). -/
def nanInput (xs ys : List FV) (sa sb : Nat) : BitVec 4 := if xs.any FV.isNan || ys.any FV.isNan || sa == 255 || sb == 255 then stNANIN else 0

section
variable {acc : Word} {xs ys : List FV} {sa sb : Nat}

theorem mmaElement_noNumber (h : noNumber (chunkSum xs ys) = true) :
    mmaElement acc xs ys sa sb = (0x7FC00000, nanInput xs ys sa sb ||| stINV) := by
  unfold mmaElement
  match chunkSum xs ys, h with
  | none, _ => rfl
  | some (.nan b), _ => rfl

/-- A chunk that is no number, a scale of 0xFF and an accumulator that is NaN each make the element NaN, with INVALID. -/
theorem mmaElement_nan (h : noNumber (chunkSum xs ys) = true ∨ (sa = 255 ∨ sb = 255) ∨ ∃ b, decodeF .f32 acc.toNat = .nan b) :
    (mmaElement acc xs ys sa sb).1 = 0x7FC00000 ∧ ∃ o, (mmaElement acc xs ys sa sb).2 = nanInput xs ys sa sb ||| o ||| stINV := by
  cases hn : noNumber (chunkSum xs ys)
  case true =>
    rw [mmaElement_noNumber hn]
    exact ⟨rfl, 0#4, by rw [BitVec.or_zero]⟩
  case false =>
    have h := h.resolve_left (by rw [hn]; exact Bool.false_ne_true)
    unfold mmaElement
    dsimp only
    split
    · rename_i hsum
      rw [hsum] at hn
      cases hn
    · rename_i hsum
      rw [hsum] at hn
      cases hn
    · split
      · exact ⟨rfl, _, rfl⟩
      · rename_i hscale
        obtain ⟨b, hacc⟩ := h.resolve_left hscale
        rw [hacc]
        exact ⟨rfl, _, rfl⟩

theorem nanInput_scale (h : sa = 255 ∨ sb = 255) : nanInput xs ys sa sb = stNANIN := by
  rcases h with rfl | rfl <;> simp [nanInput]

theorem nanInput_operand {b : Bool} (h : .nan b ∈ xs ∨ .nan b ∈ ys) : nanInput xs ys sa sb = stNANIN := by
  have hany : xs.any FV.isNan = true ∨ ys.any FV.isNan = true := h.imp (fun h => List.any_eq_true.2 ⟨_, h, rfl⟩) fun h => List.any_eq_true.2 ⟨_, h, rfl⟩
  rcases hany with h | h <;> simp [nanInput, h]

/-- Such an element raises INVALID, and with a NaN that comes in also NANIN. -/
theorem mmaElement_nan_status (hnan : ∃ o, (mmaElement acc xs ys sa sb).2 = nanInput xs ys sa sb ||| o ||| stINV) :
    (mmaElement acc xs ys sa sb).2 &&& stINV = stINV ∧
    (nanInput xs ys sa sb = stNANIN → (mmaElement acc xs ys sa sb).2 &&& (stNANIN ||| stINV) = stNANIN ||| stINV) := by
  have hinv : ∀ x o : BitVec 4, (x ||| o ||| stINV) &&& stINV = stINV := by decide
  have hhot : ∀ o : BitVec 4, (stNANIN ||| o ||| stINV) &&& (stNANIN ||| stINV) = stNANIN ||| stINV := by decide
  obtain ⟨o, ho⟩ := hnan
  rw [ho]
  exact ⟨hinv _ o, fun hin => by rw [hin, hhot]⟩

end

/-- The three ways to a NaN element (R252, log 54). -/
theorem mmaElement_nan_cases (acc : Word) (xs ys : List FV) (sa sb : Nat) : let r := mmaElement acc xs ys sa sb
    let hot : BitVec 4 := stNANIN ||| stINV
    (sa = 255 ∨ sb = 255 → r.1 = 0x7FC00000 ∧ r.2 &&& hot = hot) ∧
    (xs.length = ys.length → (∃ x, FV.nan x ∈ xs ∨ FV.nan x ∈ ys) → r.1 = 0x7FC00000 ∧ r.2 &&& hot = hot) ∧
    ∀ x, decodeF .f32 acc.toNat = .nan x → r.1 = 0x7FC00000 ∧ r.2 &&& stINV = stINV := by
  refine ⟨fun hscale => ?_, fun hlen ⟨b, hb⟩ => ?_, fun b hacc => ?_⟩
  · obtain ⟨hbits, hstatus⟩ := mmaElement_nan (acc := acc) (xs := xs) (ys := ys) (.inr (.inl hscale))
    exact ⟨hbits, (mmaElement_nan_status hstatus).2 (nanInput_scale hscale)⟩
  · obtain ⟨hbits, hstatus⟩ := mmaElement_nan (acc := acc) (sa := sa) (sb := sb) (.inl (noNumber_chunkSum_of_nan hlen hb))
    exact ⟨hbits, (mmaElement_nan_status hstatus).2 (nanInput_operand hb)⟩
  · obtain ⟨hbits, hstatus⟩ := mmaElement_nan (xs := xs) (ys := ys) (sa := sa) (sb := sb) (.inr (.inr ⟨b, hacc⟩))
    exact ⟨hbits, (mmaElement_nan_status hstatus).1⟩

/-! ## Examples (R252, R266) -/

/-- The example of R266: 32 ones, or 16 of each sign, by 32 of one taper8 code, with a scale of 2 ^ 2. -/
theorem mmaElement_taper8_examples :
    let tap (x : Nat) : FV := decodeF .tap8 x
    let of (n : Nat) (x : FV) : List FV := List.replicate n x
    let ones := of 32 (tap 0x40)
    let both := of 16 (tap 0x40) ++ of 16 (tap 0xC0)
    mmaElement 0 ones (of 32 (tap 0x48)) 0x7F 0x81 = (0x43400000, 0) ∧
    mmaElement 0x43400000 both (of 32 (tap 0x48)) 0x7F 0x81 = (0x43400000, 0) ∧
    mmaElement 0 ones (of 32 (tap 0x7F)) 0x7F 0x81 = (0x49000000, 0) ∧ mmaElement 0x49000000 both (of 32 (tap 0x7F)) 0x7F 0x81 = (0x49000000, 0) ∧
    mmaElement 0 ones (of 32 (tap 0)) 0x7F 0x81 = (0, 0) ∧ mmaElement 0 both (of 32 (tap 0)) 0x7F 0x81 = (0, 0) := by
  decide +kernel

/-- Infinities, overflow, rounding and zeros under bf16 and no scale. -/
theorem mmaElement_bf16_examples :
    let of (n : Nat) (x : FV) : List FV := List.replicate n x
    let bf (x y : Nat) : List FV × List FV := (decodeF .bf16 x :: of 31 (.zero false), decodeF .bf16 y :: of 31 (.zero false))
    let gives (acc : Word) (p : List FV × List FV) (r : Word) (status : BitVec 4) : Prop := mmaElement acc p.1 p.2 127 127 = (r, status)
    gives 0 (bf 0 0x7F80) 0x7FC00000 stINV ∧ gives 0 (.inf false :: of 31 (.inf true), of 32 (decodeF .bf16 0x3F80)) 0x7FC00000 stINV ∧
    gives 0xFF800000 (bf 0x7F80 0x3F80) 0x7FC00000 stINV ∧ gives 0 (bf 0x7F80 0x3F80) 0x7F800000 0 ∧ gives 0x7F800000 (bf 0x3F80 0x3F80) 0x7F800000 0 ∧
    gives 0 (bf 0x7F00 0x4000) 0x7F800000 stOVF ∧ gives 0x7F7FFFFF (bf 0x7F00 0x3F80) 0x7F800000 stOVF ∧
    gives 0x3F800000 (bf 0x3380 0x3F80) 0x3F800000 0 ∧ gives 0x3F800001 (bf 0x3380 0x3F80) 0x3F800002 0 ∧ gives 0 (bf 1 0x3780) 0x00000001 0 ∧
    gives 0x80000000 (of 32 (.zero true), of 32 (decodeF .bf16 0x3F80)) 0x80000000 0 ∧
    gives 0 (of 32 (.zero true), of 32 (decodeF .bf16 0x3F80)) 0 0 := by
  decide +kernel

end Sys2Proof.Machine
end

section
/-! SUPPORT. The data of a tile (R243, R252, R259, R260): a row after a pass of an MMA, a row of a drain, the image of a swap. -/

namespace Sys2Proof

namespace AMap

/-- Keys rise. -/
def Rising {α : Type} (m : AMap α) : Prop := (m.map Prod.fst).Pairwise (· < ·)

theorem find_append {α : Type} (l r : AMap α) (k : Nat) : find (l ++ r) k = (find l k).or (find r k) := by
  induction l with
  | nil => rfl
  | cons p l ih =>
    obtain ⟨j, x⟩ := p
    by_cases h : j = k <;> simp [find, h, ih]

theorem find_filter {α : Type} (P : Nat → Bool) (m : AMap α) (k : Nat) :
    find (m.filter fun p => P p.1) k = if P k = true then find m k else none := by
  induction m with
  | nil => simp [find]
  | cons p m ih =>
    obtain ⟨j, x⟩ := p
    by_cases hj : j = k
    · subst hj
      cases hP : P j <;> simp [find, hP, ih]
    · cases hP : P j <;> simp [find, hP, hj, ih]

theorem Rising.filter {α : Type} {m : AMap α} (h : Rising m) (p : Nat × α → Bool) : Rising (m.filter p) :=
  h.sublist (List.filter_sublist.map _)

/-- Of rising keys those below a bound stand first. -/
theorem Rising.split {α : Type} {m : AMap α} (h : Rising m) (n : Nat) :
    (m.takeWhile fun p => decide (p.1 < n)) = (m.filter fun p => decide (p.1 < n)) ∧
    (m.dropWhile fun p => decide (p.1 < n)) = m.filter fun p => decide (n ≤ p.1) := by
  induction m with
  | nil => exact ⟨rfl, rfl⟩
  | cons p m ih =>
    obtain ⟨hp, hm⟩ := List.pairwise_cons.1 h
    obtain ⟨htake, hdrop⟩ := ih hm
    by_cases hlt : p.1 < n
    · simp [hlt, htake, hdrop]
    · have hall : ∀ q ∈ m, n ≤ q.1 := fun q hq => (Nat.not_lt.1 hlt).trans (hp _ (List.mem_map_of_mem hq)).le
      have hnone : (m.filter fun q => decide (q.1 < n)) = [] := List.filter_eq_nil_iff.2 fun q hq => by simpa using hall q hq
      have hkept : (m.filter fun q => decide (n ≤ q.1)) = m := List.filter_eq_self.2 fun q hq => by simpa using hall q hq
      simp [hlt, hnone, hkept, Nat.not_lt.1 hlt]

/-- What a function makes of the entries of a list, numbered from a base. -/
def numbered {α β : Type} (b : Nat) (f : Nat → α → β) (l : List α) : AMap β := l.zipIdx.map fun p => (b + p.2, f p.2 p.1)

theorem keys_numbered {α β : Type} (b : Nat) (f : Nat → α → β) (l : List α) : (numbered b f l).map Prod.fst = List.range' b l.length := by
  rw [numbered, List.map_map]
  change List.map ((b + ·) ∘ Prod.snd) l.zipIdx = _
  rw [← List.map_map, List.zipIdx_map_snd, List.map_add_range', Nat.add_zero]

theorem rising_numbered {α β : Type} (b : Nat) (f : Nat → α → β) (l : List α) : Rising (numbered b f l) := by
  rw [Rising, keys_numbered]
  exact List.pairwise_lt_range'

theorem find_numbered {α β : Type} (b : Nat) (f : Nat → α → β) (l : List α) (k : Nat) : find (numbered b f l) (b + k) = (l[k]?).map (f k) := by
  have hfrom (i : Nat) : find ((l.zipIdx i).map fun p => (b + p.2, f p.2 p.1)) (b + k) = if i ≤ k then (l[k - i]?).map (f k) else none := by
    induction l generalizing i with
    | nil => simp [find]
    | cons x l ih =>
      rw [List.zipIdx_cons, List.map_cons, find, ih]
      by_cases hk : i = k
      · simp [hk]
      · by_cases hlt : i ≤ k
        · have hnext : k - i = k - (i + 1) + 1 := by omega
          have hle : i + 1 ≤ k := by omega
          simp [hk, hlt, hle, hnext]
        · have hgt : ¬i + 1 ≤ k := by omega
          simp [hk, hlt, hgt]
  rw [numbered, hfrom 0, if_pos (Nat.zero_le k), Nat.sub_zero]

/-- A run of keys replaced, of which the rising keys below and above stay. -/
theorem Rising.replace {α β : Type} {m : AMap β} (h : Rising m) (b : Nat) (f : Nat → α → β) (l : List α) {n : Nat} (hl : l.length = n) :
    let u := (m.filter fun p => decide (p.1 < b)) ++ numbered b f l ++ m.filter fun p => decide (b + n ≤ p.1)
    Rising u ∧ (∀ k x, l[k]? = some x → find u (b + k) = some (f k x)) ∧ ∀ i, i < b ∨ b + n ≤ i → find u i = find m i := by
  have hlow : find (m.filter fun p => decide (p.1 < b)) = fun k => if k < b then find m k else none := by
    funext k
    rw [find_filter (fun j => decide (j < b))]
    simp only [decide_eq_true_eq]
  have hhigh : find (m.filter fun p => decide (b + n ≤ p.1)) = fun k => if b + n ≤ k then find m k else none := by
    funext k
    rw [find_filter (fun j => decide (b + n ≤ j))]
    simp only [decide_eq_true_eq]
  refine ⟨?_, fun k x hx => ?_, fun i hi => ?_⟩
  · have hkeys (k : Nat) (hk : k ∈ (numbered b f l).map Prod.fst) : b ≤ k ∧ k < b + n := by
      rw [keys_numbered, List.mem_range'_1, hl] at hk
      exact hk
    rw [Rising, List.map_append, List.map_append, List.pairwise_append, List.pairwise_append]
    refine ⟨⟨h.filter _, rising_numbered b f l, fun x hx y hy => ?_⟩, h.filter _, fun x hx y hy => ?_⟩
    · obtain ⟨p, hp, rfl⟩ := List.mem_map.1 hx
      exact lt_of_lt_of_le (of_decide_eq_true (List.mem_filter.1 hp).2) (hkeys y hy).1
    · obtain ⟨q, hq, rfl⟩ := List.mem_map.1 hy
      have hqb : b + n ≤ q.1 := of_decide_eq_true (List.mem_filter.1 hq).2
      rcases List.mem_append.1 hx with hx | hx
      · obtain ⟨p, hp, rfl⟩ := List.mem_map.1 hx
        have hpb : p.1 < b := of_decide_eq_true (List.mem_filter.1 hp).2
        omega
      · have := (hkeys x hx).2
        omega
  · have hk : ¬b + k < b := by omega
    rw [find_append, find_append, hlow, find_numbered, hx, Option.map_some]
    simp only [hk, if_false, Option.none_or, Option.some_or]
  · have hmid : find (numbered b f l) i = none := by
      rcases Nat.lt_or_ge i b with hlt | hge
      · by_contra hne
        obtain ⟨x, hx⟩ := Option.ne_none_iff_exists'.1 hne
        have hkey := List.mem_map_of_mem (f := Prod.fst) (mem_of_find hx)
        rw [keys_numbered, List.mem_range'_1] at hkey
        exact absurd hkey.1 (Nat.not_le.2 hlt)
      · have hsum : i = b + (i - b) := by omega
        rw [hsum, find_numbered, List.getElem?_eq_none, Option.map_none]
        omega
    rw [find_append, find_append, hlow, hhigh, hmid]
    rcases hi with hi | hi
    · have hno : ¬b + n ≤ i := by omega
      simp [hi, hno]
    · have hno : ¬i < b := by omega
      simp [hi, hno]

end AMap

namespace Machine

/-! ## A row after a pass of an MMA (R252) -/

/-- What a pass makes of the element in column `n` of a row. -/
def passElement (tile : Tile) (m sa : Nat) (xs : List FV) (n : Nat) (col : List FV × Nat) : Word × BitVec 4 :=
  mmaElement (AMap.get 0 tile.el (128 * m + n)) xs col.1 sa col.2

section
variable {tile : Tile} {cols : List (List FV × Nat)} (hrise : AMap.Rising tile.el) (hlen : cols.length = 128) (m sa : Nat) (xs : List FV)
include hrise

/-- The elements of a row, as a pass and a drain take them out of the tile. -/
theorem rowElements {n : Nat} (hn : n < 128) : AMap.get 0 ((tile.el.dropWhile fun p => decide (p.1 < 128 * m)).takeWhile
    fun p => decide (p.1 < 128 * m + 128)) (128 * m + n) = AMap.get 0 tile.el (128 * m + n) := by
  rw [(hrise.split _).2, ((hrise.filter _).split _).1, AMap.get, AMap.find_filter (fun j => decide (j < 128 * m + 128)),
    AMap.find_filter (fun j => decide (128 * m ≤ j))]
  simp [hn, AMap.get]

include hlen

/-- A pass replaces the elements of its row, and takes their events into the status word. -/
theorem mmaRow_eq : mmaRow tile m xs sa cols = { tile with
    el := (tile.el.filter fun p => decide (p.1 < 128 * m)) ++ AMap.numbered (128 * m) (fun n col => (passElement tile m sa xs n col).1) cols ++
      tile.el.filter fun p => decide (128 * m + 128 ≤ p.1),
    status := cols.zipIdx.foldl (fun acc p => acc ||| (passElement tile m sa xs p.2 p.1).2) tile.status } := by
  have hout : ((cols.zip (List.range 128)).map fun p => (128 * m + p.2, mmaElement (AMap.get 0 ((tile.el.dropWhile
      fun p => decide (p.1 < 128 * m)).takeWhile fun p => decide (p.1 < 128 * m + 128)) (128 * m + p.2)) xs p.1.1 sa p.1.2)) =
      cols.zipIdx.map fun p => (128 * m + p.2, passElement tile m sa xs p.2 p.1) := by
    rw [← hlen, List.range_eq_range', ← List.zipIdx_eq_zip_range']
    refine List.map_congr_left fun p hp => ?_
    have hn : p.2 < 128 := by
      have := (List.mem_zipIdx hp).2.1
      omega
    rw [hlen, rowElements hrise m hn]
    rfl
  rw [mmaRow, hout, (hrise.split _).1, (hrise.split _).2, List.map_map, List.foldl_map]
  rfl

/-- One pass over one row: its elements, those of the other rows, the events (R252). -/
theorem mmaRow_spec : let u := mmaRow tile m xs sa cols
    AMap.Rising u.el ∧ u.poison = tile.poison ∧
    (∀ n col, cols[n]? = some col → AMap.get 0 u.el (128 * m + n) = (passElement tile m sa xs n col).1) ∧
    (∀ i, i / 128 ≠ m → AMap.get 0 u.el i = AMap.get 0 tile.el i) ∧
    ∀ i, u.status.getLsbD i = true ↔ tile.status.getLsbD i = true ∨
      ∃ n col, cols[n]? = some col ∧ (passElement tile m sa xs n col).2.getLsbD i = true := by
  obtain ⟨hrising, hrow, hrest⟩ := hrise.replace (128 * m) (fun n col => (passElement tile m sa xs n col).1) cols hlen
  rw [mmaRow_eq hrise hlen]
  refine ⟨hrising, rfl, fun n col hcol => ?_, fun i hi => ?_, fun i => ?_⟩
  · rw [AMap.get, hrow n col hcol, Option.getD_some]
  · rw [AMap.get, hrest i (by omega), AMap.get]
  · have hbits (l : List ((List FV × Nat) × Nat)) (w : BitVec 4) :
        (l.foldl (fun acc p => acc ||| (passElement tile m sa xs p.2 p.1).2) w).getLsbD i = true ↔
        w.getLsbD i = true ∨ ∃ p ∈ l, (passElement tile m sa xs p.2 p.1).2.getLsbD i = true := by
      induction l generalizing w with
      | nil => simp
      | cons p l ih => simp [ih, or_assoc]
    rw [hbits]
    refine or_congr_right ⟨?_, ?_⟩
    · rintro ⟨p, hp, hbit⟩
      exact ⟨p.2, p.1, List.mem_zipIdx_iff_getElem?.1 hp, hbit⟩
    · rintro ⟨n, col, hcol, hbit⟩
      exact ⟨(col, n), List.mem_zipIdx_iff_getElem?.2 hcol, hbit⟩

end

/-! ## The image of a tile (R260) -/

theorem leNat_leBytes (n x : Nat) : leNat (leBytes n x) = x % 256 ^ n := by
  induction n generalizing x with
  | zero => simp [leBytes, leNat, Nat.mod_one]
  | succ n ih =>
    have hsplit : x % 256 ^ (n + 1) = x % 256 + 256 * (x / 256 % 256 ^ n) := by rw [Nat.pow_succ', Nat.mod_mul]
    rw [leBytes, leNat, ih, BitVec.toNat_ofNat, hsplit]

theorem length_flatten_range {f : Nat → List Byte} {w : Nat} (hf : ∀ i, (f i).length = w) (n : Nat) :
    ((List.range n).map f).flatten.length = w * n := by
  induction n with
  | zero => rfl
  | succ n ih =>
    rw [List.range_succ, List.map_append, List.flatten_append, List.length_append, ih]
    simp [hf, Nat.mul_succ]

/-- One of the pieces of equal length of a run of bytes. -/
theorem piece_flatten_range {f : Nat → List Byte} {w : Nat} (hf : ∀ i, (f i).length = w) {i n : Nat} (hi : i < n) (rest : List Byte) :
    ((((List.range n).map f).flatten ++ rest).drop (w * i)).take w = f i := by
  induction n generalizing rest with
  | zero => exact absurd hi (Nat.not_lt_zero i)
  | succ n ih =>
    rw [List.range_succ, List.map_append, List.flatten_append, List.append_assoc]
    rcases Nat.lt_succ_iff_lt_or_eq.1 hi with hlt | rfl
    · exact ih hlt _
    · rw [List.drop_left' (length_flatten_range hf i)]
      simp [hf]

/-- The bytes of the elements of an image. -/
def imageElements (tile : Tile) : List Byte := ((List.range 16384).map fun i => leBytes 4 (AMap.get 0 tile.el i).toNat).flatten

theorem tileImage_eq (tile : Tile) : tileImage tile = imageElements tile ++ (leBytes 8 tile.status.toNat ++ leBytes 56 0) :=
  List.append_assoc ..

theorem imageElements_length (tile : Tile) : (imageElements tile).length = 65536 := length_flatten_range (fun _ => leBytes_length 4 _) 16384

theorem tileImage_length (tile : Tile) : (tileImage tile).length = 65600 := by
  rw [tileImage_eq, List.length_append, imageElements_length, List.length_append, leBytes_length, leBytes_length]

theorem tileImage_element (tile : Tile) {i : Nat} (hi : i < 16384) :
    leNat (((tileImage tile).drop (4 * i)).take 4) = (AMap.get 0 tile.el i).toNat := by
  have hpiece := piece_flatten_range (f := fun i => leBytes 4 (AMap.get 0 tile.el i).toNat) (fun i => leBytes_length 4 _) hi
    (leBytes 8 tile.status.toNat ++ leBytes 56 0)
  have hsmall : (AMap.get 0 tile.el i).toNat < 256 ^ 4 := (AMap.get 0 tile.el i).isLt
  rw [tileImage_eq, imageElements, hpiece, leNat_leBytes, Nat.mod_eq_of_lt hsmall]

theorem tileImage_tail (tile : Tile) : (tileImage tile).drop 65536 = leBytes 8 tile.status.toNat ++ leBytes 56 0 := by
  rw [tileImage_eq, List.drop_left' (imageElements_length tile)]

theorem tileImage_status (tile : Tile) : leNat (((tileImage tile).drop 65536).take 8) = tile.status.toNat := by
  have hsmall : tile.status.toNat < 256 ^ 8 := tile.status.isLt.trans (by decide)
  rw [tileImage_tail, List.take_left' (leBytes_length 8 _), leNat_leBytes, Nat.mod_eq_of_lt hsmall]

theorem tileImage_zeros (tile : Tile) : (tileImage tile).drop 65544 = List.replicate 56 0 := by
  have hsum : 65544 = 65536 + 8 := rfl
  rw [hsum, ← List.drop_drop, tileImage_tail, List.drop_left' (leBytes_length 8 _)]
  rfl

theorem find_map_range {α : Type} (f : Nat → α) (i n : Nat) :
    AMap.find ((List.range n).map fun i => (i, f i)) i = if i < n then some (f i) else none := by
  induction n with
  | zero => rfl
  | succ n ih =>
    rw [List.range_succ, List.map_append, AMap.find_append, ih]
    rcases Nat.lt_trichotomy i n with h | rfl | h
    · have hlt : i < n + 1 := by omega
      simp [h, hlt]
    · simp [AMap.find]
    · have hge : ¬i < n := by omega
      have hne : ¬n = i := by omega
      have hge' : ¬i < n + 1 := by omega
      simp [AMap.find, hge, hne, hge']

/-- The tile that an image names reads back element by element (R260). -/
theorem imageTile_element (bs : List Byte) {i : Nat} (hi : i < 16384) :
    AMap.get 0 (imageTile bs).el i = BitVec.ofNat 32 (leNat ((bs.drop (4 * i)).take 4)) := by
  rw [AMap.get, imageTile, find_map_range (fun i => BitVec.ofNat 32 (leNat ((bs.drop (4 * i)).take 4))), if_pos hi, Option.getD_some]

theorem imageTile_rising (bs : List Byte) : AMap.Rising (imageTile bs).el := by
  have hkeys : (imageTile bs).el.map Prod.fst = List.range 16384 := by
    rw [imageTile, List.map_map]
    exact List.map_id _
  rw [AMap.Rising, hkeys]
  exact List.pairwise_lt_range

theorem imageTile_tileImage_element (tile : Tile) {i : Nat} (hi : i < 16384) :
    AMap.get 0 (imageTile (tileImage tile)).el i = AMap.get 0 tile.el i := by
  rw [imageTile_element _ hi, tileImage_element tile hi, BitVec.ofNat_toNat, BitVec.setWidth_eq]

theorem imageTile_tileImage_status (tile : Tile) : (imageTile (tileImage tile)).status = tile.status := by
  have hbyte : ((tileImage tile).drop 65536).take 1 = [BitVec.ofNat 8 tile.status.toNat] := by
    rw [tileImage_tail]
    rfl
  have hsmall : tile.status.toNat < 2 ^ 8 := tile.status.isLt.trans (by decide)
  have hleast : leNat [BitVec.ofNat 8 tile.status.toNat] = tile.status.toNat := by
    rw [leNat, leNat, Nat.mul_zero, Nat.add_zero, BitVec.toNat_ofNat, Nat.mod_eq_of_lt hsmall]
  change BitVec.ofNat 4 (leNat (((tileImage tile).drop 65536).take 1)) = _
  rw [hbyte, hleast, BitVec.ofNat_toNat, BitVec.setWidth_eq]

/-! ## A row of a drain (R259) -/

/-- A row of elements converted under a slot: its bytes and its status events. -/
def drainedRow (sl : Slot) (v : Nat → Word) : List Byte × BitVec 4 :=
  let row := (List.range 128).map fun n => (toFormat (elemTy sl.elem) (sl.rounding 0) (decodeF .f32 (v n).toNat), (decodeF .f32 (v n).toNat).isNan)
  (packRow sl.elem (row.map fun f => f.1.bits), row.foldl (fun acc f => acc ||| drainEvents f.1 f.2) 0)

/-- Elements that stand at the start of row `m`. -/
def inRow (m : Nat) (v : AMap Word) : AMap Word := v.map fun p => (128 * m + p.1, p.2)

theorem find_inRow (m : Nat) (v : AMap Word) (n : Nat) : AMap.find (inRow m v) (128 * m + n) = AMap.find v n := by
  induction v with
  | nil => rfl
  | cons p v ih =>
    obtain ⟨j, x⟩ := p
    by_cases h : j = n
    · simp [inRow, AMap.find, h]
    · have hne : ¬128 * m + j = 128 * m + n := by omega
      rw [inRow, List.map_cons, AMap.find, if_neg hne, AMap.find, if_neg h]
      exact ih

/-- A tile whose listed elements stand in one row drains that row as it is. -/
theorem drainRow_inRow {t : Team} {acc fs m : Nat} {w : Word} {tile : Tile} {v : AMap Word} (hslot : t.lrec.fsl[fs]? = some w)
    (htile : AMap.find t.tiles acc = some tile) (hel : tile.el = inRow m v) (hrise : AMap.Rising tile.el) :
    drainRow t acc fs m = drainedRow (slotOf w) (AMap.get 0 v) := by
  have hfsl : fslOf t fs = slotOf w := by rw [fslOf, List.getD_eq_getElem?_getD, hslot, Option.getD_some]
  have htileOf : tileOf t acc = tile := by rw [tileOf, AMap.get, htile, Option.getD_some]
  have hrow : ((List.range 128).map fun n => (toFormat (elemTy (slotOf w).elem) ((slotOf w).rounding 0) (decodeF .f32 (AMap.get 0 (((tileOf t acc).el.dropWhile
      fun p => decide (p.1 < 128 * m)).takeWhile fun p => decide (p.1 < 128 * m + 128)) (128 * m + n)).toNat),
      (decodeF .f32 (AMap.get 0 (((tileOf t acc).el.dropWhile fun p => decide (p.1 < 128 * m)).takeWhile fun p => decide (p.1 < 128 * m + 128))
        (128 * m + n)).toNat).isNan)) = (List.range 128).map fun n =>
      (toFormat (elemTy (slotOf w).elem) ((slotOf w).rounding 0) (decodeF .f32 (AMap.get 0 v n).toNat), (decodeF .f32 (AMap.get 0 v n).toNat).isNan) := by
    refine List.map_congr_left fun n hn => ?_
    have helem : AMap.get 0 tile.el (128 * m + n) = AMap.get 0 v n := by rw [AMap.get, hel, find_inRow, AMap.get]
    rw [htileOf, rowElements hrise m (List.mem_range.1 hn), helem]
  rw [drainRow, hfsl]
  dsimp only
  rw [hrow]
  rfl

/-- The examples of R259's conversions: saturation at taper8's maximum, NaN, and f32 as it is. -/
theorem drainedRow_taper8 : drainedRow (slotOf 0x4515) (AMap.get 0 [(0, 0x43400000), (1, 0x49000000)]) =
    (0x7B :: 0x7F :: List.replicate 126 0, stSAT) := by decide +kernel

theorem drainedRow_taper8_nan : drainedRow (slotOf 0x4515) (AMap.get 0 [(127, 0x7FC00001)]) = (List.replicate 127 0 ++ [0x80], stINV) := by
  decide +kernel

theorem drainedRow_f32 : drainedRow (slotOf 0) (AMap.get 0 [(0, 0x3F800001), (1, 0xFF800000), (2, 0x7FA00000), (3, 0x80000001)]) =
    ([0x01, 0, 0x80, 0x3F, 0, 0, 0x80, 0xFF, 0, 0, 0xC0, 0x7F, 1, 0, 0, 0x80] ++ List.replicate 496 0, stINV) := by decide +kernel

end Machine

end Sys2Proof
end

section
/-! SUPPORT. The slots of the canopy (R249): what an MLDB fills, and what it cuts. -/

namespace Sys2Proof

theorem AMap.find_del_other {α : Type} (m : AMap α) {j k : Nat} (h : j ≠ k) : AMap.find (AMap.del m j) k = AMap.find m k := by
  induction m with
  | nil => rfl
  | cons p m ih =>
    obtain ⟨i, x⟩ := p
    by_cases hi : i = j
    · subst hi
      simp [AMap.del, AMap.find, h, ih]
    · by_cases hk : i = k
      · subst hk
        simp [AMap.del, AMap.find, hi]
      · simp [AMap.del, AMap.find, hi, hk, ih]

/-- A removal lists nothing new. -/
theorem AMap.find_del_none {α : Type} {m : AMap α} {k : Nat} (h : AMap.find m k = none) (j : Nat) : AMap.find (AMap.del m j) k = none := by
  by_cases hj : j = k
  · rw [hj, AMap.find_del_same]
  · rw [AMap.find_del_other m hj, h]

namespace Machine

/-- The canopy without what slot `i` holds, of which a tile of two slots loses both (R249). -/
def canopyCut (cn : AMap Canopy) (i : Nat) : AMap Canopy :=
  match AMap.find cn i with
  | some .second => AMap.del (AMap.del cn (i - 1)) i
  | some (.tile e _ _) => if e = 1 ∨ e = 2 then AMap.del (AMap.del cn (i + 1)) i else AMap.del cn i
  | none => cn

theorem canopyPut_narrow (cn : AMap Canopy) (j : Nat) {elem : Nat} (h : ¬(elem = 1 ∨ elem = 2)) (cell : Canopy) :
    canopyPut cn j elem cell = AMap.set (canopyCut cn j) j cell := by
  rw [canopyPut, if_neg h, if_neg h]
  rfl

theorem canopyPut_wide (cn : AMap Canopy) (j : Nat) {elem : Nat} (h : elem = 1 ∨ elem = 2) (cell : Canopy) :
    canopyPut cn j elem cell = AMap.set (AMap.set (canopyCut (canopyCut cn j) (j + 1)) j cell) (j + 1) .second := by
  rw [canopyPut, if_pos h, if_pos h]
  rfl

section
variable {cn : AMap Canopy}

theorem find_canopyCut_other {i j : Nat} (hlow : i + 1 ≠ j) (hself : i ≠ j) (hhigh : i ≠ j + 1) :
    AMap.find (canopyCut cn j) i = AMap.find cn i := by
  rw [canopyCut]
  split
  · by_cases h0 : j - 1 = i
    · omega
    · rw [AMap.find_del_other _ hself.symm, AMap.find_del_other _ h0]
  · split
    · rw [AMap.find_del_other _ hself.symm, AMap.find_del_other _ hhigh.symm]
    · rw [AMap.find_del_other _ hself.symm]
  · rfl

theorem find_canopyCut_none {i : Nat} (h : AMap.find cn i = none) (j : Nat) : AMap.find (canopyCut cn j) i = none := by
  rw [canopyCut]
  split
  · exact AMap.find_del_none (AMap.find_del_none h _) _
  · split
    · exact AMap.find_del_none (AMap.find_del_none h _) _
    · exact AMap.find_del_none h _
  · exact h

/-- A cut of a second half takes the first. -/
theorem find_canopyCut_second {j : Nat} (h : AMap.find cn (j + 1) = some .second) : AMap.find (canopyCut cn (j + 1)) j = none := by
  simp only [canopyCut, h]
  exact AMap.find_del_none (AMap.find_del_same ..) _

/-- A cut of a first half takes the second. -/
theorem find_canopyCut_wide {j e : Nat} {p : Bool} {rows : List (List Byte)} (he : e = 1 ∨ e = 2)
    (h : AMap.find cn j = some (.tile e p rows)) : AMap.find (canopyCut cn j) (j + 1) = none := by
  simp only [canopyCut, h, he, if_true]
  exact AMap.find_del_none (AMap.find_del_same ..) _

/-- What is no first half leaves the slot behind it. -/
theorem find_canopyCut_narrow {j : Nat} (h : ∀ e p rows, AMap.find cn j = some (.tile e p rows) → e ≠ 1 ∧ e ≠ 2) :
    AMap.find (canopyCut cn j) (j + 1) = AMap.find cn (j + 1) := by
  have hself : j ≠ j + 1 := (Nat.lt_succ_self j).ne
  rw [canopyCut]
  split
  · have hbelow : j - 1 ≠ j + 1 := by omega
    rw [AMap.find_del_other _ hself, AMap.find_del_other _ hbelow]
  next e p rows hj =>
    obtain ⟨h1, h2⟩ := h e p rows hj
    simp only [h1, h2, or_self, if_false, AMap.find_del_other _ hself]
  · rfl

variable {j elem : Nat} {cell : Canopy}

theorem find_canopyPut_first : AMap.find (canopyPut cn j elem cell) j = some cell := by
  by_cases hw : elem = 1 ∨ elem = 2
  · rw [canopyPut_wide cn j hw, AMap.find_set_other _ _ (Nat.lt_succ_self j).ne', AMap.find_set_same]
  · rw [canopyPut_narrow cn j hw, AMap.find_set_same]

theorem find_canopyPut_second (hw : elem = 1 ∨ elem = 2) : AMap.find (canopyPut cn j elem cell) (j + 1) = some .second := by
  rw [canopyPut_wide cn j hw, AMap.find_set_same]

/-- The slots that a tile does not take hold what its cuts left. -/
theorem find_canopyPut_kept {i : Nat} (hself : i ≠ j) (hnext : i ≠ j + 1) :
    AMap.find (canopyPut cn j elem cell) i =
      AMap.find (if elem = 1 ∨ elem = 2 then canopyCut (canopyCut cn j) (j + 1) else canopyCut cn j) i := by
  by_cases hw : elem = 1 ∨ elem = 2
  · rw [canopyPut_wide cn j hw, AMap.find_set_other _ _ hnext.symm, AMap.find_set_other _ _ hself.symm, if_pos hw]
  · rw [canopyPut_narrow cn j hw, AMap.find_set_other _ _ hself.symm, if_neg hw]

theorem find_canopyPut_other {i : Nat} (hlow : i + 1 ≠ j) (hself : i ≠ j) (hnext : i ≠ j + 1) (hhigh : i ≠ j + 2) :
    AMap.find (canopyPut cn j elem cell) i = AMap.find cn i := by
  have hcut := find_canopyCut_other (cn := cn) hlow hself hnext
  rw [find_canopyPut_kept hself hnext]
  split
  · rw [find_canopyCut_other (by omega) hnext hhigh, hcut]
  · exact hcut

theorem find_canopyPut_below (hsecond : AMap.find cn (j + 1) = some .second) :
    AMap.find (canopyPut cn (j + 1) elem cell) j = none := by
  have hcut := find_canopyCut_second hsecond
  rw [find_canopyPut_kept (by omega) (by omega)]
  split
  · exact find_canopyCut_none hcut _
  · exact hcut

theorem find_canopyPut_next {e : Nat} {p : Bool} {rows : List (List Byte)} (he : e = 1 ∨ e = 2) (hw : ¬(elem = 1 ∨ elem = 2))
    (htile : AMap.find cn j = some (.tile e p rows)) : AMap.find (canopyPut cn j elem cell) (j + 1) = none := by
  rw [canopyPut_narrow cn j hw, AMap.find_set_other _ _ (Nat.lt_succ_self j).ne, find_canopyCut_wide he htile]

theorem find_canopyPut_beyond {e : Nat} {p : Bool} {rows : List (List Byte)} (he : e = 1 ∨ e = 2) (hw : elem = 1 ∨ elem = 2)
    (hfirst : ∀ e p rows, AMap.find cn j = some (.tile e p rows) → e ≠ 1 ∧ e ≠ 2)
    (htile : AMap.find cn (j + 1) = some (.tile e p rows)) : AMap.find (canopyPut cn j elem cell) (j + 2) = none := by
  rw [find_canopyPut_kept (by omega) (by omega), if_pos hw]
  exact find_canopyCut_wide he ((find_canopyCut_narrow hfirst).trans htile)

end

end Machine

end Sys2Proof
end

section
/-! SUPPORT. The units of the matrix engine and the bulk copy at work (R235, R252, R253, R259, R260, R262, R263): a row of an MMA, of a drain, of a swap, the
end of MZERO and of a swap, a unit of a KCP. -/

namespace Sys2Proof.Machine

/-! ## Tiles and flags -/

@[simp] theorem kfDec_tiles (t : Team) (f : Option (BitVec 4)) : (kfDec t f).tiles = t.tiles := by
  cases f <;> rfl

@[simp] theorem kfDec_granted (t : Team) (f : Option (BitVec 4)) : (kfDec t f).granted = t.granted := by
  cases f <;> rfl

theorem tileOf_set_same {t u : Team} {j : Nat} {tile : Tile} (h : u.tiles = AMap.set t.tiles j tile) : tileOf u j = tile := by
  rw [tileOf, h, AMap.get_set_same]

theorem tileOf_set_other {t u : Team} {j : Nat} {tile : Tile} (h : u.tiles = AMap.set t.tiles j tile) {i : Nat} (hi : i ≠ j) :
    tileOf u i = tileOf t i := by
  rw [tileOf, h, AMap.get_set_other _ _ _ hi.symm, tileOf]

/-! ## Commands that a unit runs -/

section
variable {s : State} {k : Nat} {t : Team} {c : PCmd} {a : Args} {u : UnitKind} (ht : s.team? k = some t) (hgr : t.granted = [(u, c)])

/-- A team whose one granted command has gone on. -/
theorem team?_modGranted {v : State} {t' : Team} (hv : v.team? k = some t') (hgr' : t'.granted = [(u, c)]) (f : PCmd → PCmd) :
    (modGranted v k u f).team? k = some { t' with granted := [(u, f c)] } := by
  rw [modGranted, team?_modTeam_same hv, hgr', List.map_cons, if_pos rfl]
  rfl

theorem granted_find (u : UnitKind) (c : PCmd) : ([(u, c)] : List (UnitKind × PCmd)).find? (fun g => g.1 == u) = some (u, c) := by
  rw [List.find?_cons, beq_self_eq_true]

include ht hgr

/-- With no rows left a completion only ends the command. -/
theorem completeGranted_done (hdone : unitTotal c ≤ c.prog) : completeGranted s k u = endGranted s k u := by
  have hleft : unitLeft s k u = 0 := by
    simp only [unitLeft, ht, Option.bind_some, hgr, granted_find, Nat.sub_eq_zero_of_le hdone]
  rw [completeGranted, hleft, unitRest]

omit ht in
/-- The end of a command that leaves a tile `tile` in handle `j`. -/
theorem team?_tileDone (j : Nat) (tile : Tile) {v : State} (hv : v = (s.setTeam k { t with tiles := AMap.set t.tiles j tile }).modTeam k fun t =>
      kfDec { t with granted := t.granted.filter fun g => g.1 != u } c.flag) :
    ∃ t1, v.team? k = some t1 ∧ tileOf t1 j = tile ∧ t1.granted = [] ∧ (∀ i, i ≠ j → tileOf t1 i = tileOf t i) ∧ v.mem = s.mem := by
  have hv' := team?_modTeam_same (team?_setTeam_same s k { t with tiles := AMap.set t.tiles j tile }) fun t =>
      kfDec { t with granted := t.granted.filter fun g => g.1 != u } c.flag
  rw [← hv] at hv'
  refine ⟨_, hv', tileOf_set_same (kfDec_tiles ..), ?_, fun i hi => tileOf_set_other (kfDec_tiles ..) hi, ?_⟩
  · rw [kfDec_granted]
    simp [hgr]
  · rw [hv, modTeam_mem, setTeam_mem]

theorem endGranted_mzero (hop : c.op = .mzero a) (hclr : modBits a.mod 5 5 = 1) :
    endGranted s k u = (s.setTeam k { t with tiles := AMap.set t.tiles (accOf a) {} }).modTeam k fun t =>
      kfDec { t with granted := t.granted.filter fun g => g.1 != u } c.flag := by
  simp only [endGranted, ht, hgr, granted_find, hop, hclr, if_true]

theorem endGranted_swap (hop : c.op = .mswap a) (hload : modBits a.mod 5 4 ≠ 0) (hhot : c.hot = none) :
    endGranted s k u = (s.setTeam k { t with tiles := AMap.set t.tiles (accOf a) (imageTile c.buf.flatten) }).modTeam k fun t =>
      kfDec { t with granted := t.granted.filter fun g => g.1 != u } c.flag := by
  simp only [endGranted, ht, hgr, granted_find, hop, hload, hhot, if_false]

/-! ## A row of an MMA (R252, R253) -/

theorem unitStep_mma (hop : c.op = .mma a) (hprog : c.prog < mmaTotal c) (n : Nat) :
    unitStep s k u n = modGranted (mmaRows s k t c (accOf a) (modBits a.mod 5 3) (modBits a.mod 2 0) n) k u fun c =>
      { c with prog := c.prog + min n (128 - c.prog % 128) } := by
  have hleft : ¬unitTotal c ≤ c.prog := by simpa only [unitTotal, hop, Nat.not_le] using hprog
  simp only [unitStep, ht, hgr, granted_find, hleft, if_false, hop]

/-! ## A row of a drain and of a swap (R259, R260) -/

theorem unitStep_drain_mem (hop : c.op = .mdrain a) (hprog : c.prog < 128) (n : Nat) :
    (unitStep s k u n).mem = (drainStep s k t c (accOf a) (modBits a.mod 5 3) (modBits a.mod 2 2 == 1)).mem := by
  have hleft : ¬unitTotal c ≤ c.prog := by simpa only [unitTotal, hop, Nat.not_le] using hprog
  simp only [unitStep, ht, hgr, granted_find, hleft, if_false, hop, modGranted, modTeam_mem]

theorem unitStep_swapStore_mem (hop : c.op = .mswap a) (hprog : c.prog < 129) (hstore : modBits a.mod 5 4 ≠ 1) (n : Nat) :
    (unitStep s k u n).mem = (engineWrite s k t c (c.a + BitVec.ofNat 64 (512 * c.prog)) (imageRow (tileOf t (accOf a)) c.prog)).mem := by
  have htotal : 129 ≤ swapTotal (modBits a.mod 5 4) := by
    rw [swapTotal]
    split <;> decide
  have hleft : ¬unitTotal c ≤ c.prog := by
    simp only [unitTotal, hop]
    omega
  have hhalf : ¬(modBits a.mod 5 4 = 1 ∨ 129 ≤ c.prog) := by omega
  simp only [unitStep, ht, hgr, granted_find, hleft, if_false, hop, hhalf, modGranted, modTeam_mem]

/-- A row of the load half of a swap is read. -/
theorem unitStep_swapLoad (hop : c.op = .mswap a) (hhalf : 129 ≤ c.prog ∨ modBits a.mod 5 4 = 1) (hprog : c.prog < swapTotal (modBits a.mod 5 4))
    (n : Nat) :
    let m := c.prog % 129
    let r := engineRead s t t.core c.held ((if modBits a.mod 5 4 = 1 then c.a else c.b) + BitVec.ofNat 64 (512 * m)) (if m < 128 then 512 else 64) 16
    (unitStep s k u n).mem = s.mem ∧ ∃ t1, (unitStep s k u n).team? k = some t1 ∧
      t1.granted = [(u, { c with prog := c.prog + 1, buf := c.buf ++ [r.2.1], hot := c.hot.or r.2.2 })] ∧ t1.tiles = t.tiles := by
  intro m r
  obtain ⟨hteams, hmem⟩ := engineRead_frame s t t.core c.held ((if modBits a.mod 5 4 = 1 then c.a else c.b) + BitVec.ofNat 64 (512 * m))
    (if m < 128 then 512 else 64) 16
  have hleft : ¬unitTotal c ≤ c.prog := by simpa only [unitTotal, hop, Nat.not_le] using hprog
  have hstep : unitStep s k u n = modGranted r.1 k u fun c => { c with prog := c.prog + 1, buf := c.buf ++ [r.2.1], hot := c.hot.or r.2.2 } := by
    simp only [unitStep, ht, hgr, granted_find, hleft, if_false, hop, hhalf.symm, if_true, r, m]
  have hteam := team?_modGranted ((team?_of_teams hteams k).trans ht) hgr fun c =>
    { c with prog := c.prog + 1, buf := c.buf ++ [r.2.1], hot := c.hot.or r.2.2 }
  rw [hstep]
  refine ⟨?_, _, hteam, rfl, rfl⟩
  rw [modGranted, modTeam_mem]
  exact hmem

end

/-- A row of a drain is written, and its events join the status of its tile. -/
theorem drainStep_row {s : State} {k : Nat} {t : Team} (ht : s.team? k = some t) (c : PCmd) (acc fs : Nat) (clr : Bool) :
    let u := drainStep s k t c acc fs clr
    let r := drainRow t acc fs c.prog
    u.mem = (engineWrite s k t c (c.a + BitVec.ofNat 64 (c.prog * (c.b.toNat % 2 ^ 32))) r.1).mem ∧ ∃ t1, u.team? k = some t1 ∧
      (tileOf t1 acc).el = (tileOf t acc).el ∧ (tileOf t1 acc).status = (if clr = true ∧ c.prog = 0 then 0 else (tileOf t acc).status) ||| r.2 := by
  intro u r
  obtain ⟨st, hst⟩ := onlyStreams_engineWrite s k t c (c.a + BitVec.ofNat 64 (c.prog * (c.b.toNat % 2 ^ 32))) r.1 k t ht
  have hteam : u.team? k = some { t with
      stream := st,
      tiles := AMap.set t.tiles acc { tileOf t acc with
        status := (if clr && c.prog == 0 then 0 else (tileOf t acc).status) ||| r.2 } } := team?_modTeam_same hst _
  refine ⟨modTeam_mem .., _, hteam, ?_⟩
  rw [tileOf_set_same rfl]
  simp only [Bool.and_eq_true, beq_iff_eq, and_self]

/-! ## Operands of an MMA without scales (R251) -/

/-- A fold that leaves its state and appends maps. -/
theorem foldl_append_map {σ α β : Type} (g : α → β) (is : List α) (s : σ) (acc : List β) :
    is.foldl (fun (p : σ × List β) n => (p.1, p.2 ++ [g n])) (s, acc) = (s, acc ++ is.map g) := by
  induction is generalizing acc with
  | nil => rw [List.map_nil, List.append_nil, List.foldl_nil]
  | cons i is ih => rw [List.foldl_cons, ih, List.map_cons, List.append_assoc, List.singleton_append]

theorem mmaCols_unscaled (s : State) (t : Team) (c : PCmd) (d : MmaDesc) {fb : Slot} (hscale : fb.scale = 0) (rows : List (List Byte)) (pass : Nat) :
    mmaCols s t c d fb rows pass = (s, (List.range 128).map fun n =>
      ((((rows.drop (32 * (d.first + pass))).take 32).map fun r => (unpackRow fb.elem 128 r).map (decodeF (elemTy fb.elem))).map fun r =>
        r.getD n (.zero false), 127)) := by
  simp only [mmaCols, hscale, Nat.zero_ne_one, if_false]
  exact foldl_append_map _ _ s []

theorem chunkBytes_mod_eight (elem : Nat) : chunkBytes elem % 8 = 0 := by
  have hbits : packBits elem % 2 = 0 := by
    unfold packBits
    split <;> rfl
  rw [chunkBytes]
  omega

/-- The chunk of A of a row in the window, without scales: its elements, and what stays. -/
theorem mmaArow_unscaled {s : State} {t : Team} {c : PCmd} {d : MmaDesc} {fa : Slot} (hscale : fa.scale = 0) {pass m off : Nat}
    (hoff : off = c.a.toNat % 2 ^ 32 + m * d.pitch + pass * chunkBytes fa.elem) (hfit : off + chunkBytes fa.elem ≤ t.lrec.scratch)
    (hs : t.lrec.scratch ≤ 2 ^ 19) : ∃ s1, s1.teams = s.teams ∧ s1.mem = s.mem ∧ mmaArow s t c d fa pass m =
      (s1, (unpackRow fa.elem 32 ((List.range (chunkBytes fa.elem)).map fun i => readByte s (winLoc t (off + i)))).map (decodeF (elemTy fa.elem)), 127) := by
  subst hoff
  obtain ⟨hteams, hmem, -, hbytes⟩ := engineRead_window (s := s) t.core c.held hs (chunkBytes_mod_eight fa.elem) hfit
  refine ⟨_, hteams, hmem, ?_⟩
  simp only [mmaArow, hscale, Nat.zero_ne_one, if_false, ← hbytes]
  rfl

/-- One row of an MMA without scales: its tile takes the row, and nothing else changes. -/
theorem unitStep_mma_row {s : State} {k : Nat} {t : Team} {c : PCmd} {a : Args} {e : Nat} {p : Bool} {rows : List (List Byte)} {d : MmaDesc}
    {fa fb : Slot} {off : Nat} (ht : s.team? k = some t) (hgr : t.granted = [(.array, c)]) (hop : c.op = .mma a)
    (hd : d = mmaDesc c.b) (hcell : AMap.find t.canopy d.slot = some (.tile e p rows)) (hfa : fa = fslOf t (modBits a.mod 5 3))
    (hfb : fb = fslOf t (modBits a.mod 2 0)) (hprog : c.prog < 128 * d.passes) (hsa : fa.scale = 0) (hsb : fb.scale = 0)
    (hfit : c.prog % 128 * d.pitch + d.passes * chunkBytes fa.elem + c.a.toNat % 2 ^ 32 ≤ t.lrec.scratch) (hs : t.lrec.scratch ≤ 2 ^ 19)
    (hoff : off = c.a.toNat % 2 ^ 32 + c.prog % 128 * d.pitch + c.prog / 128 * chunkBytes fa.elem) :
    let arow := (unpackRow fa.elem 32 ((List.range (chunkBytes fa.elem)).map fun i => readByte s (winLoc t (off + i)))).map (decodeF (elemTy fa.elem))
    let brows := ((rows.drop (32 * (d.first + c.prog / 128))).take 32).map fun r => (unpackRow fb.elem 128 r).map (decodeF (elemTy fb.elem))
    let cols := (List.range 128).map fun n => (brows.map fun r => r.getD n (.zero false), 127)
    ∃ t1, (unitStep s k .array 1).team? k = some t1 ∧ t1.granted = [(.array, { c with prog := c.prog + 1 })] ∧
      tileOf t1 (accOf a) = mmaRow (tileOf t (accOf a)) (c.prog % 128) arow 127 cols ∧
      (∀ j, j ≠ accOf a → tileOf t1 j = tileOf t j) ∧ (unitStep s k .array 1).mem = s.mem := by
  intro arow brows cols
  subst hd hfa hfb
  have hpass : (c.prog / 128 + 1) * chunkBytes (fslOf t (modBits a.mod 5 3)).elem ≤
      (mmaDesc c.b).passes * chunkBytes (fslOf t (modBits a.mod 5 3)).elem := Nat.mul_le_mul_right _ (Nat.div_lt_of_lt_mul hprog)
  rw [Nat.succ_mul] at hpass
  obtain ⟨s1, hteams, hmem, harow⟩ := mmaArow_unscaled (s := s) hsa hoff (by omega) hs
  have hone : min 1 (128 - c.prog % 128) = 1 := by omega
  have hrow : mmaRows s k t c (accOf a) (modBits a.mod 5 3) (modBits a.mod 2 0) 1 = s1.modTeam k fun t' =>
      { t' with tiles := AMap.set t'.tiles (accOf a) (mmaRow (tileOf t (accOf a)) (c.prog % 128) arow 127 cols) } := by
    simp only [mmaRows, hcell, mmaCols_unscaled s t c _ hsb, hone, List.range_one, List.foldl_cons, List.foldl_nil, Nat.add_zero, harow]
    rfl
  have hteam := team?_modTeam_same ((team?_of_teams hteams k).trans ht) fun t' =>
      { t' with tiles := AMap.set t'.tiles (accOf a) (mmaRow (tileOf t (accOf a)) (c.prog % 128) arow 127 cols) }
  rw [unitStep_mma ht hgr hop hprog, hrow]
  refine ⟨_, team?_modGranted hteam hgr _, ?_, tileOf_set_same rfl, fun j hj => tileOf_set_other rfl hj, ?_⟩
  · simp only [hone]
  · rw [modGranted, modTeam_mem, modTeam_mem, hmem]

/-! ## The bulk copy (R235) -/

/-- The next unit of a KCP is copied between the addresses of its row. -/
theorem bulkStep_mem {s : State} {k : Nat} {t : Team} {r : Bulk} (ht : s.team? k = some t) (hres : t.resident = true) (hrun : t.running = some r) :
    (bulkStep s k).mem = (bulkUnit s k t r.cmd (unitAddrs r.cmd r.row r.unit).1 (unitAddrs r.cmd r.row r.unit).2).mem := by
  simp only [bulkStep, ht, hres, if_true, hrun, modTeam_mem]

end Sys2Proof.Machine
end

section
/-! SUPPORT. The events of the queues and of the matrix engine, clause by clause, from the lemmas on heads, table, tiles and units. -/

namespace Sys2Proof.Machine

/-! ## The configuration commands at the head (R242, R243, R254) -/

theorem postedCommandHead_bulk (s : State) (k : Nat) : exec (.postedCommandHead k .bulk) s = .next (bulkHead s k) := rfl

theorem postedCommandHead_matrix (s : State) (k : Nat) : exec (.postedCommandHead k .matrix) s = .next (matrixHead s k) := rfl

section
variable {s : State} {k : Nat} {t : Team} {c : PCmd} {rest : List PCmd} {a : Args} (ht : s.team? k = some t) (hq : t.matrix = c :: rest)
  (hg : c.guard = true) (hready : matrixHeadReady s t = true)
include ht hq hg hready

theorem matrixHead_mscl (hop : c.op = .mscl a) : matrixHead s k = s.setTeam k { t with
    matrix := rest,
    scales := if modBits a.mod 9 9 = 1 then { t.scales with sbb := c.a, spb := c.b } else { t.scales with sba := c.a, spa := c.b } } := by
  rw [matrixHead_dispatches ht hq hg hready (headCheck_mscl hop)]
  simp only [dispatch, hop]

theorem matrixHead_mrel (hop : c.op = .mrel a) (hheld : ∀ j ∈ cmdTiles c, tileHeld t j = true) :
    matrixHead s k = s.setTeam k { t with matrix := rest, tiles := (cmdTiles c).foldl AMap.del t.tiles } := by
  rw [matrixHead_dispatches ht hq hg hready (headCheck_mrel hop hheld)]
  simp only [dispatch, hop, cmdTiles]

theorem matrixHead_mzero (hop : c.op = .mzero a) (hheld : tileHeld t (accOf a) = true) :
    matrixHead s k = enterTable (s.setTeam k { t with matrix := rest }) k { c with held := [] } := by
  rw [matrixHead_dispatches ht hq hg hready (headCheck_mzero hop hheld)]
  simp only [dispatch, hop]

end

/-! ## Grants and completions (R242, R249, R261, R263) -/

theorem macqGrant_next {s : State} {cl k : Nat} {t : Team} {want : List Nat} (h : nextMacq s cl = some (k, t, want)) :
    exec (.macqGrant cl) s = .next (s.setTeam k { t with
      matrix := t.matrix.drop 1, tiles := want.foldl (fun m j => AMap.set m j {}) t.tiles }) := by
  change execMacqGrant cl s = _
  simp only [execMacqGrant, h]
  rfl

theorem mmaComplete_unit {s : State} {cl k : Nat} (h : unitTeam s cl .array = some k) :
    exec (.mmaComplete cl) s = .next ((completeGranted s k .array).modTeam k recheckTeam) := by
  change execMmaComplete cl s = _
  simp only [execMmaComplete, h]
  rfl

theorem drainUnitComplete_unit {s : State} {cl k : Nat} {t : Team} (h : unitTeam s cl .drain = some k) (ht : s.team? k = some t)
    (hgr : (t.granted.any fun g => g.1 == .drain) = true) :
    exec (.drainUnitComplete cl) s = .next ((laterCt (completeGranted s k .drain) t.core).modTeam k recheckTeam) := by
  change execDrainUnitComplete cl s = _
  simp only [execDrainUnitComplete, h, unitDone, ht, hgr, if_true]
  rfl

theorem canopyLoadComplete_next {s : State} {cl k : Nat} {t : Team} {c : PCmd} (h : nextLoad s cl = some (k, t, c)) :
    exec (.canopyLoadComplete cl) s = .next (loadDone s k t c) := by
  change execCanopyLoadComplete cl s = _
  simp only [execCanopyLoadComplete, h]
  rfl

theorem kcpComplete_running {s : State} {k : Nat} {t : Team} {r : Bulk} (ht : s.team? k = some t) (hrun : t.running = some r)
    (hres : t.resident = true) :
    exec (.kcpComplete k) s = .next (bulkFinish s k ((bulkRows r.cmd - r.row) * bulkUnits r.cmd - r.unit)) := by
  change execKcpComplete k s = _
  simp only [execKcpComplete, ht, Option.map_some, hres, Option.getD_some, if_true, bulkDone, Option.bind_some, hrun]
  rfl

/-! ## Rows of a drain (R259) -/

section
variable {t : Team} {acc m : Nat} {tile : Tile} (htile : AMap.find t.tiles acc = some tile)
include htile

theorem drainRow_saturates (hslot : t.lrec.fsl[1]? = some 0x00004515) (hel : tile.el = [(128 * m, 0x43400000), (128 * m + 1, 0x49000000)]) :
    drainRow t acc 1 m = (0x7B :: 0x7F :: List.replicate 126 0, stSAT) := by
  rw [drainRow_inRow (v := [(0, 0x43400000), (1, 0x49000000)]) hslot htile hel (by simp [hel, AMap.Rising]), ← drainedRow_taper8]

theorem drainRow_nan (hslot : t.lrec.fsl[1]? = some 0x00004515) (hel : tile.el = [(128 * m + 127, 0x7FC00001)]) :
    drainRow t acc 1 m = (List.replicate 127 0 ++ [0x80], stINV) := by
  rw [drainRow_inRow (v := [(127, 0x7FC00001)]) hslot htile hel (by simp [hel, AMap.Rising]), ← drainedRow_taper8_nan]

theorem drainRow_exact (hslot : t.lrec.fsl[2]? = some 0)
    (hel : tile.el = [(128 * m, 0x3F800001), (128 * m + 1, 0xFF800000), (128 * m + 2, 0x7FA00000), (128 * m + 3, 0x80000001)]) :
    drainRow t acc 2 m = ([0x01, 0, 0x80, 0x3F, 0, 0, 0x80, 0xFF, 0, 0, 0xC0, 0x7F, 1, 0, 0, 0x80] ++ List.replicate 496 0, stINV) := by
  rw [drainRow_inRow (v := [(0, 0x3F800001), (1, 0xFF800000), (2, 0x7FA00000), (3, 0x80000001)]) hslot htile hel (by simp [hel, AMap.Rising]),
    ← drainedRow_f32]

end

/-! ## Clauses of the obligation -/

/-- The checks and the configuration commands at the head of the matrix queue. -/
theorem matrixHead_outcomes {s : State} {k : Nat} {t : Team} {c : PCmd} {rest : List PCmd} (ht : s.team? k = some t) (hq : t.matrix = c :: rest)
    (hg : c.guard = true) (hready : matrixHeadReady s t = true) :
    (∀ s1 code d, headCheck s t c = .error (s1, code, d) → exec (.postedCommandHead k .matrix) s = .next (failMatrix s1 k c rest code d)) ∧
    (∀ a, c.op = .macq a → t.tiles ≠ [] →
      exec (.postedCommandHead k .matrix) s = .next (failMatrix s k c rest 0x18 (BitVec.ofNat 64 (accOf a)))) ∧
    (∀ a, c.op = .mscl a → exec (.postedCommandHead k .matrix) s = .next (s.setTeam k { t with
      matrix := rest,
      scales := if modBits a.mod 9 9 = 1 then { t.scales with sbb := c.a, spb := c.b } else { t.scales with sba := c.a, spa := c.b } })) ∧
    (∀ a, c.op = .mrel a → (∀ j ∈ cmdTiles c, tileHeld t j = true) → exec (.postedCommandHead k .matrix) s =
      .next (s.setTeam k { t with matrix := rest, tiles := (cmdTiles c).foldl AMap.del t.tiles })) ∧
    (∀ a, c.op = .mzero a → tileHeld t (accOf a) = true → exec (.postedCommandHead k .matrix) s =
      .next (enterTable (s.setTeam k { t with matrix := rest }) k { c with held := [] })) := by
  rw [postedCommandHead_matrix]
  refine ⟨fun s1 code d hcheck => ?_, fun a hop hne => ?_, fun a hop => ?_, fun a hop hheld => ?_, fun a hop hheld => ?_⟩
  · rw [matrixHead_fails ht hq hg hready hcheck]
  · rw [matrixHead_fails ht hq hg hready (headCheck_macq_held hop hne)]
  · rw [matrixHead_mscl ht hq hg hready hop]
  · rw [matrixHead_mrel ht hq hg hready hop hheld]
  · rw [matrixHead_mzero ht hq hg hready hop hheld]

/-- The canopy after the tile of an MLDB (R249): its slots, those it leaves, and the halves that it cuts. -/
theorem canopyPut_spec (cn : AMap Canopy) (j elem : Nat) (cell : Canopy) :
    let wide : Prop := elem = 1 ∨ elem = 2
    let u := canopyPut cn j elem cell
    AMap.find u j = some cell ∧ (wide → AMap.find u (j + 1) = some .second) ∧
    (∀ i, i + 1 ≠ j → i ≠ j → i ≠ j + 1 → i ≠ j + 2 → AMap.find u i = AMap.find cn i) ∧
    (∀ i, i + 1 = j → AMap.find cn j = some .second → AMap.find u i = none) ∧
    (∀ e p rows, (e = 1 ∨ e = 2) → ¬wide → AMap.find cn j = some (.tile e p rows) → AMap.find u (j + 1) = none) ∧
    (∀ e p rows, (e = 1 ∨ e = 2) → wide → (∀ y q z, AMap.find cn j = some (.tile y q z) → y ≠ 1 ∧ y ≠ 2) →
      AMap.find cn (j + 1) = some (.tile e p rows) → AMap.find u (j + 2) = none) := by
  refine ⟨find_canopyPut_first, find_canopyPut_second, fun i => find_canopyPut_other, fun i hi hsecond => ?_,
    fun e p rows he hw htile => find_canopyPut_next he hw htile, fun e p rows he hw hfirst htile => find_canopyPut_beyond he hw hfirst htile⟩
  subst hi
  exact find_canopyPut_below hsecond

/-- Settles O42, clause by clause: heads, table and grants, the elements and rows of an MMA, the drain and the swap, the canopy, the bulk copy. -/
theorem queueAndMatrixEvents : Obligations.QueueAndMatrixEvents := by
  unfold Obligations.QueueAndMatrixEvents
  refine ⟨fun s k t c rest ht hres hg => ⟨fun hq => ?guardBulk, fun hq => ?guardMatrix⟩,
    fun s k t c rest ht hq hg hready => matrixHead_outcomes ht hq hg hready,
    fun s k t c u ht hres hret hent hu hnone => ⟨enterTable_idle ht hres hret hu hnone hent, enterTable_busy ht hres hret hu hnone⟩,
    fun s k t c rest code d ht hf hrest hw => ?failed,
    fun t len => nextPc_waiting,
    fun s cl k t want h => macqGrant_next h,
    fun s k t c rest a ht hres hq hck => ⟨fun hop => ⟨fun hnone => ?scales, fun ea hsome => ?scalesPoisoned⟩, fun hop hclr => ?mstat⟩,
    fun s cl k u t e h => ⟨?grant, fun p hp e2 he2 hu => nextEntry_first h hp he2 hu⟩,
    fun cycle t e => ⟨matrixPrio_old t, matrixPrio_young t⟩,
    fun s k t e ht he hc => reservationAging_ages ht he hc,
    fun s cl k => ⟨mmaComplete_unit, fun t h ht hgr => drainUnitComplete_unit h ht hgr⟩,
    fun s k t c a ht hgr hop hclr => ?mzero,
    fun s cl k t c h => canopyLoadComplete_next h,
    fun s k t r ht hrun hres => kcpComplete_running ht hrun hres,
    ?examples, mmaElement_nan_cases,
    ⟨fun tile m sa xs cols hrise hlen => mmaRow_spec hrise hlen m sa xs, fun tile => ⟨tileImage_length tile, imageTile_rising _,
      imageTile_tileImage_status tile, fun i hi => ⟨imageTile_tileImage_element tile hi, tileImage_element tile hi⟩, tileImage_status tile,
      tileImage_zeros tile⟩⟩,
    fun s k t c a e p rows ht hgr hop hcell => ?mma,
    fun t acc m tile hslot htile => ⟨drainRow_saturates htile hslot, drainRow_nan htile hslot⟩,
    fun t acc m tile hslot htile => drainRow_exact htile hslot,
    fun s k t c acc fs clr ht => drainStep_row ht c acc fs clr,
    fun s k t c ea bs p hwf h16 hheld hcut a => engineWrite_held hwf hheld hcut k h16 a,
    fun s t cache u p held ea hea hu hheld hlease => ?read,
    fun s k t c a ht hgr => ⟨fun hop hprog => unitStep_drain_mem ht hgr hop hprog 128,
      fun hop hprog hstore => unitStep_swapStore_mem ht hgr hop hprog hstore 128,
      fun hop _ hhalf hprog => unitStep_swapLoad ht hgr hop hhalf hprog 128, fun hop hload hhot hprog => ?swapDone⟩,
    fun s t c fs => ⟨rfl, ?canopy⟩,
    fun s k t c src dst p q hwf hglade hsrc hdst hlease hpoison hcut a => bulkUnit_phys k hwf hglade hsrc hdst hlease hpoison hcut a,
    fun s k t r ht hres hrun => ⟨bulkStep_mem ht hres hrun, rfl, rfl⟩⟩
  case guardBulk => rw [postedCommandHead_bulk, bulkHead_guardFalse ht hres hg hq]
  case guardMatrix => rw [postedCommandHead_matrix, matrixHead_guardFalse ht hres hg hq]
  case failed =>
    subst hrest
    exact failMatrix_last ht hf hw code d
  case scales =>
    change (scaleReads s t c a).2 = none at hnone
    rw [execScaleLinesPresent_head ht hres hq hck hop, hnone]
    rfl
  case scalesPoisoned =>
    change (scaleReads s t c a).2 = some ea at hsome
    rw [execScaleLinesPresent_head ht hres hq hck hop, hsome]
    rfl
  case mstat => exact mstatWrite_head ht hres hq hck hop hclr
  case grant =>
    rw [← grantNext_some h]
    rfl
  case mzero =>
    have hdone : unitTotal c ≤ c.prog := by simp only [unitTotal, hop, Nat.zero_le]
    rw [completeGranted_done ht hgr hdone, endGranted_mzero ht hgr hop hclr]
    exact team?_tileDone hgr (accOf a) {} rfl
  case examples =>
    obtain ⟨h1, h2, h3, h4, h5, h6⟩ := mmaElement_taper8_examples
    exact ⟨h1, h2, h3, h4, h5, h6, mmaElement_bf16_examples⟩
  case mma =>
    intro d fa fb hprog hsa hsb hfit hs off
    exact unitStep_mma_row ht hgr hop rfl hcell rfl rfl hprog hsa hsb hfit hs rfl
  case read =>
    have hread := engineRead_held hea hu hheld hlease
    exact ⟨congrArg Prod.fst hread, congrArg Prod.snd hread⟩
  case swapDone =>
    have hdone : unitTotal c ≤ c.prog := by simp only [unitTotal, hop, swapTotal, hprog, le_refl]
    rw [completeGranted_done ht hgr hdone, endGranted_swap ht hgr hop hload hhot]
    exact team?_tileDone hgr (accOf a) (imageTile c.buf.flatten) rfl
  case canopy =>
    obtain ⟨hfirst, hsecond, hother, hbelow, hnext, hbeyond⟩ :=
      canopyPut_spec t.canopy (c.b.toNat % 512) (fslOf t fs).elem (.tile (fslOf t fs).elem c.hot.isSome c.buf)
    exact ⟨hfirst, hsecond, hother, fun _ => ⟨hbelow, hnext, hbeyond⟩⟩

end Sys2Proof.Machine
end

section
/-! SUPPORT. A delivery (R270, R271): the record that it leaves, and what else of the state stays. -/

namespace Sys2Proof.Machine

@[simp] theorem raiseCt_vds (s : State) (core : Nat) (t : DWord) : (raiseCt s core t).vds = s.vds := by
  unfold raiseCt
  split <;> rfl

/-! ## The handler's entry -/

/-- A thread that may be delivered to meets the latest CSRW of CR.FVEC and enters its handler. -/
theorem deliver_enters {s : State} {k tid : Nat} {t : Team} {th : Thread} (ht : s.team? k = some t) (hth : s.thread? k tid = some th)
    (hl : isLive th = false) {code : BitVec 8} (hm : ¬(code = cMASKED ∧ th.arch.mode = true)) (trapno src : BitVec 8) (resume datum : DWord) :
    deliver s k tid code trapno src resume datum =
      (meetCr s t.core (crKey t.vd 0x002)).modThread k tid fun th => enterHandler th (s.vd t.vd).fvec code trapno src resume datum := by
  have hfind : AMap.find t.threads tid = some th := by rw [← thread?_of_team ht, hth]
  simp only [deliver, ht, hfind, hl, Bool.false_eq_true, if_false, if_neg hm]

/-- Meeting a CSRW changes times alone. -/
theorem meetCr_thread? (s : State) (core key k tid : Nat) : (meetCr s core key).thread? k tid = s.thread? k tid :=
  thread?_of_teams (raiseCt_teams ..) k tid

section
variable {s : State} {k tid : Nat} {t : Team} {th : Thread} (ht : s.team? k = some t) (hth : s.thread? k tid = some th)
  (hl : isLive th = false) {code : BitVec 8} (hm : ¬(code = cMASKED ∧ th.arch.mode = true)) (trapno src : BitVec 8) (resume datum : DWord)
include ht hth hl hm

theorem deliver_thread_same : (deliver s k tid code trapno src resume datum).thread? k tid =
    some (enterHandler th (s.vd t.vd).fvec code trapno src resume datum) := by
  rw [deliver_enters ht hth hl hm]
  exact thread?_modThread_same ((meetCr_thread? ..).trans hth) _

theorem deliver_thread_other {j i : Nat} (h : ¬(j = k ∧ i = tid)) :
    (deliver s k tid code trapno src resume datum).thread? j i = s.thread? j i := by
  rw [deliver_enters ht hth hl hm, thread?_modThread_other _ _ (by omega), meetCr_thread?]

theorem deliver_mem : (deliver s k tid code trapno src resume datum).mem = s.mem := by
  rw [deliver_enters ht hth hl hm, modThread_mem, meetCr, raiseCt_mem]

theorem deliver_scratch : (deliver s k tid code trapno src resume datum).scratch = s.scratch := by
  rw [deliver_enters ht hth hl hm, modThread_scratch, meetCr, raiseCt_scratch]

theorem deliver_vds : (deliver s k tid code trapno src resume datum).vds = s.vds := by
  rw [deliver_enters ht hth hl hm, modThread_vds, meetCr, raiseCt_vds]

end

/-! ## The record (R270) -/

section
variable (th : Thread) (fvec resume datum : DWord) (code trapno : BitVec 8) {src : BitVec 8} (hs : src.toNat < 4)
include hs

theorem enterHandler_fstat_toNat : (enterHandler th fvec code trapno src resume datum).cr.fstat.toNat =
    code.toNat * 2 ^ 24 + trapno.toNat * 2 ^ 8 + 2 ^ 7 + src.toNat * 2 ^ 5 + bitNat th.arch.mode * 2 ^ 4 + th.arch.pix.toNat := by
  have hc := code.isLt
  have hn := trapno.isLt
  have hp := th.arch.pix.isLt
  have hm := bitNat_le th.arch.mode
  simp only [enterHandler, BitVec.toNat_ofNat]
  omega

/-- The record of a delivery is live. -/
theorem isLive_enterHandler : isLive (enterHandler th fvec code trapno src resume datum) = true := by
  have hp := th.arch.pix.isLt
  have hm := bitNat_le th.arch.mode
  have hx := enterHandler_fstat_toNat th fvec resume datum code trapno hs
  rw [isLive, BitVec.getLsbD, Nat.testBit_eq_decide_div_mod_eq, decide_eq_true_eq]
  omega

end

/-- A delivery leaves the two of the fault registers that it does not write (R270). The status word is kept opaque here: the kernel would otherwise
compute it to compare the records. -/
theorem enterHandler_kept (th : Thread) (fvec resume datum : DWord) (code trapno src : BitVec 8) :
    (enterHandler th fvec code trapno src resume datum).cr.fscr = th.cr.fscr ∧
    (enterHandler th fvec code trapno src resume datum).cr.hsel = th.cr.hsel := by
  have hcr : ∃ w, (enterHandler th fvec code trapno src resume datum).cr =
      { th.cr with fstat := w, fpc := resume, faddr := datum, fcls := clausePack th.arch.clause th.arch.prio } := ⟨_, rfl⟩
  obtain ⟨w, hw⟩ := hcr
  rw [hw]
  exact ⟨rfl, rfl⟩

/-- Settles O35: a delivery is the handler's entry of its thread, whose record is read field by field. -/
theorem faultRecord : Obligations.FaultRecord := by
  unfold Obligations.FaultRecord
  intro s k tid t th code trapno src resume datum ht hth hl hm hs
  obtain ⟨hfscr, hhsel⟩ := enterHandler_kept th (s.vd t.vd).fvec resume datum code trapno src
  refine ⟨_, deliver_thread_same ht hth hl hm trapno src resume datum, ?stat, rfl, rfl, hfscr, hhsel, ?cls, rfl, rfl, rfl, rfl, rfl, rfl,
    deliver_mem ht hth hl hm .., deliver_scratch ht hth hl hm .., fun j i h => deliver_thread_other ht hth hl hm _ _ _ _ h⟩
  case stat =>
    rw [enterHandler_fstat_toNat _ _ _ _ _ _ hs]
    cases th.arch.mode <;> simp [bitNat]
  case cls =>
    change (clausePack th.arch.clause th.arch.prio).toNat = _
    rw [clausePack_toNat]
    cases th.arch.clause.aflag <;> cases th.arch.clause.bflag <;> simp only [flagNum] <;> omega

end Sys2Proof.Machine
end

section
/-! SUPPORT. TLBINV, TLBSYNC, BRKPT, HALTT and HALTT.go, and the debugger's events (R278, R279, R281, R422). -/

namespace Sys2Proof.Machine

/-- An operation whose effect waits stays at its instruction. -/
theorem threadOp_stays {cls opc : Nat} {i : Args → Instr} {body : Args → Ctx → Res} {pre : Ctx → Args → Prop} {post : Ctx → Args → State}
    (he : ∀ a s, exec (i a) s = runThread cls opc a s (body a)) (hb : ∀ c a, pre c a → body a c = .stay (post c a)) :
    ThreadOp cls opc i pre fun c a => afterStay c a (post c a) := fun s c a h hr hp => by
  rw [he, runThread_ready h hr, hb c a hp]

/-! ## Shootdowns (R278, R422) -/

theorem exec_tlbinv (a : Args) (s : State) : exec (.tlbinv a) s = runThread 1 0xE5 a s fun c =>
    if modBits a.mod 1 0 ≠ 3 ∧ 2 ^ 52 ≤ (read64 c a.sa).toNat then .fault cADDR (read64 c a.sa)
    else .done { clearTlbs c.s (shotBy c.team.vd (modBits a.mod 1 0) (read64 c a.sa).toNat) with
      shoot := c.s.shoot ++ (c.s.walked.filter (shotBy c.team.vd (modBits a.mod 1 0) (read64 c a.sa).toNat)).map fun x =>
        { team := c.key, tid := c.tid, old := x } } := rfl

theorem exec_tlbsync (a : Args) (s : State) : exec (.tlbsync a) s = runThread 1 0xE6 a s fun c =>
    if (c.s.shoot.filter fun h => h.team == c.key && h.tid == c.tid).any fun h => stillHeld c.s h.old then .stay c.s
    else .done ((c.s.shoot.filter fun h => h.team == c.key && h.tid == c.tid).foldl (fun s h => endShot s h.old)
      { c.s with shoot := c.s.shoot.filter fun h => !(h.team == c.key && h.tid == c.tid) }) := rfl

theorem mem_clearTlbs (s : State) (f : Trans → Bool) (c : Nat) (x : Trans) :
    x ∈ AMap.get [] (clearTlbs s f).tlb c ↔ x ∈ AMap.get [] s.tlb c ∧ f x = false := by
  simp only [clearTlbs, AMap.get, AMap.find_map s.tlb fun p => p.2.filter fun x => !f x]
  cases AMap.find s.tlb c <;> simp

theorem endShot_lines (s : State) (old : Trans) : (endShot s old).lines = (dropLines s old).lines := by
  unfold endShot
  dsimp only
  split <;> rfl

/-- The decoded lines that outlast the end of a shootdown are those outside the old frame (R390). -/
theorem mem_endShot_lines (s : State) (old : Trans) (cl : Nat) (l : Line) : l ∈ AMap.get [] (endShot s old).lines cl ↔
    l ∈ AMap.get [] s.lines cl ∧ ¬(old.frame ≤ l.pa ∧ l.pa < old.frame + 2 ^ old.lg) := by
  simp only [endShot_lines, dropLines, AMap.get,
    AMap.find_map s.lines fun p => p.2.filter fun x => !(decide (old.frame ≤ x.pa) && decide (x.pa < old.frame + 2 ^ old.lg))]
  cases AMap.find s.lines cl with
  | none => simp
  | some ls => simp only [Option.map_some, Option.getD_some, List.mem_filter, Bool.not_eq_true', ← Bool.not_eq_true,
      Bool.and_eq_true, decide_eq_true_eq]

/-- A translation of an address meets the page of any size that the address lies in. -/
theorem meets_own_page {va : Nat} {x : Trans} (hva : x.va = va / 2 ^ x.lg * 2 ^ x.lg) (lg : Nat) :
    x.va < va / 2 ^ lg * 2 ^ lg + 2 ^ lg ∧ va / 2 ^ lg * 2 ^ lg < x.va + 2 ^ x.lg := by
  have hlo : va / 2 ^ lg * 2 ^ lg ≤ va := Nat.div_mul_le_self va _
  have hhi : va < va / 2 ^ lg * 2 ^ lg + 2 ^ lg := Nat.lt_div_mul_add (Nat.two_pow_pos lg)
  have hxlo : x.va ≤ va := hva ▸ Nat.div_mul_le_self va _
  have hxhi : va < x.va + 2 ^ x.lg := hva ▸ Nat.lt_div_mul_add (Nat.two_pow_pos x.lg)
  exact ⟨by omega, by omega⟩

theorem shotBy_all {vd va : Nat} {x : Trans} (hvd : x.vd = vd) : shotBy vd 3 va x = true := by simp [shotBy, hvd]

/-- Settles O34: TLBINV and TLBSYNC by the two branches of each, caches and lines by what the filters keep. -/
theorem translationShootdown : Obligations.TranslationShootdown := by
  unfold Obligations.TranslationShootdown
  refine ⟨threadOp_completes exec_tlbinv fun c a hp => if_neg ?named, mem_clearTlbs, threadOp_faults exec_tlbinv fun c a hp => if_pos hp,
    threadOp_completes exec_tlbsync fun c a hp => if_neg ?free, threadOp_stays exec_tlbsync fun c a hp => if_pos ?held, mem_endShot_lines, ?own, ?other⟩
  case named => exact fun ⟨hsz, hva⟩ => hp.elim hsz (Nat.not_lt.2 hva)
  case free => simpa using hp
  case held => simpa using hp
  case own =>
    rintro vd lg va x hvd hva (rfl | rfl | rfl)
    · exact ⟨by simpa [shotBy, hvd] using meets_own_page hva 16, shotBy_all hvd⟩
    · exact ⟨by simpa [shotBy, hvd] using meets_own_page hva 21, shotBy_all hvd⟩
    · exact ⟨by simpa [shotBy, hvd] using meets_own_page hva 30, shotBy_all hvd⟩
  case other =>
    intro vd sz va x hvd
    simp [shotBy, hvd]

/-! ## Halts (R279) -/

/-- The stop of a HALTT of this thread, at this address and of this scope, that has not ended. -/
def haltBegun (c : Ctx) (a : Args) (h : Halt) : Bool :=
  h.team == c.key && h.tid == c.tid && h.pc == c.th.arch.pc && h.scope == modBits a.mod 1 0 && !h.complete

/-- The targets of a HALTT: those of its first performance. -/
def haltScope (c : Ctx) (a : Args) : List (Nat × Option Nat) :=
  match c.s.halts.find? (haltBegun c a) with
  | some h => h.targets
  | none => haltTargets c (modBits a.mod 1 0)

/-- The stop that a HALTT puts in force. -/
def haltOf (c : Ctx) (a : Args) (done : Bool) : Halt :=
  { team := c.key, tid := c.tid, pc := c.th.arch.pc, scope := modBits a.mod 1 0, targets := haltScope c a, complete := done }

/-- A HALTT waits while one of its targets runs, its stop in force. -/
def haltWaits (c : Ctx) (a : Args) (s : State) : Res :=
  if (haltScope c a).any (stillRuns s) then .stay s
  else .done { s with halts := s.halts.map fun h => if haltBegun c a h then { h with complete := true } else h }

theorem exec_haltt (a : Args) (s : State) : exec (.haltt a) s = runThread 1 0xE9 a s fun c =>
    haltWaits c a (if c.s.halts.any (haltBegun c a) then c.s else { c.s with halts := haltOf c a false :: c.s.halts }) := rfl

theorem exec_halttGo (a : Args) (s : State) : exec (.halttGo a) s = runThread 1 0xE9 a s fun c =>
    .done (endHalts c.s fun h => h.team == c.key && h.tid == c.tid) := rfl

theorem exec_brkpt (a : Args) (s : State) : exec (.brkpt a) s = runThread 1 0xE8 a s fun c =>
    if (c.s.vd c.team.vd).dbgctl then
      .done { c.s.modTeam c.key (fun t => { t with dbgStop := true }) with
        breaks := (c.key, modBits a.mod 7 0, c.th.arch.pc) :: (c.s.modTeam c.key fun t => { t with dbgStop := true }).breaks }
    else .done c.s := rfl

/-- A thread is away from every stopping point exactly inside an expansion that does not stand in a wait after its commit. -/
theorem atPoint_eq_false_iff (th : Thread) : atPoint th = false ↔
    ∃ x, th.expansion = some x ∧ ¬(x.committed = true ∧ (th.wait ≠ none ∨ th.rep ≠ none)) := by
  unfold atPoint
  cases th.expansion with
  | none => simp
  | some x =>
    rw [← Bool.not_eq_true]
    simp only [Bool.and_eq_true, Bool.or_eq_true, Option.isSome_iff_ne_none, Option.some.injEq, exists_eq_left']

theorem any_stillRuns_iff (s : State) (targets : List (Nat × Option Nat)) : targets.any (stillRuns s) = true ↔
    ∃ k tid th x, (k, some tid) ∈ targets ∧ s.thread? k tid = some th ∧ th.expansion = some x ∧
      ¬(x.committed = true ∧ (th.wait ≠ none ∨ th.rep ≠ none)) := by
  have hruns (k tid : Nat) : stillRuns s (k, some tid) = true ↔
      ∃ th x, s.thread? k tid = some th ∧ th.expansion = some x ∧ ¬(x.committed = true ∧ (th.wait ≠ none ∨ th.rep ≠ none)) := by
    cases hth : s.thread? k tid with
    | none => simp [stillRuns, hth]
    | some th => simp [stillRuns, hth, atPoint_eq_false_iff]
  rw [List.any_eq_true]
  constructor
  · rintro ⟨⟨k, tid⟩, hmem, hrun⟩
    cases tid with
    | none => cases hrun
    | some tid =>
      obtain ⟨th, x, h⟩ := (hruns k tid).1 hrun
      exact ⟨k, tid, th, x, hmem, h⟩
  · rintro ⟨k, tid, th, x, hmem, h⟩
    exact ⟨(k, some tid), hmem, (hruns k tid).2 ⟨th, x, h⟩⟩

/-- Stops do not move a thread. -/
theorem any_stillRuns_halts (s : State) (hs : List Halt) (targets : List (Nat × Option Nat)) :
    targets.any (stillRuns { s with halts := hs }) = targets.any (stillRuns s) := rfl

theorem haltBegun_haltOf (c : Ctx) (a : Args) : haltBegun c a (haltOf c a false) = true := by simp [haltBegun, haltOf]

section
variable {c : Ctx} {a : Args}

/-- A HALTT without a stop in force puts one in force. -/
theorem haltt_begins (h : ∀ x ∈ c.s.halts, haltBegun c a x = false) :
    haltScope c a = haltTargets c (modBits a.mod 1 0) ∧
    haltWaits c a (if c.s.halts.any (haltBegun c a) then c.s else { c.s with halts := haltOf c a false :: c.s.halts }) =
      if (haltTargets c (modBits a.mod 1 0)).any (stillRuns c.s) then .stay { c.s with halts := haltOf c a false :: c.s.halts }
      else .done { c.s with halts := haltOf c a true :: c.s.halts } := by
  have hfind : c.s.halts.find? (haltBegun c a) = none := List.find?_eq_none.2 fun x hx => by simp [h x hx]
  have hany : c.s.halts.any (haltBegun c a) = false := List.any_eq_false.2 fun x hx => by simp [h x hx]
  have hscope : haltScope c a = haltTargets c (modBits a.mod 1 0) := by rw [haltScope, hfind]
  have hrest : (c.s.halts.map fun x => if haltBegun c a x then { x with complete := true } else x) = c.s.halts := by
    conv_rhs => rw [← List.map_id c.s.halts]
    exact List.map_congr_left fun x hx => by simp [h x hx]
  refine ⟨hscope, ?_⟩
  simp only [haltWaits, hany, Bool.false_eq_true, if_false, any_stillRuns_halts, List.map_cons, haltBegun_haltOf, if_true, hrest, hscope]
  rfl

/-- A HALTT whose stop is in force goes on with the targets of that stop. -/
theorem haltt_goes_on {h : Halt} (hf : c.s.halts.find? (haltBegun c a) = some h) :
    haltWaits c a (if c.s.halts.any (haltBegun c a) then c.s else { c.s with halts := haltOf c a false :: c.s.halts }) =
      if h.targets.any (stillRuns c.s) then .stay c.s
      else .done { c.s with halts := c.s.halts.map fun h => if haltBegun c a h then { h with complete := true } else h } := by
  have hany : c.s.halts.any (haltBegun c a) = true :=
    List.any_eq_true.2 ⟨h, List.mem_of_find?_eq_some hf, List.find?_some (p := haltBegun c a) hf⟩
  simp only [haltWaits, haltScope, hf, hany, if_true]

end

theorem not_mem_haltTargets (c : Ctx) (sc : Nat) : (c.key, some c.tid) ∉ haltTargets c sc := by
  simp [haltTargets]

theorem isHalted_of_target {s : State} {k : Nat} {tid : Option Nat} {h : Halt} (hh : h ∈ s.halts) (hx : (k, tid) ∈ h.targets) :
    isHalted s k tid = true := by
  have hany : s.halts.any (fun h => h.targets.contains (k, tid)) = true :=
    List.any_eq_true.2 ⟨h, hh, List.contains_iff_mem.2 hx⟩
  rw [isHalted, hany, Bool.or_true]

/-- Settles O38: a HALTT finds the stop it has begun or begins one, and then waits for its targets. -/
theorem haltsAndBreakpoints : Obligations.HaltsAndBreakpoints := by
  unfold Obligations.HaltsAndBreakpoints
  refine ⟨threadOp_completes exec_brkpt fun c a hp => if_neg (by simp [hp]), threadOp_completes exec_brkpt fun c a hp => if_pos hp,
    ⟨threadOp_completes exec_haltt fun c a hp => ?fresh, threadOp_stays exec_haltt fun c a hp => ?freshWaits,
      threadOp_stays exec_haltt fun c a hp => ?waits, threadOp_completes exec_haltt fun c a hp => ?ends,
      threadOp_completes exec_halttGo fun _ _ _ => rfl⟩,
    fun s k tid h => isHalted_of_target, not_mem_haltTargets, fun s vd k en t ht => ⟨?attach, ?resume⟩⟩
  case fresh =>
    obtain ⟨hfresh, hruns⟩ := hp
    obtain ⟨hscope, hwaits⟩ := haltt_begins hfresh
    rw [hwaits, if_neg fun h => hruns ((any_stillRuns_iff ..).1 h), haltOf, hscope]
  case freshWaits =>
    obtain ⟨hfresh, hruns⟩ := hp
    obtain ⟨hscope, hwaits⟩ := haltt_begins hfresh
    rw [hwaits, if_pos ((any_stillRuns_iff ..).2 hruns), haltOf, hscope]
  case waits =>
    obtain ⟨h, hfind, hruns⟩ := hp
    exact (haltt_goes_on hfind).trans (if_pos ((any_stillRuns_iff ..).2 hruns))
  case ends =>
    obtain ⟨h, hfind, hruns⟩ := hp
    exact (haltt_goes_on hfind).trans (if_neg fun h => hruns ((any_stillRuns_iff ..).1 h))
  case attach => exact ⟨_, rfl, AMap.get_set_same .., rfl, rfl⟩
  case resume => exact ⟨_, rfl, team?_modTeam_same ht _, modTeam_mem ..⟩

end Sys2Proof.Machine
end

section
/-! SUPPORT. Pending events, the watchdog, the deadlock detector and the passing of time (R271, R273, R323, R324, R330, R444, R445, R452, R487). -/

namespace Sys2Proof

theorem nodup_eraseDups {α : Type} [BEq α] [LawfulBEq α] (l : List α) : l.eraseDups.Nodup := by
  match l with
  | [] => exact List.nodup_nil
  | x :: l =>
    rw [List.eraseDups_cons, List.nodup_cons]
    exact ⟨by simp [List.mem_eraseDups], nodup_eraseDups _⟩
termination_by l.length
decreasing_by exact Nat.lt_succ_of_le (List.length_filter_le ..)

namespace Machine

/-! ## The rank of pending events (R444) -/

/-- An event that is delivered now: a notice of the machine, which a live record holds back unless it doubles the fault (R444, R445). -/
def deliverable (th : Thread) (p : Pending) : Bool := decide (2 ≤ p.rank) && (!isLive th || ((p.rank == 2 || p.rank == 4) && !p.held))

theorem topPending_eq (th : Thread) :
    topPending th = [2, 3, 4, 5].findSome? fun r => th.pending.find? fun p => p.rank == r && deliverable th p := rfl

/-- The first event is deliverable, and no deliverable one is of a lower rank. -/
theorem topPending_some {th : Thread} {p : Pending} (h : topPending th = some p) :
    p ∈ th.pending ∧ deliverable th p = true ∧ ∀ q ∈ th.pending, q.rank ≤ 5 → deliverable th q = true → p.rank ≤ q.rank := by
  obtain ⟨before, r, after, hranks, hfind, hnone⟩ := List.findSome?_eq_some_iff.1 (topPending_eq th ▸ h)
  have hp := List.find?_some hfind
  rw [Bool.and_eq_true, beq_iff_eq] at hp
  obtain ⟨rfl, hdel⟩ := hp
  refine ⟨List.mem_of_find?_eq_some hfind, hdel, fun q hq h5 hqdel => ?_⟩
  by_contra hlt
  have h2 : 2 ≤ q.rank := by
    simp only [deliverable, Bool.and_eq_true, decide_eq_true_eq] at hqdel
    exact hqdel.1
  have hsorted : ([2, 3, 4, 5] : List Nat).Pairwise (· < ·) := by decide
  have hrank : q.rank ∈ ([2, 3, 4, 5] : List Nat) := by simp; omega
  rw [hranks, List.mem_append, List.mem_cons] at hrank
  rw [hranks, List.pairwise_append, List.pairwise_cons] at hsorted
  obtain ⟨-, ⟨hafter, -⟩, -⟩ := hsorted
  rcases hrank with hbefore | heq | hlater
  · have := List.find?_eq_none.1 (hnone q.rank hbefore) q hq
    simp [hqdel] at this
  · omega
  · have := hafter q.rank hlater
    omega

theorem deliverable_of_quiet {th : Thread} (h : isLive th = false) {q : Pending} (h2 : 2 ≤ q.rank) : deliverable th q = true := by
  simp [deliverable, h, h2]

/-- A delivery leaves no event that would be delivered at once: its record is live and holds back what is pending (R444). -/
theorem topPending_enterHandler (th : Thread) (fvec resume datum : DWord) (code trapno : BitVec 8) {src : BitVec 8} (hs : src.toNat < 4) :
    topPending (enterHandler th fvec code trapno src resume datum) = none := by
  have hlive := isLive_enterHandler th fvec resume datum code trapno hs
  have hheld : ∀ p ∈ (enterHandler th fvec code trapno src resume datum).pending, p.held = true := by
    intro p hp
    obtain ⟨q, -, rfl⟩ := List.mem_map.1 hp
    rfl
  rw [topPending_eq, List.findSome?_eq_none_iff]
  intro r _
  exact List.find?_eq_none.2 fun p hp => by simp [deliverable, hlive, hheld p hp]

/-! ## A notice delivered (R444) -/

theorem rollback_native {th : Thread} (h : th.expansion = none) :
    rollback th = { th with pending := th.pending.filter fun p => p.rank != 1, rep := none, spawn := none } := by
  simp [rollback, h]

/-- The thread at its boundary, the event taken out of those pending. -/
def noticeTaken (p : Pending) (th : Thread) : Thread := rollback { th with pending := th.pending.erase p }

/-- A native thread keeps its registers and fault registers. -/
theorem noticeTaken_native {th : Thread} (h : th.expansion = none) (p : Pending) :
    (noticeTaken p th).arch = th.arch ∧ (noticeTaken p th).cr = th.cr := by
  have hback := rollback_native (th := { th with pending := th.pending.erase p }) h
  rw [noticeTaken, hback]
  exact ⟨rfl, rfl⟩

section
variable {s : State} {k tid : Nat} {t : Team} {th : Thread} {p : Pending} (ht : s.team? k = some t) (hth : s.thread? k tid = some th)
  (hp : topPending th = some p) (hx : th.expansion = none)
include ht hth hp hx

/-- At a native thread the first pending event is delivered, the instruction there not executed. -/
theorem asyncNotice_native : exec (.asyncNoticeDelivery (.thread k tid)) s =
    .next (deliver (s.modThread k tid (noticeTaken p)) k tid p.code 0 (srcOf p.rank) th.arch.pc p.datum) := by
  have hpc : ((s.modThread k tid (noticeTaken p)).thread? k tid).map (fun th => th.arch.pc) = some th.arch.pc := by
    rw [thread?_modThread_same hth, Option.map_some, (noticeTaken_native hx p).1]
  have hpoint : (th.pastCommit || !(atPoint th || (th.expansion.map fun x => x.checked).getD false)) = false := by
    simp [Thread.pastCommit, atPoint, hx]
  change execAsyncNoticeDelivery (.thread k tid) s = _
  simp only [execAsyncNoticeDelivery, ht, hth, hp, hpoint, Bool.false_eq_true, if_false]
  exact congrArg (fun pc => event (deliver (s.modThread k tid (noticeTaken p)) k tid p.code 0 (srcOf p.rank) (pc.getD 0) p.datum)) hpc

theorem asyncNotice_enters (hl : isLive th = false) (hm : ¬(p.code = cMASKED ∧ th.arch.mode = true)) :
    ∃ u, exec (.asyncNoticeDelivery (.thread k tid)) s = .next u ∧ u.mem = s.mem ∧
      u.thread? k tid = some (enterHandler (noticeTaken p th) (s.vd t.vd).fvec p.code 0 (srcOf p.rank) th.arch.pc p.datum) := by
  obtain ⟨harch, hcr⟩ := noticeTaken_native hx p
  have hl' : isLive (noticeTaken p th) = false := by rw [isLive, hcr]; exact hl
  have hm' : ¬(p.code = cMASKED ∧ (noticeTaken p th).arch.mode = true) := by rw [harch]; exact hm
  have hth' := thread?_modThread_same hth (noticeTaken p)
  have ht' := modThread_some ht hth (noticeTaken p) ▸ team?_setTeam_same s k { t with threads := AMap.set t.threads tid (noticeTaken p th) }
  refine ⟨_, asyncNotice_native ht hth hp hx, ?_, ?_⟩
  · rw [deliver_mem ht' hth' hl' hm', modThread_mem]
  · rw [deliver_thread_same ht' hth' hl' hm', modThread_vd]

end

/-! ## The thread that takes a team's event (R273, R452) -/

theorem leastBy_none {α : Type} {f : α → Nat} {l : List α} (h : leastBy f l = none) : l = [] := by
  cases l with
  | nil => rfl
  | cons x r =>
    unfold leastBy at h
    split at h
    · cases h
    · split_ifs at h

theorem leastBy_some {α : Type} {f : α → Nat} {l : List α} {x : α} (h : leastBy f l = some x) : x ∈ l ∧ ∀ y ∈ l, f x ≤ f y := by
  induction l generalizing x with
  | nil => cases h
  | cons y r ih =>
    rw [leastBy] at h
    cases hr : leastBy f r with
    | none =>
      rw [hr] at h
      obtain rfl := Option.some.inj h
      rw [leastBy_none hr]
      simp
    | some z =>
      obtain ⟨hz, hleast⟩ := ih hr
      simp only [hr] at h
      split at h
      · obtain rfl := Option.some.inj h
        exact ⟨List.mem_cons_of_mem _ hz, List.forall_mem_cons.2 ⟨by omega, hleast⟩⟩
      · obtain rfl := Option.some.inj h
        exact ⟨List.mem_cons_self, List.forall_mem_cons.2 ⟨Nat.le_refl _, fun w hw => Nat.le_trans (by omega) (hleast w hw)⟩⟩

/-- It is the lowest of those whose record is not live. -/
theorem quietThread_some {t : Team} {tid : Nat} (h : quietThread t = some tid) :
    (∃ th, (tid, th) ∈ t.threads ∧ isLive th = false ∧ th.dead = false) ∧
    ∀ p ∈ t.threads, isLive p.2 = false → p.2.dead = false → tid ≤ p.1 := by
  obtain ⟨⟨j, th⟩, hleast, rfl⟩ := Option.map_eq_some_iff.1 h
  obtain ⟨hmem, hall⟩ := leastBy_some hleast
  simp only [List.mem_filter, Bool.and_eq_true, Bool.not_eq_true'] at hmem
  exact ⟨⟨th, hmem⟩, fun p hp hl hd => hall p (by simp [hp, hl, hd])⟩

section
variable {s : State} {k : Nat} {t : Team}

theorem uniformFault_lone (ht : s.team? k = some t) {x : UFault} {rest : List UFault} (hf : t.ufault = x :: rest) (hnone : t.threads = []) :
    exec (.uniformFaultDelivery k) s = .next (terminateGang s t.gang x.code 0 t.teamid 0xFFFFFFFF x.datum true) := by
  change execUniformFaultDelivery k s = _
  simp [execUniformFaultDelivery, ht, hf, hnone, event]

theorem uniformFault_quiet (ht : s.team? k = some t) {x : UFault} {rest : List UFault} (hf : t.ufault = x :: rest) {tid : Nat}
    (hq : quietThread t = some tid) : exec (.uniformFaultDelivery k) s =
      .next ((s.setTeam k { t with ufault := rest }).modThread k tid fun th => addPending th 3 x.code x.datum) := by
  obtain ⟨⟨th, hmem, -, -⟩, -⟩ := quietThread_some hq
  have hne : t.threads ≠ [] := List.ne_nil_of_mem hmem
  change execUniformFaultDelivery k s = _
  simp [execUniformFaultDelivery, ht, hf, hne, hq, event]

/-! ## The watchdog (R451, R452) -/

/-- What the expiry of the first due watchdog does. -/
theorem exec_watchdog (hdue : (s.teams.find? fun p => watchdogDue p.2) = some (k, t)) {d : DWord} (hd : t.wdDue = some d) :
    exec .watchdog s =
      let s1 := s.setTeam k { t with wdDue := none }
      let gone := terminateGang s1 t.gang cWATCHDOG 0 t.teamid 0xFFFFFFFF d true
      .next (if t.threads.any fun p => isLive p.2 && p.2.cr.fstat.toNat / 2 ^ 24 == 0x1C then gone
        else (quietThread t).elim gone fun tid =>
          (s1.modTeam k fun t => { t with wdcnt := 0 }).modThread k tid fun th => addPending th 5 cWATCHDOG d) := by
  change execWatchdog s = _
  simp only [execWatchdog, hdue, hd, Option.getD_some, event]
  split
  · rfl
  · cases quietThread t <;> rfl

theorem watchdog_terminates (hdue : (s.teams.find? fun p => watchdogDue p.2) = some (k, t)) {d : DWord} (hd : t.wdDue = some d)
    (h : quietThread t = none ∨ ∃ p ∈ t.threads, isLive p.2 = true ∧ p.2.cr.fstat.toNat / 2 ^ 24 = 0x1C) :
    exec .watchdog s = .next (terminateGang (s.setTeam k { t with wdDue := none }) t.gang cWATCHDOG 0 t.teamid 0xFFFFFFFF d true) := by
  rw [exec_watchdog hdue hd]
  dsimp only
  rcases h with hq | ⟨p, hp, hl, hc⟩
  · simp only [hq, Option.elim_none, ite_self]
  · rw [if_pos]
    exact List.any_eq_true.2 ⟨p, hp, by simp only [hl, hc, beq_self_eq_true, Bool.and_self]⟩

theorem watchdog_pends (hdue : (s.teams.find? fun p => watchdogDue p.2) = some (k, t)) {d : DWord} (hd : t.wdDue = some d) {tid : Nat}
    (hq : quietThread t = some tid) (hno : ∀ p ∈ t.threads, isLive p.2 = true → p.2.cr.fstat.toNat / 2 ^ 24 ≠ 0x1C) :
    exec .watchdog s = .next (((s.setTeam k { t with wdDue := none }).modTeam k fun t => { t with wdcnt := 0 }).modThread k tid
      fun th => addPending th 5 cWATCHDOG d) := by
  rw [exec_watchdog hdue hd]
  dsimp only
  rw [if_neg, hq, Option.elim_some]
  simpa using fun j th hp => hno (j, th) hp

end

theorem tickWatchdog_counts {t : Team} (h : t.dbgStop = false) (g : DWord) : (tickWatchdog t true g).wdcnt = t.wdcnt + 1 := by
  simp [tickWatchdog, h]

theorem tickWatchdog_expires {t : Team} (h : t.dbgStop = false) (g : DWord) (hd : t.wdDue = none) :
    (tickWatchdog t true g).wdDue = if t.wdlim ≠ 0 ∧ t.wdlim.toNat ≤ (t.wdcnt + 1).toNat then some g else none := by
  simp [tickWatchdog, h, hd]

/-! ## The deadlock detector (R323, R324) -/

/-- A delivery moves no team to another virtual device. -/
theorem deliver_team_vd {s : State} {k tid : Nat} {t : Team} {th : Thread} (ht : s.team? k = some t) (hth : s.thread? k tid = some th)
    (hl : isLive th = false) {code : BitVec 8} (hm : ¬(code = cMASKED ∧ th.arch.mode = true)) (trapno src : BitVec 8) (resume datum : DWord)
    (j : Nat) : ((deliver s k tid code trapno src resume datum).team? j).map Team.vd = (s.team? j).map Team.vd := by
  have hteam : (meetCr s t.core (crKey t.vd 0x002)).team? = s.team? := by
    funext i
    simp only [State.team?, meetCr, raiseCt_teams]
  rw [deliver_enters ht hth hl hm, State.modThread]
  by_cases hj : k = j
  · subst hj
    rw [team?_modTeam_same (hteam ▸ ht), ht]
    split <;> rfl
  · rw [team?_modTeam_other _ _ hj, hteam]

/-- The detector's delivery to a thread of the state `s`. -/
def deadlockDeliver (s u : State) (v : Nat × Nat) : State :=
  match s.thread? v.1 v.2 with
  | some th => deliver u v.1 v.2 cRENDEZVOUS 0 2 th.arch.pc ((th.wait.map deadlockDatum).getD 0)
  | none => u

/-- The threads of a gang's teams. -/
def gangThreads (s : State) (g : Gang) : List (Nat × Nat) :=
  (g.teams.filterMap fun k => (s.team? k).map fun t => t.threads.map fun p => (k, p.1)).flatten.eraseDups

theorem exec_rendezvousDeadlock {s : State} {gk : Nat} {g : Gang} (h : (s.gangs.find? fun p => deadlocked s p.1 p.2) = some (gk, g)) :
    exec .rendezvousDeadlock s =
      .next (((gangThreads s g).foldl (deadlockDeliver s) s).modGang gk fun g => { g with blocked := none }) := by
  change execRendezvousDeadlock s = _
  simp only [execRendezvousDeadlock, h, event]
  rfl

theorem team_of_gangThreads {s : State} {g : Gang} {k tid : Nat} (h : (k, tid) ∈ gangThreads s g) : k ∈ g.teams := by
  simp only [gangThreads, List.mem_eraseDups, List.mem_flatten, List.mem_filterMap, Option.map_eq_some_iff] at h
  obtain ⟨_, ⟨j, hj, t, -, rfl⟩, hmem⟩ := h
  obtain ⟨p, -, hp⟩ := List.mem_map.1 hmem
  exact (Prod.mk.inj hp).1 ▸ hj

theorem mem_gangThreads {s : State} {g : Gang} {k tid : Nat} {t : Team} {th : Thread} (hk : k ∈ g.teams) (ht : s.team? k = some t)
    (hth : s.thread? k tid = some th) : (k, tid) ∈ gangThreads s g := by
  rw [thread?_of_team ht] at hth
  simp only [gangThreads, List.mem_eraseDups, List.mem_flatten, List.mem_filterMap, Option.map_eq_some_iff]
  exact ⟨_, ⟨k, hk, t, ht, rfl⟩, List.mem_map.2 ⟨(tid, th), AMap.mem_of_find hth, rfl⟩⟩

/-- Deliveries to threads, each once, whose records are not live: each of them enters its handler, and every other thread is as it was. -/
theorem deadlockDeliver_all {s : State} (vs : List (Nat × Nat)) (hnd : vs.Nodup)
    (hl : ∀ v ∈ vs, ∀ th, s.thread? v.1 v.2 = some th → isLive th = false) :
    let u := vs.foldl (deadlockDeliver s) s
    u.mem = s.mem ∧ u.vds = s.vds ∧ (∀ j, (u.team? j).map Team.vd = (s.team? j).map Team.vd) ∧
    (∀ k tid, (k, tid) ∉ vs → u.thread? k tid = s.thread? k tid) ∧
    ∀ k tid t th, (k, tid) ∈ vs → s.team? k = some t → s.thread? k tid = some th → u.thread? k tid =
      some (enterHandler th (s.vd t.vd).fvec cRENDEZVOUS 0 2 th.arch.pc ((th.wait.map deadlockDatum).getD 0)) := by
  induction vs using List.reverseRecOn with
  | nil => exact ⟨rfl, rfl, fun _ => rfl, fun _ _ _ => rfl, fun _ _ _ _ h => absurd h List.not_mem_nil⟩
  | append_singleton vs v ih =>
    obtain ⟨hnd', hv⟩ : vs.Nodup ∧ v ∉ vs := by
      rw [List.nodup_append] at hnd
      exact ⟨hnd.1, fun h => hnd.2.2 v h v (List.mem_singleton_self v) rfl⟩
    obtain ⟨hmem, hvds, hteam, hother, hthere⟩ := ih hnd' fun w hw => hl w (List.mem_append_left _ hw)
    rw [List.foldl_append, List.foldl_cons, List.foldl_nil]
    generalize vs.foldl (deadlockDeliver s) s = u at hmem hvds hteam hother hthere ⊢
    obtain ⟨k, tid⟩ := v
    cases hth : s.thread? k tid with
    | none =>
      simp only [deadlockDeliver, hth]
      refine ⟨hmem, hvds, hteam, fun j i h => hother j i fun hm => h (List.mem_append_left _ hm), fun j i t th h ht hji => ?_⟩
      rcases List.mem_append.1 h with h | h
      · exact hthere j i t th h ht hji
      · obtain ⟨rfl, rfl⟩ := Prod.mk.inj (List.mem_singleton.1 h)
        exact nomatch hth.symm.trans hji
    | some th =>
      obtain ⟨t, ht, -⟩ := Option.bind_eq_some_iff.1 hth
      have hlive := hl (k, tid) (by simp) th hth
      have huth : u.thread? k tid = some th := (hother k tid hv).trans hth
      obtain ⟨t', ht', hvd⟩ : ∃ t', u.team? k = some t' ∧ t'.vd = t.vd := by
        have := hteam k
        rw [ht, Option.map_some, Option.map_eq_some_iff] at this
        exact this
      have hm : ¬(cRENDEZVOUS = cMASKED ∧ th.arch.mode = true) := fun h => absurd h.1 (by decide)
      simp only [deadlockDeliver, hth]
      refine ⟨(deliver_mem ht' huth hlive hm ..).trans hmem, (deliver_vds ht' huth hlive hm ..).trans hvds,
        fun j => (deliver_team_vd ht' huth hlive hm _ _ _ _ j).trans (hteam j), fun j i h => ?_, fun j i t2 th2 h ht2 hth2 => ?_⟩
      · have hne : ¬(j = k ∧ i = tid) := fun ⟨hj, hi⟩ => h (by simp [hj, hi])
        rw [deliver_thread_other ht' huth hlive hm _ _ _ _ hne]
        exact hother j i fun hm => h (List.mem_append_left _ hm)
      · by_cases hji : j = k ∧ i = tid
        · obtain ⟨rfl, rfl⟩ := hji
          obtain rfl := Option.some.inj (hth.symm.trans hth2)
          obtain rfl := Option.some.inj (ht.symm.trans ht2)
          rw [deliver_thread_same ht' huth hlive hm, hvd, State.vd, hvds]
          rfl
        · rw [deliver_thread_other ht' huth hlive hm _ _ _ _ hji]
          rcases List.mem_append.1 h with h | h
          · exact hthere j i t2 th2 h ht2 hth2
          · exact absurd (Prod.mk.inj (List.mem_singleton.1 h)) hji

/-- A blocked gang's threads all wait (R323). -/
theorem wait_of_deadlocked {s : State} {gk : Nat} {g : Gang} (h : deadlocked s gk g = true) {k tid : Nat} {t : Team} {th : Thread}
    (hk : k ∈ g.teams) (ht : s.team? k = some t) (hth : s.thread? k tid = some th) : ∃ w, th.wait = some w := by
  simp only [deadlocked, gangBlocked, Bool.and_eq_true, List.all_eq_true] at h
  obtain ⟨⟨⟨-, hall⟩, -⟩, -⟩ := h
  rw [thread?_of_team ht] at hth
  have hin : th ∈ ((g.teams.filterMap fun k => (s.team? k).map fun t => (k, t)).map fun p => p.2.threads.map Prod.snd).flatten := by
    simp only [List.mem_flatten, List.mem_map, List.mem_filterMap, Option.map_eq_some_iff]
    exact ⟨_, ⟨(k, t), ⟨k, hk, t, ht, rfl⟩, rfl⟩, List.mem_map.2 ⟨(tid, th), AMap.mem_of_find hth, rfl⟩⟩
  have hwait := (hall th hin).2
  cases hw : th.wait with
  | none => simp [hw] at hwait
  | some w => exact ⟨w, rfl⟩

@[simp] theorem modGang_mem (s : State) (k : Nat) (f : Gang → Gang) : (s.modGang k f).mem = s.mem := by
  unfold State.modGang
  split <;> rfl

@[simp] theorem modGang_teams (s : State) (k : Nat) (f : Gang → Gang) : (s.modGang k f).teams = s.teams := by
  unfold State.modGang
  split <;> rfl

theorem rendezvousDeadlock_delivers {s : State} {gk : Nat} {g : Gang} (h : (s.gangs.find? fun p => deadlocked s p.1 p.2) = some (gk, g))
    (hl : ∀ k tid th, k ∈ g.teams → s.thread? k tid = some th → isLive th = false) :
    ∃ u, exec .rendezvousDeadlock s = .next u ∧ u.mem = s.mem ∧
      (∀ k tid t th, k ∈ g.teams → s.team? k = some t → s.thread? k tid = some th → ∃ w, th.wait = some w ∧
        u.thread? k tid = some (enterHandler th (s.vd t.vd).fvec cRENDEZVOUS 0 2 th.arch.pc (deadlockDatum w))) ∧
      ∀ k tid, k ∉ g.teams → u.thread? k tid = s.thread? k tid := by
  obtain ⟨hmem, -, -, hother, hthere⟩ := deadlockDeliver_all (s := s) (gangThreads s g) (nodup_eraseDups _)
    fun v hv th hth => hl v.1 v.2 th (team_of_gangThreads hv) hth
  have hblocked : deadlocked s gk g = true := List.find?_some (p := fun p : Nat × Gang => deadlocked s p.1 p.2) h
  refine ⟨_, exec_rendezvousDeadlock h, (modGang_mem ..).trans hmem, fun k tid t th hk ht hth => ?_, fun k tid hk => ?_⟩
  · obtain ⟨w, hw⟩ := wait_of_deadlocked hblocked hk ht hth
    refine ⟨w, hw, ?_⟩
    rw [thread?_of_teams (modGang_teams ..), hthere k tid t th (mem_gangThreads hk ht hth) ht hth, hw]
    rfl
  · rw [thread?_of_teams (modGang_teams ..)]
    exact hother k tid fun hv => hk (team_of_gangThreads hv)

/-! ## Time (R330, R487) -/

/-- Counting leaves all but the counters. -/
theorem foldl_addPerf_frame (n : Nat) (l : List (Nat × Nat)) {s u : State} (h : u = { s with perf := u.perf }) :
    l.foldl (fun s x => addPerf s x.1 x.2 n 8) u = { s with perf := (l.foldl (fun s x => addPerf s x.1 x.2 n 8) u).perf } := by
  induction l generalizing u with
  | nil => exact h
  | cons x l ih => exact ih (by rw [h]; rfl)

theorem get_perf_addPerf (s : State) (vd core n : Nat) (x : DWord) (m : Nat) :
    AMap.get 0 (addPerf s vd core n x).perf m = AMap.get 0 s.perf m + if m = perfKey vd core n then x else 0 := by
  by_cases h : m = perfKey vd core n
  · simp [addPerf, h]
  · simp [addPerf, h, AMap.get_set_other _ _ _ (Ne.symm h)]

/-- Counting each of some places once. -/
theorem get_perf_foldl_addPerf (n : Nat) {l : List (Nat × Nat)} (hnd : (l.map fun x => perfKey x.1 x.2 n).Nodup) (s : State) (m : Nat) :
    AMap.get 0 (l.foldl (fun s x => addPerf s x.1 x.2 n 8) s).perf m =
      AMap.get 0 s.perf m + if m ∈ l.map (fun x => perfKey x.1 x.2 n) then 8 else 0 := by
  induction l generalizing s with
  | nil => simp
  | cons x l ih =>
    rw [List.map_cons, List.nodup_cons] at hnd
    obtain ⟨hx, hnd⟩ := hnd
    rw [List.foldl_cons, ih hnd, get_perf_addPerf]
    have hcons : m ∈ (x :: l).map (fun x => perfKey x.1 x.2 n) ↔ m = perfKey x.1 x.2 n ∨ m ∈ l.map fun x => perfKey x.1 x.2 n := List.mem_cons
    by_cases hm : m = perfKey x.1 x.2 n
    · rw [if_pos hm, if_neg (hm ▸ hx), if_pos (hcons.2 (.inl hm)), add_zero]
    · rw [if_neg hm, add_zero]
      simp only [hcons, hm, false_or]

/-- On the cores of the package, a counter's key names its virtual device and core. -/
theorem perfKey_inj {vd vd' core core' n : Nat} (hc : core < 768) (hc' : core' < 768) (h : perfKey vd core n = perfKey vd' core' n) :
    (vd, core) = (vd', core') := by
  unfold perfKey at h
  exact Prod.ext (by omega) (by omega)

theorem nodup_perfKeys {l : List (Nat × Nat)} (hnd : l.Nodup) (hc : ∀ x ∈ l, x.2 < 768) (n : Nat) :
    (l.map fun x => perfKey x.1 x.2 n).Nodup :=
  hnd.map_on fun x hx y hy h => perfKey_inj (hc x hx) (hc y hy) h

/-- The virtual devices that run on cores. -/
def residentCores (s : State) : List (Nat × Nat) :=
  ((s.teams.filter fun p => p.2.resident && !p.2.retired && gangPlaced s p.2).map fun p => (p.2.vd, p.2.core)).eraseDups

/-- The virtual devices that run on clusters, each named by its first core. -/
def residentClusters (s : State) : List (Nat × Nat) := ((residentCores s).map fun x => (x.1, x.2 / 4 * 4)).eraseDups

theorem countCycles_eq (s : State) : countCycles s =
    (residentClusters s).foldl (fun s x => addPerf s x.1 x.2 0x8000 8) ((residentCores s).foldl (fun s x => addPerf s x.1 x.2 0 8) s) := rfl

theorem countCycles_frame (s : State) : countCycles s = { s with perf := (countCycles s).perf } :=
  foldl_addPerf_frame 0x8000 _ (foldl_addPerf_frame 0 _ rfl)

section
variable {s : State} (hc : ∀ p ∈ s.teams, p.2.core < 768)
include hc

theorem residentCores_lt : ∀ x ∈ residentCores s, x.2 < 768 := by
  intro x hx
  obtain ⟨p, hp, rfl⟩ := List.mem_map.1 (List.mem_eraseDups.1 hx)
  exact hc p (List.mem_filter.1 hp).1

theorem residentClusters_lt : ∀ x ∈ residentClusters s, x.2 < 768 := by
  intro x hx
  obtain ⟨y, hy, rfl⟩ := List.mem_map.1 (List.mem_eraseDups.1 hx)
  have := residentCores_lt hc y hy
  dsimp only
  omega

/-- A running team's virtual device is counted once on its core and once on its cluster. -/
theorem countCycles_counts {p : Nat × Team} (hp : p ∈ s.teams) (hres : p.2.resident = true) (hret : p.2.retired = false)
    (hpl : gangPlaced s p.2 = true) :
    AMap.get 0 (countCycles s).perf (perfKey p.2.vd p.2.core 0) = AMap.get 0 s.perf (perfKey p.2.vd p.2.core 0) + 8 ∧
    AMap.get 0 (countCycles s).perf (perfKey p.2.vd (p.2.core / 4 * 4) 0x8000) =
      AMap.get 0 s.perf (perfKey p.2.vd (p.2.core / 4 * 4) 0x8000) + 8 := by
  have hcore : (p.2.vd, p.2.core) ∈ residentCores s :=
    List.mem_eraseDups.2 (List.mem_map.2 ⟨p, List.mem_filter.2 ⟨hp, by simp [hres, hret, hpl]⟩, rfl⟩)
  have hcluster : (p.2.vd, p.2.core / 4 * 4) ∈ residentClusters s := List.mem_eraseDups.2 (List.mem_map.2 ⟨_, hcore, rfl⟩)
  have hdistinct (vd core vd' core' : Nat) : perfKey vd core 0 ≠ perfKey vd' core' 0x8000 := by unfold perfKey; omega
  have hcores : ((residentCores s).map fun x => perfKey x.1 x.2 0).Nodup := nodup_perfKeys (nodup_eraseDups _) (residentCores_lt hc) 0
  have hclusters : ((residentClusters s).map fun x => perfKey x.1 x.2 0x8000).Nodup :=
    nodup_perfKeys (nodup_eraseDups _) (residentClusters_lt hc) 0x8000
  rw [countCycles_eq, get_perf_foldl_addPerf _ hclusters, get_perf_foldl_addPerf _ hcores, get_perf_foldl_addPerf _ hclusters,
    get_perf_foldl_addPerf _ hcores]
  constructor
  · rw [if_pos (List.mem_map.2 ⟨_, hcore, rfl⟩), if_neg, add_zero]
    intro h
    obtain ⟨x, -, hx⟩ := List.mem_map.1 h
    exact hdistinct _ _ _ _ hx.symm
  · rw [if_neg, add_zero, if_pos (List.mem_map.2 ⟨_, hcluster, rfl⟩)]
    intro h
    obtain ⟨x, -, hx⟩ := List.mem_map.1 h
    exact hdistinct _ _ _ _ hx

end

/-- A team with nothing in its units has no engine that goes on. -/
theorem engineDrift_idle {s : State} (h : ∀ p ∈ s.teams, p.2.granted = [] ∧ p.2.loads = [] ∧ p.2.running = none) (k : Nat) :
    engineDrift s k = s := by
  unfold engineDrift
  cases ht : s.team? k with
  | none => rfl
  | some t =>
    obtain ⟨hg, hl, hr⟩ := h (k, t) (AMap.mem_of_find ht)
    simp only at hg hl hr
    simp [hg, hl, hr]

/-- CT rises by 1 in every core as 8 cycles pass. -/
theorem ctOf_eight_cycles {s u : State} (hcycle : u.cycle = s.cycle + 8) (hct : u.ct = s.ct) (core : Nat) : ctOf u core = ctOf s core + 1 := by
  have hdiv : (s.cycle + 8) / 8 = s.cycle / 8 + 1 := by omega
  rw [ctOf, ctOf, hcycle, hct, hdiv, BitVec.ofNat_add]
  exact add_right_comm ..

/-- With no engine at work the drift is the counts of resident cycles, the cycles, and the detector's counts. -/
theorem ctDrift_idle {s : State} (h : ∀ p ∈ s.teams, p.2.granted = [] ∧ p.2.loads = [] ∧ p.2.running = none) :
    ∃ gangs, exec .ctDrift s = .next { s with perf := (countCycles s).perf, cycle := s.cycle + 8, gangs := gangs } := by
  change ∃ gangs, execCtDrift s = _
  unfold execCtDrift
  rw [List.foldl_fixed' (engineDrift_idle h), countCycles_frame]
  exact ⟨_, rfl⟩

/-- Settles O45, clause by clause from the rules above. -/
theorem noticesAndDetectors : Obligations.NoticesAndDetectors := by
  unfold Obligations.NoticesAndDetectors
  refine ⟨fun s k tid t th p ht hth hp hx hl hm => asyncNotice_enters ht hth hp hx hl hm, fun th p hp => ?top,
    fun th fvec resume datum code trapno src hs => ⟨topPending_enterHandler th fvec resume datum code trapno hs, ?held⟩,
    fun s k t x rest ht hf => ⟨uniformFault_lone ht hf, fun tid => uniformFault_quiet ht hf⟩,
    fun s k t hdue d hd => ⟨fun hq => watchdog_terminates hdue hd (.inl hq),
      fun p hp hl hc => watchdog_terminates hdue hd (.inr ⟨p, hp, hl, hc⟩), fun tid => watchdog_pends hdue hd⟩,
    fun s hw => if_pos hw, fun t g h => ⟨tickWatchdog_counts h g, tickWatchdog_expires h g⟩, fun t tid => quietThread_some,
    fun s gk g => rendezvousDeadlock_delivers, fun s => ⟨⟨_, rfl, rfl⟩, fun hidle => ?idle⟩⟩
  case top =>
    obtain ⟨hmem, hdel, hleast⟩ := topPending_some hp
    have hok := hdel
    simp only [deliverable, Bool.and_eq_true, decide_eq_true_eq] at hok
    refine ⟨hmem, hok.1, fun hl => by simpa [hl] using hok.2, fun hl q hq h2 h5 => hleast q hq h5 (deliverable_of_quiet hl h2)⟩
  case held =>
    simp [enterHandler]
  case idle =>
    obtain ⟨gangs, hdrift⟩ := ctDrift_idle hidle
    exact ⟨_, hdrift, rfl, rfl, rfl, rfl, ctOf_eight_cycles rfl rfl, fun hc p hp => countCycles_counts hc hp⟩

end Machine

end Sys2Proof
end

section
/-! SUPPORT. What performed accesses, copies and commands leave of gangs and launches (R310, R399, R428, R449): the gangs, and the nodes of each launch. -/

namespace Sys2Proof.Machine

/-- `u` has the gangs of `s`, and the nodes of each of its launches. -/
structure KeepsJobs (s u : State) : Prop where
  gangs : u.gangs = s.gangs
  nodes : ∀ l, (AMap.find u.launches l).map Launch.nodes = (AMap.find s.launches l).map Launch.nodes

namespace KeepsJobs

theorem refl (s : State) : KeepsJobs s s := ⟨rfl, fun _ => rfl⟩

theorem trans {s u v : State} (h : KeepsJobs s u) (h' : KeepsJobs u v) : KeepsJobs s v :=
  ⟨h'.gangs.trans h.gangs, fun l => (h'.nodes l).trans (h.nodes l)⟩

/-- The two fields are as they were. -/
theorem of_fields {s u : State} (hg : u.gangs = s.gangs) (hl : u.launches = s.launches) : KeepsJobs s u := ⟨hg, fun _ => by rw [hl]⟩

theorem foldl {α : Type} {f : State → α → State} (hf : ∀ s a, KeepsJobs s (f s a)) (as : List α) (s : State) : KeepsJobs s (as.foldl f s) := by
  induction as generalizing s with
  | nil => exact refl s
  | cons a as ih => exact (hf s a).trans (ih _)

/-- Steps that collect something beside the state. -/
theorem foldl_fst {α β : Type} {f : State × β → α → State × β} (hf : ∀ r a, KeepsJobs r.1 (f r a).1) (as : List α) (r : State × β) :
    KeepsJobs r.1 (as.foldl f r).1 := by
  induction as generalizing r with
  | nil => exact refl r.1
  | cons a as ih => exact (hf r a).trans (ih _)

end KeepsJobs

/-! ## Changes of teams and threads -/

theorem keepsJobs_setTeam (s : State) (k : Nat) (t : Team) : KeepsJobs s (s.setTeam k t) := .of_fields rfl rfl

theorem keepsJobs_modTeam (s : State) (k : Nat) (f : Team → Team) : KeepsJobs s (s.modTeam k f) :=
  .of_fields (modTeam_gangs ..) (modTeam_launches ..)

theorem keepsJobs_modThread (s : State) (k tid : Nat) (f : Thread → Thread) : KeepsJobs s (s.modThread k tid f) := keepsJobs_modTeam ..

/-- Writes left with a launch are none of its nodes. -/
theorem keepsJobs_leaveWrites (s : State) (launch : Nat) (ws : List SysWrite) : KeepsJobs s (leaveWrites s launch ws) := by
  unfold leaveWrites
  split
  · rename_i x hx
    refine ⟨rfl, fun l => ?_⟩
    by_cases h : launch = l
    · subst h
      rw [AMap.find_set_same, hx]
      rfl
    · rw [AMap.find_set_other _ _ h]
  · exact .refl s

/-! ## Caches, times and tiers (R327, R331, R421, R425) -/

theorem keepsJobs_raiseCt (s : State) (core : Nat) (t : DWord) : KeepsJobs s (raiseCt s core t) := by
  unfold raiseCt
  split
  · exact .of_fields rfl rfl
  · exact .refl s

theorem keepsJobs_makeRoom (s : State) (line : Nat) : KeepsJobs s (makeRoom s line) := by
  unfold makeRoom
  dsimp only
  split
  · exact .refl s
  · split
    · exact .refl s
    · exact .of_fields rfl rfl

theorem keepsJobs_setTimes (s : State) (l : Loc) (t : Times) : KeepsJobs s (setTimes s l t) := by
  have hset (u : State) : KeepsJobs u { u with times := AMap.set u.times (lineKey l) t } := .of_fields rfl rfl
  unfold setTimes
  dsimp only
  split
  · split
    · exact hset s
    · exact (keepsJobs_makeRoom ..).trans (hset _)
  · exact hset s

theorem keepsJobs_passLink (s : State) (l : Loc) : KeepsJobs s (passLink s l) := by
  unfold passLink
  split
  · split
    · split
      · split
        · exact .refl s
        · exact .of_fields rfl rfl
      · exact .refl s
    · exact .refl s
  · exact .refl s

theorem keepsJobs_touch (s : State) (core : Nat) (l : Loc) (w : Bool) : KeepsJobs s (touch s core l w) := by
  unfold touch
  dsimp only
  split <;> exact (keepsJobs_passLink s l).trans ((keepsJobs_setTimes ..).trans (keepsJobs_raiseCt ..))

theorem keepsJobs_recallLine (s : State) (l : Loc) : KeepsJobs s (recallLine s l) := by
  unfold recallLine
  split
  · exact .of_fields rfl rfl
  · exact .refl s

theorem keepsJobs_dropLease (s : State) (cache line : Nat) : KeepsJobs s (dropLease s cache line) := by
  unfold dropLease
  split
  · exact .of_fields rfl rfl
  · exact .refl s

theorem keepsJobs_roomInL1 (s : State) (core line : Nat) : KeepsJobs s (roomInL1 s core line) := by
  unfold roomInL1
  dsimp only
  split
  · exact .refl s
  · split
    · exact keepsJobs_dropLease ..
    · exact .of_fields rfl rfl
    · exact .refl s

theorem keepsJobs_takeLine (s : State) (core : Nat) (l : Loc) : KeepsJobs s (takeLine s core l) := by
  have hhold (u : State) (n : Nat) : KeepsJobs u { u with holder := AMap.set u.holder n core } := .of_fields rfl rfl
  unfold takeLine
  split
  · exact .refl s
  · dsimp only
    split
    · exact keepsJobs_recallLine ..
    · exact (keepsJobs_dropLease ..).trans ((keepsJobs_roomInL1 ..).trans (hhold _ _))

theorem keepsJobs_grantLease (s : State) (cache line : Nat) (x : Lease) : KeepsJobs s (grantLease s cache line x) := by
  have hgrant (u : State) : KeepsJobs u { u with l1 := AMap.set u.l1 cache (AMap.set (AMap.get [] u.l1 cache) line x) } := .of_fields rfl rfl
  unfold grantLease
  dsimp only
  split
  · exact (keepsJobs_roomInL1 ..).trans (hgrant _)
  · exact hgrant s

theorem keepsJobs_trimT1 (s : State) (slice keep : Nat) : KeepsJobs s (trimT1 s slice keep) := by
  unfold trimT1
  dsimp only
  split
  · exact .refl s
  · split
    · exact .of_fields rfl rfl
    · exact .refl s

theorem keepsJobs_comeUp (s : State) (g : Nat) : KeepsJobs s (comeUp s g) := by
  unfold comeUp
  refine KeepsJobs.trans ?_ (keepsJobs_trimT1 ..)
  dsimp only
  generalize pinsIt s g = p
  split
  · exact .of_fields rfl rfl
  · split <;> exact .of_fields rfl rfl

theorem keepsJobs_reachGranule (s : State) (l : Loc) : KeepsJobs s (reachGranule s l) := by
  unfold reachGranule
  split
  · exact .refl s
  · rename_i n _
    have hstamped : KeepsJobs s { s with granUse := AMap.set s.granUse (n / 1024) s.cycle } := .of_fields rfl rfl
    dsimp only
    split
    · exact hstamped.trans (keepsJobs_comeUp ..)
    · exact hstamped

/-! ## Reads and writes -/

theorem keepsJobs_readHome (s : State) (core : Nat) (l : Loc) : KeepsJobs s (readHome s core l) :=
  (keepsJobs_reachGranule s l).trans ((keepsJobs_recallLine ..).trans (keepsJobs_touch ..))

theorem keepsJobs_touchHome (s : State) (core : Nat) (l : Loc) : KeepsJobs s (touchHome s core l) :=
  (keepsJobs_reachGranule s l).trans ((keepsJobs_recallLine ..).trans (keepsJobs_touch ..))

theorem keepsJobs_loadVia (s : State) (cache core : Nat) (l : Loc) (n : Nat) : KeepsJobs s (loadVia s cache core l n).1 := by
  have hmiss (line : Nat) (m : Loc) : KeepsJobs s (loadMiss s cache core line m) :=
    (keepsJobs_reachGranule s m).trans ((keepsJobs_recallLine ..).trans ((keepsJobs_touch ..).trans (keepsJobs_grantLease ..)))
  unfold loadVia
  dsimp only
  split
  · split
    · split
      · exact keepsJobs_raiseCt ..
      · exact hmiss ..
    · split
      · exact (keepsJobs_setTimes ..).trans (keepsJobs_raiseCt ..)
      · exact hmiss ..
  · change KeepsJobs s (touch s core _ false)
    exact keepsJobs_touch ..

theorem keepsJobs_load (s : State) (core : Nat) (l : Loc) (n : Nat) : KeepsJobs s (load s core l n).1 := keepsJobs_loadVia ..

theorem keepsJobs_writeBytes (s : State) (l : Loc) (bs : List Byte) : KeepsJobs s (writeBytes s l bs) := by
  induction bs generalizing s l with
  | nil => exact .refl s
  | cons b bs ih =>
    refine KeepsJobs.trans ?_ (ih ..)
    unfold writeByte
    split
    · exact .of_fields rfl rfl
    · split
      · exact .refl s
      · exact .of_fields rfl rfl

theorem keepsJobs_putData (s : State) (core : Nat) (l : Loc) (bs : List Byte) (bad : Bool) : KeepsJobs s (putData s core l bs bad) := by
  unfold putData
  split
  · exact .refl s
  · refine (keepsJobs_writeBytes s l bs).trans (KeepsJobs.trans ?_ (keepsJobs_touch ..))
    exact .of_fields rfl rfl

theorem keepsJobs_store (s : State) (core : Nat) (l : Loc) (bs : List Byte) (bad : Bool) : KeepsJobs s (store s core l bs bad) :=
  (keepsJobs_reachGranule s l).trans ((keepsJobs_takeLine ..).trans (keepsJobs_putData ..))

theorem keepsJobs_storeHome (s : State) (core : Nat) (l : Loc) (bs : List Byte) (bad : Bool) : KeepsJobs s (storeHome s core l bs bad) :=
  (keepsJobs_reachGranule s l).trans ((keepsJobs_recallLine ..).trans (keepsJobs_putData ..))

theorem keepsJobs_takeSeq (s : State) (core port : Nat) : KeepsJobs s (takeSeq s core port).1 := .of_fields rfl rfl

theorem keepsJobs_landStore (s : State) (t : Team) (ag : Agent) (ac : Access) (bs : List Byte) (home : Bool) :
    KeepsJobs s (landStore s t ag ac bs home) := by
  have hstore : KeepsJobs s (if home then storeHome s t.core ac.loc bs false else store s t.core ac.loc bs false) := by
    split
    · exact keepsJobs_storeHome ..
    · exact keepsJobs_store ..
  unfold landStore
  dsimp only
  split
  · exact hstore
  · cases ag with
    | thread k tid => exact hstore.trans (KeepsJobs.trans (keepsJobs_takeSeq _ _ _) (keepsJobs_modThread _ _ _ _))
    | stream k => exact hstore.trans (KeepsJobs.trans (keepsJobs_takeSeq _ _ _) (keepsJobs_modTeam _ _ _))

theorem keepsJobs_performAt (s : State) (t : Team) (ag : Agent) (ac : Access) : KeepsJobs s (performAt s t ag ac).1 := by
  have hload : KeepsJobs s (if ac.nol1 then (readHome s t.core ac.loc, readBytes s ac.loc ac.size, locPoisoned s ac.loc ac.size)
      else load s t.core ac.loc ac.size).1 := by
    split
    · exact keepsJobs_readHome ..
    · exact keepsJobs_load ..
  unfold performAt
  dsimp only
  split
  · exact keepsJobs_landStore ..
  · split <;> exact hload
  · split <;> exact hload
  · exact keepsJobs_landStore ..
  · split
    · exact keepsJobs_touchHome ..
    · split
      · exact keepsJobs_landStore ..
      · exact keepsJobs_touchHome ..

/-! ## Translations and homes (R172, R420, R421, R426) -/

theorem keepsJobs_fillTlb (s : State) (vd core va : Nat) : KeepsJobs s (fillTlb s vd core va) := by
  have hcached (u : State) (t : Trans) : KeepsJobs u (cacheTrans u core t) := .of_fields rfl rfl
  have hwalked (as : List Nat) (u : State) : KeepsJobs u (as.foldl (fun s a => readHome s core (.phys a)) u) :=
    .foldl (fun s a => keepsJobs_readHome s core (.phys a)) as u
  unfold fillTlb
  split
  · exact .refl s
  · split
    · exact hcached ..
    · dsimp only
      split
      · exact (hwalked ..).trans (hcached ..)
      · exact hwalked ..

theorem keepsJobs_noteHome (s : State) (t : Trans) (l : Loc) : KeepsJobs s (noteHome s t l) := by
  unfold noteHome
  split
  · exact .refl s
  · dsimp only
    split
    · split
      · exact .refl s
      · exact .of_fields rfl rfl
    · split
      · exact .of_fields rfl rfl
      · exact .refl s

theorem keepsJobs_recordGranule (s : State) (vd : Nat) (l : Loc) : KeepsJobs s (recordGranule s vd l) := by
  unfold recordGranule
  split
  · split
    · dsimp only
      split
      · exact .refl s
      · exact .of_fields rfl rfl
    · exact .refl s
  · exact .refl s

theorem keepsJobs_noteHeld (s : State) (t : Team) (held : List Trans) (ea : DWord) (l : Loc) : KeepsJobs s (noteHeld s t held ea l) := by
  unfold noteHeld
  split
  · exact keepsJobs_recordGranule ..
  · unfold noteAccess
    split
    · refine (keepsJobs_fillTlb s t.vd t.core ea.toNat).trans ?_
      dsimp only
      split
      · exact (keepsJobs_noteHome ..).trans (keepsJobs_recordGranule ..)
      · exact keepsJobs_recordGranule ..
    · exact .refl s

theorem keepsJobs_noteUnit (s : State) (t : Team) (held : List Trans) (ea : DWord) : KeepsJobs s (noteUnit s t held ea) := by
  unfold noteUnit
  split
  · exact .refl s
  · unfold noteWalk
    split
    · exact keepsJobs_fillTlb ..
    · exact .refl s

/-! ## Glades (R206, R207, R213) -/

theorem keepsJobs_gWrite (s : State) (core : Nat) (t : Team) (off : Nat) (g : GWord) : KeepsJobs s (gWrite s core t off g) :=
  (keepsJobs_writeBytes ..).trans (keepsJobs_touch ..)

theorem keepsJobs_markFaulted (s : State) (core key off : Nat) : KeepsJobs s (markFaulted s core key off) := by
  unfold markFaulted
  split
  · exact .refl s
  · split
    · rename_i t _ _
      exact (keepsJobs_gWrite s core t off { gRead s t off with faulted := true }).trans (.of_fields rfl rfl)
    · exact .refl s

theorem keepsJobs_completeIfDone (s : State) (core key off : Nat) (g : GWord) : KeepsJobs s (completeIfDone s core key off g) := by
  unfold completeIfDone
  split
  · exact .refl s
  · dsimp only
    split
    · exact (keepsJobs_gWrite ..).trans ((keepsJobs_gWrite ..).trans ((keepsJobs_raiseCt ..).trans (keepsJobs_modTeam ..)))
    · exact keepsJobs_gWrite ..

theorem keepsJobs_laterCt (s : State) (core : Nat) : KeepsJobs s (laterCt s core) := keepsJobs_raiseCt ..

theorem keepsJobs_reportTo (s : State) (key : Nat) (ga : DWord) (u : Nat) : KeepsJobs s (reportTo s key ga u).1 := by
  unfold reportTo
  split
  · exact .refl s
  · dsimp only
    split
    · exact .refl s
    · split
      · exact .refl s
      · split
        · exact (keepsJobs_laterCt ..).trans (keepsJobs_markFaulted ..)
        · exact (keepsJobs_laterCt ..).trans ((keepsJobs_modTeam ..).trans (keepsJobs_completeIfDone ..))

/-! ## Copies (R197, R200) -/

/-- The copy of a thread to a system page awaits its acknowledgment, or its launch does. -/
theorem keepsJobs_copyWrite (s : State) (key id : Nat) (c : Copy) (bs : List Byte) (bad : Bool) : KeepsJobs s (copyWrite s key id c bs bad) := by
  unfold copyWrite
  split
  · exact .refl s
  · extract_lets s0 s1 s2 s3 s' s4
    have h0 : KeepsJobs s s0 := (keepsJobs_laterCt ..).trans (keepsJobs_store ..)
    have h1 : KeepsJobs s0 s1 := by
      unfold s1
      split
      · dsimp only
        split
        · exact KeepsJobs.trans (keepsJobs_takeSeq ..) (keepsJobs_modThread ..)
        · exact KeepsJobs.trans (keepsJobs_takeSeq ..) (keepsJobs_leaveWrites ..)
      · exact .refl s0
    have h2 : KeepsJobs s1 s2 := by
      unfold s2
      split
      · exact keepsJobs_modThread ..
      · exact .refl s1
    have h3 : KeepsJobs s2 s3 := keepsJobs_modTeam ..
    have h4 : KeepsJobs s3 s4 := by
      have hs' : KeepsJobs s3 s' := keepsJobs_modTeam ..
      unfold s4
      split
      · split
        · exact hs'.trans (keepsJobs_markFaulted ..)
        · exact hs'
      · split
        · rename_i ga _
          have hreport := keepsJobs_reportTo s3 key ga (c.size / 4)
          split
          · rename_i hu
            rw [hu] at hreport
            exact hreport
          · rename_i hu
            rw [hu] at hreport
            exact hreport.trans (keepsJobs_modTeam ..)
        · exact .refl s3
    exact h0.trans (h1.trans (h2.trans (h3.trans (h4.trans (keepsJobs_modTeam ..)))))

theorem keepsJobs_performCopy (s : State) (key id : Nat) : KeepsJobs s (performCopy s key id) := by
  unfold performCopy
  split
  · exact .refl s
  · split
    · exact .refl s
    · split
      · exact keepsJobs_copyWrite ..
      · exact KeepsJobs.trans (keepsJobs_load ..) (keepsJobs_copyWrite ..)

theorem keepsJobs_performCopiesTo (s : State) (key id : Nat) : KeepsJobs s (performCopiesTo s key id) := by
  unfold performCopiesTo
  split
  · exact .refl s
  · exact .foldl (fun s (p : Nat × Copy) => keepsJobs_performCopy s key p.1) _ s

/-! ## Engines (R235, R252, R259, R260, R263) -/

theorem keepsJobs_mend (s : State) (op : Nat × Nat) (l : Loc) (n : Nat) : KeepsJobs s (mend s op l n) := by
  unfold mend
  refine .foldl (fun u i => ?_) _ s
  extract_lets k before m
  split
  · exact .refl u
  · split <;> exact .of_fields rfl rfl

theorem keepsJobs_engineStore (s : State) (op : Nat × Nat) (t : Team) (va : DWord) (l : Loc) (bs : List Byte) (bad : Bool) :
    KeepsJobs s (engineStore s op t va l bs bad) := by
  unfold engineStore
  split
  · exact .refl s
  · extract_lets s0 s1
    have h0 : KeepsJobs s s0 := keepsJobs_store ..
    have h1 : KeepsJobs s0 s1 := by
      unfold s1
      split
      · exact .refl s0
      · exact keepsJobs_mend ..
    refine (h0.trans h1).trans ?_
    split
    · exact .refl s1
    · dsimp only
      split
      · exact KeepsJobs.trans (keepsJobs_takeSeq ..) (keepsJobs_modTeam ..)
      · exact keepsJobs_takeSeq ..

theorem keepsJobs_engineWrite (s : State) (key : Nat) (t : Team) (c : PCmd) (ea : DWord) (bs : List Byte) :
    KeepsJobs s (engineWrite s key t c ea bs) := by
  rw [engineWrite_eq_foldl]
  refine .foldl (fun u i => ?_) _ s
  unfold writeUnit
  split
  · exact keepsJobs_engineStore ..
  · exact .refl u

theorem keepsJobs_engineRead (s : State) (t : Team) (cache : Nat) (held : List Trans) (ea : DWord) (n u : Nat) :
    KeepsJobs s (engineRead s t cache held ea n u).1 := by
  rw [engineRead_eq_foldl]
  refine .foldl_fst (fun r i => ?_) _ (s, [], none)
  unfold readUnit
  split
  · exact keepsJobs_loadVia ..
  · exact .refl r.1

theorem keepsJobs_mmaCols (s : State) (t : Team) (c : PCmd) (d : MmaDesc) (fb : Slot) (rows : List (List Byte)) (pass : Nat) :
    KeepsJobs s (mmaCols s t c d fb rows pass).1 := by
  unfold mmaCols
  dsimp only
  refine KeepsJobs.foldl_fst (fun r n => ?_) _ (s, [])
  split
  · exact keepsJobs_engineRead ..
  · exact .refl r.1

theorem keepsJobs_mmaArow (s : State) (t : Team) (c : PCmd) (d : MmaDesc) (fa : Slot) (pass m : Nat) :
    KeepsJobs s (mmaArow s t c d fa pass m).1 := by
  unfold mmaArow
  dsimp only
  split
  · exact KeepsJobs.trans (keepsJobs_engineRead ..) (keepsJobs_engineRead ..)
  · exact keepsJobs_engineRead ..

theorem keepsJobs_mmaRows (s : State) (key : Nat) (t : Team) (c : PCmd) (acc fa fb n : Nat) : KeepsJobs s (mmaRows s key t c acc fa fb n) := by
  unfold mmaRows
  dsimp only
  split
  · rename_i rows _
    have hcols := keepsJobs_mmaCols s t c (mmaDesc c.b) (fslOf t fb) rows (c.prog / 128)
    refine hcols.trans (KeepsJobs.trans ?_ (keepsJobs_modTeam ..))
    refine KeepsJobs.foldl_fst (fun r i => ?_) _ ((mmaCols s t c (mmaDesc c.b) (fslOf t fb) rows (c.prog / 128)).1, tileOf t acc)
    exact keepsJobs_mmaArow ..
  · exact .refl s

theorem keepsJobs_modGranted (s : State) (key : Nat) (u : UnitKind) (f : PCmd → PCmd) : KeepsJobs s (modGranted s key u f) :=
  keepsJobs_modTeam ..

theorem keepsJobs_unitStep (s : State) (key : Nat) (u : UnitKind) (n : Nat) : KeepsJobs s (unitStep s key u n) := by
  unfold unitStep
  split
  · exact .refl s
  · split
    · exact .refl s
    · split
      · exact .refl s
      · split
        · exact (keepsJobs_mmaRows ..).trans (keepsJobs_modGranted ..)
        · exact (keepsJobs_engineWrite ..).trans ((keepsJobs_modTeam ..).trans (keepsJobs_modGranted ..))
        · dsimp only
          split
          · exact (keepsJobs_engineRead ..).trans (keepsJobs_modGranted ..)
          · exact (keepsJobs_engineWrite ..).trans (keepsJobs_modGranted ..)
        · exact .refl s

theorem keepsJobs_unitRest (s : State) (key : Nat) (u : UnitKind) (n : Nat) : KeepsJobs s (unitRest s key u n) := by
  induction n generalizing s with
  | zero => exact .refl s
  | succ n ih => exact (keepsJobs_unitStep s key u 128).trans (ih _)

theorem keepsJobs_endGranted (s : State) (key : Nat) (u : UnitKind) : KeepsJobs s (endGranted s key u) := by
  unfold endGranted
  split
  · exact .refl s
  · split
    · exact .refl s
    · dsimp only
      split
      · exact (keepsJobs_setTeam ..).trans (keepsJobs_modTeam ..)
      · split
        · exact keepsJobs_modTeam ..
        · split
          · exact (keepsJobs_setTeam ..).trans (keepsJobs_modTeam ..)
          · exact (keepsJobs_modTeam ..).trans (keepsJobs_modTeam ..)
      · exact keepsJobs_modTeam ..

theorem keepsJobs_unitDone (s : State) (key : Nat) (u : UnitKind) : KeepsJobs s (unitDone s key u) := by
  have hcomplete : KeepsJobs s (completeGranted s key u) := (keepsJobs_unitRest ..).trans (keepsJobs_endGranted ..)
  unfold unitDone
  refine KeepsJobs.trans ?_ (keepsJobs_modTeam ..)
  split
  · split
    · exact hcomplete.trans (keepsJobs_laterCt ..)
    · exact .refl s
  · exact hcomplete

theorem keepsJobs_spoilBulk (s : State) (key : Nat) (t : Team) (c : PCmd) : KeepsJobs s (spoilBulk s key t c) := by
  unfold spoilBulk
  split
  · exact keepsJobs_markFaulted ..
  · exact .refl s

theorem keepsJobs_bulkUnit (s : State) (key : Nat) (t : Team) (c : PCmd) (src dst : DWord) : KeepsJobs s (bulkUnit s key t c src dst) := by
  unfold bulkUnit
  split
  · rename_i l m _ _
    have hread : KeepsJobs s (load (noteHeld (noteHeld s t c.held src l) t c.held dst m) t.core l 16).1 :=
      (keepsJobs_noteHeld ..).trans ((keepsJobs_noteHeld ..).trans (keepsJobs_load ..))
    have hwritten := hread.trans ((keepsJobs_laterCt _ t.core).trans (keepsJobs_engineStore _ (key, c.no) t dst m
      (load (noteHeld (noteHeld s t c.held src l) t c.held dst m) t.core l 16).2.1
      (load (noteHeld (noteHeld s t c.held src l) t c.held dst m) t.core l 16).2.2))
    dsimp only
    split
    · exact hwritten.trans (keepsJobs_spoilBulk ..)
    · split
      · exact hwritten.trans (keepsJobs_reportTo ..)
      · exact hwritten
  · exact (keepsJobs_noteUnit ..).trans ((keepsJobs_noteUnit ..).trans (keepsJobs_spoilBulk ..))
  · exact (keepsJobs_noteUnit ..).trans (keepsJobs_spoilBulk ..)

theorem keepsJobs_bulkDone (s : State) (key : Nat) : KeepsJobs s (bulkDone s key) := by
  have hstep (u : State) : KeepsJobs u (bulkStep u key) := by
    unfold bulkStep
    split
    · exact .refl u
    · split
      · exact .refl u
      · exact (keepsJobs_bulkUnit ..).trans (keepsJobs_modTeam ..)
  have hfinish (n : Nat) : ∀ u, KeepsJobs u (bulkFinish u key n) := by
    induction n with
    | zero => exact KeepsJobs.refl
    | succ n ih => exact fun u => (hstep u).trans (ih _)
  unfold bulkDone
  split
  · exact hfinish _ s
  · exact .refl s

/-! ## What has issued lands (R428) -/

theorem keepsJobs_performOldest (s : State) (ag : Agent) : KeepsJobs s (performOldest s ag) := by
  have howner (o : Owner) : KeepsJobs s (performOwner s o) := by
    cases o with
    | copy k id => exact keepsJobs_performCopiesTo ..
    | bulk k => exact keepsJobs_bulkDone ..
    | engine k => exact keepsJobs_unitDone ..
  unfold performOldest
  split
  · split
    · exact (howner _).trans (keepsJobs_raiseCt ..)
    · cases ag with
      | thread k tid => exact (keepsJobs_performAt ..).trans (keepsJobs_modTeam ..)
      | stream k => exact (keepsJobs_performAt ..).trans (keepsJobs_modTeam ..)
  · exact .refl s

theorem keepsJobs_landAll (s : State) (ag : Agent) (n : Nat) : KeepsJobs s (landAll performOldest s ag n) := by
  induction n generalizing s with
  | zero => exact .refl s
  | succ n ih => exact (keepsJobs_performOldest s ag).trans (ih _)

theorem keepsJobs_landTeam (s : State) (key : Nat) : KeepsJobs s (landTeam s key) := by
  unfold landTeam
  split
  · exact .refl s
  · extract_lets s1 s2 s3
    have h1 : KeepsJobs s s1 := .foldl (fun s (p : Nat × Thread) => keepsJobs_landAll s (.thread key p.1) _) _ s
    have h2 : KeepsJobs s1 s2 := keepsJobs_landAll ..
    have h3 : KeepsJobs s2 s3 := .foldl (fun s (p : Nat × Copy) => keepsJobs_performCopy s key p.1) _ s2
    exact h1.trans (h2.trans (h3.trans ((keepsJobs_unitDone ..).trans (keepsJobs_unitDone ..))))

end Sys2Proof.Machine
end

section
/-! SUPPORT. Notices at the event rings (R450, R480, log 13). -/

namespace Sys2Proof

/-- In a map that lists each key once, what is listed is found. -/
theorem AMap.find_of_mem {α : Type} {m : AMap α} (hnd : (m.map Prod.fst).Nodup) {k : Nat} {x : α} (h : (k, x) ∈ m) : AMap.find m k = some x := by
  induction m with
  | nil => cases h
  | cons p r ih =>
    obtain ⟨j, y⟩ := p
    rw [List.map_cons, List.nodup_cons] at hnd
    rcases List.mem_cons.1 h with heq | hr
    · obtain ⟨rfl, rfl⟩ := Prod.mk.inj heq
      simp [AMap.find]
    · have hne : j ≠ k := fun hjk => hnd.1 (List.mem_map.2 ⟨(k, x), hr, hjk.symm⟩)
      rw [AMap.find, if_neg hne, ih hnd.2 hr]

namespace Machine

/-! ## One port -/

/-- A notice is put behind those that wait at a port, and the first of them is written where the ring has room. -/
def postTo (bs : List Byte) (s : State) (port : Nat) : State :=
  let q := AMap.get {} s.ports port
  flushNotices { s with ports := AMap.set s.ports port { q with notices := q.notices ++ [(bs, s.growth.toNat)] } } port 1

theorem postNotice_eq_foldl (s : State) (bs : List Byte) :
    postNotice s bs = (s.ports.filter fun p => p.2.owner).foldl (fun s p => postTo bs s p.1) s := rfl

/-- A port after a notice, where none waited. -/
def notifiedPort (bs : List Byte) (g : DWord) (p : Port) : Port :=
  if ringRoom p then { p with notices := [], evtail := BitVec.ofNat 32 ((p.evtail.toNat + 1) % p.evsize.toNat) }
  else { p with notices := [(bs, g.toNat)] }

/-- The memory after a notice at a port, where none waited. -/
def notifiedMem (bs : List Byte) (m : List Host.Cell) (p : Port) : List Host.Cell :=
  if ringRoom p then cellsSet m (p.evbase.toNat + 32 * p.evtail.toNat) bs else m

theorem postTo_eq {s : State} {port : Nat} {p : Port} (hp : AMap.get {} s.ports port = p) (hn : p.notices = []) (bs : List Byte) :
    postTo bs s port = { s with mem := notifiedMem bs s.mem p, ports := AMap.set s.ports port (notifiedPort bs s.growth p) } := by
  have hroom : ringRoom { p with notices := [(bs, s.growth.toNat)] } = ringRoom p := rfl
  unfold postTo
  simp only [hp, hn, List.nil_append, flushNotices, AMap.get_set_same, hroom, notifiedMem, notifiedPort]
  split
  · simp only [AMap.set_set]
  · rfl

/-! ## Every port -/

/-- Notices at ports, each met once, where none waited: the entries are written in order, each port is as it is after its notice, every other port as
it was. -/
theorem foldl_postTo {bs : List Byte} (ps : List (Nat × Port)) (hnd : (ps.map Prod.fst).Nodup) {s : State}
    (hps : ∀ x ∈ ps, AMap.get {} s.ports x.1 = x.2 ∧ x.2.notices = []) :
    let u := ps.foldl (fun s p => postTo bs s p.1) s
    u.mem = (ps.map Prod.snd).foldl (notifiedMem bs) s.mem ∧
    (∀ x ∈ ps, AMap.get {} u.ports x.1 = notifiedPort bs s.growth x.2) ∧
    ∀ j, j ∉ ps.map Prod.fst → AMap.get {} u.ports j = AMap.get {} s.ports j := by
  induction ps generalizing s with
  | nil => exact ⟨rfl, fun _ hx => absurd hx List.not_mem_nil, fun _ _ => rfl⟩
  | cons p ps ih =>
    obtain ⟨hport, hempty⟩ := hps p List.mem_cons_self
    rw [List.map_cons, List.nodup_cons] at hnd
    obtain ⟨hp, hnd⟩ := hnd
    rw [List.foldl_cons, postTo_eq hport hempty]
    have hkeeps (j : Nat) (hj : p.1 ≠ j) : AMap.get {} (AMap.set s.ports p.1 (notifiedPort bs s.growth p.2)) j = AMap.get {} s.ports j :=
      AMap.get_set_other _ _ _ hj
    have hne (x : Nat × Port) (hx : x ∈ ps) : p.1 ≠ x.1 := fun h => hp (h ▸ List.mem_map_of_mem hx)
    obtain ⟨hmem, hthere, hother⟩ := ih hnd
      (s := { s with mem := notifiedMem bs s.mem p.2, ports := AMap.set s.ports p.1 (notifiedPort bs s.growth p.2) }) fun x hx => by
        obtain ⟨hx1, hx2⟩ := hps x (List.mem_cons_of_mem _ hx)
        exact ⟨(hkeeps x.1 (hne x hx)).trans hx1, hx2⟩
    refine ⟨hmem, fun x hx => ?_, fun j hj => ?_⟩
    · rcases List.mem_cons.1 hx with rfl | hx
      · exact (hother x.1 hp).trans (AMap.get_set_same ..)
      · exact hthere x hx
    · rw [List.map_cons, List.mem_cons, not_or] at hj
      exact (hother j hj.2).trans (hkeeps j (Ne.symm hj.1))

/-- The memory after a notice: the ports whose ring has room get it written. -/
theorem foldl_notifiedMem (bs : List Byte) (ps : List (Nat × Port)) (m : List Host.Cell) : (ps.map Prod.snd).foldl (notifiedMem bs) m =
    (ps.filter fun x => ringRoom x.2).foldl (fun m x => cellsSet m (x.2.evbase.toNat + 32 * x.2.evtail.toNat) bs) m := by
  induction ps generalizing m with
  | nil => rfl
  | cons p ps ih =>
    rw [List.map_cons, List.foldl_cons, ih, notifiedMem, List.filter_cons]
    split <;> rfl

section
variable {s : State} (hnd : (s.ports.map Prod.fst).Nodup) (hempty : ∀ x ∈ s.ports, x.2.owner = true → x.2.notices = []) (bs : List Byte)
include hnd hempty

theorem owners_foldl_postTo :
    (postNotice s bs).mem = ((s.ports.filter fun p => p.2.owner).map Prod.snd).foldl (notifiedMem bs) s.mem ∧
    (∀ x ∈ s.ports.filter fun p => p.2.owner, AMap.get {} (postNotice s bs).ports x.1 = notifiedPort bs s.growth x.2) ∧
    ∀ j, j ∉ (s.ports.filter fun p => p.2.owner).map Prod.fst → AMap.get {} (postNotice s bs).ports j = AMap.get {} s.ports j := by
  rw [postNotice_eq_foldl]
  refine foldl_postTo _ (hnd.sublist (List.filter_sublist.map _)) fun x hx => ?_
  obtain ⟨hmem, howner⟩ := List.mem_filter.1 hx
  exact ⟨by rw [AMap.get, AMap.find_of_mem hnd hmem, Option.getD_some], hempty x hmem howner⟩

theorem postNotice_writes : (postNotice s bs).mem = (s.ports.filter fun x => x.2.owner && ringRoom x.2).foldl
    (fun m x => cellsSet m (x.2.evbase.toNat + 32 * x.2.evtail.toNat) bs) s.mem := by
  obtain ⟨hmem, -, -⟩ := owners_foldl_postTo hnd hempty bs
  rw [hmem, foldl_notifiedMem, List.filter_filter]
  simp only [Bool.and_comm]

/-- An OWNER port after a notice. -/
theorem postNotice_owner {x : Nat × Port} (hx : x ∈ s.ports) (ho : x.2.owner = true) :
    AMap.get {} (postNotice s bs).ports x.1 = notifiedPort bs s.growth x.2 := by
  obtain ⟨-, howners, -⟩ := owners_foldl_postTo hnd hempty bs
  exact howners x (List.mem_filter.2 ⟨hx, ho⟩)

/-- A port that is no OWNER takes no notice. -/
theorem postNotice_tenant {x : Nat × Port} (hx : x ∈ s.ports) (ho : x.2.owner = false) :
    AMap.get {} (postNotice s bs).ports x.1 = x.2 := by
  have hfound := AMap.find_of_mem hnd hx
  obtain ⟨-, -, hothers⟩ := owners_foldl_postTo hnd hempty bs
  rw [hothers x.1, AMap.get, hfound, Option.getD_some]
  intro h
  obtain ⟨y, hy, hkey⟩ := List.mem_map.1 h
  obtain ⟨hys, hyo⟩ := List.mem_filter.1 hy
  have hsame : some y.2 = some x.2 := (AMap.find_of_mem hnd hys).symm.trans (hkey ▸ hfound)
  rw [Option.some.inj hsame, ho] at hyo
  exact Bool.false_ne_true hyo

end

/-- A notice changes memory and ports alone. -/
theorem flushNotices_frame (s : State) (port n : Nat) :
    flushNotices s port n = { s with mem := (flushNotices s port n).mem, ports := (flushNotices s port n).ports } := by
  induction n generalizing s with
  | zero => rfl
  | succ n ih =>
    unfold flushNotices
    dsimp only
    split
    · split
      · rw [ih]
      · rfl
    · rfl

theorem postNotice_frame (s : State) (bs : List Byte) :
    postNotice s bs = { s with mem := (postNotice s bs).mem, ports := (postNotice s bs).ports } := by
  rw [postNotice_eq_foldl]
  generalize s.ports.filter _ = ps
  induction ps generalizing s with
  | nil => rfl
  | cons p ps ih =>
    rw [List.foldl_cons, ih, postTo, flushNotices_frame]

@[simp] theorem postNotice_teams (s : State) (bs : List Byte) : (postNotice s bs).teams = s.teams := by rw [postNotice_frame]
@[simp] theorem postNotice_gangs (s : State) (bs : List Byte) : (postNotice s bs).gangs = s.gangs := by rw [postNotice_frame]
@[simp] theorem postNotice_launches (s : State) (bs : List Byte) : (postNotice s bs).launches = s.launches := by rw [postNotice_frame]
@[simp] theorem postNotice_vds (s : State) (bs : List Byte) : (postNotice s bs).vds = s.vds := by rw [postNotice_frame]

/-- The tail of a ring with room goes on by one entry. -/
theorem notifiedPort_room {p : Port} (h : ringRoom p = true) (bs : List Byte) (g : DWord) :
    (notifiedPort bs g p).evtail.toNat = (p.evtail.toNat + 1) % p.evsize.toNat ∧ (notifiedPort bs g p).notices = [] := by
  have hsize : 64 ≤ p.evsize.toNat := by
    simp only [ringRoom, Bool.and_eq_true, decide_eq_true_eq] at h
    exact h.1
  have hlt : (p.evtail.toNat + 1) % p.evsize.toNat < p.evsize.toNat := Nat.mod_lt _ (by omega)
  have hword := p.evsize.isLt
  rw [notifiedPort, if_pos h]
  exact ⟨by rw [BitVec.toNat_ofNat]; omega, rfl⟩

theorem notifiedPort_full {p : Port} (h : ringRoom p = false) (bs : List Byte) (g : DWord) :
    (notifiedPort bs g p).evtail = p.evtail ∧ (notifiedPort bs g p).notices = [(bs, g.toNat)] := by
  rw [notifiedPort, if_neg (by simp [h])]
  exact ⟨rfl, rfl⟩

end Machine

end Sys2Proof
end

section
/-! SUPPORT. A gang that ends (R271, R310, R399, R447 to R449): what goes with it, how its node ends, and the double fault that terminates it. -/

namespace Sys2Proof.Machine

/-! ## What the end of a gang settles (R310, R399) -/

/-- A node is ending with a status, or has ended with it. -/
def EndsWith (nd : Node) (st : Nat) : Prop := nd.ending = some st ∨ (nd.state = .done ∧ nd.status = st)

/-- A node of a launch is ending with a status, or has ended with it. -/
def NodeEnds (s : State) (l n st : Nat) : Prop :=
  ∃ x nd, AMap.find s.launches l = some x ∧ AMap.find x.nodes n = some nd ∧ EndsWith nd st

/-- `u` has no gang and no team that `s` has not, and each node that was ending ends with the same status. -/
structure Settles (s u : State) : Prop where
  gang : ∀ k, s.gang? k = none → u.gang? k = none
  team : ∀ k, s.team? k = none → u.team? k = none
  node : ∀ l n st, NodeEnds s l n st → NodeEnds u l n st

namespace Settles

theorem refl (s : State) : Settles s s := ⟨fun _ => id, fun _ => id, fun _ _ _ => id⟩

theorem trans {s u v : State} (h : Settles s u) (h' : Settles u v) : Settles s v :=
  ⟨fun k hk => h'.gang k (h.gang k hk), fun k hk => h'.team k (h.team k hk), fun l n st hn => h'.node l n st (h.node l n st hn)⟩

theorem foldl {α : Type} {f : State → α → State} (hf : ∀ s a, Settles s (f s a)) (as : List α) (s : State) : Settles s (as.foldl f s) := by
  induction as generalizing s with
  | nil => exact refl s
  | cons a as ih => exact (hf s a).trans (ih _)

/-- Gangs, teams and launches are as they were. -/
theorem of_fields {s u : State} (hg : u.gangs = s.gangs) (ht : u.teams = s.teams) (hl : u.launches = s.launches) : Settles s u where
  gang k hk := by rwa [State.gang?, hg]
  team k hk := by rwa [State.team?, ht]
  node l n st h := by rwa [NodeEnds, hl]

/-- One launch is changed, and each of its nodes that was ending ends alike. -/
theorem of_launch {s : State} {l : Nat} {x y : Launch} (hx : AMap.find s.launches l = some x)
    (hnode : ∀ n nd st, AMap.find x.nodes n = some nd → EndsWith nd st → ∃ nd', AMap.find y.nodes n = some nd' ∧ EndsWith nd' st) :
    Settles s { s with launches := AMap.set s.launches l y } where
  gang _ := id
  team _ := id
  node j n st := by
    rintro ⟨z, nd, hz, hnd, hends⟩
    by_cases h : l = j
    · subst h
      obtain rfl := Option.some.inj (hx.symm.trans hz)
      obtain ⟨nd', hnd', hends'⟩ := hnode n nd st hnd hends
      exact ⟨y, nd', AMap.find_set_same .., hnd', hends'⟩
    · exact ⟨z, nd, (AMap.find_set_other _ _ h).trans hz, hnd, hends⟩

end Settles

/-- Nodes kept end as they were about to. -/
theorem KeepsJobs.nodeEnds {s u : State} (h : KeepsJobs s u) {l n st : Nat} (hn : NodeEnds s l n st) : NodeEnds u l n st := by
  obtain ⟨x, nd, hx, hnd, hends⟩ := hn
  have hnodes := h.nodes l
  rw [hx, Option.map_some, Option.map_eq_some_iff] at hnodes
  obtain ⟨y, hy, hyx⟩ := hnodes
  exact ⟨y, nd, hy, hyx ▸ hnd, hends⟩

@[simp] theorem leaveWrites_teams (s : State) (launch : Nat) (ws : List SysWrite) : (leaveWrites s launch ws).teams = s.teams := by
  unfold leaveWrites
  split <;> rfl

/-! ## A gang dropped (R310) -/

/-- The launches of a gang's teams have the writes that are left. -/
def withTeamWrites (s : State) (g : Gang) : State :=
  (g.teams.filterMap s.team?).foldl (fun s t => leaveWrites s t.launch (teamWrites t)) s

theorem withTeamWrites_keeps (s : State) (g : Gang) : KeepsJobs s (withTeamWrites s g) ∧ (withTeamWrites s g).teams = s.teams := by
  refine ⟨.foldl (fun s t => keepsJobs_leaveWrites ..) _ s, ?_⟩
  unfold withTeamWrites
  generalize g.teams.filterMap s.team? = ts
  induction ts generalizing s with
  | nil => rfl
  | cons t ts ih => exact (ih _).trans (leaveWrites_teams ..)

theorem dropGang_fields {s : State} {gk : Nat} {g : Gang} (h : s.gang? gk = some g) :
    (dropGang s gk).gangs = AMap.del s.gangs gk ∧ (dropGang s gk).teams = s.teams.filter (fun p => !g.teams.contains p.1) ∧
    (dropGang s gk).launches = (withTeamWrites s g).launches := by
  obtain ⟨hkeeps, hteams⟩ := withTeamWrites_keeps s g
  have heq : dropGang s gk = { endHalts (withTeamWrites s g) (fun h => g.teams.contains h.team) with
      teams := (withTeamWrites s g).teams.filter fun p => !g.teams.contains p.1, gangs := AMap.del (withTeamWrites s g).gangs gk } := by
    simp only [dropGang, h]
    rfl
  rw [heq, hteams, hkeeps.gangs]
  exact ⟨rfl, rfl, rfl⟩

/-- The gang and its teams are gone. -/
theorem dropGang_gone {s : State} {gk : Nat} {g : Gang} (h : s.gang? gk = some g) :
    (dropGang s gk).gang? gk = none ∧ ∀ k ∈ g.teams, (dropGang s gk).team? k = none := by
  obtain ⟨hgangs, hteams, -⟩ := dropGang_fields h
  refine ⟨?_, fun k hk => ?_⟩
  · rw [State.gang?, hgangs]
    exact AMap.find_del_same ..
  · rw [State.team?, hteams, AMap.find_filter (fun j => !g.teams.contains j), if_neg (by simpa using hk)]

theorem settles_dropGang (s : State) (gk : Nat) : Settles s (dropGang s gk) := by
  cases h : s.gang? gk with
  | none =>
    rw [dropGang, h]
    exact .refl s
  | some g =>
    obtain ⟨hgangs, hteams, hlaunches⟩ := dropGang_fields h
    obtain ⟨hkeeps, -⟩ := withTeamWrites_keeps s g
    refine ⟨fun k hk => ?_, fun k hk => ?_, fun l n st hn => ?_⟩
    · rw [State.gang?, hgangs]
      exact AMap.find_del_none hk gk
    · rw [State.team?, hteams, AMap.find_filter (fun j => !g.teams.contains j)]
      split
      · exact hk
      · rfl
    · rw [NodeEnds, hlaunches]
      exact hkeeps.nodeEnds hn

/-! ## Everything settled (R399, R404, R407) -/

theorem settles_clearRetired (s : State) : Settles s (clearRetired s) := by
  refine .foldl (fun u c => ?_) _ s
  split
  · exact .of_fields (by simp [hardwareNotice, clearCluster]) (by simp [hardwareNotice, clearCluster]) (by simp [hardwareNotice, clearCluster])
  · exact .refl u

theorem settles_startLaunch (s : State) (l : Nat) : Settles s (startLaunch s l) := by
  unfold startLaunch
  split
  · exact .refl s
  · rename_i x hx
    dsimp only
    split
    · exact .refl s
    · exact .of_launch hx fun n nd st hnd hends => ⟨nd, hnd, hends⟩

/-- A node that is ending ends with its status, and one that has ended stays as it is (R399). -/
theorem settleNode_ends (s : State) (l n : Nat) (x : Launch) {nd : Node} {st : Nat} (h : EndsWith nd st) :
    EndsWith (settleNode s l n x nd) st := by
  by_cases hdone : nd.state = .done
  · have hstays : settleNode s l n x nd = nd := by simp only [settleNode, hdone]
    rwa [hstays]
  · have hending : nd.ending = some st := h.resolve_right fun hd => hdone hd.1
    have hends : settleNode s l n x nd = if noGang s l n false then { nd with state := .done, status := st } else nd := by
      cases hs : nd.state with
      | done => exact absurd hs hdone
      | _ => simp only [settleNode, hs, hending]
    rw [hends]
    split
    · exact .inr ⟨rfl, rfl⟩
    · exact h

/-- One node of a launch settled, given the nodes before it. -/
def settleOne (s : State) (l : Nat) (y : Launch) (p : Nat × Node) : Launch :=
  { y with nodes := AMap.set y.nodes p.1 (settleNode s l p.1 y (AMap.get {} y.nodes p.1)) }

theorem settleOne_ends (s : State) (l : Nat) (y : Launch) (p : Nat × Node) {n st : Nat} {nd : Node} (hnd : AMap.find y.nodes n = some nd)
    (h : EndsWith nd st) : ∃ nd', AMap.find (settleOne s l y p).nodes n = some nd' ∧ EndsWith nd' st := by
  by_cases hp : p.1 = n
  · subst hp
    refine ⟨_, AMap.find_set_same .., ?_⟩
    rw [AMap.get, hnd]
    exact settleNode_ends s l p.1 y h
  · exact ⟨nd, (AMap.find_set_other _ _ hp).trans hnd, h⟩

theorem foldl_settleOne_ends (s : State) (l : Nat) (ps : List (Nat × Node)) {y : Launch} {n st : Nat} {nd : Node}
    (hnd : AMap.find y.nodes n = some nd) (h : EndsWith nd st) :
    ∃ nd', AMap.find (ps.foldl (settleOne s l) y).nodes n = some nd' ∧ EndsWith nd' st := by
  induction ps generalizing y nd with
  | nil => exact ⟨nd, hnd, h⟩
  | cons p ps ih =>
    obtain ⟨nd', hnd', h'⟩ := settleOne_ends s l y p hnd h
    exact ih hnd' h'

theorem settles_settleLaunch (s : State) (l : Nat) : Settles s (settleLaunch s l) := by
  unfold settleLaunch
  split
  · exact .refl s
  · rename_i x hx
    exact .of_launch hx fun n nd st hnd hends => foldl_settleOne_ends s l x.nodes hnd hends

theorem settles_orderDone (s : State) : Settles s (orderDone s) := by
  refine .foldl (fun u p => ?_) _ s
  split
  · split
    · exact .of_fields rfl rfl rfl
    · exact .refl u
  · exact .refl u

theorem settles_settleAll (s : State) : Settles s (settleAll s) := by
  have hstale : Settles s (dropStale s) := .foldl (fun u (g : Nat × Gang) => settles_dropGang u g.1) _ s
  have hconfig (u : State) : Settles u (enterConfig u) := .of_fields rfl rfl rfl
  have hlaunches (ls : AMap Launch) (u : State) : Settles u (ls.foldl (fun s p => settleLaunch (startLaunch s p.1) p.1) u) :=
    .foldl (fun u (p : Nat × Launch) => (settles_startLaunch u p.1).trans (settles_settleLaunch _ p.1)) ls u
  exact hstale.trans ((settles_clearRetired _).trans ((hconfig _).trans ((hlaunches ..).trans (settles_orderDone _))))

/-! ## Termination (R449) -/

/-- A node that is neither done nor ending is ending. -/
theorem endNode_ends {s : State} {l n : Nat} {x : Launch} {nd : Node} (hx : AMap.find s.launches l = some x) (hnd : AMap.find x.nodes n = some nd)
    (hs : nd.state ≠ .done) (he : nd.ending = none) (st : Nat) : NodeEnds (endNode s l n st) l n st := by
  have hend : endNode s l n st =
      { s with launches := AMap.set s.launches l { x with nodes := AMap.set x.nodes n { nd with ending := some st } } } := by
    simp [endNode, modNode, hx, hnd, hs, he]
  rw [hend]
  exact ⟨_, _, AMap.find_set_same .., AMap.find_set_same .., .inl rfl⟩

theorem modNode_fields (s : State) (l n : Nat) (f : Node → Node) : (modNode s l n f).gangs = s.gangs ∧ (modNode s l n f).teams = s.teams := by
  unfold modNode
  split
  · split <;> exact ⟨rfl, rfl⟩
  · exact ⟨rfl, rfl⟩

/-- Termination of a gang whose node ends: the gang and its teams are gone, its node ends with status 8, its notice is posted. -/
theorem terminateGang_ends {s : State} {gk : Nat} {g : Gang} (hg : s.gang? gk = some g) (code code2 : BitVec 8) (teamid tid : Nat) (datum : DWord) :
    ∃ v, terminateGang s gk code code2 teamid tid datum true = postNotice v (noticeBytes 1 code code2 g.vd teamid
        (((g.teams.head?.bind s.team?).map Team.grid).getD 0) tid datum s.growth) ∧
      v.gang? gk = none ∧ (∀ j ∈ g.teams, v.team? j = none) ∧
      ∀ x nd, AMap.find s.launches g.launch = some x → AMap.find x.nodes g.node = some nd → nd.state ≠ .done → nd.ending = none →
        NodeEnds v g.launch g.node 8 := by
  have hlands : KeepsJobs s (g.teams.foldl landTeam s) := .foldl keepsJobs_landTeam g.teams s
  have hlanded : (g.teams.foldl landTeam s).gang? gk = some g := by rw [State.gang?, hlands.gangs]; exact hg
  obtain ⟨hgang, hteams⟩ := dropGang_gone hlanded
  obtain ⟨hgangs', hteams'⟩ := modNode_fields (dropGang (g.teams.foldl landTeam s) gk) g.launch g.node
    fun nd => if nd.state == .done || nd.ending.isSome then nd else { nd with ending := some 8 }
  have hsettles := settles_settleAll (endNode (dropGang (g.teams.foldl landTeam s) gk) g.launch g.node 8)
  refine ⟨settleAll (endNode (dropGang (g.teams.foldl landTeam s) gk) g.launch g.node 8), ?_, hsettles.gang _ ?_,
    fun j hj => hsettles.team _ ?_, fun x nd hx hnd hs he => hsettles.node _ _ _ ?_⟩
  · simp only [terminateGang, hg, if_true]
  · rw [State.gang?, endNode, hgangs']
    exact hgang
  · rw [State.team?, endNode, hteams']
    exact hteams j hj
  · obtain ⟨-, -, hlaunches⟩ := dropGang_fields hlanded
    have hnodes := (hlands.trans (withTeamWrites_keeps _ g).1).nodes g.launch
    rw [hx, ← hlaunches, Option.map_some, Option.map_eq_some_iff] at hnodes
    obtain ⟨y, hy, hyx⟩ := hnodes
    exact endNode_ends hy (hyx ▸ hnd) hs he 8

/-! ## The double fault, and MASKED_OP in S mode (R271, R447, R448) -/

section
variable {s : State} {k tid : Nat} {t : Team} {th : Thread} (ht : s.team? k = some t) (hth : s.thread? k tid = some th)
include ht hth

/-- A second event terminates the gang. -/
theorem deliver_live (hl : isLive th = true) (code trapno src : BitVec 8) (resume datum : DWord) :
    deliver s k tid code trapno src resume datum =
      terminateGang (s.modThread k tid fun th => { th with dead := true }) t.gang cDOUBLE code t.teamid tid datum true := by
  have hfind : AMap.find t.threads tid = some th := by rw [← thread?_of_team ht, hth]
  simp only [deliver, ht, hfind, hl, if_true]

/-- Death of a thread changes no team's grid. -/
theorem team?_dead_grid (j : Nat) : ((s.modThread k tid fun th => { th with dead := true }).team? j).map Team.grid = (s.team? j).map Team.grid := by
  rw [modThread_some ht hth]
  by_cases h : k = j
  · subst h
    rw [team?_setTeam_same, ht]
    rfl
  · rw [team?_setTeam_other _ _ h]

theorem deliver_masked (hl : isLive th = false) (hm : th.arch.mode = true) (resume datum : DWord) :
    deliver s k tid cMASKED 0 0 resume datum = postNotice (s.modVd t.vd fun v => { v with halted := true })
      (noticeBytes 2 cMASKED 0 t.vd t.teamid t.grid tid datum s.growth) := by
  have hfind : AMap.find t.threads tid = some th := by rw [← thread?_of_team ht, hth]
  simp only [deliver, ht, hfind, hl, hm, Bool.false_eq_true, if_false, and_self, if_true]

end

/-- The fields of a notice (R450). -/
theorem noticeBytes_fields (kind vdn w seq tid : Nat) (code code2 : BitVec 8) (datum stamp : DWord) :
    let b := noticeBytes kind code code2 vdn w seq tid datum stamp
    b.length = 32 ∧ b.take 4 = [BitVec.ofNat 8 kind, code, code2, BitVec.ofNat 8 vdn] ∧ leNat ((b.drop 4).take 4) = w % 2 ^ 32 ∧
    leNat ((b.drop 8).take 4) = seq % 2 ^ 32 ∧ leNat ((b.drop 12).take 4) = tid % 2 ^ 32 ∧ leNat ((b.drop 16).take 8) = datum.toNat ∧
    leNat (b.drop 24) = stamp.toNat := by
  have hword (n x : Nat) : leNat (leBytes n x) = x % 256 ^ n := leNat_leBytes n x
  have hd (d : DWord) : leNat (leBytes 8 d.toNat) = d.toNat := (hword 8 d.toNat).trans (Nat.mod_eq_of_lt d.isLt)
  exact ⟨rfl, rfl, hword 4 w, hword 4 seq, hword 4 tid, hd datum, hd stamp⟩

/-- Settles O36: the double fault by what a termination leaves, the notices by what each port makes of one. -/
theorem doubleFault : Obligations.DoubleFault := by
  unfold Obligations.DoubleFault
  refine ⟨fun s k tid t th code trapno src resume datum ht hth hl => ⟨deliver_live ht hth hl .., fun g hg => ?double⟩,
    fun s gk g => dropGang_gone, fun s k tid t th resume datum ht hth hl hm => ⟨deliver_masked ht hth hl hm .., ?halted, ?stays⟩,
    fun s bs => ⟨postNotice_teams .., postNotice_gangs .., postNotice_launches .., fun hnd hempty =>
      ⟨postNotice_writes hnd hempty bs, fun x hx => ⟨postNotice_tenant hnd hempty bs hx, fun ho hroom => ?room, fun ho hfull => ?full⟩⟩⟩,
    fun kind vdn w seq tid code code2 datum stamp _ _ => noticeBytes_fields kind vdn w seq tid code code2 datum stamp⟩
  case double =>
    obtain ⟨v, heq, hgang, hteams, hnode⟩ := terminateGang_ends (s := s.modThread k tid fun th => { th with dead := true })
      ((congrArg (AMap.find · t.gang) (modThread_gangs ..)).trans hg) cDOUBLE code t.teamid tid datum
    have hseq : (g.teams.head?.bind (s.modThread k tid fun th => { th with dead := true }).team?).map Team.grid =
        (g.teams.head?.bind s.team?).map Team.grid := by
      cases g.teams.head? with
      | none => rfl
      | some j => exact team?_dead_grid ht hth j
    rw [hseq, modThread_growth] at heq
    rw [modThread_launches] at hnode
    exact ⟨v, (deliver_live ht hth hl ..).trans heq, hgang, hteams, hnode⟩
  case halted =>
    change ((deliver s k tid cMASKED 0 0 resume datum).vd t.vd).halted = true
    rw [deliver_masked ht hth hl hm, State.vd, postNotice_vds]
    exact congrArg VDev.halted (AMap.get_set_same ..)
  case stays =>
    change (deliver s k tid cMASKED 0 0 resume datum).thread? k tid = some th
    rw [deliver_masked ht hth hl hm, thread?_of_teams (postNotice_teams ..)]
    exact hth
  case room =>
    rw [postNotice_owner hnd hempty bs hx ho]
    exact notifiedPort_room hroom bs s.growth
  case full =>
    rw [postNotice_owner hnd hempty bs hx ho]
    exact notifiedPort_full hfull bs s.growth

end Sys2Proof.Machine
end

section
/-! SUPPORT. The decoding of a guest instruction (R285, R286, R294, R297, R372, R387, R388): what its thread finds in the decoded-operation cache, the
expansion that begins, the template miss; and the rollback of an expansion. -/

namespace Sys2Proof.Machine

/-! ## The decoding (R286, R372) -/

section
variable {s : State} {vd core : Nat} {img : Image} {gpc : DWord}

theorem decodeGuest_fault {e : FaultInfo} (h : guestMatch s vd core img.body gpc = .error e) : decodeGuest s vd core (some img) gpc = .error e := by
  simp only [decodeGuest, h]

theorem decodeGuest_illegal {w : Nat} (h : guestMatch s vd core img.body gpc = .ok (.illegal, w)) :
    decodeGuest s vd core (some img) gpc = .ok (1, .illegal) := by
  simp only [decodeGuest, h]

theorem decodeGuest_miss {len w : Nat} (h : guestMatch s vd core img.body gpc = .ok (.miss len, w)) :
    decodeGuest s vd core (some img) gpc = .ok (len, .miss len w) := by
  simp only [decodeGuest, h]

theorem decodeGuest_template {j len w : Nat} (h : guestMatch s vd core img.body gpc = .ok (.template j len, w)) :
    decodeGuest s vd core (some img) gpc = .ok (len, .run len (tmplOps img.body w j)) := by
  simp only [decodeGuest, h]

/-- An address that is not a multiple of the personality's alignment is illegal, whatever stands there. -/
theorem guestMatch_misaligned (h : gpc.toNat % 2 ^ (imgHead img.body).align ≠ 0) : guestMatch s vd core img.body gpc = .ok (.illegal, 0) :=
  if_pos h

theorem decodeAt_guest {pix : Nat} (h : pix ≠ 0) (oimg : Option Image) (pc : DWord) :
    decodeAt s vd core pix oimg pc = decodeGuest s vd core oimg pc := if_neg h

end

/-! ## The lookup (R372, R387, R388) -/

section
variable {s : State} {k tid : Nat} {t : Team} {th : Thread} {img : Image} (hpix : th.arch.pix ≠ 0)
  (himg : imageAt s t.vd th.arch.pix.toNat = some img)
include hpix himg

/-- At a misaligned guest address ILLEGAL_OP comes before a fault of the lookup (log 63). -/
theorem lookUp_misaligned (hspot : th.spot = none) (hal : th.arch.pc.toNat % 2 ^ (imgHead img.body).align ≠ 0) {e : FaultInfo}
    (hl : lookPlace s t.vd t.core th.arch.pc (fun x => (lineOf s (clusterOf t.core)
      (pselOf s t.vd (clusterOf t.core) th.arch.pix.toNat) (x.pa th.arch.pc.toNat)).isSome) = .error e) :
    lookUp s t th = .fault 0x01 0 := by
  have hblind : blindIllegal s t th = true := by
    simp only [blindIllegal, himg, decodeGuest_illegal (guestMatch_misaligned hal), Bool.and_true]
    exact bne_iff_ne.2 hpix
  simp only [lookUp, hspot, Option.bind_none, hl, hblind, if_true]
  rfl

theorem missGuest_unfetched {psel pa : Nat} {code : BitVec 8} {d : DWord}
    (hd : decodeGuest s t.vd t.core (some img) th.arch.pc = .error (code, d)) :
    missGuest s k tid t th psel pa = faultThread (noteFetch s t.vd t.core th.arch.pc) k tid code d := by
  have hpix' : th.arch.pix.toNat ≠ 0 := fun h => hpix (BitVec.eq_of_toNat_eq h)
  simp only [missGuest, decodeAt_guest hpix', himg, hd]

section
variable {x : Nat × Decoded} (hd : decodeGuest s t.vd t.core (some img) th.arch.pc = .ok x)
include hd

/-- A fill begins where a line can be written: the instruction is not illegal, or its first byte can be fetched. -/
theorem missGuest_fills (h : x.2 ≠ .illegal ∨ ∃ p, fetchPlace s t.vd t.core th.arch.pc = .ok p) (psel pa : Nat) :
    missGuest s k tid t th psel pa = startFill s t th psel pa := by
  have hpix' : th.arch.pix.toNat ≠ 0 := fun h => hpix (BitVec.eq_of_toNat_eq h)
  obtain ⟨len, dec⟩ := x
  simp only [missGuest, decodeAt_guest hpix', himg, hd]
  rcases h with h | ⟨p, hp⟩
  · cases dec with
    | illegal => exact absurd rfl h
    | _ => rfl
  · rw [hp]
    cases dec <;> rfl

theorem missGuest_illegal {e : FaultInfo} (hx : x.2 = .illegal) (hf : fetchPlace s t.vd t.core th.arch.pc = .error e) (psel pa : Nat) :
    missGuest s k tid t th psel pa = faultThread s k tid 0x01 0 := by
  have hpix' : th.arch.pix.toNat ≠ 0 := fun h => hpix (BitVec.eq_of_toNat_eq h)
  obtain ⟨len, dec⟩ := x
  obtain rfl : dec = .illegal := hx
  simp only [missGuest, decodeAt_guest hpix', himg, hd, hf]
  rfl

end

end

/-! ## The event (R286, R292, R387) -/

theorem awaitsAccess_iff (th : Thread) : awaitsAccess th = true ↔ ∃ ac ∈ th.out, ac.buffered = false := by
  simp [awaitsAccess]

theorem not_native_or_expanding {th : Thread} (hpix : th.arch.pix ≠ 0) (hx : th.expansion = none) :
    ¬(th.arch.pix = 0 ∨ th.expansion.isSome = true) :=
  not_or.2 ⟨hpix, by simp [hx]⟩

section
variable {s : State} {k tid : Nat} {t : Team} {th : Thread} (hturn : s.turn = .thread k tid) (ht : s.team? k = some t)
  (hth : s.thread? k tid = some th) (hpix : th.arch.pix ≠ 0) (hx : th.expansion = none)
include hturn ht hth hpix hx

theorem guestDecode_waits (hw : awaitsAccess th = true) : exec .guestInstructionDecode s = .next (performOldest s (.thread k tid)) := by
  change execGuestInstructionDecode s = _
  simp only [execGuestInstructionDecode, hturn, ht, hth, if_neg (not_native_or_expanding hpix hx), hw, if_true, event]

section
variable {img : Image} (hw : awaitsAccess th = false) (himg : imageAt s t.vd th.arch.pix.toNat = some img)
include hw himg

theorem guestDecode_hit {p : Spot} {d : Decoded} (hl : lookUp s t th = .hit p d) :
    exec .guestInstructionDecode s = .next (issueGuest (takeSpot s k tid (clusterOf t.core) p) k tid t th d) := by
  change execGuestInstructionDecode s = _
  simp only [execGuestInstructionDecode, hturn, ht, hth, if_neg (not_native_or_expanding hpix hx), hw, himg, hl, Option.isNone_some,
    Bool.false_eq_true, if_false, event]

theorem guestDecode_fault {code : BitVec 8} {d : DWord} (hl : lookUp s t th = .fault code d) :
    exec .guestInstructionDecode s = .next (faultThread s k tid code d) := by
  change execGuestInstructionDecode s = _
  simp only [execGuestInstructionDecode, hturn, ht, hth, if_neg (not_native_or_expanding hpix hx), hw, himg, hl, Option.isNone_some,
    Bool.false_eq_true, if_false, event]

theorem guestDecode_miss {psel pa : Nat} (hl : lookUp s t th = .miss psel pa) :
    exec .guestInstructionDecode s = .next (missGuest s k tid t th psel pa) := by
  change execGuestInstructionDecode s = _
  simp only [execGuestInstructionDecode, hturn, ht, hth, if_neg (not_native_or_expanding hpix hx), hw, himg, hl, Option.isNone_some,
    Bool.false_eq_true, if_false, event]

end

end

/-! ## The issue (R286, R294, R297) -/

theorem keptExit_iff (th : Thread) : keptExit th = true ↔ ∃ kp, keptHere th = some kp ∧ kp.wait = .exit := by
  simp [keptExit, Option.any_eq_true]

/-- An EXIT taken out of its drain goes on with it (log 57). -/
theorem issueGuest_keptExit (s : State) (k tid : Nat) (t : Team) {th : Thread} {kp : Kept} (hk : keptHere th = some kp) (hw : kp.wait = .exit)
    (d : Decoded) :
    issueGuest s k tid t th d = s.modThread k tid fun th => { dropKept th with wait := some .exit, waitFrom := s.cycle, safe := none } :=
  if_pos ((keptExit_iff th).2 ⟨kp, hk, hw⟩)

section
variable {s : State} {k tid : Nat} {t : Team} {th : Thread} (hk : ∀ kp, keptHere th = some kp → kp.wait ≠ .exit)
include hk

theorem keptExit_eq_false : keptExit th = false := by
  rw [← Bool.not_eq_true, keptExit_iff]
  exact fun ⟨kp, hkp, hw⟩ => hk kp hkp hw

theorem issueGuest_illegal : issueGuest s k tid t th .illegal = faultThread s k tid 0x01 0 := by
  simp only [issueGuest, keptExit_eq_false hk, Bool.false_eq_true, if_false]
  rfl

theorem issueGuest_miss {img : Image} (himg : imageAt s t.vd th.arch.pix.toNat = some img) (len w : Nat) :
    issueGuest s k tid t th (.miss len w) = templateMiss s k t tid img.body w len := by
  simp only [issueGuest, keptExit_eq_false hk, Bool.false_eq_true, if_false, himg]

theorem issueGuest_begins {len : Nat} {ops : List Instr} (hops : ops ≠ [])
    (hf : opsFault { s := s, key := k, team := t, tid := tid, th := th } ops = none) :
    issueGuest s k tid t th (.run len ops) = beginExpansion s k tid ops len := by
  simp [issueGuest, keptExit_eq_false hk, hf, hops]

theorem issueGuest_opsFault {len : Nat} {ops : List Instr} {code : BitVec 8} {d : DWord}
    (hf : opsFault { s := s, key := k, team := t, tid := tid, th := th } ops = some (code, d)) :
    issueGuest s k tid t th (.run len ops) = faultThread s k tid code d := by
  simp only [issueGuest, keptExit_eq_false hk, Bool.false_eq_true, if_false, hf]

end

/-! ## An expansion begins (R285, R287) -/

theorem beginExpansion_thread {s : State} {k tid : Nat} {th : Thread} (hth : s.thread? k tid = some th) (htail : th.tail = none)
    (ops : List Instr) (len : Nat) : ∃ u, (beginExpansion s k tid ops len).thread? k tid = some u ∧
      u.expansion = some { ops := ops, len := len, saved := th.arch, bad := th.bad, stores := [], checked := false, committed := false } ∧
      u.arch = { th.arch with t := u.arch.t } := by
  have hin : inTail th = false := by simp [inTail, htail]
  refine ⟨_, thread?_modThread_same (s := { s with free := s.free + 8 }) hth _, ?_, rfl⟩
  simp only [hin, Bool.false_eq_true, if_false]

theorem beginExpansion_mem (s : State) (k tid : Nat) (ops : List Instr) (len : Nat) : (beginExpansion s k tid ops len).mem = s.mem :=
  modThread_mem ..

/-! ## A template miss (R297) -/

/-- The frame names the guest address under its personality. -/
theorem missFrame_epc {th : Thread} (hpc : th.arch.pc.toNat < 2 ^ 52) (b : List Byte) (w len : Nat) :
    (missFrame th b w len).arch.epc.toNat = th.arch.pix.toNat * 2 ^ 61 + th.arch.pc.toNat := by
  have hpix : th.arch.pix.toNat < 2 ^ 3 := th.arch.pix.isLt
  have hhigh : (BitVec.ofNat 64 (th.arch.pix.toNat * 2 ^ 61)).toNat = th.arch.pix.toNat * 2 ^ 61 := by
    rw [BitVec.toNat_ofNat]
    omega
  have hlow : th.arch.pc.toNat < 2 ^ 61 := by omega
  change (BitVec.ofNat 64 (th.arch.pix.toNat * 2 ^ 61) ||| th.arch.pc).toNat = _
  rw [BitVec.toNat_or, hhigh, Nat.mul_comm, Nat.two_pow_add_eq_or_of_lt hlow]

/-- The frame holds the value of each extractor that the image has. -/
theorem missFrame_e (th : Thread) (b : List Byte) (w len : Nat) {i : Nat} (hi : i < 8) :
    AMap.get 0 (missFrame th b w len).arch.e i = if i < (imgHead b).nextr then extValue (extractor b i) w else 0 := by
  change AMap.get 0 ((List.range 8).map fun i => (i, if i < (imgHead b).nextr then extValue (extractor b i) w else 0)) i = _
  rw [AMap.get, find_map_range (fun i => if i < (imgHead b).nextr then extValue (extractor b i) w else 0), if_pos hi, Option.getD_some]

/-- A miss goes to the emulation vector under the native personality. -/
theorem templateMiss_thread {s : State} {k tid : Nat} {t : Team} {th : Thread} (hth : s.thread? k tid = some th) (hev : t.lrec.evec ≠ 0)
    (b : List Byte) (w len : Nat) :
    (templateMiss s k t tid b w len).thread? k tid = some (goToPix (missFrame th b w len) t.lrec.evec 0 none) := by
  rw [templateMiss, if_neg hev]
  refine thread?_modThread_same (th := missFrame th b w len) ?_ _
  rw [countPerf_thread?]
  exact thread?_modThread_same hth _

/-! ## Rollback (R294) -/

section
variable {th : Thread} {x : Expansion} (hx : th.expansion = some x)
include hx

/-- Before the commit point the guest boundary is restored, with the errors of its registers (log 29); the stores of earlier guest instructions
stay. -/
theorem rollback_uncommitted (hc : x.committed = false) :
    (rollback th).arch = x.saved ∧ (rollback th).bad = x.bad ∧ (rollback th).out = th.out.filter Access.buffered ∧
    (rollback th).expansion = none ∧ (rollback th).f = th.f := by
  simp [rollback, hx, hc]

section
variable (hc : x.committed = true)
include hc

theorem rollback_committed :
    (rollback th).arch = th.arch ∧ (rollback th).out = th.out ∧ (rollback th).expansion = none ∧
    (rollback th).tail = if x.ops.any isTailOp then some { addr := th.arch.pc, pix := th.arch.pix } else th.tail := by
  simp [rollback, hx, hc, Expansion.tailing]

theorem rollback_tail (ht : ∃ i ∈ x.ops, isTailOp i = true) :
    (rollback th).tail = some { addr := th.arch.pc, pix := th.arch.pix } := by
  obtain ⟨-, -, -, htail⟩ := rollback_committed hx hc
  rw [htail, if_pos (List.any_eq_true.2 ht)]

theorem rollback_no_tail (hn : ∀ i ∈ x.ops, isTailOp i = false) : (rollback th).tail = th.tail := by
  obtain ⟨-, -, -, htail⟩ := rollback_committed hx hc
  rw [htail, List.any_eq_false.2 (by simpa using hn)]
  rfl

end

end

end Sys2Proof.Machine
end

section
/-! SUPPORT. The commit point of an expansion (R288, R289, R292, R293): the buffered stores issued, and landed where the last
operation follows them. -/

namespace Sys2Proof.Machine

/-! ## Outstanding accesses that an update of the thread leaves -/

theorem passOp_out (th : Thread) (len : Nat) (live : Option LiveRec) : (passOp th len live).out = th.out := by
  unfold passOp
  split
  · rfl
  · split
    · rfl
    · split <;> rfl

theorem recheck_out (t : Team) (th : Thread) : (recheck t th).out = th.out := by
  unfold recheck
  split
  · split <;> rfl
  · split
    · exact passOp_out ..
    · rfl
  · split <;> rfl
  · split
    · exact passOp_out ..
    · rfl
  · rfl

theorem decFlag_out (th : Thread) (j : Option (BitVec 4)) : (decFlag th j).out = th.out := by cases j <;> rfl

theorem write32_out (th : Thread) (d : Sel) (w : Word) : (write32 th d w).out = th.out := by unfold write32; split <;> rfl
theorem write64_out (th : Thread) (d : Sel) (w : DWord) : (write64 th d w).out = th.out := by unfold write64; split <;> rfl

theorem loadReg_out (th : Thread) (d : Sel) (wid x : Nat) : (loadReg th d wid x).out = th.out := by
  unfold loadReg
  split
  · exact write32_out ..
  · exact write32_out ..
  · exact write64_out ..
  · split <;> rfl
  · exact write32_out ..

theorem giveData_out (th : Thread) (ac : Access) (r : Option (Nat × Bool)) : (giveData th ac r).out = th.out := by
  unfold giveData
  split
  · rfl
  · split
    · rfl
    · split
      · exact loadReg_out ..
      · split
        · exact write64_out ..
        · exact write32_out ..
      · split
        · exact write64_out ..
        · exact write32_out ..
      · rfl

/-! ## Accesses that land -/

theorem outOf_thread {s : State} {k tid : Nat} {th : Thread} (hth : s.thread? k tid = some th) : outOf s (.thread k tid) = th.out := by
  simp only [outOf, hth, Option.map_some, Option.getD_some]

theorem performOldest_nil {s : State} {ag : Agent} (h : outOf s ag = []) : performOldest s ag = s := by
  simp only [performOldest, h]

theorem landAll_nil {s : State} {ag : Agent} (h : outOf s ag = []) (n : Nat) : landAll performOldest s ag n = s := by
  induction n with
  | zero => rfl
  | succ n ih => rw [landAll, performOldest_nil h, ih]

/-- An access whose line nobody owns leaves those behind it outstanding. -/
theorem outOf_performOldest {s : State} {k tid : Nat} {th : Thread} {ac : Access} {rest : List Access} (hth : s.thread? k tid = some th)
    (hout : th.out = ac :: rest) (hown : ownerOf s (.thread k tid) ac.loc = none) :
    outOf (performOldest s (.thread k tid)) (.thread k tid) = rest := by
  obtain ⟨t, ht, -⟩ := Option.bind_eq_some_iff.1 hth
  obtain ⟨t1, ws, ht1, hth1⟩ := (performAt_moreUnacked s t k tid ac).thread hth
  rw [performOldest_thread ht hth hout (fun _ => hown) ht1 hth1, outOf_thread (thread?_modThread_same ((thread?_of_team ht1).trans hth1) _),
    recheck_out, decFlag_out, giveData_out]

theorem landThread_nil {s : State} {k tid : Nat} {th : Thread} (hth : s.thread? k tid = some th) (hout : th.out = []) : landThread s k tid = s :=
  landAll_nil ((outOf_thread hth).trans hout) _

theorem landThread_single {s : State} {k tid : Nat} {th : Thread} {ac : Access} (hth : s.thread? k tid = some th) (hout : th.out = [ac])
    (hown : ownerOf s (.thread k tid) ac.loc = none) : landThread s k tid = performOldest s (.thread k tid) := by
  have hlen : (outOf s (.thread k tid)).length * (1 + ownerCount s) = ownerCount s + 1 := by
    rw [outOf_thread hth, hout, List.length_singleton]
    omega
  rw [landThread, hlen, landAll, landAll_nil (outOf_performOldest hth hout hown)]

/-! ## The commit point (R289) -/

section
variable {th : Thread} {x : Expansion} (hx : th.expansion = some x)
include hx

/-- The buffered stores go out; a tail record of another instruction is cleared. -/
theorem commitThread_some : commitThread th = { th with
    expansion := some { x with committed := true, stores := [] }, out := th.out ++ x.stores, tail := if inTail th then th.tail else none } := by
  simp only [commitThread, hx]

theorem commitThread_arch : (commitThread th).arch = th.arch := by rw [commitThread_some hx]
theorem commitThread_out : (commitThread th).out = th.out ++ x.stores := by rw [commitThread_some hx]
theorem commitThread_expansion : (commitThread th).expansion = some { x with committed := true, stores := [] } := by rw [commitThread_some hx]

end

section
variable {s : State} {k tid cls opc : Nat} {th : Thread} {x : Expansion} (hth : s.thread? k tid = some th) (hx : th.expansion = some x)

include hth hx in
theorem commitThread_thread : ∃ u, (s.modThread k tid commitThread).thread? k tid = some u ∧
    u.expansion = some { x with committed := true, stores := [] } ∧ u.out = th.out ++ x.stores ∧ u.arch = th.arch ∧ u.f = th.f :=
  ⟨_, (thread?_modThread_same hth _).trans (congrArg some (commitThread_some hx)), rfl, rfl, rfl, rfl⟩

theorem commitState_undrained (hd : drainsFirst cls opc = false) : commitState s k tid cls opc = s.modThread k tid commitThread := by
  simp only [commitState, hd, Bool.false_eq_true, if_false]

section
variable (hd : drainsFirst cls opc = true)
include hth hx hd

theorem commitState_empty (hout : th.out ++ x.stores = []) : commitState s k tid cls opc = s.modThread k tid commitThread := by
  obtain ⟨u, hu, -, huout, -⟩ := commitThread_thread hth hx
  simp only [commitState, hd, if_true]
  exact landThread_nil hu (huout.trans hout)

theorem commitState_single {ac : Access} (hout : th.out ++ x.stores = [ac])
    (hown : ownerOf (s.modThread k tid commitThread) (.thread k tid) ac.loc = none) :
    commitState s k tid cls opc = performOldest (s.modThread k tid commitThread) (.thread k tid) := by
  obtain ⟨u, hu, -, huout, -⟩ := commitThread_thread hth hx
  simp only [commitState, hd, if_true]
  exact landThread_single hu (huout.trans hout) hown

end

end

/-- The event of the commit point: the buffered stores issue, and an expansion without operations left is over. -/
theorem commitPoint_commits {s : State} {k tid : Nat} {th : Thread} {x : Expansion} (hturn : s.turn = .thread k tid)
    (hth : s.thread? k tid = some th) (hx : th.expansion = some x) (hchk : x.checked = true) (hc : x.committed = false)
    (hw : awaitsAccess th = false) (hp : ∀ p ∈ th.pending, p.rank ≠ 1) :
    exec .commitPoint s =
      .next (s.modThread k tid fun th => if x.ops.isEmpty then passGuest (commitThread th) x.len else commitThread th) := by
  have hpend : (th.pending.any fun p => p.rank == 1) = false := List.any_eq_false.2 (by simpa using hp)
  have hcan : canCommit th = true := by simp [canCommit, hx, hchk, hc, hw, hpend]
  change execCommitPoint s = _
  simp only [execCommitPoint, hturn, hth, hx, hcan, if_true, event]

/-- What the event leaves of its thread. -/
theorem commitPoint_thread {s : State} {k tid : Nat} {th : Thread} {x : Expansion} (hth : s.thread? k tid = some th) (hx : th.expansion = some x) :
    ∃ u, (s.modThread k tid fun th => if x.ops.isEmpty then passGuest (commitThread th) x.len else commitThread th).thread? k tid = some u ∧
      u.out = th.out ++ x.stores ∧
      (x.ops ≠ [] → u.expansion = some { x with committed := true, stores := [] } ∧ u.arch = th.arch) ∧
      (x.ops = [] → u.expansion = none ∧ u.arch = { th.arch with pc := th.arch.pc + BitVec.ofNat 64 x.len }) := by
  refine ⟨_, thread?_modThread_same hth _, ?_⟩
  rw [commitThread_some hx]
  cases hops : x.ops with
  | nil => exact ⟨rfl, fun h => absurd rfl h, fun _ => ⟨rfl, rfl⟩⟩
  | cons i is => exact ⟨rfl, fun _ => ⟨rfl, rfl⟩, nofun⟩

end Sys2Proof.Machine
end

section
/-! SUPPORT. The last operation of an expansion at its commit point (R289, R290, R294, log 44): one whose checks pass commits and takes effect in one
step; one that waits at its issue or whose check fails has not committed. -/

namespace Sys2Proof.Machine

/-! ## How a last operation runs -/

/-- An effect that a last operation takes after its commit point: no fault, and no wait at its issue. -/
inductive TakesEffect : Res → Prop
  | done (s : State) : TakesEffect (.done s)
  | jump (s : State) : TakesEffect (.jump s)

theorem runThread_ready_finish {s : State} {c : Ctx} {cls opc : Nat} {a : Args} (h : ctxOf s = some c) (hr : ready c cls opc a = true)
    (body : Ctx → Res) : runThread cls opc a s body = finishOp s c.key c.tid a (body c) := by
  obtain rfl := ctxOf_state h
  rw [runThread_ready h hr]
  cases body c <;> rfl

/-- The accesses outstanding do not matter to the decode faults. -/
theorem decodeFault_out (c : Ctx) (cls opc : Nat) (a : Args) (native : Bool) (out : List Access) :
    decodeFault { c with th := { c.th with out := out } } cls opc a native = decodeFault c cls opc a native := rfl

section
variable {s : State} {c : Ctx} {cls opc : Nat} {a : Args} (h : ctxOf s = some c) (body : Ctx → Res)
include h

/-- A last operation comes to its commit point only when the accesses of its expansion have been performed. -/
theorem runThread_last_waits (hl : atLast { c with th := { c.th with out := [] } } cls opc a = true) (hw : awaitsAccess c.th = true) :
    runThread cls opc a s body = .next (performOldest s (.thread c.key c.tid)) := by
  simp only [atLast, decodeFault_out, Bool.and_eq_true, Option.isNone_iff_eq_none] at hl
  obtain ⟨⟨⟨⟨-, hp⟩, hd⟩, hat⟩, -⟩ := hl
  have hcommit : atCommit c.th cls opc = true := hat
  unfold runThread
  simp only [ctxOf_turn h, ctxOf_team h, ctxOf_thread h, hp, ctxOf_eta h, hd, hcommit, hw, Bool.and_self, if_true]

/-- A last operation whose guard is false commits and passes on. -/
theorem runThread_last_guardFalse (hl : atLast c cls opc a = true) (hg : guardTrue c.th a.guard = false) :
    runThread cls opc a s body =
      .next ((commitState s c.key c.tid cls opc).modThread c.key c.tid fun th => passOp th (8 * a.words) a.live) := by
  simp only [atLast, Bool.and_eq_true, Option.isNone_iff_eq_none, Bool.not_eq_true'] at hl
  obtain ⟨⟨⟨⟨-, hp⟩, hd⟩, hat⟩, hw⟩ := hl
  unfold runThread
  simp only [ctxOf_turn h, ctxOf_team h, ctxOf_thread h, hp, ctxOf_eta h, hd, hat, hw, hg, Bool.and_false, Bool.false_eq_true, if_false,
    Bool.not_false, if_true]

section
variable (hr : lastReady c cls opc a = true)
include hr

theorem runThread_lastReady : TakesEffect (body c) ∧ runThread cls opc a s body = commitOp s c.key c.tid cls opc a body ∨
    ¬TakesEffect (body c) ∧ runThread cls opc a s body = finishOp s c.key c.tid a (body c) := by
  simp only [lastReady, atLast, Bool.and_eq_true, Option.isNone_iff_eq_none, Bool.not_eq_true'] at hr
  obtain ⟨⟨⟨⟨⟨⟨⟨-, hp⟩, hd⟩, hat⟩, hw⟩, hg⟩, hi⟩, he⟩ := hr
  unfold runThread
  simp only [ctxOf_turn h, ctxOf_team h, ctxOf_thread h, hp, ctxOf_eta h, hd, hat, hw, hg, hi, he, Bool.and_false, Bool.false_eq_true,
    if_false, Bool.not_true, if_true]
  cases body c with
  | done | jump => exact .inl ⟨by constructor, rfl⟩
  | stay | hold | fault | faultAt => exact .inr ⟨nofun, rfl⟩

theorem runThread_commits (hb : TakesEffect (body c)) : runThread cls opc a s body = commitOp s c.key c.tid cls opc a body := by
  rcases runThread_lastReady h body hr with ⟨-, he⟩ | ⟨hn, -⟩
  · exact he
  · exact absurd hb hn

theorem runThread_uncommitted (hb : ¬TakesEffect (body c)) : runThread cls opc a s body = finishOp s c.key c.tid a (body c) := by
  rcases runThread_lastReady h body hr with ⟨hn, -⟩ | ⟨-, he⟩
  · exact absurd hn hb
  · exact he

theorem runThread_last_fault {code : BitVec 8} {d : DWord} (hb : body c = .fault code d) :
    runThread cls opc a s body = .next (faulted c code d) := by
  rw [runThread_uncommitted h body hr (by rw [hb]; exact nofun), hb, faulted, ctxOf_state h]
  rfl

theorem runThread_last_hold {u : State} (hb : body c = .hold u) : runThread cls opc a s body = .next (afterJump c a u) := by
  rw [runThread_uncommitted h body hr (by rw [hb]; exact nofun), hb]
  rfl

end

end

/-! ## The effect comes after the commit point -/

/-- The instruction runs by one effect in every state, and at this thread its checks pass. -/
def Commits (c : Ctx) (i : Instr) (cls opc : Nat) (a : Args) : Prop :=
  ∃ body : Ctx → Res, (∀ s, exec i s = runThread cls opc a s body) ∧ TakesEffect (body c)

/-- Such a last operation does in one step what it does in the state after its commit point. -/
theorem exec_after_commit {s : State} {c c1 : Ctx} {i : Instr} {cls opc : Nat} {a : Args} (h : ctxOf s = some c)
    (hr : lastReady c cls opc a = true) (hi : Commits c i cls opc a) (h1 : ctxOf (commitState s c.key c.tid cls opc) = some c1)
    (hk : c1.key = c.key) (ht : c1.tid = c.tid) (hr1 : ready c1 cls opc a = true) :
    exec i s = exec i (commitState s c.key c.tid cls opc) := by
  obtain ⟨body, he, hb⟩ := hi
  have hteam := ctxOf_team h1
  have hthread := ctxOf_thread h1
  have heta := ctxOf_eta h1
  rw [he, he, runThread_commits h body hr hb, runThread_ready_finish h1 hr1]
  rw [hk] at hteam heta
  rw [hk, ht] at hthread
  rw [ht] at heta
  simp only [commitOp, hteam, hthread, heta, hk, ht]

/-- The thread past its commit point, where no access has to land. -/
def committedCtx (c : Ctx) : Ctx :=
  { c with
    s := c.s.modThread c.key c.tid commitThread,
    team := { c.team with threads := AMap.set c.team.threads c.tid (commitThread c.th) }, th := commitThread c.th }

theorem committedCtx_thread {s : State} {c : Ctx} (h : ctxOf s = some c) :
    (committedCtx c).s.thread? c.key c.tid = some (commitThread c.th) :=
  thread?_modThread_same (thread?_of_ctx h) _

/-- The effect of an operation that no access has to land for. -/
theorem commitOp_undrained {s : State} {c : Ctx} (h : ctxOf s = some c) {cls opc : Nat} (hd : drainsFirst cls opc = false) (a : Args)
    (body : Ctx → Res) : commitOp s c.key c.tid cls opc a body = finishOp (committedCtx c).s c.key c.tid a (body (committedCtx c)) := by
  obtain rfl := ctxOf_state h
  have hs := modThread_some (ctxOf_team h) (ctxOf_thread h) commitThread
  have hteam : (c.s.modThread c.key c.tid commitThread).team? c.key = some (committedCtx c).team := by rw [hs]; exact team?_setTeam_same ..
  have hthread := thread?_modThread_same (ctxOf_thread h) commitThread
  simp only [commitOp, commitState_undrained hd, hteam, hthread]
  rfl

/-- An operand reads alike on both sides of the commit point. -/
theorem read32_committedCtx {c : Ctx} {x : Expansion} (hx : c.th.expansion = some x) (r : Sel) : read32 (committedCtx c) r = read32 c r := by
  have hspecial (p : Special) : specialVal (committedCtx c).s (committedCtx c).team c.tid (commitThread c.th) p =
      specialVal c.s c.team c.tid c.th p := by
    rw [commitThread_some hx]
    cases p with
    | growth => exact modThread_growth ..
    | _ => rfl
  have harch : (committedCtx c).th.arch = c.th.arch := commitThread_arch hx
  cases r with
  | sp p hi => simp only [read32, ← hspecial p]; rfl
  | _ => simp only [read32, harch] <;> rfl

/-! ## Which instruction a code names -/

/-- Where a code names one instruction, that is the one. -/
theorem ofCode_of_code {i : Instr} {cls opc : Nat} {a : Args} (hc : i.code = some (cls, opc)) (ha : i.args = some a)
    (hne : ¬(cls = 1 ∧ opc = 0xE9)) : Instr.ofCode cls opc a = some i := by
  cases i with
  | haltt | halttGo => cases hc; exact absurd ⟨rfl, rfl⟩ hne
  | _ => cases hc <;> cases ha <;> rfl

end Sys2Proof.Machine
end

section
/-! SUPPORT. The operations that stand last in a template (R290): the effect of each, where its checks pass. -/

namespace Sys2Proof.Machine

/-! ## Effects without a check -/

section
variable {c : Ctx} {a : Args}

theorem commits_runReg {i : Instr} {cls opc : Nat} {f : Ctx → Thread} (he : ∀ s, exec i s = runReg cls opc a s f) : Commits c i cls opc a :=
  ⟨_, he, .done _⟩

/-- The effect of a NAP (R131). -/
def napBody (a : Args) (c : Ctx) : Res :=
  match keptHere c.th with
  | some ⟨pc, .nap g len, r⟩ =>
    if g.toNat ≤ c.s.growth.toNat then .done (withThread c c.s dropKept) else .jump (resumeWait c ⟨pc, .nap g len, r⟩)
  | _ =>
    if read32 c a.sa = 0 then .done c.s else startWait c (.nap (c.s.growth + (read32 c a.sa).zeroExtend 64) (opLen c.th a))

theorem exec_nap (a : Args) (s : State) : exec (.nap a) s = runThread 0 0x4A a s (napBody a) := rfl

theorem napBody_takesEffect (a : Args) (c : Ctx) : TakesEffect (napBody a c) := by
  unfold napBody
  split
  · split <;> constructor
  · split <;> constructor

theorem napBody_begins (hk : keptHere c.th = none) (hn : read32 c a.sa ≠ 0) :
    napBody a c = startWait c (.nap (c.s.growth + (read32 c a.sa).zeroExtend 64) (opLen c.th a)) := by
  simp only [napBody, hk, hn, if_false]

theorem commits_nap : Commits c (.nap a) 0 0x4A a := ⟨_, exec_nap a, napBody_takesEffect a c⟩

theorem commits_waitf : Commits c (.waitf a) 0 0x4C a := by
  refine ⟨_, exec_waitf a, ?_⟩
  split <;> constructor

theorem commits_lend : Commits c (.lend a) 0 0x46 a := by
  refine ⟨_, exec_lend a, ?_⟩
  split <;> constructor

theorem commits_loop : Commits c (.loopL a) 0 0x45 a := by
  refine ⟨_, exec_loop a, ?_⟩
  split
  · split <;> constructor
  · constructor

theorem commits_synch : Commits c (.synch a) 1 0x08 a := by
  refine ⟨_, fun s => (rfl : execSynch a s = _), ?_⟩
  dsimp only
  split <;> constructor

theorem commits_cpw : Commits c (.cpw a) 1 0x11 a := by
  refine ⟨_, fun s => (rfl : execCpw a s = _), ?_⟩
  dsimp only
  split <;> constructor

theorem commits_barw : Commits c (.barw a) 1 0x21 a := by
  refine ⟨_, fun s => (rfl : execBarw a s = _), ?_⟩
  dsimp only
  split <;> constructor

theorem commits_perfr : Commits c (.perfr a) 1 0xE7 a := by
  refine ⟨_, fun s => (rfl : execPerfr a s = _), ?_⟩
  dsimp only
  split <;> constructor

theorem commits_brkpt : Commits c (.brkpt a) 1 0xE8 a := by
  refine ⟨_, exec_brkpt a, ?_⟩
  split <;> constructor

/-- A transfer to an address operand is not checked for alignment in a template (R295). -/
theorem jumpTo_takesEffect (hx : c.th.expansion.isSome = true) (f : Thread → Thread) : TakesEffect (jumpTo c a f) := by
  rw [jumpTo_goes (.inl hx)]
  constructor

end

/-! ## The personality transfers (R134, R135) -/

section
variable {c : Ctx} {a : Args}

theorem commits_pxcall (hb : isBound (c.s.vd c.team.vd) (read32 c a.sb).toNat = true) : Commits c (.pxcall a) 0 0x4E a := by
  refine ⟨_, exec_pxcall a, ?_⟩
  simp only [hb, Bool.not_true, Bool.false_eq_true, if_false]
  constructor

theorem commits_pxret (hx : (read64 c a.sa).toNat / 2 ^ 52 % 2 ^ 9 = 0)
    (hb : isBound (c.s.vd c.team.vd) ((read64 c a.sa).toNat / 2 ^ 61) = true) : Commits c (.pxret a) 0 0x4F a := by
  refine ⟨_, exec_pxret a, ?_⟩
  rw [unpackTo_enters hx hb]
  constructor

end

/-! ## Atomics (R182 to R186) -/

section
variable {c : Ctx} {ac : Access} {write : Bool}

theorem issue_takesEffect (hroom : flagFull c.th ac.flag = false) (hhazard : copyHazard c.team c.tid ac.loc ac.size write = none) :
    TakesEffect (issue c ac write) := by
  simp only [issue, hroom, hhazard, Bool.false_eq_true, if_false]
  constructor

/-- An access to bytes of an earlier copy of its thread waits for it at its issue (R199). -/
theorem issue_hold (hroom : flagFull c.th ac.flag = false) {id : Nat} (hhazard : copyHazard c.team c.tid ac.loc ac.size write = some id) :
    issue c ac write = .hold (afterWrite (performCopiesTo c.s c.key id) c.team.core ac.loc) := by
  simp only [issue, hroom, hhazard, Bool.false_eq_true, if_false]

end

/-- What an atomic asks for at its place. -/
def atomicAccess (c : Ctx) (a : Args) (op : AccOp) (l : Loc) (size : Nat) (onA : Bool) : Access :=
  { op := op, loc := l, size := size, va := effective c a, flag := if onA then flagA c.th else flagB c.th, port := locPort l }

section
variable {c : Ctx} {a : Args} {op : Option Nat} {ty : ElTy} {size : Nat}
  (hfree : hostDenied c.s c.team (effective c a) op ty = false)
include hfree

/-- An atomic that its page does not refuse issues where its check passes, and takes the fault of one that fails. -/
theorem runAtomic_body (opc : Nat) (onA : Bool) (mk : Ctx → AccOp) :
    ∃ body : Ctx → Res, (∀ s, runAtomic opc a s op ty size onA mk = runThread 1 opc a s body) ∧
      (∀ l, resolve c.s c.team c.th.arch.mode (effective c a) size ⟨true, true⟩ = .ok l →
        body c = issue c (atomicAccess c a (mk c) l size onA) true) ∧
      ∀ code d, resolve c.s c.team c.th.arch.mode (effective c a) size ⟨true, true⟩ = .error (code, d) → body c = .fault code d := by
  refine ⟨_, fun _ => rfl, fun l hl => ?_, fun code d hl => ?_⟩
  · simp only [hl, hfree, Bool.false_eq_true, if_false]
    rfl
  · simp only [hl, hfree, Bool.and_false, Bool.false_eq_true, if_false]

theorem commits_runAtomic {i : Instr} {opc : Nat} {onA : Bool} {mk : Ctx → AccOp} (he : ∀ s, exec i s = runAtomic opc a s op ty size onA mk)
    (hroom : flagFull c.th (if onA then flagA c.th else flagB c.th) = false) {l : Loc}
    (hl : resolve c.s c.team c.th.arch.mode (effective c a) size ⟨true, true⟩ = .ok l)
    (hhazard : copyHazard c.team c.tid l size true = none) : Commits c i 1 opc a := by
  obtain ⟨body, hrun, hok, -⟩ := runAtomic_body hfree opc onA mk
  refine ⟨body, fun s => (he s).trans (hrun s), ?_⟩
  rw [hok l hl]
  exact issue_takesEffect hroom hhazard

end

/-- The width of a CAS in bytes (R185). -/
theorem casWide_size (a : Args) : (if casWide a then ElTy.n64 else .n32).width / 8 = if casWide a then 8 else 4 := by
  cases casWide a <;> rfl

/-! ## Glades (R206, R211, R212) -/

/-- What GWAIT, GTEST and GARVR do with a usable glade (R211, R212). -/
def gwaitEffect (a : Args) (c : Ctx) (k : Nat) (_ : Team) (off : Nat) (g : GWord) : Res :=
  let c1 : Ctx := { c with s := touch c.s c.team.core (winLoc c.team off) true }
  if g.phase ≠ (tokenOf (read32 c a.sb)).toNat then .done c1.s
  else startWait c1 (.glade (read64 c a.sa) k off (tokenOf (read32 c a.sb)) (opLen c.th a))
def gtestEffect (a : Args) (c : Ctx) (_ : Nat) (_ : Team) (off : Nat) (g : GWord) : Res :=
  .done (withThread c (touch c.s c.team.core (winLoc c.team off) true) fun th =>
    setPred th a.dst.toNum (g.phase != (tokenOf (read32 c a.sb)).toNat))
def garvrEffect (a : Args) (c : Ctx) (k : Nat) (_ : Team) (off : Nat) (g : GWord) : Res :=
  match (if modBits a.mod 9 9 = 1 then c.team.copies.find? fun p => p.2.tid == some c.tid else none) with
  | some p => .hold (performCopiesTo c.s c.key p.1)
  | none =>
    match arriveGlade c.s c.team.core k off g (read32 c a.sb).toNat g.spend with
    | none => .fault cGLADE (read64 c a.sa)
    | some s1 => .done s1

theorem exec_gwait (a : Args) (s : State) : exec (.gwait a) s = runGlade 0x1C a s (fun c => read64 c a.sa) false false (gwaitEffect a) := rfl
theorem exec_gtest (a : Args) (s : State) : exec (.gtest a) s = runGlade 0x1D a s (fun c => read64 c a.sa) false false (gtestEffect a) := rfl
theorem exec_garvr (a : Args) (s : State) : exec (.garvr a) s = runGlade 0x1B a s (fun c => read64 c a.sa) true false (garvrEffect a) := rfl

theorem gwaitEffect_takesEffect (a : Args) (c : Ctx) (k : Nat) (t : Team) (off : Nat) (g : GWord) : TakesEffect (gwaitEffect a c k t off g) := by
  unfold gwaitEffect
  dsimp only
  split <;> constructor

theorem gtestEffect_takesEffect (a : Args) (c : Ctx) (k : Nat) (t : Team) (off : Nat) (g : GWord) : TakesEffect (gtestEffect a c k t off g) :=
  .done _

/-- The glade at an address is one of the own team, not poisoned, usable, and no copy of the thread is in flight on it (R199, R206). -/
def seesGlade (c : Ctx) (ea : DWord) (peerOk : Bool) (off : Nat) : Prop :=
  gladeAddr c.s c.key c.team ea peerOk = .ok (c.key, c.team, off, false) ∧ copyHazard c.team c.tid (winLoc c.team off) 8 true = none ∧
    locPoisoned c.s (winLoc c.team off) 8 = false ∧ gUsable c.team off (gRead c.s c.team off) false = true

/-- An operation on such a glade comes to its own effect. -/
theorem runGlade_body {c : Ctx} {addr : Ctx → DWord} {peerOk : Bool} {off : Nat} (hs : seesGlade c (addr c) peerOk off) (opc : Nat) (a : Args)
    (effect : Ctx → Nat → Team → Nat → GWord → Res) :
    ∃ body : Ctx → Res, (∀ s, runGlade opc a s addr peerOk false effect = runThread 1 opc a s body) ∧
      body c = effect c c.key c.team off (gRead c.s c.team off) := by
  obtain ⟨hg, hhazard, hpoison, husable⟩ := hs
  refine ⟨_, fun _ => rfl, ?_⟩
  simp only [hg, hhazard, hpoison, husable, Bool.false_and, Bool.not_true, Bool.false_eq_true, if_false]

theorem commits_runGlade {c : Ctx} {i : Instr} {opc : Nat} {a : Args} {addr : Ctx → DWord} {peerOk : Bool}
    {effect : Ctx → Nat → Team → Nat → GWord → Res} (he : ∀ s, exec i s = runGlade opc a s addr peerOk false effect) {off : Nat}
    (hs : seesGlade c (addr c) peerOk off) (hb : TakesEffect (effect c c.key c.team off (gRead c.s c.team off))) : Commits c i 1 opc a := by
  obtain ⟨body, hrun, hbody⟩ := runGlade_body hs opc a effect
  exact ⟨body, fun s => (he s).trans (hrun s), hbody ▸ hb⟩

/-- A GARVR with CPO waits at its issue for the copies of its thread (R211). -/
theorem garvr_held {s : State} {c : Ctx} {a : Args} (h : ctxOf s = some c) (hr : lastReady c 1 0x1B a = true) (hcpo : modBits a.mod 9 9 = 1)
    {off : Nat} (hs : seesGlade c (read64 c a.sa) true off) {p : Nat × Copy} (hp : (c.team.copies.find? fun p => p.2.tid == some c.tid) = some p) :
    exec (.garvr a) s = .next (afterJump c a (performCopiesTo c.s c.key p.1)) := by
  obtain ⟨body, hrun, hbody⟩ := runGlade_body (addr := fun c => read64 c a.sa) hs 0x1B a (garvrEffect a)
  rw [exec_garvr, hrun]
  refine runThread_last_hold h body hr (hbody.trans ?_)
  simp only [garvrEffect, hcpo, if_true, hp]

/-! ## Control registers (R275) -/

theorem ownCopy_eq_none {c : Ctx} (h : ∀ p ∈ c.team.copies, p.2.tid ≠ some c.tid) : ownCopy c = none := by
  rw [ownCopy, List.find?_eq_none.2 (by simpa using h)]
  rfl

section
variable {c : Ctx} {i : Instr} {opc : Nat} {a : Args} (hi : i = .csrr a ∧ opc = 0xE0 ∨ i = .csrw a ∧ opc = 0xE1)
include hi

/-- CSRR and CSRW issue after every copy of their thread: at one that is not complete they wait (log 67). -/
theorem csr_body : ∃ body : Ctx → Res, (∀ s, exec i s = runThread 1 opc a s body) ∧
    (ownCopy c = none → TakesEffect (body c)) ∧ ∀ id, ownCopy c = some id → body c = .hold (performCopiesTo c.s c.key id) := by
  rcases hi with ⟨rfl, rfl⟩ | ⟨rfl, rfl⟩
  · refine ⟨_, fun s => (rfl : execCsrr a s = _), fun h => ?_, fun id h => ?_⟩
    · simp only [h]
      constructor
    · simp only [h]
  · refine ⟨_, fun s => (rfl : execCsrw a s = _), fun h => ?_, fun id h => ?_⟩
    · simp only [h]
      constructor
    · simp only [h]

theorem commits_csr (hown : ownCopy c = none) : Commits c i 1 opc a := by
  obtain ⟨body, hrun, heffect, -⟩ := csr_body (c := c) hi
  exact ⟨body, hrun, heffect hown⟩

theorem csr_held {s : State} (h : ctxOf s = some c) (hr : lastReady c 1 opc a = true) {id : Nat} (hown : ownCopy c = some id) :
    exec i s = .next (afterJump c a (performCopiesTo c.s c.key id)) := by
  obtain ⟨body, hrun, -, hhold⟩ := csr_body (c := c) hi
  exact (hrun s).trans (runThread_last_hold h body hr (hhold id hown))

end

/-! ## The operations of each class -/

section
variable {c : Ctx} {i : Instr} {opc : Nat} {a : Args}

/-- The operations of class 00 whose effect has no check in a template: transfers, loops, and the waits of a thread. -/
theorem commits_class00 (hx : c.th.expansion.isSome = true) (hi : Instr.ofCode 0 opc a = some i)
    (hopc : opc ∈ [0x40, 0x41, 0x42, 0x43, 0x44, 0x45, 0x46, 0x48, 0x49, 0x4A, 0x4C]) : Commits c i 0 opc a := by
  simp only [List.mem_cons, List.not_mem_nil, or_false] at hopc
  rcases hopc with rfl | rfl | rfl | rfl | rfl | rfl | rfl | rfl | rfl | rfl | rfl <;> cases hi
  · exact ⟨_, exec_bra a, .jump _⟩
  · exact ⟨_, exec_brx a, jumpTo_takesEffect hx _⟩
  · exact ⟨_, exec_call a, .jump _⟩
  · exact ⟨_, exec_callx a, jumpTo_takesEffect hx _⟩
  · exact ⟨_, exec_ret a, jumpTo_takesEffect hx _⟩
  · exact commits_loop
  · exact commits_lend
  · exact ⟨_, exec_exit a, .jump _⟩
  · exact commits_runReg fun _ => rfl
  · exact commits_nap
  · exact commits_waitf

/-- Those of class 01: SYNCH, the operations on copy tags, BARW, TRAP, PERFR and BRKPT. -/
theorem commits_class01 (hi : Instr.ofCode 1 opc a = some i) (hopc : opc ∈ [0x08, 0x11, 0x13, 0x14, 0x15, 0x21, 0xE2, 0xE7, 0xE8]) :
    Commits c i 1 opc a := by
  simp only [List.mem_cons, List.not_mem_nil, or_false] at hopc
  rcases hopc with rfl | rfl | rfl | rfl | rfl | rfl | rfl | rfl | rfl <;> cases hi
  · exact commits_synch
  · exact commits_cpw
  · exact ⟨_, fun s => (rfl : execCpf a s = _), .done _⟩
  · exact commits_runReg fun _ => rfl
  · exact commits_runReg fun _ => rfl
  · exact commits_barw
  · exact ⟨_, exec_trap a, .jump _⟩
  · exact commits_perfr
  · exact commits_brkpt

end

/-! ## Effects after the commit point -/

/-- The entry of a tail leaves all of a thread but its live record and its tail record. -/
theorem enterTail_eq (live : Option LiveRec) (th : Thread) :
    enterTail live th = { th with after := live, tail := (enterTail live th).tail } := by
  unfold enterTail
  dsimp only
  split
  · split <;> rfl
  · rfl

theorem enterTail_wait (live : Option LiveRec) (th : Thread) : (enterTail live th).wait = th.wait := by rw [enterTail_eq]
theorem enterTail_expansion (live : Option LiveRec) (th : Thread) : (enterTail live th).expansion = th.expansion := by rw [enterTail_eq]
theorem enterTail_out (live : Option LiveRec) (th : Thread) : (enterTail live th).out = th.out := by rw [enterTail_eq]
theorem enterTail_arch (live : Option LiveRec) (th : Thread) : (enterTail live th).arch = th.arch := by rw [enterTail_eq]

theorem enterTail_tail {th : Thread} {x : Expansion} (live : Option LiveRec) (hx : th.expansion = some x) (ht : x.tailing = true) :
    (enterTail live th).tail = some { addr := th.arch.pc, pix := th.arch.pix } := by
  simp only [enterTail, hx, ht, if_true]

/-- A thread changed after the commit point by an effect that sets its place or its wait. -/
theorem last_jumps {s : State} {c : Ctx} {i : Instr} {cls opc : Nat} {a : Args} {body : Ctx → Res} (h : ctxOf s = some c)
    (he : exec i s = runThread cls opc a s body) (hr : lastReady c cls opc a = true) (hd : drainsFirst cls opc = false)
    (hb : TakesEffect (body c)) {f : Thread → Thread} (hj : body (committedCtx c) = .jump ((committedCtx c).s.modThread c.key c.tid f)) :
    ∃ u, exec i s = .next u ∧ u.mem = s.mem ∧ u.thread? c.key c.tid = some (enterTail a.live (f (commitThread c.th))) := by
  rw [he, runThread_commits h body hr hb, commitOp_undrained h hd, hj]
  refine ⟨_, rfl, ?_, thread?_modThread_same (thread?_modThread_same (committedCtx_thread h) f) _⟩
  rw [modThread_mem, modThread_mem, committedCtx, modThread_mem, ctxOf_state h]

section
variable {s : State} {c : Ctx} {a : Args} {x : Expansion} (h : ctxOf s = some c) (hx : c.th.expansion = some x)
include h hx

/-- BRA commits, goes to its target and ends the expansion. -/
theorem bra_commits (hr : lastReady c 0 0x40 a = true) : ∃ u th, exec (.bra a) s = .next u ∧ u.thread? c.key c.tid = some th ∧
    th.expansion = none ∧ th.arch.pc = c.th.arch.pc + a.aux.getD 0 ∧ th.out = c.th.out ++ x.stores ∧ th.arch.v = c.th.arch.v ∧
    u.mem = s.mem := by
  obtain ⟨u, hu, hmem, hth⟩ := last_jumps h (exec_bra a s) hr rfl (.jump _) rfl
  have hpc : targetOf (committedCtx c) a = c.th.arch.pc + a.aux.getD 0 := by rw [targetOf, committedCtx, commitThread_arch hx]
  have hv : (commitThread c.th).arch.v = c.th.arch.v := by rw [commitThread_arch hx]
  exact ⟨u, _, hu, hth, rfl, hpc, commitThread_out hx, hv, hmem⟩

/-- EXIT commits and waits for its drain, at its guest instruction. -/
theorem exit_commits (hr : lastReady c 0 0x48 a = true) : ∃ u th, exec (.exitT a) s = .next u ∧ u.thread? c.key c.tid = some th ∧
    th.wait = some .exit ∧ th.expansion = some { x with committed := true, stores := [] } ∧ th.out = c.th.out ++ x.stores ∧
    th.arch = c.th.arch ∧ u.mem = s.mem := by
  obtain ⟨u, hu, hmem, hth⟩ := last_jumps h (exec_exit a s) hr rfl (.jump _) rfl
  exact ⟨u, _, hu, hth, enterTail_wait .., (enterTail_expansion ..).trans (commitThread_expansion hx),
    (enterTail_out ..).trans (commitThread_out hx), (enterTail_arch ..).trans (commitThread_arch hx), hmem⟩

/-- NAP commits and waits for its deadline, in its tail. -/
theorem nap_commits (hr : lastReady c 0 0x4A a = true) (hk : keptHere c.th = none) (hn : read32 c a.sa ≠ 0) :
    ∃ u th g len, exec (.nap a) s = .next u ∧ u.thread? c.key c.tid = some th ∧ th.wait = some (.nap g len) ∧
      g = s.growth + (read32 c a.sa).zeroExtend 64 ∧
      (x.ops = [.nap a] → th.tail = some { addr := c.th.arch.pc, pix := c.th.arch.pix }) ∧ th.arch = c.th.arch ∧ u.mem = s.mem := by
  have harch := commitThread_arch hx
  have hk1 : keptHere (committedCtx c).th = none := by
    rw [committedCtx, commitThread_some hx]
    exact hk
  have hn1 : read32 (committedCtx c) a.sa ≠ 0 := by rwa [read32_committedCtx hx]
  have hgrowth : (committedCtx c).s.growth = s.growth := by rw [committedCtx, modThread_growth, ctxOf_state h]
  have hdeadline : (committedCtx c).s.growth + (read32 (committedCtx c) a.sa).zeroExtend 64 = s.growth + (read32 c a.sa).zeroExtend 64 := by
    rw [read32_committedCtx hx, hgrowth]
  obtain ⟨u, hu, hmem, hth⟩ := last_jumps h (exec_nap a s) hr rfl (napBody_takesEffect a c) (napBody_begins hk1 hn1)
  refine ⟨u, _, _, _, hu, hth, enterTail_wait .., hdeadline, fun hops => ?_, (enterTail_arch ..).trans harch, hmem⟩
  have htailing : Expansion.tailing { x with committed := true, stores := [] } = true := by
    simp only [Expansion.tailing, hops]
    rfl
  refine (enterTail_tail a.live ?_ htailing).trans ?_
  · exact commitThread_expansion hx
  · dsimp only
    rw [harch]

end

end Sys2Proof.Machine
end

section
/-! SUPPORT. Guest instructions: the clauses of the obligation, from the lemmas on decoding, commit point and last operations. -/

namespace Sys2Proof.Machine

theorem isTailOp_table (a : Args) : isTailOp (.exitT a) = false ∧ isTailOp (.rep a) = true ∧ isTailOp (.nap a) = true ∧
    isTailOp (.waitf a) = true ∧ isTailOp (.synch a) = true ∧ isTailOp (.cpw a) = true ∧ isTailOp (.gwait a) = true ∧
    isTailOp (.barw a) = true ∧ isTailOp (.bars a) = true ∧ isTailOp (.rvx a) = true :=
  ⟨rfl, rfl, rfl, rfl, rfl, rfl, rfl, rfl, rfl, rfl⟩

/-- A last operation at its commit point stands in an expansion. -/
theorem expansion_of_lastReady {c : Ctx} {cls opc : Nat} {a : Args} (hr : lastReady c cls opc a = true) : c.th.expansion.isSome = true := by
  simp only [lastReady, atLast, Bool.and_eq_true] at hr
  obtain ⟨⟨⟨⟨⟨-, hat⟩, -⟩, -⟩, -⟩, -⟩ := hr
  cases hx : c.th.expansion with
  | none => simp [atCommit, hx] at hat
  | some x => rfl

/-- An atomic of no refusal, with room in its flag, whose check passes and which waits for no copy (R182, R186, R199). -/
def atomicIssues (c : Ctx) (a : Args) (op : Option Nat) (ty : ElTy) (flag : Option (BitVec 4)) : Prop :=
  hostDenied c.s c.team (effective c a) op ty = false ∧ flagFull c.th flag = false ∧ ∃ l,
    resolve c.s c.team c.th.arch.mode (effective c a) (ty.width / 8) ⟨true, true⟩ = .ok l ∧ copyHazard c.team c.tid l (ty.width / 8) true = none

section
variable {c : Ctx} {a : Args}

theorem commits_atom (hi : atomicIssues c a (some (atomOp a)) (atomTy a) (flagA c.th)) : Commits c (.atom a) 1 0x04 a := by
  obtain ⟨hfree, hroom, l, hl, hhazard⟩ := hi
  exact commits_runAtomic hfree (exec_atom a) hroom hl hhazard

theorem commits_red (hi : atomicIssues c a (some (atomOp a)) (atomTy a) (flagB c.th)) : Commits c (.red a) 1 0x06 a := by
  obtain ⟨hfree, hroom, l, hl, hhazard⟩ := hi
  exact commits_runAtomic hfree (exec_red a) hroom hl hhazard

theorem commits_cas (hi : atomicIssues c a none (if modBits a.mod 9 9 = 1 then .n64 else .n32) (flagA c.th)) : Commits c (.cas a) 1 0x05 a := by
  have hwide : (if modBits a.mod 9 9 = 1 then ElTy.n64 else .n32) = if casWide a then .n64 else .n32 := by simp only [casWide, beq_iff_eq]
  obtain ⟨hfree, hroom, l, hl, hhazard⟩ := hi
  rw [hwide] at hfree
  rw [hwide, casWide_size] at hl hhazard
  exact commits_runAtomic hfree (exec_cas a) hroom hl hhazard

end

section
variable {s : State} {c : Ctx} {a : Args} (h : ctxOf s = some c)
include h

theorem pxcall_unbound (hr : lastReady c 0 0x4E a = true) (hb : isBound (c.s.vd c.team.vd) (read32 c a.sb).toNat = false) :
    exec (.pxcall a) s = .next (faulted c 0x01 0) := by
  rw [exec_pxcall]
  exact runThread_last_fault h _ hr (if_pos (by simp [hb]))

theorem pxret_range (hr : lastReady c 0 0x4F a = true) (hx : (read64 c a.sa).toNat / 2 ^ 52 % 2 ^ 9 ≠ 0) :
    exec (.pxret a) s = .next (faulted c 0x0D (read64 c a.sa)) := by
  rw [exec_pxret]
  exact runThread_last_fault h _ hr (unpackTo_range hx)

section
variable (hr : lastReady c 1 0x04 a = true) (hfree : hostDenied c.s c.team (effective c a) (some (atomOp a)) (atomTy a) = false)
include hr hfree

theorem atom_fault {code : BitVec 8} {d : DWord}
    (hl : resolve s c.team c.th.arch.mode (effective c a) ((atomTy a).width / 8) ⟨true, true⟩ = .error (code, d)) :
    exec (.atom a) s = .next (faulted c code d) := by
  obtain rfl := ctxOf_state h
  obtain ⟨body, hrun, -, hfault⟩ := runAtomic_body (size := (atomTy a).width / 8) hfree 0x04 true fun c => atomOf c a
  exact (exec_atom a c.s).trans ((hrun c.s).trans (runThread_last_fault h body hr (hfault code d hl)))

theorem atom_held {l : Loc} (hl : resolve s c.team c.th.arch.mode (effective c a) ((atomTy a).width / 8) ⟨true, true⟩ = .ok l)
    (hroom : flagFull c.th (flagA c.th) = false) {id : Nat} (hhazard : copyHazard c.team c.tid l ((atomTy a).width / 8) true = some id) :
    exec (.atom a) s = .next (afterJump c a (afterWrite (performCopiesTo c.s c.key id) c.team.core l)) := by
  obtain rfl := ctxOf_state h
  obtain ⟨body, hrun, hissue, -⟩ := runAtomic_body (size := (atomTy a).width / 8) hfree 0x04 true fun c => atomOf c a
  exact (exec_atom a c.s).trans ((hrun c.s).trans (runThread_last_hold h body hr ((hissue l hl).trans (issue_hold hroom hhazard))))

end

end

section
variable {c : Ctx} {i : Instr} {opc : Nat} {a : Args} (hi : Instr.ofCode 1 opc a = some i)
include hi

theorem commits_glades (hopc : opc = 0x1C ∨ opc = 0x1D) {off : Nat} (hs : seesGlade c (read64 c a.sa) false off) : Commits c i 1 opc a := by
  rcases hopc with rfl | rfl <;> cases hi
  · exact commits_runGlade (addr := fun c => read64 c a.sa) (exec_gwait a) hs (gwaitEffect_takesEffect ..)
  · exact commits_runGlade (addr := fun c => read64 c a.sa) (exec_gtest a) hs (gtestEffect_takesEffect ..)

theorem commits_csrs (hopc : opc = 0xE0 ∨ opc = 0xE1) (halone : ∀ p ∈ c.team.copies, p.2.tid ≠ some c.tid) : Commits c i 1 opc a := by
  rcases hopc with rfl | rfl <;> cases hi
  · exact commits_csr (.inl ⟨rfl, rfl⟩) (ownCopy_eq_none halone)
  · exact commits_csr (.inr ⟨rfl, rfl⟩) (ownCopy_eq_none halone)

end

/-- Settles O44: the decoding by what the lookup finds, the commit point by what it does to its thread, a last operation by whether its effect is
taken. -/
theorem guestInstructions : Obligations.GuestInstructions := by
  unfold Obligations.GuestInstructions
  refine ⟨?decode, ?waits, awaitsAccess_iff, ?begins, ?misses, ?commits, fun th x => rollback_uncommitted, ?tails, isTailOp_table, ?lands, ?passes,
    ?effects, ?guards, ?checks⟩
  case decode =>
    intro s k tid t th img hturn ht hth hpix hx hw himg
    refine ⟨fun p d => guestDecode_hit hturn ht hth hpix hx hw himg, fun code d => guestDecode_fault hturn ht hth hpix hx hw himg,
      fun psel pa code d hl hd => ?unfetched, fun psel pa x hl hd => ⟨fun hfill => ?fills, fun e hill hf => ?illegal⟩,
      fun hspot hal code d => lookUp_misaligned hpix himg hspot hal,
      fun gpc => ⟨fun e => decodeGuest_fault, fun w => decodeGuest_illegal, fun len w => decodeGuest_miss, fun i len w => decodeGuest_template⟩,
      fun kp hk hexit d => issueGuest_keptExit s k tid t hk hexit d,
      fun hk => ⟨issueGuest_illegal hk, issueGuest_miss hk himg, fun len ops => issueGuest_begins hk,
        fun len ops code d => issueGuest_opsFault hk⟩⟩
    case unfetched => rw [guestDecode_miss hturn ht hth hpix hx hw himg hl, missGuest_unfetched hpix himg hd]
    case fills => rw [guestDecode_miss hturn ht hth hpix hx hw himg hl, missGuest_fills hpix himg hd hfill]
    case illegal => rw [guestDecode_miss hturn ht hth hpix hx hw himg hl, missGuest_illegal hpix himg hd hill hf]
  case waits =>
    exact fun s k tid t th hturn ht hth hpix hx hw => guestDecode_waits hturn ht hth hpix hx ((awaitsAccess_iff th).2 hw)
  case begins =>
    intro s k tid len t th ops _ hth htail
    obtain ⟨u, hu, hexp, harch⟩ := beginExpansion_thread hth htail ops len
    exact ⟨u, hu, hexp, harch, beginExpansion_mem ..⟩
  case misses =>
    intro s k tid w len t th b _ hth hev hpc
    exact ⟨_, templateMiss_thread hth hev b w len, rfl, rfl, rfl, rfl, missFrame_epc hpc b w len, rfl, rfl, rfl, fun i => missFrame_e th b w len⟩
  case commits =>
    intro s k tid t th x hturn _ hth hx hchk hc hw hp
    exact ⟨_, commitPoint_commits hturn hth hx hchk hc hw hp, modThread_mem .., commitPoint_thread hth hx⟩
  case tails =>
    intro th x hx hc
    obtain ⟨harch, hout, hexp, -⟩ := rollback_committed hx hc
    exact ⟨harch, hout, hexp, rollback_tail hx hc, rollback_no_tail hx hc⟩
  case lands =>
    exact fun s k tid cls opc th x hth hx => ⟨commitThread_thread hth hx, modThread_mem .., commitState_undrained, commitState_empty hth hx,
      fun hd ac => commitState_single hth hx hd⟩
  case passes =>
    intro s c c1 i cls opc a h hc ha hr hpass h1 hk ht hr1
    refine exec_after_commit h hr ?_ h1 hk ht hr1
    have hnamed := ofCode_of_code hc ha
    rcases hpass with ⟨rfl, hopc⟩ | ⟨rfl, hopc⟩ | ⟨rfl, rfl, hb⟩ | ⟨rfl, rfl, hx, hb⟩ |
      ⟨rfl, ⟨rfl, hs⟩ | ⟨rfl, hs⟩ | ⟨rfl, hs⟩⟩ | ⟨rfl, rfl | rfl, off, hs⟩ | ⟨rfl, rfl | rfl, halone⟩
    · exact commits_class00 (expansion_of_lastReady hr) (hnamed (by simp)) hopc
    · exact commits_class01 (hnamed fun hhalt => absurd (hhalt.2 ▸ hopc) (by decide)) hopc
    · cases hnamed (by simp)
      exact commits_pxcall hb
    · cases hnamed (by simp)
      exact commits_pxret hx hb
    · cases hnamed (by simp)
      exact commits_atom hs
    · cases hnamed (by simp)
      exact commits_red hs
    · cases hnamed (by simp)
      exact commits_cas hs
    · exact commits_glades (hnamed (by simp)) (.inl rfl) hs
    · exact commits_glades (hnamed (by simp)) (.inr rfl) hs
    · exact commits_csrs (hnamed (by simp)) (.inl rfl) halone
    · exact commits_csrs (hnamed (by simp)) (.inr rfl) halone
  case effects =>
    exact fun s c a x h hx => ⟨bra_commits h hx, exit_commits h hx, nap_commits h hx⟩
  case guards =>
    intro s c i cls opc a h hc ha hcls
    obtain ⟨body, hrun⟩ := exec_eq_runThread hc ha hcls s
    rw [hrun]
    exact ⟨runThread_last_guardFalse h body, runThread_last_waits h body⟩
  case checks =>
    intro s c a h
    obtain rfl := ctxOf_state h
    refine ⟨pxcall_unbound h, pxret_range h, fun hr hfree => ⟨fun code d => atom_fault h hr hfree,
        fun l id hl hroom => atom_held h hr hfree hl hroom⟩,
      fun p hp => ⟨fun hr hcpo ⟨off, hs⟩ => garvr_held h hr hcpo hs hp, ?_, ?_⟩⟩
    · exact fun hr => csr_held (.inl ⟨rfl, rfl⟩) h hr (congrArg (Option.map Prod.fst) hp)
    · exact fun hr => csr_held (.inr ⟨rfl, rfl⟩) h hr (congrArg (Option.map Prod.fst) hp)

end Sys2Proof.Machine
end

section
/-! SUPPORT. The scheduler (R305, R308 to R310, R399 to R405, R417, R427): nodes and their gangs, fresh teams, retirement, completion entries, the
decisions of time-sharing. -/

namespace Sys2Proof.Machine

/-! ## Nodes and placement (R399 to R403, R427) -/

/-- A node once its next gang has been placed: it goes on to the one after, or drains (R399). -/
def placedNode (s : State) (nd : Node) : Node :=
  { nd with next := nd.next + 1, since := s.cycle, aged := false,
            state := if nd.lrec.nteams ≤ (nd.next + 1) * nd.lrec.gsize then .draining else .placing }

section
variable {s : State} {l n : Nat} {x : Launch} {nd : Node} (hx : AMap.find s.launches l = some x) (hnd : AMap.find x.nodes n = some nd)
include hx hnd

theorem node_modNode (f : Node → Node) :
    ((AMap.find (modNode s l n f).launches l).bind fun y => AMap.find y.nodes n) = some (f nd) := by
  simp only [modNode, hx, hnd, AMap.find_set_same, Option.bind_some]

/-- A node that is ready leaves WAITRES: it ends where its index was rebound, and else enters PLACING (R399). -/
theorem residencyThreshold_ready (h : waitResReady s x nd = true) : exec (.residencyThreshold l n) s =
    .next (if rebound s x.vd nd then settleAll (modNode s l n fun nd => { nd with state := .done, status := 2 }) else enterPlacing s l n x nd) := by
  change execResidencyThreshold l n s = _
  simp only [execResidencyThreshold, hx, hnd, h, Bool.not_true, Bool.false_eq_true, if_false, event, apply_ite Host.Outcome.next]

theorem node_countGang : ((AMap.find (countGang s l n).launches l).bind fun y => AMap.find y.nodes n) = some (placedNode s nd) :=
  node_modNode hx hnd _

/-- A node that has waited in PLACING for 4096 cycles has aged (R401). -/
theorem node_placementAging (hs : nd.state = .placing) (he : nd.ending = none) (hw : nd.since + 4096 ≤ s.cycle) :
    ∃ u, exec (.placementAging l n) s = .next u ∧ u.teams = s.teams ∧
      ((AMap.find u.launches l).bind fun y => AMap.find y.nodes n) = some { nd with aged := true } := by
  refine ⟨_, rfl, (modNode_fields ..).2, (node_modNode hx hnd _).trans ?_⟩
  simp [hs, he, hw]

end

theorem rebound_iff (s : State) (vd : Nat) (nd : Node) :
    rebound s vd nd = true ↔ nd.lrec.pix ≠ 0 ∧ (imageAt s vd nd.lrec.pix).map Image.digest ≠ nd.image := by
  simp [rebound]

theorem placementStep_fresh {s : State} {l n : Nat} {x : Launch} {nd : Node} {block cores : List Nat} (hc : copiedGang s l n = none)
    (hp : placement s l n = some (x, nd, block, cores)) : exec (.placementStep l n) s = .next (placeGang s l n x nd block cores) := by
  change execPlacementStep l n s = _
  simp only [execPlacementStep, hc, hp, event]

theorem placementStep_copied {s : State} {l n gk : Nat} (hc : copiedGang s l n = some gk) :
    exec (.placementStep l n) s = .next (finishPlacement s gk l n) := by
  change execPlacementStep l n s = _
  simp only [execPlacementStep, hc, event]

theorem modGang_some {s : State} {k : Nat} {g : Gang} (h : s.gang? k = some g) (f : Gang → Gang) :
    s.modGang k f = { s with gangs := AMap.set s.gangs k (f g) } := by
  simp only [State.modGang, h]

/-- The placement step of a gang whose images have come: it is placed, and counted by its node (R403). -/
theorem finishPlacement_places {s : State} {l n gk : Nat} {x : Launch} {nd : Node} {g : Gang} (hx : AMap.find s.launches l = some x)
    (hnd : AMap.find x.nodes n = some nd) (hg : s.gang? gk = some g) :
    (finishPlacement s gk l n).teams = s.teams ∧
    (finishPlacement s gk l n).gang? gk = some { g with placed := true, fresh := false } ∧
    ((AMap.find (finishPlacement s gk l n).launches l).bind fun y => AMap.find y.nodes n) = some (placedNode s nd) := by
  rw [finishPlacement, modGang_some hg, State.gang?, countGang, (modNode_fields ..).1, (modNode_fields ..).2]
  exact ⟨rfl, AMap.find_set_same .., node_countGang (s := { s with gangs := _ }) hx hnd⟩

/-! ## A fresh team (R308) -/

section
variable (s : State) (gk vd l n rank core : Nat) (r : LaunchRec) (grid teamid : Nat)

/-- A fresh team has the threads of its record, each at TENTRY under PIX. -/
theorem thread_freshTeam (j : Nat) : (AMap.find (freshTeam s gk vd l n rank core r grid teamid).threads j).map Thread.arch =
    if j < r.nthreads then some { pc := r.tentry, pix := BitVec.ofNat 3 r.pix } else none := by
  unfold freshTeam
  rw [find_map_range, apply_ite (Option.map Thread.arch)]
  rfl

/-- The K registers of a fresh team are those of its record. -/
theorem k_freshTeam (h : r.kinit.length = 16) (j : Nat) :
    AMap.get 0 (freshTeam s gk vd l n rank core r grid teamid).k j = r.kinit.getD j 0 := by
  have hk : (freshTeam s gk vd l n rank core r grid teamid).k = AMap.numbered 0 (fun _ v => v) r.kinit := by
    simp [freshTeam, AMap.numbered, List.zipIdx_eq_zip_range', h, List.range_eq_range']
  have hfind := AMap.find_numbered 0 (fun _ (v : DWord) => v) r.kinit j
  rw [Nat.zero_add, Option.map_id'] at hfind
  rw [AMap.get, hk, hfind, List.getD_eq_getElem?_getD]

end

/-! ## Retirement (R310, R400) -/

/-- A team retires and gives up what it holds. -/
def retireTeam (s : State) (k : Nat) (t : Team) : State :=
  s.setTeam k { t with retired := true, glades := [], tiles := [], canopy := [], tags := [], barriers := [] }

/-- The team of a key, where there is one, has retired. -/
def teamRetired (s : State) (k : Nat) : Bool := ((s.team? k).map Team.retired).getD true

/-- The largest CT of the cores of a gang's teams. -/
def gangCt (s : State) (g : Gang) : DWord := (g.teams.filterMap s.team?).foldl (fun m u => maxD m (ctOf s u.core)) 0

section
variable {s : State} {k : Nat} {t : Team} (ht : s.team? k = some t)
include ht

theorem teamRetire_waits (h : retireReady t = false) : exec (.teamRetire k) s = .next s := by
  change execTeamRetire k s = _
  simp only [execTeamRetire, ht, h, Bool.not_false, if_true, event]

theorem teamRetire_alone (h : retireReady t = true) (hg : (retireTeam s k t).gang? t.gang = none) :
    exec (.teamRetire k) s = .next (retireTeam s k t) := by
  rw [retireTeam] at hg ⊢
  change execTeamRetire k s = _
  simp only [execTeamRetire, ht, h, Bool.not_true, Bool.false_eq_true, if_false, hg, event]

/-- The last team of a gang retires the gang; another only itself. -/
theorem teamRetire_gang (h : retireReady t = true) {g : Gang} (hg : (retireTeam s k t).gang? t.gang = some g) :
    exec (.teamRetire k) s = .next (if g.teams.all (teamRetired (retireTeam s k t)) then
      settleAll (dropGang (modNode (retireTeam s k t) t.launch t.node fun nd =>
        { nd with ct := maxD nd.ct (gangCt (retireTeam s k t) g) }) t.gang)
      else retireTeam s k t) := by
  rw [apply_ite Host.Outcome.next]
  rw [retireTeam] at hg ⊢
  change execTeamRetire k s = _
  simp only [execTeamRetire, ht, h, Bool.not_true, Bool.false_eq_true, if_false, hg, event]
  rfl

end

/-- What keeps a team from retiring. -/
theorem retireReady_busy {t : Team}
    (h : t.threads ≠ [] ∨ t.stream.retired = false ∨ t.copies ≠ [] ∨ t.matrix ≠ [] ∨ ∃ b ∈ t.bins, b.reqs ≠ []) : retireReady t = false := by
  rw [Bool.eq_false_iff]
  intro hr
  simp only [retireReady, Bool.and_eq_true, List.isEmpty_iff, List.all_eq_true] at hr
  obtain ⟨⟨⟨⟨⟨⟨⟨⟨⟨⟨⟨⟨⟨-, -⟩, hthreads⟩, hstream⟩, hbins⟩, hcopies⟩, -⟩, -⟩, hmatrix⟩, -⟩, -⟩, -⟩, -⟩, -⟩ := hr
  rcases h with h | h | h | h | ⟨b, hb, h⟩
  · exact h hthreads
  · exact absurd hstream (by simp [h])
  · exact h hcopies
  · exact h hmatrix
  · exact h (hbins b hb)

/-! ## Completion entries (R404, R405) -/

section
variable {s : State} {l : Nat} {x : Launch} {q : Queue} (hx : AMap.find s.launches l = some x) (hq : AMap.find s.queues x.queue = some q)
  (hhead : q.doneOrder.head? = some l)
include hx hq

theorem completionEntryWrite_unacked (h : x.unacked ≠ []) : exec (.completionEntryWrite l) s = .next s := by
  change execCompletionEntryWrite l s = _
  simp [execCompletionEntryWrite, hx, hq, h, event]

include hhead

theorem completionEntryWrite_full (h : x.unacked = []) (hfull : (q.w + 2 ^ 32 - q.chead) % 2 ^ 32 = q.entries) :
    exec (.completionEntryWrite l) s = .next { s with queues := AMap.set s.queues x.queue { q with stall := true } } := by
  change execCompletionEntryWrite l s = _
  simp only [execCompletionEntryWrite, hx, hq, hhead, h, hfull, ne_eq, not_true_eq_false, List.isEmpty_nil, Bool.not_true, Bool.false_eq_true,
    or_self, if_false, if_true, event]

/-- An entry is written with its bytes and announced, its launch leaves, and a drain that it ends has ended. -/
theorem completionEntryWrite_writes (h : x.unacked = []) (hroom : (q.w + 2 ^ 32 - q.chead) % 2 ^ 32 ≠ q.entries) :
    ∃ s1, exec (.completionEntryWrite l) s = .next (finishDrain (settleAll s1) x.queue) ∧
      s1.mem = cellsSet s.mem (q.ring + 16 * (q.w % q.entries))
        (completionBytes (if q.w / q.entries % 2 = 0 then 1 else 0) s.growth x) ∧
      (∃ q1, AMap.find s1.queues x.queue = some q1 ∧ q1.w = (q.w + 1) % 2 ^ 32 ∧ q1.stall = false ∧ q1.doneOrder = q.doneOrder.tail) ∧
      s1.msix = (match q.msix with
        | some v => (q.port, v) :: s.msix
        | none => s.msix) ∧ s1.teams = s.teams := by
  change ∃ s1, execCompletionEntryWrite l s = _ ∧ _
  simp only [execCompletionEntryWrite, hx, hq, hhead, h, hroom, ne_eq, not_true_eq_false, List.isEmpty_nil, Bool.not_true, Bool.false_eq_true,
    or_self, if_false, event]
  exact ⟨_, rfl, rfl, ⟨_, AMap.find_set_same .., rfl, rfl, List.drop_one⟩, rfl, rfl⟩

end

/-- A launch whose nodes have all ended with status 0 completes with status 0. -/
theorem launchStatus_ok {x : Launch} (he : x.early = none) (h : ∀ p ∈ x.nodes, p.2.status = 0) : launchStatus x = (0, 0) := by
  have hnone : (x.nodes.find? fun p => p.2.status != 0 && p.2.status != 7) = none :=
    List.find?_eq_none.mpr fun p hp => by simp [h p hp]
  simp only [launchStatus, he, hnone, Option.map_none, Option.getD_none]

/-! ## Time-sharing (R417) -/

section
variable {s : State} {n : Nat} {v : VDev}

theorem quantumExpiry_decides (h : (s.vds.find? fun p => p.2.resident && quantumOver s p.2) = some (n, v)) :
    exec .quantumExpiry s = .next (decide417 s n) := by
  change execQuantumExpiry s = _
  simp only [execQuantumExpiry, h, event]

/-- The quantum counts from the end of the switch-in. -/
theorem schedulerDecide_entered (hd : (s.vds.find? fun p => decisionDue s p.1) = none)
    (he : (s.vds.find? fun p => entered s p.1) = some (n, v)) :
    exec .schedulerDecide s = .next (s.modVd n fun v => { v with entering := false, quantumFrom := s.growth.toNat }) := by
  change execSchedulerDecide s = _
  simp only [execSchedulerDecide, hd, he, event]

theorem quantumOver_entering (h : v.entering = true) : quantumOver s v = false := by
  simp only [quantumOver, h, Bool.not_true, Bool.false_and]

/-- Whether a virtual device is runnable has been noted. -/
def noteRunnable (s : State) (n : Nat) : State := s.modVd n fun v => { v with runnable := vdRunnable s n }

/-- The smallest of some virtual times, 0 where there is none. -/
def leastTime : List Nat → Nat
  | [] => 0
  | y :: ys => ys.foldl min y

/-- The virtual times of the resident virtual devices that share a partition with one. -/
def rivalTimes (s : State) (n : Nat) : List Nat :=
  (s.vds.filter fun p => p.2.resident && p.2.part == (s.vd n).part && p.1 != n).map fun p => p.2.vt

section
variable (hd : (s.vds.find? fun p => decisionDue s p.1) = some (n, v))
include hd

/-- A virtual device that has stopped being runnable is decided on where it is resident. -/
theorem schedulerDecide_stopped (hr : vdRunnable s n = false) : exec .schedulerDecide s =
    .next (if (s.vd n).resident then decide417 (noteRunnable s n) n else noteRunnable s n) := by
  have hres : ((noteRunnable s n).vd n).resident = (s.vd n).resident := by
    rw [noteRunnable, State.vd, State.modVd, AMap.get_set_same]
  rw [← hres, apply_ite Host.Outcome.next]
  change execSchedulerDecide s = _
  simp only [execSchedulerDecide, hd, event]
  rw [hr, if_neg Bool.false_ne_true, noteRunnable, hr]

/-- A virtual device that has become runnable is decided on once its VT is no less than those beside it. -/
theorem schedulerDecide_runnable (hr : vdRunnable s n = true) : exec .schedulerDecide s =
    .next (decide417 ((noteRunnable s n).modVd n fun v => { v with vt := max v.vt (leastTime (rivalTimes (noteRunnable s n) n)) }) n) := by
  change execSchedulerDecide s = _
  simp only [execSchedulerDecide, hd, event]
  rw [hr, if_pos rfl, noteRunnable, hr]
  rfl

end

end

/-- Settles O47, by the rules above: each event with its cases, and what a fresh team has of its record. -/
theorem schedulingEvents : Obligations.SchedulingEvents := by
  unfold Obligations.SchedulingEvents
  refine ⟨fun s l n x nd hx hnd => ⟨rebound_iff .., fun hw => ⟨?ends, ?enters, ?placeable, ?unplaceable⟩, fun block cores => placementStep_fresh,
      fun gk g hc hg => ⟨_, placementStep_copied hc, finishPlacement_places hx hnd hg⟩, node_placementAging hx hnd⟩,
    fun s gk vd l n rank core grid teamid r => ⟨fun j hj => ?fresh, fun j hj => ?beyond, rfl, beq_iff_eq, rfl, rfl, rfl, rfl,
      fun j _ hk => k_freshTeam s gk vd l n rank core r grid teamid hk j, rfl, rfl, rfl, rfl⟩,
    fun s k t ht => ⟨fun hr => ⟨teamRetire_alone ht hr, fun g hg => ⟨fun hall => ?last, fun hleft => ?notLast⟩⟩,
      fun hbusy => teamRetire_waits ht (retireReady_busy hbusy)⟩,
    fun s l x q hx hq hhead => ⟨completionEntryWrite_unacked hx hq, completionEntryWrite_full hx hq hhead, completionEntryWrite_writes hx hq hhead⟩,
    fun x => launchStatus_ok,
    fun s n v => ⟨quantumExpiry_decides, schedulerDecide_entered, quantumOver_entering, fun hd => ⟨fun hr hres => ?away, fun hr hres => ?stopped,
      fun hr hvts => ?alone, fun y ys hr hvts => ?beside⟩⟩⟩
  case ends =>
    intro hre
    rw [residencyThreshold_ready hx hnd hw, if_pos hre]
  case enters =>
    intro hre
    rw [residencyThreshold_ready hx hnd hw, hre, if_neg Bool.false_ne_true]
  case placeable =>
    exact fun hp => if_pos hp
  case unplaceable =>
    intro hp
    rw [enterPlacing, hp, if_neg Bool.false_ne_true]
  case fresh =>
    exact (thread_freshTeam ..).trans (if_pos hj)
  case beyond =>
    have hnone := thread_freshTeam s gk vd l n rank core r grid teamid j
    rwa [if_neg (Nat.not_lt.mpr hj), Option.map_eq_none_iff] at hnone
  case last =>
    exact (teamRetire_gang ht hr hg).trans (congrArg Host.Outcome.next (if_pos (List.all_eq_true.mpr hall)))
  case notLast =>
    obtain ⟨j, hj, hlive⟩ := hleft
    refine (teamRetire_gang ht hr hg).trans (congrArg Host.Outcome.next (if_neg fun hall => ?_))
    exact Bool.false_ne_true (hlive.symm.trans (List.all_eq_true.mp hall j hj))
  case away | stopped =>
    rw [schedulerDecide_stopped hd hr, hres]
    rfl
  case alone =>
    have hnone : rivalTimes (noteRunnable s n) n = [] := hvts
    rw [schedulerDecide_runnable hd hr, hnone]
    rfl
  case beside =>
    have hsome : rivalTimes (noteRunnable s n) n = y :: ys := hvts
    rw [schedulerDecide_runnable hd hr, hsome]
    rfl

end Sys2Proof.Machine
end

section
/-! SUPPORT. The canonical form of the memories (notes/assumptions/4): the operations on memory, engines and the parts of an operation keep it. -/

namespace Sys2Proof.Machine

theorem foldl_wf {α : Type} {f : State → α → State} (hf : ∀ u a, Memory.wf u = true → Memory.wf (f u a) = true) {s : State}
    (h : Memory.wf s = true) (as : List α) : Memory.wf (as.foldl f s) = true := by
  induction as generalizing s with
  | nil => exact h
  | cons a as ih => exact ih (hf s a h)

theorem foldl_fst_wf {α β : Type} {f : State × β → α → State × β}
    (hf : ∀ r a, Memory.wf r.1 = true → Memory.wf (f r a).1 = true) {r : State × β} (h : Memory.wf r.1 = true) (as : List α) :
    Memory.wf (as.foldl f r).1 = true := by
  induction as generalizing r with
  | nil => exact h
  | cons a as ih => exact ih (hf r a h)

theorem wf_of_fst {α : Type} {r : State × α} {s : State} {x : α} (h : Memory.wf r.1 = true) (e : r = (s, x)) : Memory.wf s = true := by
  rw [e] at h
  exact h

/-- An outcome whose next state, where it has one, is canonical. -/
def CanonOut : Out → Prop
  | .next s => Memory.wf s = true
  | _ => True

/-- An effect whose state is canonical. -/
def CanonRes : Res → Prop
  | .done s | .jump s | .stay s | .hold s | .faultAt s _ _ => Memory.wf s = true
  | .fault _ _ => True

/-- A state, where there is one, is canonical. -/
def CanonOpt : Option State → Prop
  | some s => Memory.wf s = true
  | none => True

theorem wf_of_some {o : Option State} {s : State} (h : CanonOpt o) (e : o = some s) : Memory.wf s = true := by
  rw [e] at h
  exact h

theorem modVd_wf {s : State} (h : Memory.wf s = true) (n : Nat) (f : VDev → VDev) : Memory.wf (s.modVd n f) = true :=
  wf_of_eq h rfl rfl

theorem modGang_wf {s : State} (h : Memory.wf s = true) (k : Nat) (f : Gang → Gang) : Memory.wf (s.modGang k f) = true := by
  unfold State.modGang
  split
  · exact wf_of_eq h rfl rfl
  · exact h

theorem raiseCt_wf {s : State} (h : Memory.wf s = true) (core : Nat) (t : DWord) : Memory.wf (raiseCt s core t) = true :=
  (sameBytes_raiseCt ..).wf h

theorem laterCt_wf {s : State} (h : Memory.wf s = true) (core : Nat) : Memory.wf (laterCt s core) = true :=
  raiseCt_wf h ..

theorem meetCr_wf {s : State} (h : Memory.wf s = true) (core key : Nat) : Memory.wf (meetCr s core key) = true :=
  raiseCt_wf h ..

theorem touchCr_wf {s : State} (h : Memory.wf s = true) (core key : Nat) : Memory.wf (touchCr s core key) = true := by
  unfold touchCr
  refine raiseCt_wf ?_ ..
  exact wf_of_eq h rfl rfl

theorem makeRoom_wf {s : State} (h : Memory.wf s = true) (line : Nat) : Memory.wf (makeRoom s line) = true :=
  (sameBytes_makeRoom ..).wf h

theorem setTimes_wf {s : State} (h : Memory.wf s = true) (l : Loc) (t : Times) : Memory.wf (setTimes s l t) = true :=
  (sameBytes_setTimes ..).wf h

theorem passLink_wf {s : State} (h : Memory.wf s = true) (a : Loc) : Memory.wf (passLink s a) = true :=
  (sameBytes_passLink ..).wf h

theorem recallLine_wf {s : State} (h : Memory.wf s = true) (l : Loc) : Memory.wf (recallLine s l) = true :=
  (sameBytes_recallLine ..).wf h

theorem recallKeys_wf {s : State} (h : Memory.wf s = true) (ks : List Nat) : Memory.wf (recallKeys s ks) = true :=
  wf_of_eq h rfl rfl

theorem dropLease_wf {s : State} (h : Memory.wf s = true) (cache line : Nat) : Memory.wf (dropLease s cache line) = true :=
  wf_of_eq h (dropLease_mem ..) (dropLease_scratch ..)

theorem roomInL1_wf {s : State} (h : Memory.wf s = true) (core line : Nat) : Memory.wf (roomInL1 s core line) = true :=
  wf_of_eq h (roomInL1_mem ..) (roomInL1_scratch ..)

theorem takeLine_wf {s : State} (h : Memory.wf s = true) (core : Nat) (l : Loc) : Memory.wf (takeLine s core l) = true :=
  wf_of_eq h (takeLine_mem ..) (takeLine_scratch ..)

theorem grantLease_wf {s : State} (h : Memory.wf s = true) (cache line : Nat) (c : Lease) : Memory.wf (grantLease s cache line c) = true :=
  wf_of_eq h (grantLease_mem ..) (grantLease_scratch ..)

theorem trimT1_wf {s : State} (h : Memory.wf s = true) (slice keep : Nat) : Memory.wf (trimT1 s slice keep) = true :=
  (sameBytes_trimT1 ..).wf h

theorem comeUp_wf {s : State} (h : Memory.wf s = true) (g : Nat) : Memory.wf (comeUp s g) = true :=
  (sameBytes_comeUp ..).wf h

theorem reachGranule_wf {s : State} (h : Memory.wf s = true) (l : Loc) : Memory.wf (reachGranule s l) = true :=
  (sameBytes_reachGranule ..).wf h

theorem recordGranule_wf {s : State} (h : Memory.wf s = true) (vd : Nat) (l : Loc) : Memory.wf (recordGranule s vd l) = true :=
  (sameBytes_recordGranule ..).wf h

theorem poisonSectors_wf {s : State} (h : Memory.wf s = true) (ks : List Nat) : Memory.wf (poisonSectors s ks) = true :=
  wf_of_eq h rfl rfl

theorem mend_wf {s : State} (h : Memory.wf s = true) (op : Nat × Nat) (l : Loc) (n : Nat) : Memory.wf (mend s op l n) = true :=
  wf_of_eq h (mend_mem ..) (mend_scratch ..)

theorem loadMiss_wf {s : State} (h : Memory.wf s = true) (cache core line : Nat) (l : Loc) : Memory.wf (loadMiss s cache core line l) = true :=
  wf_of_eq h (loadMiss_mem ..) (loadMiss_scratch ..)

theorem loadVia_wf {s : State} (h : Memory.wf s = true) (cache core : Nat) (l : Loc) (n : Nat) : Memory.wf (loadVia s cache core l n).1 = true := by
  unfold loadVia
  dsimp only
  split
  · split
    · split
      · exact raiseCt_wf h ..
      · exact loadMiss_wf h ..
    · split
      · exact raiseCt_wf (setTimes_wf h ..) ..
      · exact loadMiss_wf h ..
  · exact touch_wf h ..

theorem readHome_wf {s : State} (h : Memory.wf s = true) (core : Nat) (l : Loc) : Memory.wf (readHome s core l) = true :=
  (sameBytes_readHome ..).wf h

theorem touchHome_wf {s : State} (h : Memory.wf s = true) (core : Nat) (l : Loc) : Memory.wf (touchHome s core l) = true :=
  wf_of_eq h (touchHome_mem ..) (touchHome_scratch ..)

theorem cacheTrans_wf {s : State} (h : Memory.wf s = true) (core : Nat) (t : Trans) : Memory.wf (cacheTrans s core t) = true :=
  wf_of_eq h rfl rfl

theorem fillTlb_wf {s : State} (h : Memory.wf s = true) (vd core va : Nat) : Memory.wf (fillTlb s vd core va) = true :=
  (sameBytes_fillTlb ..).wf h

theorem noteFault_wf {s : State} (h : Memory.wf s = true) (vd core : Nat) (e : FaultInfo) : Memory.wf (noteFault s vd core e) = true := by
  unfold noteFault
  split
  · exact fillTlb_wf h ..
  · exact h

theorem setHome_wf {s : State} (h : Memory.wf s = true) (g : Nat) (pins : AMap Nat) : Memory.wf (setHome s g pins) = true :=
  wf_of_eq h rfl rfl

theorem noteWalk_wf {s : State} (h : Memory.wf s = true) (t : Team) (ea : DWord) : Memory.wf (noteWalk s t ea) = true := by
  unfold noteWalk
  split
  · exact fillTlb_wf h ..
  · exact h

theorem noteHome_wf {s : State} (h : Memory.wf s = true) (t : Trans) (l : Loc) : Memory.wf (noteHome s t l) = true :=
  (sameBytes_noteHome ..).wf h

theorem noteAccess_wf {s : State} (h : Memory.wf s = true) (t : Team) (ea : DWord) (l : Loc) : Memory.wf (noteAccess s t ea l) = true :=
  (sameBytes_noteAccess ..).wf h

theorem takeSeq_wf {s : State} (h : Memory.wf s = true) (core port : Nat) : Memory.wf (takeSeq s core port).1 = true :=
  wf_of_eq h rfl rfl

theorem engineStore_wf {s : State} (h : Memory.wf s = true) (op : Nat × Nat) (t : Team) (va : DWord) (l : Loc) (bs : List Byte) (bad : Bool) :
    Memory.wf (engineStore s op t va l bs bad) = true := by
  unfold engineStore
  dsimp only
  split
  · exact h
  · split
    · split
      · exact store_wf h ..
      · exact mend_wf (store_wf h ..) ..
    · split
      · refine modTeam_wf ?_ ..
        refine takeSeq_wf ?_ ..
        split
        · exact store_wf h ..
        · exact mend_wf (store_wf h ..) ..
      · refine takeSeq_wf ?_ ..
        split
        · exact store_wf h ..
        · exact mend_wf (store_wf h ..) ..

theorem engineRead_wf {s : State} (h : Memory.wf s = true) (t : Team) (cache : Nat) (held : List Trans) (ea : DWord) (n u : Nat) :
    Memory.wf (engineRead s t cache held ea n u).1 = true := by
  unfold engineRead
  refine foldl_fst_wf (fun _ _ hu => ?_) h ..
  dsimp only
  split
  · exact loadVia_wf hu ..
  · exact hu

theorem engineWrite_wf {s : State} (h : Memory.wf s = true) (key : Nat) (t : Team) (c : PCmd) (ea : DWord) (bs : List Byte) :
    Memory.wf (engineWrite s key t c ea bs) = true := by
  unfold engineWrite
  refine foldl_wf (fun _ _ hu => ?_) h ..
  split
  · exact engineStore_wf hu ..
  · exact hu

theorem mmaCols_wf {s : State} (h : Memory.wf s = true) (t : Team) (c : PCmd) (d : MmaDesc) (fb : Slot) (rows : List (List Byte)) (pass : Nat) :
    Memory.wf (mmaCols s t c d fb rows pass).1 = true := by
  unfold mmaCols
  dsimp only
  refine foldl_fst_wf (fun _ _ hu => ?_) h ..
  split
  · exact engineRead_wf hu ..
  · exact hu

theorem mmaArow_wf {s : State} (h : Memory.wf s = true) (t : Team) (c : PCmd) (d : MmaDesc) (fa : Slot) (pass m : Nat) :
    Memory.wf (mmaArow s t c d fa pass m).1 = true := by
  unfold mmaArow
  split
  · exact engineRead_wf (engineRead_wf h ..) ..
  · exact engineRead_wf h ..

theorem mmaRows_wf {s : State} (h : Memory.wf s = true) (key : Nat) (t : Team) (c : PCmd) (acc fa fb n : Nat) :
    Memory.wf (mmaRows s key t c acc fa fb n) = true := by
  unfold mmaRows
  dsimp only
  split
  · refine modTeam_wf ?_ ..
    refine foldl_fst_wf (fun _ _ hu => ?_) ?_ ..
    · exact mmaArow_wf hu ..
    · exact mmaCols_wf h ..
  · exact h

theorem drainStep_wf {s : State} (h : Memory.wf s = true) (key : Nat) (t : Team) (c : PCmd) (acc fs : Nat) (clr : Bool) :
    Memory.wf (drainStep s key t c acc fs clr) = true :=
  modTeam_wf (engineWrite_wf h ..) ..

theorem mldbRow_wf {s : State} (h : Memory.wf s = true) (t : Team) (c : PCmd) (fs : Nat) : Memory.wf (mldbRow s t c fs).1 = true :=
  engineRead_wf h ..

theorem modGranted_wf {s : State} (h : Memory.wf s = true) (key : Nat) (u : UnitKind) (f : PCmd → PCmd) : Memory.wf (modGranted s key u f) = true :=
  modTeam_wf h ..

theorem unitStep_wf {s : State} (h : Memory.wf s = true) (key : Nat) (u : UnitKind) (n : Nat) : Memory.wf (unitStep s key u n) = true := by
  unfold unitStep
  dsimp only
  split
  · exact h
  · split
    · exact h
    · split
      · exact h
      · split
        · exact modGranted_wf (mmaRows_wf h ..) ..
        · exact modGranted_wf (drainStep_wf h ..) ..
        · split
          · exact modGranted_wf (engineRead_wf h ..) ..
          · exact modGranted_wf (engineWrite_wf h ..) ..
        · exact h

theorem endGranted_wf {s : State} (h : Memory.wf s = true) (key : Nat) (u : UnitKind) : Memory.wf (endGranted s key u) = true := by
  unfold endGranted
  split
  · exact h
  · split
    · exact h
    · split
      · exact modTeam_wf (setTeam_wf h ..) ..
      · split
        · exact modTeam_wf h ..
        · split
          · exact modTeam_wf (setTeam_wf h ..) ..
          · exact modTeam_wf (modTeam_wf h ..) ..
      · exact modTeam_wf h ..

theorem unitRest_wf {s : State} (h : Memory.wf s = true) (key : Nat) (u : UnitKind) (n : Nat) : Memory.wf (unitRest s key u n) = true := by
  induction n generalizing s with
  | zero => exact h
  | succ n ih => exact ih (unitStep_wf h ..)

theorem completeGranted_wf {s : State} (h : Memory.wf s = true) (key : Nat) (u : UnitKind) : Memory.wf (completeGranted s key u) = true :=
  endGranted_wf (unitRest_wf h ..) ..

theorem settleLaunch_wf {s : State} (h : Memory.wf s = true) (l : Nat) : Memory.wf (settleLaunch s l) = true := by
  unfold settleLaunch
  split
  · exact h
  · exact wf_of_eq h rfl rfl

theorem startLaunch_wf {s : State} (h : Memory.wf s = true) (l : Nat) : Memory.wf (startLaunch s l) = true := by
  unfold startLaunch
  dsimp only
  split
  · exact h
  · split
    · exact h
    · exact wf_of_eq h rfl rfl

theorem orderDone_wf {s : State} (h : Memory.wf s = true) : Memory.wf (orderDone s) = true := by
  unfold orderDone
  refine foldl_wf (fun _ _ hu => ?_) h ..
  split
  · split
    · exact wf_of_eq hu rfl rfl
    · exact hu
  · exact hu

theorem modNode_wf {s : State} (h : Memory.wf s = true) (l n : Nat) (f : Node → Node) : Memory.wf (modNode s l n f) = true := by
  unfold modNode
  split
  · split
    · exact wf_of_eq h rfl rfl
    · exact h
  · exact h

theorem endNode_wf {s : State} (h : Memory.wf s = true) (l n status : Nat) : Memory.wf (endNode s l n status) = true :=
  modNode_wf h ..

theorem gWrite_wf {s : State} (h : Memory.wf s = true) (core : Nat) (t : Team) (off : Nat) (g : GWord) : Memory.wf (gWrite s core t off g) = true :=
  touch_wf (writeBytes_wf h ..) ..

theorem completeIfDone_wf {s : State} (h : Memory.wf s = true) (core key off : Nat) (g : GWord) :
    Memory.wf (completeIfDone s core key off g) = true := by
  unfold completeIfDone
  dsimp only
  split
  · exact h
  · split
    · exact modTeam_wf (raiseCt_wf (gWrite_wf (gWrite_wf h ..) ..) ..) ..
    · exact gWrite_wf h ..

theorem endHalts_wf {s : State} (h : Memory.wf s = true) (p : Halt → Bool) : Memory.wf (endHalts s p) = true :=
  wf_of_eq h rfl rfl

theorem endStopHalts_wf {s : State} (h : Memory.wf s = true) : Memory.wf (endStopHalts s) = true :=
  endHalts_wf h ..

theorem leaveWrites_wf {s : State} (h : Memory.wf s = true) (launch : Nat) (ws : List SysWrite) : Memory.wf (leaveWrites s launch ws) = true := by
  unfold leaveWrites
  split
  · exact wf_of_eq h rfl rfl
  · exact h

theorem dropGang_wf {s : State} (h : Memory.wf s = true) (gk : Nat) : Memory.wf (dropGang s gk) = true := by
  unfold dropGang
  split
  · exact h
  · rename_i g _
    refine wf_of_eq (endHalts_wf (foldl_wf (fun u t hu => ?_) h (g.teams.filterMap s.team?)) fun x => g.teams.contains x.team) rfl rfl
    exact leaveWrites_wf hu t.launch (teamWrites t)

theorem dropStale_wf {s : State} (h : Memory.wf s = true) : Memory.wf (dropStale s) = true :=
  foldl_wf (fun _ _ hu => dropGang_wf hu ..) h ..

theorem hardwareNotice_wf {s : State} (h : Memory.wf s = true) (kind : Nat) (code : BitVec 8) (where' : Nat) (datum : DWord) :
    Memory.wf (hardwareNotice s kind code where' datum) = true :=
  postNotice_wf h ..

theorem clearCluster_wf {s : State} (h : Memory.wf s = true) (c : Nat) : Memory.wf (clearCluster s c) = true := by
  rw [wf_iff] at h ⊢
  exact ⟨h.1, cellsWf_filter h.2 _⟩

theorem clearRetired_wf {s : State} (h : Memory.wf s = true) : Memory.wf (clearRetired s) = true := by
  unfold clearRetired
  refine foldl_wf (fun _ _ hu => ?_) h ..
  split
  · refine hardwareNotice_wf ?_ ..
    refine hardwareNotice_wf ?_ ..
    exact wf_of_eq (clearCluster_wf hu ..) rfl rfl
  · exact hu

theorem enterConfig_wf {s : State} (h : Memory.wf s = true) : Memory.wf (enterConfig s) = true :=
  wf_of_eq h rfl rfl

theorem settleAll_wf {s : State} (h : Memory.wf s = true) : Memory.wf (settleAll s) = true :=
  orderDone_wf (foldl_wf (fun _ _ hu => settleLaunch_wf (startLaunch_wf hu ..) ..) (enterConfig_wf (clearRetired_wf (dropStale_wf h))) ..)

theorem landStore_wf {s : State} (h : Memory.wf s = true) (t : Team) (ag : Agent) (ac : Access) (bs : List Byte) (home : Bool) :
    Memory.wf (landStore s t ag ac bs home) = true := by
  unfold landStore
  dsimp only
  split
  · split
    · exact storeHome_wf h ..
    · exact store_wf h ..
  · split
    · refine modThread_wf ?_ ..
      refine takeSeq_wf ?_ ..
      split
      · exact storeHome_wf h ..
      · exact store_wf h ..
    · refine modTeam_wf ?_ ..
      refine takeSeq_wf ?_ ..
      split
      · exact storeHome_wf h ..
      · exact store_wf h ..

theorem performAt_wf {s : State} (h : Memory.wf s = true) (t : Team) (ag : Agent) (ac : Access) : Memory.wf (performAt s t ag ac).1 = true := by
  unfold performAt
  dsimp only
  split
  · exact landStore_wf h ..
  · split
    · split
      · exact readHome_wf h ..
      · exact load_wf h ..
    · split
      · exact readHome_wf h ..
      · exact load_wf h ..
  · split
    · split
      · exact readHome_wf h ..
      · exact load_wf h ..
    · split
      · exact readHome_wf h ..
      · exact load_wf h ..
  · exact landStore_wf h ..
  · split
    · exact touchHome_wf h ..
    · split
      · exact landStore_wf h ..
      · exact touchHome_wf h ..

theorem markFaulted_wf {s : State} (h : Memory.wf s = true) (core key off : Nat) : Memory.wf (markFaulted s core key off) = true := by
  unfold markFaulted
  split
  · exact h
  · rename_i t _
    split
    · exact wf_of_eq (gWrite_wf h core t off { gRead s t off with faulted := true }) rfl rfl
    · exact h

theorem reportTo_wf {s : State} (h : Memory.wf s = true) (key : Nat) (ga : DWord) (u : Nat) : Memory.wf (reportTo s key ga u).1 = true := by
  unfold reportTo
  dsimp only
  split
  · exact h
  · split
    · exact h
    · split
      · exact h
      · split
        · exact markFaulted_wf (laterCt_wf h ..) ..
        · exact completeIfDone_wf (modTeam_wf (laterCt_wf h ..) ..) ..

theorem copyRead_wf {s : State} (h : Memory.wf s = true) (t : Team) (c : Copy) : Memory.wf (copyRead s t c).1 = true :=
  load_wf h ..

theorem copyWrite_wf {s : State} (h : Memory.wf s = true) (key id : Nat) (c : Copy) (bs : List Byte) (bad : Bool) :
    Memory.wf (copyWrite s key id c bs bad) = true := by
  unfold copyWrite
  dsimp only
  split
  · exact h
  · refine modTeam_wf ?_ ..
    split
    · split
      · refine markFaulted_wf ?_ ..
        refine modTeam_wf ?_ ..
        refine modTeam_wf ?_ ..
        split
        · refine modThread_wf ?_ ..
          split
          · split
            · exact modThread_wf (takeSeq_wf (store_wf (laterCt_wf h ..) ..) ..) ..
            · exact leaveWrites_wf (takeSeq_wf (store_wf (laterCt_wf h ..) ..) ..) ..
          · exact store_wf (laterCt_wf h ..) ..
        · split
          · split
            · exact modThread_wf (takeSeq_wf (store_wf (laterCt_wf h ..) ..) ..) ..
            · exact leaveWrites_wf (takeSeq_wf (store_wf (laterCt_wf h ..) ..) ..) ..
          · exact store_wf (laterCt_wf h ..) ..
      · refine modTeam_wf ?_ ..
        refine modTeam_wf ?_ ..
        split
        · refine modThread_wf ?_ ..
          split
          · split
            · exact modThread_wf (takeSeq_wf (store_wf (laterCt_wf h ..) ..) ..) ..
            · exact leaveWrites_wf (takeSeq_wf (store_wf (laterCt_wf h ..) ..) ..) ..
          · exact store_wf (laterCt_wf h ..) ..
        · split
          · split
            · exact modThread_wf (takeSeq_wf (store_wf (laterCt_wf h ..) ..) ..) ..
            · exact leaveWrites_wf (takeSeq_wf (store_wf (laterCt_wf h ..) ..) ..) ..
          · exact store_wf (laterCt_wf h ..) ..
    · split
      · split
        · refine wf_of_fst ?_ ‹_›
          refine reportTo_wf ?_ ..
          refine modTeam_wf ?_ ..
          split
          · refine modThread_wf ?_ ..
            split
            · split
              · exact modThread_wf (takeSeq_wf (store_wf (laterCt_wf h ..) ..) ..) ..
              · exact leaveWrites_wf (takeSeq_wf (store_wf (laterCt_wf h ..) ..) ..) ..
            · exact store_wf (laterCt_wf h ..) ..
          · split
            · split
              · exact modThread_wf (takeSeq_wf (store_wf (laterCt_wf h ..) ..) ..) ..
              · exact leaveWrites_wf (takeSeq_wf (store_wf (laterCt_wf h ..) ..) ..) ..
            · exact store_wf (laterCt_wf h ..) ..
        · refine modTeam_wf ?_ ..
          refine wf_of_fst ?_ ‹_›
          refine reportTo_wf ?_ ..
          refine modTeam_wf ?_ ..
          split
          · refine modThread_wf ?_ ..
            split
            · split
              · exact modThread_wf (takeSeq_wf (store_wf (laterCt_wf h ..) ..) ..) ..
              · exact leaveWrites_wf (takeSeq_wf (store_wf (laterCt_wf h ..) ..) ..) ..
            · exact store_wf (laterCt_wf h ..) ..
          · split
            · split
              · exact modThread_wf (takeSeq_wf (store_wf (laterCt_wf h ..) ..) ..) ..
              · exact leaveWrites_wf (takeSeq_wf (store_wf (laterCt_wf h ..) ..) ..) ..
            · exact store_wf (laterCt_wf h ..) ..
      · refine modTeam_wf ?_ ..
        split
        · refine modThread_wf ?_ ..
          split
          · split
            · exact modThread_wf (takeSeq_wf (store_wf (laterCt_wf h ..) ..) ..) ..
            · exact leaveWrites_wf (takeSeq_wf (store_wf (laterCt_wf h ..) ..) ..) ..
          · exact store_wf (laterCt_wf h ..) ..
        · split
          · split
            · exact modThread_wf (takeSeq_wf (store_wf (laterCt_wf h ..) ..) ..) ..
            · exact leaveWrites_wf (takeSeq_wf (store_wf (laterCt_wf h ..) ..) ..) ..
          · exact store_wf (laterCt_wf h ..) ..

theorem performCopy_wf {s : State} (h : Memory.wf s = true) (key id : Nat) : Memory.wf (performCopy s key id) = true := by
  unfold performCopy
  split
  · exact h
  · split
    · exact h
    · split
      · exact copyWrite_wf h ..
      · exact copyWrite_wf (copyRead_wf h ..) ..

theorem performCopiesTo_wf {s : State} (h : Memory.wf s = true) (key id : Nat) : Memory.wf (performCopiesTo s key id) = true := by
  unfold performCopiesTo
  split
  · exact h
  · exact foldl_wf (fun _ _ hu => performCopy_wf hu ..) h ..

theorem noteHeld_wf {s : State} (h : Memory.wf s = true) (t : Team) (held : List Trans) (ea : DWord) (l : Loc) :
    Memory.wf (noteHeld s t held ea l) = true :=
  (sameBytes_noteHeld ..).wf h

theorem spoilBulk_wf {s : State} (h : Memory.wf s = true) (key : Nat) (t : Team) (c : PCmd) : Memory.wf (spoilBulk s key t c) = true := by
  unfold spoilBulk
  split
  · exact markFaulted_wf h ..
  · exact h

theorem noteUnit_wf {s : State} (h : Memory.wf s = true) (t : Team) (held : List Trans) (ea : DWord) : Memory.wf (noteUnit s t held ea) = true := by
  unfold noteUnit
  split
  · exact h
  · exact noteWalk_wf h ..

theorem bulkUnit_wf {s : State} (h : Memory.wf s = true) (key : Nat) (t : Team) (c : PCmd) (src dst : DWord) :
    Memory.wf (bulkUnit s key t c src dst) = true := by
  unfold bulkUnit
  dsimp only
  split
  · split
    · exact spoilBulk_wf (engineStore_wf (laterCt_wf (load_wf (noteHeld_wf (noteHeld_wf h ..) ..) ..) ..) ..) ..
    · split
      · exact reportTo_wf (engineStore_wf (laterCt_wf (load_wf (noteHeld_wf (noteHeld_wf h ..) ..) ..) ..) ..) ..
      · exact engineStore_wf (laterCt_wf (load_wf (noteHeld_wf (noteHeld_wf h ..) ..) ..) ..) ..
  · exact spoilBulk_wf (noteUnit_wf (noteUnit_wf h ..) ..) ..
  · exact spoilBulk_wf (noteUnit_wf h ..) ..

theorem bulkStep_wf {s : State} (h : Memory.wf s = true) (key : Nat) : Memory.wf (bulkStep s key) = true := by
  unfold bulkStep
  split
  · exact h
  · split
    · exact h
    · exact modTeam_wf (bulkUnit_wf h ..) ..

theorem bulkFinish_wf {s : State} (h : Memory.wf s = true) (key n : Nat) : Memory.wf (bulkFinish s key n) = true := by
  induction n generalizing s with
  | zero => exact h
  | succ n ih => exact ih (bulkStep_wf h ..)

theorem bulkDone_wf {s : State} (h : Memory.wf s = true) (key : Nat) : Memory.wf (bulkDone s key) = true := by
  unfold bulkDone
  split
  · exact bulkFinish_wf h ..
  · exact h

theorem unitDone_wf {s : State} (h : Memory.wf s = true) (key : Nat) (u : UnitKind) : Memory.wf (unitDone s key u) = true := by
  unfold unitDone
  refine modTeam_wf ?_ ..
  split
  · split
    · exact laterCt_wf (completeGranted_wf h ..) ..
    · exact h
  · exact completeGranted_wf h ..

theorem performOwner_wf {s : State} (h : Memory.wf s = true) (a : Owner) : Memory.wf (performOwner s a) = true := by
  unfold performOwner
  split
  · exact performCopiesTo_wf h ..
  · exact bulkDone_wf h ..
  · exact unitDone_wf h ..

theorem afterWrite_wf {s : State} (h : Memory.wf s = true) (core : Nat) (l : Loc) : Memory.wf (afterWrite s core l) = true :=
  raiseCt_wf h ..

theorem performOldest_wf {s : State} (h : Memory.wf s = true) (ag : Agent) : Memory.wf (performOldest s ag) = true := by
  unfold performOldest
  dsimp only
  split
  · split
    · exact afterWrite_wf (performOwner_wf h ..) ..
    · split <;> exact modTeam_wf (performAt_wf h ..) ..
  · exact h

theorem landAll_wf {land : State → Agent → State} (hl : ∀ u ag, Memory.wf u = true → Memory.wf (land u ag) = true) {s : State}
    (h : Memory.wf s = true) (ag : Agent) (n : Nat) : Memory.wf (landAll land s ag n) = true := by
  induction n generalizing s with
  | zero => exact h
  | succ n ih => exact ih (hl _ _ h)

theorem landThread_wf {s : State} (h : Memory.wf s = true) (k tid : Nat) : Memory.wf (landThread s k tid) = true :=
  landAll_wf (fun _ _ hu => performOldest_wf hu ..) h ..

theorem landTeam_wf {s : State} (h : Memory.wf s = true) (key : Nat) : Memory.wf (landTeam s key) = true := by
  unfold landTeam
  split
  · exact h
  · exact unitDone_wf (unitDone_wf (foldl_wf (fun _ _ hu => performCopy_wf hu ..) (landAll_wf (fun _ _ hu => performOldest_wf hu ..) (foldl_wf (fun _
      _ hu => landThread_wf hu ..) h ..) ..) ..) ..) ..

theorem terminateGang_wf {s : State} (h : Memory.wf s = true) (gk : Nat) (code code2 : BitVec 8) (teamid tid : Nat) (datum : DWord) (endsNode : Bool)
    :
    Memory.wf (terminateGang s gk code code2 teamid tid datum endsNode) = true := by
  unfold terminateGang
  split
  · exact h
  · refine postNotice_wf ?_ ..
    refine settleAll_wf ?_
    split
    · exact endNode_wf (dropGang_wf (foldl_wf (fun _ _ hu => landTeam_wf hu ..) h ..) ..) ..
    · exact dropGang_wf (foldl_wf (fun _ _ hu => landTeam_wf hu ..) h ..) ..

theorem deliver_wf {s : State} (h : Memory.wf s = true) (key tid : Nat) (code trapno src : BitVec 8) (resume datum : DWord) :
    Memory.wf (deliver s key tid code trapno src resume datum) = true := by
  unfold deliver
  split
  · exact h
  · split
    · exact h
    · split
      · exact terminateGang_wf (modThread_wf h ..) ..
      · split
        · exact postNotice_wf (modVd_wf h ..) ..
        · exact modThread_wf (meetCr_wf h ..) ..

theorem noteTeamFault_wf {s : State} (h : Memory.wf s = true) (key : Nat) (code : BitVec 8) (datum : DWord) :
    Memory.wf (noteTeamFault s key code datum) = true := by
  unfold noteTeamFault
  split
  · exact noteFault_wf h ..
  · exact h

theorem faultThread_wf {s : State} (h : Memory.wf s = true) (key tid : Nat) (code : BitVec 8) (datum : DWord) :
    Memory.wf (faultThread s key tid code datum) = true := by
  unfold faultThread
  dsimp only
  split
  · exact modThread_wf (noteTeamFault_wf h ..) ..
  · exact deliver_wf (modThread_wf (noteTeamFault_wf h ..) ..) ..

theorem touchBarrier_wf {s : State} (h : Memory.wf s = true) (k b : Nat) : Memory.wf (touchBarrier s k b) = true := by
  unfold touchBarrier
  split
  · exact h
  · exact raiseCt_wf (setTeam_wf h ..) ..

theorem commitState_wf {s : State} (h : Memory.wf s = true) (k tid cls opc : Nat) : Memory.wf (commitState s k tid cls opc) = true := by
  unfold commitState
  split
  · exact landThread_wf (modThread_wf h ..) ..
  · exact modThread_wf h ..

theorem faultStream_wf {s : State} (h : Memory.wf s = true) (key : Nat) (code : BitVec 8) (datum : DWord) :
    Memory.wf (faultStream s key code datum) = true :=
  modTeam_wf (noteTeamFault_wf h ..) ..

theorem finishOp_wf {s : State} (h : Memory.wf s = true) (k tid : Nat) (a : Args) {r : Res} (hr : CanonRes r) : CanonOut (finishOp s k tid a r) := by
  cases r with
  | done u => exact modThread_wf hr ..
  | jump u => exact modThread_wf hr ..
  | hold u => exact modThread_wf hr ..
  | stay u => exact wf_of_eq (modThread_wf (s := u) hr k tid (enterTail a.live)) rfl rfl
  | fault code d => exact faultThread_wf h ..
  | faultAt u code d => exact faultThread_wf hr ..

theorem canonOut_ite {p : Prop} [Decidable p] {a b : Out} (ha : CanonOut a) (hb : CanonOut b) : CanonOut (if p then a else b) := by
  split
  · exact ha
  · exact hb

section
variable {s : State} (h : Memory.wf s = true)
include h

theorem commitOp_wf (k tid cls opc : Nat) (a : Args) {body : Ctx → Res} (hb : ∀ c, Memory.wf c.s = true → CanonRes (body c)) :
    CanonOut (commitOp s k tid cls opc a body) := by
  have hs := commitState_wf h k tid cls opc
  unfold commitOp
  dsimp only
  split
  · exact finishOp_wf hs _ _ _ (hb _ hs)
  · exact hs

/-- A thread operation keeps the canonical form where its effect does. -/
theorem runThread_wf (cls opc : Nat) (a : Args) {body : Ctx → Res} (hb : ∀ c, Memory.wf c.s = true → CanonRes (body c)) :
    CanonOut (runThread cls opc a s body) := by
  unfold runThread
  split
  · trivial
  · split
    · split
      · exact faultThread_wf h ..
      · dsimp only
        split
        · exact faultThread_wf h ..
        · split
          · exact performOldest_wf h ..
          · split
            · refine modThread_wf ?_ ..
              split
              · exact commitState_wf h ..
              · exact h
            · split
              · exact performOldest_wf h ..
              · split
                · exact faultThread_wf h ..
                · split
                  · split
                    · exact commitOp_wf h _ _ _ _ _ hb
                    · exact commitOp_wf h _ _ _ _ _ hb
                    · exact finishOp_wf h _ _ _ (hb _ h)
                  · exact finishOp_wf h _ _ _ (hb _ h)
    · trivial

/-- An operation that only changes its thread. -/
theorem runReg_wf (cls opc : Nat) (a : Args) (f : Ctx → Thread) : CanonOut (runReg cls opc a s f) :=
  runThread_wf h _ _ _ fun _ hc => modThread_wf hc ..

theorem runStream_wf (opc : Nat) (a : Args) (posted : Bool) {body : Nat → Team → Res} (hb : ∀ k t, CanonRes (body k t)) :
    CanonOut (runStream opc a s posted body) := by
  unfold runStream
  split
  · trivial
  · rename_i k _
    split
    · trivial
    · rename_i t _
      split
      · trivial
      · split
        · exact faultStream_wf h ..
        · split
          · exact modTeam_wf h ..
          · split
            · exact performOldest_wf h ..
            · refine canonOut_ite (wf_of_eq h rfl rfl) ?_
              have hr := hb k t
              cases hbody : body k t with
              | done u => exact modTeam_wf (s := u) (by rwa [hbody] at hr) ..
              | jump u | hold u => rwa [hbody] at hr
              | stay u => exact wf_of_eq (s := u) (by rwa [hbody] at hr) rfl rfl
              | fault code d => exact faultStream_wf h ..
              | faultAt u code d => exact faultStream_wf (s := u) (by rwa [hbody] at hr) ..

theorem runK_wf (opc : Nat) (a : Args) (f : Team → DWord) : CanonOut (runK opc a s f) :=
  runStream_wf h _ _ _ fun _ _ => setTeam_wf h ..

theorem event_wf : CanonOut (event s) := h

theorem freeVal_wf : Memory.wf (freeVal s).2 = true := wf_of_eq h rfl rfl

theorem freeVal64_wf : Memory.wf (freeVal64 s).2 = true := wf_of_eq h rfl rfl

end

end Sys2Proof.Machine
end

section
/-! SUPPORT. The canonical form of the memories: placement in Canopy, control, accesses, meetings, the uniform stream and matrix operations keep it. -/

namespace Sys2Proof.Machine

/-- The checks of a command at the head of its queue keep the canonical form, whether they pass or fail. -/
def CanonCheck : Checked → Prop
  | .ok r => Memory.wf r.1 = true
  | .error e => Memory.wf e.1 = true

theorem wf_of_ok {r : Checked} {s : State} {x : List Trans} (h : CanonCheck r) (e : r = .ok (s, x)) : Memory.wf s = true := by
  rw [e] at h
  exact h

theorem wf_of_error {r : Checked} {s : State} {x : FaultInfo} (h : CanonCheck r) (e : r = .error (s, x)) : Memory.wf s = true := by
  rw [e] at h
  exact h

theorem wf_of_ok_fst {r : Checked} {x : State × List Trans} (h : CanonCheck r) (e : r = .ok x) : Memory.wf x.1 = true := by
  rw [e] at h
  exact h

theorem wf_of_error_fst {r : Checked} {x : State × FaultInfo} (h : CanonCheck r) (e : r = .error x) : Memory.wf x.1 = true := by
  rw [e] at h
  exact h

theorem removeThread_wf {s : State} (h : Memory.wf s = true) (key tid : Nat) : Memory.wf (removeThread s key tid) = true := by
  unfold removeThread
  refine modTeam_wf ?_ ..
  split
  · exact leaveWrites_wf (endHalts_wf h ..) ..
  · exact endHalts_wf h ..

theorem addPerf_wf {s : State} (h : Memory.wf s = true) (vd core n : Nat) (x : DWord) : Memory.wf (addPerf s vd core n x) = true :=
  wf_of_eq h rfl rfl

theorem countPerf_wf {s : State} (h : Memory.wf s = true) (vd core n : Nat) : Memory.wf (countPerf s vd core n) = true :=
  addPerf_wf h ..

theorem spawnThread_wf {s : State} (h : Memory.wf s = true) (key : Nat) (entry : DWord) (pix : BitVec 3) (r : Request) :
    CanonOpt (spawnThread s key entry pix r) := by
  unfold spawnThread
  dsimp only
  split
  · exact trivial
  · split
    · exact trivial
    · split
      · exact trivial
      · split
        · exact trivial
        · exact setTeam_wf h ..

theorem spawnAll_wf {s : State} (h : Memory.wf s = true) (key : Nat) (entry : DWord) (pix : BitVec 3) (rs : List Request) :
    Memory.wf (spawnAll s key entry pix rs).1 = true := by
  induction rs generalizing s with
  | nil => exact h
  | cons r rest ih =>
    unfold spawnAll
    split
    · exact h
    · exact ih (wf_of_some (spawnThread_wf h ..) ‹_›)

theorem takeBin_wf {s : State} (h : Memory.wf s = true) (key : Nat) (entry : DWord) (pix : BitVec 3) (r : Request) :
    Memory.wf (takeBin s key entry pix r) = true :=
  modTeam_wf h ..

theorem grantSpawn_wf {s : State} (h : Memory.wf s = true) (core : Nat) (x : Nat × Nat × SpawnWait) : Memory.wf (grantSpawn s core x) = true := by
  unfold grantSpawn
  split
  · split
    · exact h
    · exact countPerf_wf (countPerf_wf (modThread_wf (takeBin_wf h ..) ..) ..) ..
  · exact h

theorem grantSpawns_wf {s : State} (h : Memory.wf s = true) (core : Nat) : Memory.wf (grantSpawns s core) = true :=
  foldl_wf (fun _ _ hu => grantSpawn_wf hu ..) h ..

theorem flushBin_wf {s : State} (h : Memory.wf s = true) (key : Nat) (b : Bin) : Memory.wf (flushBin s key b) = true := by
  unfold flushBin
  dsimp only
  split
  · exact grantSpawns_wf (modTeam_wf (spawnAll_wf h ..) ..) ..
  · exact modTeam_wf (spawnAll_wf h ..) ..

theorem flushUntil_wf {s : State} (h : Memory.wf s = true) (core : Nat) (bs : List (Nat × Bin)) : Memory.wf (flushUntil s core bs) = true := by
  induction bs generalizing s with
  | nil => exact h
  | cons p rest ih =>
    unfold flushUntil
    split
    · exact h
    · exact ih (flushBin_wf h ..)

theorem placeRequest_wf {s : State} (h : Memory.wf s = true) (key : Nat) (entry : DWord) (pix : BitVec 3) (r : Request) (again : Bool) :
    Memory.wf (placeRequest s key entry pix r again).1 = true := by
  unfold placeRequest
  dsimp only
  split
  · exact h
  · split
    · split
      · exact flushBin_wf h ..
      · split
        · exact flushBin_wf (setTeam_wf h ..) ..
        · exact setTeam_wf h ..
    · split
      · split
        · exact takeBin_wf h ..
        · exact h
      · split
        · exact takeBin_wf (flushUntil_wf (grantSpawns_wf h ..) ..) ..
        · exact flushUntil_wf (grantSpawns_wf h ..) ..

theorem jumpTo_wf {c : Ctx} (h : Memory.wf c.s = true) (a : Args) (f : Thread → Thread) : CanonRes (jumpTo c a f) := by
  unfold jumpTo
  dsimp only
  split
  · exact trivial
  · exact modThread_wf h ..

theorem execBra_wf {s : State} (h : Memory.wf s = true) (a : Args) : CanonOut (execBra a s) :=
  runThread_wf h _ _ _ (fun _ hu => modThread_wf hu ..)

theorem execBrx_wf {s : State} (h : Memory.wf s = true) (a : Args) : CanonOut (execBrx a s) :=
  runThread_wf h _ _ _ (fun _ hu => jumpTo_wf hu ..)

theorem execCall_wf {s : State} (h : Memory.wf s = true) (a : Args) : CanonOut (execCall a s) :=
  runThread_wf h _ _ _ (fun _ hu => modThread_wf hu ..)

theorem execCallx_wf {s : State} (h : Memory.wf s = true) (a : Args) : CanonOut (execCallx a s) :=
  runThread_wf h _ _ _ (fun _ hu => jumpTo_wf hu ..)

theorem execRet_wf {s : State} (h : Memory.wf s = true) (a : Args) : CanonOut (execRet a s) :=
  runThread_wf h _ _ _ (fun _ hu => jumpTo_wf hu ..)

theorem execLoop_wf {s : State} (h : Memory.wf s = true) (a : Args) : CanonOut (execLoop a s) := by
  unfold execLoop
  refine runThread_wf h _ _ _ (fun _ hu => ?_)
  dsimp only
  split
  · split <;> exact modThread_wf hu ..
  · exact modThread_wf hu ..

theorem execLend_wf {s : State} (h : Memory.wf s = true) (a : Args) : CanonOut (execLend a s) := by
  unfold execLend
  refine runThread_wf h _ _ _ (fun _ hu => ?_)
  dsimp only
  split <;> exact modThread_wf hu ..

/-- The fault of an element leaves the state after its walks. -/
theorem repElement_wf {c : Ctx} (h : Memory.wf c.s = true) (a : Args) (r : Rep) {s : State} {x : FaultInfo}
    (e : repElement c a r = .error (s, x)) : Memory.wf s = true := by
  unfold repElement at e
  dsimp only at e
  split at e
  · cases e
    exact h
  · split at e
    · split at e
      · cases e
        exact h
      · split at e
        · cases e
          exact h
        · split at e
          · cases e
            exact noteWalk_wf h ..
          · cases e
    · split at e
      · cases e
        exact h
      · cases e

theorem repData_wf {c : Ctx} (h : Memory.wf c.s = true) (a : Args) (r : Rep) (src : Option (DWord × Loc)) :
    Memory.wf (repData c a r src).1 = true := by
  cases src with
  | none => exact h
  | some p => exact noteAccess_wf (load_wf h ..) ..

theorem repFault_wf {s : State} (h : Memory.wf s = true) (c : Ctx) (code : BitVec 8) (d : DWord) : CanonRes (repFault c s code d) :=
  faultThread_wf (modThread_wf h ..) ..

theorem repStep_wf {c : Ctx} (h : Memory.wf c.s = true) (a : Args) (r : Rep) : CanonRes (repStep c a r) := by
  unfold repStep
  split
  · exact repFault_wf (repElement_wf h a r ‹_›) ..
  · rename_i m src _
    have hs := landStore_wf (noteAccess_wf (repData_wf h a r src) c.team c.th.arch.rnext m) c.team (.thread c.key c.tid)
    dsimp only
    split
    · exact afterWrite_wf (performCopiesTo_wf h ..) ..
    · exact afterWrite_wf (performOwner_wf h ..) ..
    · split
      · exact repFault_wf (repData_wf h ..) ..
      · split
        · exact modThread_wf (hs ..) ..
        · exact modThread_wf (hs ..) ..

theorem repIssue_wf {c : Ctx} (h : Memory.wf c.s = true) (a : Args) : CanonRes (repIssue c a) := by
  unfold repIssue
  dsimp only
  split
  · exact modThread_wf h ..
  · split <;> exact modThread_wf h ..

theorem execRep_wf {s : State} (h : Memory.wf s = true) (a : Args) : CanonOut (execRep a s) := by
  unfold execRep
  refine runThread_wf h _ _ _ (fun _ hu => ?_)
  split
  · exact repIssue_wf hu ..
  · exact repStep_wf hu ..

theorem execExit_wf {s : State} (h : Memory.wf s = true) (a : Args) : CanonOut (execExit a s) :=
  runThread_wf h _ _ _ (fun _ hu => modThread_wf hu ..)

theorem execYield_wf {s : State} (h : Memory.wf s = true) (a : Args) : CanonOut (execYield a s) :=
  runReg_wf h ..

theorem startWait_wf {c : Ctx} (h : Memory.wf c.s = true) (w : Wait) : CanonRes (startWait c w) :=
  modThread_wf h ..

theorem resumeWait_wf {c : Ctx} (h : Memory.wf c.s = true) (kp : Kept) : Memory.wf (resumeWait c kp) = true :=
  modThread_wf h ..

theorem execNap_wf {s : State} (h : Memory.wf s = true) (a : Args) : CanonOut (execNap a s) := by
  unfold execNap
  refine runThread_wf h _ _ _ (fun _ hu => ?_)
  dsimp only
  split
  · split
    · exact modThread_wf hu ..
    · exact resumeWait_wf hu ..
  · split
    · exact hu
    · exact startWait_wf hu ..

theorem execSpawn_wf {s : State} (h : Memory.wf s = true) (a : Args) : CanonOut (execSpawn a s) := by
  unfold execSpawn
  refine runThread_wf h _ _ _ (fun _ hu => ?_)
  dsimp only
  split
  · exact wf_of_fst (placeRequest_wf hu ..) ‹_›
  · exact modThread_wf (wf_of_fst (placeRequest_wf hu ..) ‹_›) ..

theorem execWaitf_wf {s : State} (h : Memory.wf s = true) (a : Args) : CanonOut (execWaitf a s) := by
  unfold execWaitf
  refine runThread_wf h _ _ _ (fun _ hu => ?_)
  dsimp only
  split
  · exact hu
  · exact startWait_wf hu ..

theorem execSetf_wf {s : State} (h : Memory.wf s = true) (a : Args) : CanonOut (execSetf a s) :=
  runReg_wf h ..

theorem execPxcall_wf {s : State} (h : Memory.wf s = true) (a : Args) : CanonOut (execPxcall a s) := by
  unfold execPxcall
  refine runThread_wf h _ _ _ (fun _ hu => ?_)
  dsimp only
  split
  · exact trivial
  · exact modThread_wf hu ..

theorem execPxret_wf {s : State} (h : Memory.wf s = true) (a : Args) : CanonOut (execPxret a s) := by
  unfold execPxret
  refine runThread_wf h _ _ _ (fun _ hu => ?_)
  dsimp only
  split
  · exact trivial
  · split
    · exact trivial
    · exact modThread_wf hu ..

theorem issue_wf {c : Ctx} (h : Memory.wf c.s = true) (ac : Access) (write : Bool) : CanonRes (issue c ac write) := by
  unfold issue
  split
  · exact modThread_wf h ..
  · split
    · exact afterWrite_wf (performCopiesTo_wf h ..) ..
    · show Memory.wf _ = true
      refine modThread_wf ?_ ..
      split
      · exact modTeam_wf (noteAccess_wf h ..) ..
      · exact noteAccess_wf h ..

theorem runAccess_wf {s : State} (h : Memory.wf s = true) (opc : Nat) (a : Args) (addr datum : Ctx → DWord) (mk : Ctx → AccOp) (size : Nat) (w :
    Want) :
    CanonOut (runAccess opc a s addr datum mk size w) := by
  unfold runAccess
  refine runThread_wf h _ _ _ (fun _ hu => ?_)
  dsimp only
  split
  · exact trivial
  · exact issue_wf hu ..

theorem execLd_wf {s : State} (h : Memory.wf s = true) (a : Args) : CanonOut (execLd a s) :=
  runAccess_wf h ..

theorem execSt_wf {s : State} (h : Memory.wf s = true) (a : Args) : CanonOut (execSt a s) :=
  runAccess_wf h ..

theorem execLds_wf {s : State} (h : Memory.wf s = true) (a : Args) : CanonOut (execLds a s) :=
  runAccess_wf h ..

theorem execSts_wf {s : State} (h : Memory.wf s = true) (a : Args) : CanonOut (execSts a s) :=
  runAccess_wf h ..

theorem runAtomic_wf {s : State} (h : Memory.wf s = true) (opc : Nat) (a : Args) (op : Option Nat) (ty : ElTy) (size : Nat) (onA : Bool) (mk : Ctx →
    AccOp) :
    CanonOut (runAtomic opc a s op ty size onA mk) := by
  unfold runAtomic
  refine runThread_wf h _ _ _ (fun _ hu => ?_)
  dsimp only
  split
  · split <;> exact trivial
  · split
    · exact trivial
    · exact issue_wf hu ..

theorem execAtom_wf {s : State} (h : Memory.wf s = true) (a : Args) : CanonOut (execAtom a s) :=
  runAtomic_wf h ..

theorem execRed_wf {s : State} (h : Memory.wf s = true) (a : Args) : CanonOut (execRed a s) :=
  runAtomic_wf h ..

theorem execCas_wf {s : State} (h : Memory.wf s = true) (a : Args) : CanonOut (execCas a s) :=
  runAtomic_wf h ..

theorem execPref_wf {s : State} (h : Memory.wf s = true) (a : Args) : CanonOut (execPref a s) :=
  runReg_wf h ..

theorem sendMarkers_wf {s : State} (h : Memory.wf s = true) (core : Nat) (ports : List Nat) : Memory.wf (sendMarkers s core ports).1 = true := by
  unfold sendMarkers
  refine foldl_fst_wf (fun _ _ hu => ?_) h ..
  exact takeSeq_wf hu ..

theorem execSynch_wf {s : State} (h : Memory.wf s = true) (a : Args) : CanonOut (execSynch a s) := by
  unfold execSynch
  refine runThread_wf h _ _ _ (fun _ hu => ?_)
  split
  · exact performCopiesTo_wf hu ..
  · exact modThread_wf (sendMarkers_wf hu ..) ..

theorem runGlade_wf {s : State} (h : Memory.wf s = true) (opc : Nat) (a : Args) (ea : Ctx → DWord) (peerOk rvxOp : Bool)
    {body : Ctx → Nat → Team → Nat → GWord → Res} (hb : ∀ c k t off g, Memory.wf c.s = true → CanonRes (body c k t off g)) :
    CanonOut (runGlade opc a s ea peerOk rvxOp body) := by
  unfold runGlade
  refine runThread_wf h _ _ _ fun c hc => ?_
  split
  · trivial
  · split
    · exact afterWrite_wf (performCopiesTo_wf hc ..) ..
    · dsimp only
      split
      · trivial
      · split
        · trivial
        · split
          · trivial
          · exact hb _ _ _ _ _ hc

theorem dropGlade_wf {s : State} (h : Memory.wf s = true) (k off : Nat) (t : Team) : Memory.wf (dropGlade s k off t) = true := by
  unfold dropGlade
  exact touch_wf (writeBytes_wf (modTeam_wf h ..) ..) ..

theorem makeGlade_wf {s : State} (h : Memory.wf s = true) (core k off ainit : Nat) (remote : Bool) :
    Memory.wf (makeGlade s core k off ainit remote) = true := by
  unfold makeGlade
  dsimp only
  split
  · exact gWrite_wf (modTeam_wf h ..) ..
  · exact modTeam_wf h ..

theorem execGinit_wf {s : State} (h : Memory.wf s = true) (a : Args) : CanonOut (execGinit a s) := by
  unfold execGinit
  refine runThread_wf h _ _ _ (fun _ hu => ?_)
  dsimp only
  split
  · exact trivial
  · split
    · exact afterWrite_wf (performCopiesTo_wf hu ..) ..
    · split
      · exact trivial
      · split
        · split
          · exact trivial
          · exact dropGlade_wf hu ..
        · split
          · exact trivial
          · exact makeGlade_wf hu ..

theorem execGexp_wf {s : State} (h : Memory.wf s = true) (a : Args) : CanonOut (execGexp a s) := by
  unfold execGexp
  refine runGlade_wf h _ _ _ _ _ (fun _ _ _ _ _ hu => ?_)
  dsimp only
  split
  · exact completeIfDone_wf hu ..
  · exact trivial

theorem arriveGlade_wf {s : State} (h : Memory.wf s = true) (core k off : Nat) (g : GWord) (b : Nat) (spend : ℤ) :
    CanonOpt (arriveGlade s core k off g b spend) := by
  unfold arriveGlade
  split
  · exact trivial
  · exact completeIfDone_wf h ..

theorem execGarv_wf {s : State} (h : Memory.wf s = true) (a : Args) : CanonOut (execGarv a s) := by
  unfold execGarv
  refine runGlade_wf h _ _ _ _ _ (fun _ _ _ _ _ hu => ?_)
  dsimp only
  split
  · exact trivial
  · exact modThread_wf (wf_of_some (arriveGlade_wf hu ..) ‹_›) ..

theorem execGarvr_wf {s : State} (h : Memory.wf s = true) (a : Args) : CanonOut (execGarvr a s) := by
  unfold execGarvr
  refine runGlade_wf h _ _ _ _ _ (fun _ _ _ _ _ hu => ?_)
  split
  · exact performCopiesTo_wf hu ..
  · split
    · exact trivial
    · exact wf_of_some (arriveGlade_wf hu ..) ‹_›

theorem execGwait_wf {s : State} (h : Memory.wf s = true) (a : Args) : CanonOut (execGwait a s) := by
  unfold execGwait
  refine runGlade_wf h _ _ _ _ _ (fun _ _ _ _ _ hu => ?_)
  dsimp only
  split
  · exact touch_wf hu ..
  · refine startWait_wf ?_ ..
    exact touch_wf hu ..

theorem execGtest_wf {s : State} (h : Memory.wf s = true) (a : Args) : CanonOut (execGtest a s) :=
  runGlade_wf h _ _ _ _ _ (fun _ _ _ _ _ hu => modThread_wf (touch_wf hu ..) ..)

theorem execCp_wf {s : State} (h : Memory.wf s = true) (a : Args) : CanonOut (execCp a s) := by
  unfold execCp
  refine runThread_wf h _ _ _ (fun _ hu => ?_)
  dsimp only
  split
  · exact trivial
  · exact noteWalk_wf hu ..
  · exact noteWalk_wf (noteWalk_wf hu ..) ..
  · split
    · exact modThread_wf hu ..
    · split
      · exact hu
      · exact modThread_wf (recallLine_wf (modTeam_wf (noteAccess_wf (noteAccess_wf hu ..) ..) ..) ..) ..

theorem execCpw_wf {s : State} (h : Memory.wf s = true) (a : Args) : CanonOut (execCpw a s) := by
  unfold execCpw
  refine runThread_wf h _ _ _ (fun _ hu => ?_)
  dsimp only
  split
  · exact hu
  · exact startWait_wf hu ..

theorem execCpt_wf {s : State} (h : Memory.wf s = true) (a : Args) : CanonOut (execCpt a s) :=
  runReg_wf h ..

theorem execCpf_wf {s : State} (h : Memory.wf s = true) (a : Args) : CanonOut (execCpf a s) := by
  unfold execCpf
  refine runThread_wf h _ _ _ (fun _ hu => ?_)
  exact modThread_wf (modTeam_wf hu ..) ..

theorem applyArrival_wf {s : State} (h : Memory.wf s = true) (key : Nat) (ga : DWord) : Memory.wf (applyArrival s key ga) = true := by
  unfold applyArrival
  dsimp only
  split
  · exact h
  · split
    · exact h
    · split
      · split
        · exact wf_of_some (arriveGlade_wf h ..) ‹_›
        · exact markFaulted_wf h ..
      · exact markFaulted_wf h ..

theorem execCpa_wf {s : State} (h : Memory.wf s = true) (a : Args) : CanonOut (execCpa a s) := by
  unfold execCpa
  refine runGlade_wf h _ _ _ _ _ (fun _ _ _ _ _ hu => ?_)
  dsimp only
  split
  · exact applyArrival_wf hu ..
  · exact modTeam_wf hu ..

theorem execCfence_wf {s : State} (h : Memory.wf s = true) (a : Args) : CanonOut (execCfence a s) :=
  runReg_wf h ..

theorem threadArrives_wf {c : Ctx} (h : Memory.wf c.s = true) (a : Args) {s : State} {tok : BitVec 4} (e : threadArrives c a = some (s, tok)) :
    Memory.wf s = true := by
  obtain ⟨r, _, hr⟩ := Option.map_eq_some_iff.mp e
  cases hr
  exact setTeam_wf (touchBarrier_wf h ..) ..

theorem execBara_wf {s : State} (h : Memory.wf s = true) (a : Args) : CanonOut (execBara a s) := by
  refine runThread_wf h _ _ _ fun c hc => ?_
  split
  · trivial
  · exact modThread_wf (threadArrives_wf hc a ‹_›) ..

theorem execBarw_wf {s : State} (h : Memory.wf s = true) (a : Args) : CanonOut (execBarw a s) := by
  unfold execBarw
  refine runThread_wf h _ _ _ (fun _ hu => ?_)
  dsimp only
  split
  · exact modTeam_wf (touchBarrier_wf hu ..) ..
  · refine startWait_wf ?_ ..
    exact touchBarrier_wf hu ..

theorem execBars_wf {s : State} (h : Memory.wf s = true) (a : Args) : CanonOut (execBars a s) := by
  refine runThread_wf h _ _ _ fun c hc => ?_
  split
  · split
    · refine modThread_wf ?_ ..
      split
      · exact modTeam_wf hc ..
      · exact hc
    · exact resumeWait_wf hc ..
  · split
    · trivial
    · have hs := threadArrives_wf hc a ‹_›
      split
      · exact modTeam_wf hs ..
      · exact modThread_wf hs ..

theorem execRvx_wf {s : State} (h : Memory.wf s = true) (a : Args) : CanonOut (execRvx a s) := by
  unfold execRvx
  dsimp only
  split
  · split
    · refine runGlade_wf h _ _ _ _ _ (fun _ _ _ _ _ hu => ?_)
      split
      · exact trivial
      · exact completeIfDone_wf (modThread_wf (modTeam_wf hu ..) ..) ..
    · refine runThread_wf h _ _ _ (fun _ hu => ?_)
      split
      · exact resumeWait_wf hu ..
      · exact modThread_wf hu ..
      · exact modThread_wf hu ..
      · exact hu
  · refine runGlade_wf h _ _ _ _ _ (fun _ _ _ _ _ hu => ?_)
    split
    · exact trivial
    · exact completeIfDone_wf (modThread_wf (modTeam_wf hu ..) ..) ..

theorem execKadd_wf {s : State} (h : Memory.wf s = true) (a : Args) : CanonOut (execKadd a s) :=
  runK_wf h ..

theorem execKsub_wf {s : State} (h : Memory.wf s = true) (a : Args) : CanonOut (execKsub a s) :=
  runK_wf h ..

theorem execKmul_wf {s : State} (h : Memory.wf s = true) (a : Args) : CanonOut (execKmul a s) :=
  runK_wf h ..

theorem execKand_wf {s : State} (h : Memory.wf s = true) (a : Args) : CanonOut (execKand a s) :=
  runK_wf h ..

theorem execKor_wf {s : State} (h : Memory.wf s = true) (a : Args) : CanonOut (execKor a s) :=
  runK_wf h ..

theorem execKxor_wf {s : State} (h : Memory.wf s = true) (a : Args) : CanonOut (execKxor a s) :=
  runK_wf h ..

theorem execKshl_wf {s : State} (h : Memory.wf s = true) (a : Args) : CanonOut (execKshl a s) :=
  runK_wf h ..

theorem execKshr_wf {s : State} (h : Memory.wf s = true) (a : Args) : CanonOut (execKshr a s) :=
  runK_wf h ..

theorem execKmov_wf {s : State} (h : Memory.wf s = true) (a : Args) : CanonOut (execKmov a s) :=
  runK_wf h ..

theorem execKli_wf {s : State} (h : Memory.wf s = true) (a : Args) : CanonOut (execKli a s) :=
  runK_wf h ..

theorem execKcmp_wf {s : State} (h : Memory.wf s = true) (a : Args) : CanonOut (execKcmp a s) := by
  unfold execKcmp
  refine runStream_wf h _ _ _ (fun _ _ => ?_)
  exact setTeam_wf h ..

theorem kAccess_wf {s : State} (h : Memory.wf s = true) (opc : Nat) (a : Args) (mk : Team → AccOp) (size : Nat) (w : Want) :
    CanonOut (kAccess opc a s mk size w) := by
  unfold kAccess
  refine runStream_wf h _ _ _ (fun _ _ => ?_)
  dsimp only
  split
  · exact trivial
  · split
    · split
      · exact h
      · split
        · exact afterWrite_wf (bulkDone_wf h ..) ..
        · split
          · exact afterWrite_wf (unitDone_wf h ..) ..
          · exact modTeam_wf (noteAccess_wf h ..) ..
    · split
      · exact h
      · split
        · exact afterWrite_wf (bulkDone_wf h ..) ..
        · split
          · exact afterWrite_wf (unitDone_wf h ..) ..
          · exact modTeam_wf (noteAccess_wf h ..) ..

theorem execKld_wf {s : State} (h : Memory.wf s = true) (a : Args) : CanonOut (execKld a s) :=
  kAccess_wf h ..

theorem execKst_wf {s : State} (h : Memory.wf s = true) (a : Args) : CanonOut (execKst a s) :=
  kAccess_wf h ..

theorem execKbr_wf {s : State} (h : Memory.wf s = true) (a : Args) : CanonOut (execKbr a s) :=
  runStream_wf h _ _ _ (fun _ _ => setTeam_wf h ..)

theorem execKcall_wf {s : State} (h : Memory.wf s = true) (a : Args) : CanonOut (execKcall a s) := by
  unfold execKcall
  refine runStream_wf h _ _ _ (fun _ _ => ?_)
  exact setTeam_wf h ..

theorem execKret_wf {s : State} (h : Memory.wf s = true) (a : Args) : CanonOut (execKret a s) := by
  unfold execKret
  refine runStream_wf h _ _ _ (fun _ _ => ?_)
  dsimp only
  split
  · exact trivial
  · exact setTeam_wf h ..

theorem execKbar_wf {s : State} (h : Memory.wf s = true) (a : Args) : CanonOut (execKbar a s) := by
  unfold execKbar
  refine runStream_wf h _ _ _ (fun _ _ => ?_)
  dsimp only
  split
  · exact trivial
  · split <;> exact touchBarrier_wf (setTeam_wf h ..) ..

theorem execKwait_wf {s : State} (h : Memory.wf s = true) (a : Args) : CanonOut (execKwait a s) := by
  unfold execKwait
  refine runStream_wf h _ _ _ (fun _ _ => ?_)
  dsimp only
  split
  · exact h
  · exact setTeam_wf h ..

theorem execKexit_wf {s : State} (h : Memory.wf s = true) (a : Args) : CanonOut (execKexit a s) := by
  unfold execKexit
  refine runStream_wf h _ _ _ (fun _ _ => ?_)
  split
  · split
    · exact trivial
    · exact setTeam_wf h ..
  · exact h

theorem post_wf {s : State} (h : Memory.wf s = true) (opc : Nat) (op : Instr) (a : Args) (q : QueueKind) (flagOf : Clause → Option (BitVec 4)) :
    CanonOut (post opc op a s q flagOf) := by
  unfold post
  refine runStream_wf h _ _ _ (fun _ _ => ?_)
  dsimp only
  split
  · split
    · split
      · exact h
      · exact setTeam_wf h ..
    · split
      · exact h
      · exact setTeam_wf h ..
  · split
    · exact h
    · exact setTeam_wf h ..

theorem execKcp_wf {s : State} (h : Memory.wf s = true) (a : Args) : CanonOut (execKcp a s) :=
  post_wf h ..

theorem execMacq_wf {s : State} (h : Memory.wf s = true) (a : Args) : CanonOut (execMacq a s) :=
  post_wf h ..

theorem execMrel_wf {s : State} (h : Memory.wf s = true) (a : Args) : CanonOut (execMrel a s) :=
  post_wf h ..

theorem execMzero_wf {s : State} (h : Memory.wf s = true) (a : Args) : CanonOut (execMzero a s) :=
  post_wf h ..

theorem execMldb_wf {s : State} (h : Memory.wf s = true) (a : Args) : CanonOut (execMldb a s) :=
  post_wf h ..

theorem execMfreeb_wf {s : State} (h : Memory.wf s = true) (a : Args) : CanonOut (execMfreeb a s) :=
  post_wf h ..

theorem execMma_wf {s : State} (h : Memory.wf s = true) (a : Args) : CanonOut (execMma a s) :=
  post_wf h ..

theorem execMscl_wf {s : State} (h : Memory.wf s = true) (a : Args) : CanonOut (execMscl a s) :=
  post_wf h ..

theorem execMdrain_wf {s : State} (h : Memory.wf s = true) (a : Args) : CanonOut (execMdrain a s) :=
  post_wf h ..

theorem execMswap_wf {s : State} (h : Memory.wf s = true) (a : Args) : CanonOut (execMswap a s) :=
  post_wf h ..

theorem execMstat_wf {s : State} (h : Memory.wf s = true) (a : Args) : CanonOut (execMstat a s) :=
  post_wf h ..

theorem checkPlaces_wf {s : State} (h : Memory.wf s = true) (n : Nat) (w : Want) (t : Team) (held : List Trans) (eas : List DWord) :
    CanonCheck (checkPlaces n w s t held eas) := by
  induction eas generalizing s held with
  | nil => exact h
  | cons ea rest ih =>
    unfold checkPlaces
    split
    · exact h
    · exact ih (noteAccess_wf h ..) _

theorem memChecks_wf {s : State} (h : Memory.wf s = true) (t : Team) (eas : List DWord) (n : Nat) (aligned : Option DWord) (w : Want) :
    CanonCheck (memChecks s t eas n aligned w) := by
  unfold memChecks
  split
  · exact h
  · split
    · exact h
    · exact checkPlaces_wf h ..

theorem checkMldb_wf {s : State} (h : Memory.wf s = true) (t : Team) (c : PCmd) (fs : Nat) : CanonCheck (checkMldb s t c fs) := by
  unfold checkMldb
  dsimp only
  split
  · exact h
  · split
    · exact h
    · split
      · exact h
      · exact memChecks_wf h ..

theorem checkMma_wf {s : State} (h : Memory.wf s = true) (t : Team) (c : PCmd) (acc fa fb : Nat) : CanonCheck (checkMma s t c acc fa fb) := by
  unfold checkMma
  dsimp only
  split
  · exact h
  · split
    · exact h
    · split
      · exact h
      · split
        · exact h
        · split
          · exact h
          · split
            · exact h
            · split
              · exact h
              · split
                · exact h
                · split
                  · exact h
                  · split
                    · exact h
                    · split
                      · exact wf_of_error_fst (memChecks_wf h ..) ‹_›
                      · split
                        · show Memory.wf _ = true
                          exact wf_of_ok_fst (memChecks_wf h ..) ‹_›
                        · split
                          · show Memory.wf _ = true
                            exact wf_of_ok_fst (memChecks_wf h ..) ‹_›
                          · exact wf_of_ok_fst (memChecks_wf h ..) ‹_›

theorem checkMdrain_wf {s : State} (h : Memory.wf s = true) (t : Team) (c : PCmd) (acc fs : Nat) : CanonCheck (checkMdrain s t c acc fs) := by
  unfold checkMdrain
  dsimp only
  split
  · exact h
  · split
    · exact h
    · split
      · exact wf_of_error_fst (memChecks_wf h ..) ‹_›
      · split
        · show Memory.wf _ = true
          exact wf_of_ok_fst (memChecks_wf h ..) ‹_›
        · exact wf_of_ok_fst (memChecks_wf h ..) ‹_›

theorem checkMswap_wf {s : State} (h : Memory.wf s = true) (t : Team) (c : PCmd) (acc op : Nat) : CanonCheck (checkMswap s t c acc op) := by
  unfold checkMswap
  dsimp only
  split
  · exact h
  · split
    · exact h
    · split
      · exact wf_of_error_fst (memChecks_wf h ..) ‹_›
      · split
        · exact wf_of_error_fst (memChecks_wf (wf_of_ok (memChecks_wf h ..) ‹_›) ..) ‹_›
        · split
          · show Memory.wf _ = true
            exact wf_of_ok (memChecks_wf (wf_of_ok (memChecks_wf h ..) ‹_›) ..) ‹_›
          · show Memory.wf _ = true
            exact wf_of_ok (memChecks_wf (wf_of_ok (memChecks_wf h ..) ‹_›) ..) ‹_›

theorem headCheck_wf {s : State} (h : Memory.wf s = true) (t : Team) (c : PCmd) : CanonCheck (headCheck s t c) := by
  unfold headCheck
  dsimp only
  split
  · split <;> exact h
  · split <;> exact h
  · split <;> exact h
  · split <;> exact h
  · exact checkMldb_wf h ..
  · split <;> exact h
  · exact checkMma_wf h ..
  · exact checkMdrain_wf h ..
  · exact checkMswap_wf h ..
  · exact h

theorem grantNext_wf {s : State} (h : Memory.wf s = true) (cluster : Nat) (u : UnitKind) : Memory.wf (grantNext s cluster u) = true := by
  unfold grantNext
  split
  · exact setTeam_wf (recallKeys_wf h ..) ..
  · exact h

theorem enterTable_wf {s : State} (h : Memory.wf s = true) (k : Nat) (c : PCmd) : Memory.wf (enterTable s k c) = true := by
  unfold enterTable
  split
  · exact grantNext_wf (modTeam_wf (grantNext_wf h ..) ..) ..
  · exact h

theorem failMatrix_wf {s : State} (h : Memory.wf s = true) (k : Nat) (c : PCmd) (rest : List PCmd) (code : BitVec 8) (datum : DWord) :
    Memory.wf (failMatrix s k c rest code datum) = true :=
  modTeam_wf (noteTeamFault_wf h ..) ..

theorem dispatch_wf {s : State} (h : Memory.wf s = true) (k : Nat) (t : Team) (c : PCmd) (rest : List PCmd) :
    Memory.wf (dispatch s k t c rest) = true := by
  unfold dispatch
  split
  · exact setTeam_wf h ..
  · exact setTeam_wf h ..
  · exact setTeam_wf h ..
  · exact setTeam_wf h ..
  · exact setTeam_wf h ..
  · exact setTeam_wf h ..
  · split
    · exact setTeam_wf h ..
    · exact enterTable_wf (setTeam_wf h ..) ..
  · exact enterTable_wf (setTeam_wf h ..) ..

theorem matrixHead_wf {s : State} (h : Memory.wf s = true) (k : Nat) : Memory.wf (matrixHead s k) = true := by
  unfold matrixHead
  split
  · exact h
  · split
    · exact h
    · split
      · exact h
      · split
        · exact modTeam_wf h ..
        · split
          · exact failMatrix_wf (wf_of_error (headCheck_wf h ..) ‹_›) ..
          · exact dispatch_wf (wf_of_ok (headCheck_wf h ..) ‹_›) ..

theorem failBulk_wf {s : State} (h : Memory.wf s = true) (k : Nat) (t : Team) (c : PCmd) (rest : List PCmd) (code : BitVec 8) (datum : DWord) :
    Memory.wf (failBulk s k t c rest code datum) = true := by
  unfold failBulk
  refine modTeam_wf ?_ ..
  refine noteTeamFault_wf ?_ ..
  split
  · exact markFaulted_wf h ..
  · exact h

theorem bulkPages_wf {s : State} (h : Memory.wf s = true) (t : Team) (c : PCmd) : CanonCheck (bulkPages s t c) := by
  unfold bulkPages
  dsimp only
  split
  · exact h
  · split
    · exact wf_of_error_fst (memChecks_wf h ..) ‹_›
    · split
      · exact wf_of_error_fst (memChecks_wf (wf_of_ok (memChecks_wf h ..) ‹_›) ..) ‹_›
      · show Memory.wf _ = true
        exact wf_of_ok (memChecks_wf (wf_of_ok (memChecks_wf h ..) ‹_›) ..) ‹_›

theorem bulkHead_wf {s : State} (h : Memory.wf s = true) (k : Nat) : Memory.wf (bulkHead s k) = true := by
  unfold bulkHead
  dsimp only
  split
  · exact h
  · split
    · exact h
    · split
      · exact h
      · split
        · exact modTeam_wf h ..
        · split
          · exact failBulk_wf (wf_of_error (bulkPages_wf h ..) ‹_›) ..
          · split
            · exact modTeam_wf (recallKeys_wf (wf_of_ok (bulkPages_wf h ..) ‹_›) ..) ..
            · split
              · exact failBulk_wf (wf_of_ok (bulkPages_wf h ..) ‹_›) ..
              · split
                · exact failBulk_wf (wf_of_ok (bulkPages_wf h ..) ‹_›) ..
                · split
                  · exact modTeam_wf (recallKeys_wf (wf_of_some (arriveGlade_wf (wf_of_ok (bulkPages_wf h ..) ‹_›) ..) ‹_›) ..) ..
                  · exact failBulk_wf (wf_of_ok (bulkPages_wf h ..) ‹_›) ..

theorem execPostedCommandHead_wf {s : State} (h : Memory.wf s = true) (team : Nat) (q : QueueKind) : CanonOut (execPostedCommandHead team q s) := by
  unfold execPostedCommandHead
  split
  · exact event_wf (bulkHead_wf h ..)
  · exact event_wf (matrixHead_wf h ..)

theorem execMacqGrant_wf {s : State} (h : Memory.wf s = true) (cluster : Nat) : CanonOut (execMacqGrant cluster s) := by
  unfold execMacqGrant
  split
  · exact event_wf (setTeam_wf h ..)
  · exact event_wf h

theorem execScaleLinesPresent_wf {s : State} (h : Memory.wf s = true) (team : Nat) : CanonOut (execScaleLinesPresent team s) := by
  unfold execScaleLinesPresent
  dsimp only
  split
  · exact event_wf h
  · split
    · exact event_wf h
    · split
      · refine event_wf ?_
        refine failMatrix_wf ?_ ..
        refine foldl_fst_wf (fun _ _ hu => ?_) h ..
        exact engineRead_wf hu ..
      · refine event_wf ?_
        refine enterTable_wf ?_ ..
        refine modTeam_wf ?_ ..
        refine foldl_fst_wf (fun _ _ hu => ?_) h ..
        exact engineRead_wf hu ..

theorem execReservationGrant_wf {s : State} (h : Memory.wf s = true) (cluster : Nat) (u : UnitKind) : CanonOut (execReservationGrant cluster u s) :=
  event_wf (grantNext_wf h ..)

theorem execReservationAging_wf {s : State} (h : Memory.wf s = true) (team : Nat) : CanonOut (execReservationAging team s) :=
  event_wf (modTeam_wf h ..)

theorem execMmaComplete_wf {s : State} (h : Memory.wf s = true) (cluster : Nat) : CanonOut (execMmaComplete cluster s) := by
  unfold execMmaComplete
  split
  · exact event_wf (unitDone_wf h ..)
  · exact event_wf h

theorem execDrainUnitComplete_wf {s : State} (h : Memory.wf s = true) (cluster : Nat) : CanonOut (execDrainUnitComplete cluster s) := by
  unfold execDrainUnitComplete
  split
  · exact event_wf (unitDone_wf h ..)
  · exact event_wf h

theorem mldbRead_wf {s : State} (h : Memory.wf s = true) (t : Team) (c : PCmd) (fs n : Nat) : Memory.wf (mldbRead s t c fs n).1 = true := by
  induction n generalizing s c with
  | zero => exact h
  | succ n ih =>
    unfold mldbRead
    split
    · exact h
    · exact ih (mldbRow_wf h ..) _

theorem loadStep_wf {s : State} (h : Memory.wf s = true) (k : Nat) (t : Team) (c : PCmd) (n : Nat) : Memory.wf (loadStep s k t c n) = true := by
  unfold loadStep
  split
  · exact modTeam_wf (mldbRead_wf h ..) ..
  · exact h

theorem loadDone_wf {s : State} (h : Memory.wf s = true) (k : Nat) (t : Team) (c : PCmd) : Memory.wf (loadDone s k t c) = true := by
  unfold loadDone
  dsimp only
  split
  · exact modTeam_wf (mldbRead_wf h ..) ..
  · exact modTeam_wf h ..

theorem execCanopyLoadComplete_wf {s : State} (h : Memory.wf s = true) (cluster : Nat) : CanonOut (execCanopyLoadComplete cluster s) := by
  unfold execCanopyLoadComplete
  split
  · exact event_wf (loadDone_wf h ..)
  · exact event_wf h

theorem execMstatWrite_wf {s : State} (h : Memory.wf s = true) (team : Nat) : CanonOut (execMstatWrite team s) := by
  unfold execMstatWrite
  split
  · exact event_wf h
  · split
    · exact event_wf h
    · exact event_wf (setTeam_wf h ..)

theorem execKcpComplete_wf {s : State} (h : Memory.wf s = true) (team : Nat) : CanonOut (execKcpComplete team s) := by
  unfold execKcpComplete
  split
  · exact event_wf (bulkDone_wf h ..)
  · exact event_wf h

end Sys2Proof.Machine
end

section
/-! SUPPORT. The canonical form of the memories: system operations, images, guests, events and arithmetic keep it. -/

namespace Sys2Proof.Machine

theorem setEvec_wf {s : State} (h : Memory.wf s = true) (t : Team) (x : DWord) : Memory.wf (setEvec s t x) = true := by
  unfold setEvec
  refine modNode_wf ?_ ..
  exact wf_of_eq h rfl rfl

theorem crWrite_wf {c : Ctx} (h : Memory.wf c.s = true) (n : Nat) (x : DWord) : Memory.wf (crWrite c n x) = true := by
  unfold crWrite
  split
  · exact modVd_wf h ..
  · exact setEvec_wf h ..
  · exact modVd_wf h ..
  · exact modThread_wf h ..
  · exact modThread_wf h ..
  · exact modThread_wf h ..
  · exact modThread_wf h ..
  · exact modThread_wf h ..
  · exact modTeam_wf h ..
  · exact modThread_wf h ..
  · exact modVd_wf h ..
  · exact h

theorem wf_elim {α : Type} {o : Option α} {s : State} (h : Memory.wf s = true) {f : α → State} (hf : ∀ x, Memory.wf (f x) = true) :
    Memory.wf (o.elim s f) = true := by
  cases o with
  | none => exact h
  | some x => exact hf x

theorem execCsrr_wf {s : State} (h : Memory.wf s = true) (a : Args) : CanonOut (execCsrr a s) := by
  refine runThread_wf h _ _ _ fun c hc => ?_
  split
  · exact performCopiesTo_wf hc ..
  · exact modThread_wf (wf_elim hc fun _ => meetCr_wf hc ..) ..

theorem execCsrw_wf {s : State} (h : Memory.wf s = true) (a : Args) : CanonOut (execCsrw a s) := by
  refine runThread_wf h _ _ _ fun c hc => ?_
  split
  · exact performCopiesTo_wf hc ..
  · exact wf_elim (crWrite_wf hc ..) fun _ => touchCr_wf (crWrite_wf hc ..) ..

theorem execTrap_wf {s : State} (h : Memory.wf s = true) (a : Args) : CanonOut (execTrap a s) := by
  unfold execTrap
  refine runThread_wf h _ _ _ (fun _ hu => ?_)
  exact modThread_wf (deliver_wf hu ..) ..

theorem execEret_wf {s : State} (h : Memory.wf s = true) (a : Args) : CanonOut (execEret a s) :=
  runThread_wf h _ _ _ (fun _ hu => modThread_wf hu ..)

theorem execEmret_wf {s : State} (h : Memory.wf s = true) (a : Args) : CanonOut (execEmret a s) := by
  unfold execEmret
  refine runThread_wf h _ _ _ (fun _ hu => ?_)
  dsimp only
  split
  · exact trivial
  · split
    · exact trivial
    · exact modThread_wf hu ..

theorem clearTlbs_wf {s : State} (h : Memory.wf s = true) (f : Trans → Bool) : Memory.wf (clearTlbs s f) = true :=
  wf_of_eq h rfl rfl

theorem execTlbinv_wf {s : State} (h : Memory.wf s = true) (a : Args) : CanonOut (execTlbinv a s) := by
  refine runThread_wf h _ _ _ fun c hc => ?_
  dsimp only
  split
  · trivial
  · exact wf_of_eq hc rfl rfl

theorem dropLines_wf {s : State} (h : Memory.wf s = true) (old : Trans) : Memory.wf (dropLines s old) = true :=
  wf_of_eq h rfl rfl

theorem endShot_wf {s : State} (h : Memory.wf s = true) (old : Trans) : Memory.wf (endShot s old) = true := by
  unfold endShot
  dsimp only
  split
  · exact dropLines_wf h ..
  · exact wf_of_eq h rfl rfl

theorem execTlbsync_wf {s : State} (h : Memory.wf s = true) (a : Args) : CanonOut (execTlbsync a s) := by
  unfold execTlbsync
  refine runThread_wf h _ _ _ (fun _ hu => ?_)
  dsimp only
  split
  · exact hu
  · show Memory.wf _ = true
    refine foldl_wf (fun _ _ hu' => endShot_wf hu' ..) ?_ ..
    exact wf_of_eq hu rfl rfl

theorem shareCycles_wf {s : State} (h : Memory.wf s = true) (vd core n left : Nat) (causes : List Nat) :
    Memory.wf (shareCycles vd core n left causes s) = true := by
  induction causes generalizing left s with
  | nil => exact h
  | cons cause rest ih =>
    cases rest with
    | nil => exact addPerf_wf h ..
    | cons next rest => exact ih (addPerf_wf (freeVal64_wf h) ..) _

theorem execPerfr_wf {s : State} (h : Memory.wf s = true) (a : Args) : CanonOut (execPerfr a s) := by
  unfold execPerfr
  refine runThread_wf h _ _ _ (fun _ hu => ?_)
  dsimp only
  split
  · exact modThread_wf (meetCr_wf hu ..) ..
  · show Memory.wf _ = true
    refine modThread_wf ?_ ..
    split
    · exact meetCr_wf hu ..
    · exact shareCycles_wf (meetCr_wf hu ..) ..

theorem execBrkpt_wf {s : State} (h : Memory.wf s = true) (a : Args) : CanonOut (execBrkpt a s) := by
  unfold execBrkpt
  refine runThread_wf h _ _ _ (fun _ hu => ?_)
  split
  · exact wf_of_eq (modTeam_wf hu ..) rfl rfl
  · exact hu

theorem execHaltt_wf {s : State} (h : Memory.wf s = true) (a : Args) : CanonOut (execHaltt a s) := by
  unfold execHaltt
  refine runThread_wf h _ _ _ (fun _ hu => ?_)
  dsimp only
  split
  · split
    · split
      · exact hu
      · exact wf_of_eq hu rfl rfl
    · split <;> exact wf_of_eq hu rfl rfl
  · split
    · split
      · exact hu
      · exact wf_of_eq hu rfl rfl
    · split <;> exact wf_of_eq hu rfl rfl

theorem execHalttGo_wf {s : State} (h : Memory.wf s = true) (a : Args) : CanonOut (execHalttGo a s) :=
  runThread_wf h _ _ _ (fun _ hu => endHalts_wf hu ..)

theorem cacheCode_wf {s : State} (h : Memory.wf s = true) (core pa : Nat) : Memory.wf (cacheCode s core pa) = true := by
  unfold cacheCode
  dsimp only
  split
  · exact h
  · exact wf_of_eq (reachGranule_wf h ..) rfl rfl

theorem noteFetch_wf {s : State} (h : Memory.wf s = true) (vd core : Nat) (va : DWord) : Memory.wf (noteFetch s vd core va) = true := by
  unfold noteFetch
  split
  · exact h
  · refine cacheCode_wf ?_ ..
    refine recordGranule_wf ?_ ..
    split
    · exact noteHome_wf (fillTlb_wf h ..) ..
    · exact fillTlb_wf h ..

theorem takeSpot_wf {s : State} (h : Memory.wf s = true) (k tid cluster : Nat) (p : Spot) : Memory.wf (takeSpot s k tid cluster p) = true := by
  unfold takeSpot
  refine modThread_wf ?_ ..
  split
  · exact wf_of_eq h rfl rfl
  · exact h

theorem execClauseHeader_wf {s : State} (h : Memory.wf s = true) (x : Header) : CanonOut (execClauseHeader x s) := by
  unfold execClauseHeader
  split
  · split
    · trivial
    · split
      · exact faultThread_wf h ..
      · exact modThread_wf h ..
  · split
    · trivial
    · split
      · exact faultStream_wf h ..
      · exact modTeam_wf h ..

theorem templateMiss_wf {s : State} (h : Memory.wf s = true) (k : Nat) (t : Team) (tid : Nat) (b : List Byte) (w len : Nat) :
    Memory.wf (templateMiss s k t tid b w len) = true := by
  unfold templateMiss
  split
  · exact faultThread_wf (modThread_wf h ..) ..
  · exact modThread_wf (countPerf_wf (modThread_wf h ..) ..) ..

theorem beginExpansion_wf {s : State} (h : Memory.wf s = true) (k tid : Nat) (ops : List Instr) (len : Nat) :
    Memory.wf (beginExpansion s k tid ops len) = true := by
  unfold beginExpansion
  refine modThread_wf ?_ ..
  exact wf_of_eq h rfl rfl

theorem issueGuest_wf {s : State} (h : Memory.wf s = true) (k tid : Nat) (t : Team) (th : Thread) (d : Decoded) :
    Memory.wf (issueGuest s k tid t th d) = true := by
  unfold issueGuest
  split
  · exact modThread_wf h ..
  · split
    · exact faultThread_wf h ..
    · split
      · exact templateMiss_wf h ..
      · exact faultThread_wf h ..
    · split
      · exact faultThread_wf h ..
      · split
        · exact faultThread_wf h ..
        · exact beginExpansion_wf h ..

theorem setFills_wf {s : State} (h : Memory.wf s = true) (cluster : Nat) (fs : List Fill) : Memory.wf (setFills s cluster fs) = true :=
  wf_of_eq h rfl rfl

theorem startFill_wf {s : State} (h : Memory.wf s = true) (t : Team) (th : Thread) (psel pa : Nat) :
    Memory.wf (startFill s t th psel pa) = true := by
  unfold startFill
  dsimp only
  split
  · split <;> exact wf_of_eq h rfl rfl
  · exact wf_of_eq h rfl rfl

theorem missGuest_wf {s : State} (h : Memory.wf s = true) (k tid : Nat) (t : Team) (th : Thread) (psel pa : Nat) :
    Memory.wf (missGuest s k tid t th psel pa) = true := by
  unfold missGuest
  split
  · exact faultThread_wf (noteFetch_wf h ..) ..
  · exact faultThread_wf h ..
  · exact startFill_wf h ..

theorem execGuestInstructionDecode_wf {s : State} (h : Memory.wf s = true) : CanonOut (execGuestInstructionDecode s) := by
  unfold execGuestInstructionDecode
  split
  · exact trivial
  · split
    · split
      · exact event_wf h
      · split
        · exact event_wf (performOldest_wf h ..)
        · split
          · exact event_wf (faultThread_wf h ..)
          · split
            · exact event_wf (faultThread_wf h ..)
            · exact event_wf (missGuest_wf h ..)
            · exact event_wf (issueGuest_wf (takeSpot_wf h ..) ..)
    · exact trivial

theorem execCommitPoint_wf {s : State} (h : Memory.wf s = true) : CanonOut (execCommitPoint s) := by
  unfold execCommitPoint
  split
  · exact trivial
  · split
    · exact trivial
    · split
      · exact event_wf h
      · split
        · exact event_wf (modThread_wf h ..)
        · split
          · exact event_wf (performOldest_wf h ..)
          · exact event_wf h

theorem execBufferedStorePerformed_wf {s : State} (h : Memory.wf s = true) (ag : Agent) : CanonOut (execBufferedStorePerformed ag s) := by
  unfold execBufferedStorePerformed
  split
  · split
    · exact event_wf (performOldest_wf h ..)
    · exact event_wf h
  · exact event_wf h

theorem performIf_wf {s : State} (h : Memory.wf s = true) (ag : Agent) (f : Access → Bool) : Memory.wf (performIf s ag f) = true := by
  unfold performIf
  split
  · split
    · exact performOldest_wf h ..
    · exact h
  · exact h

theorem execLoadDataReturn_wf {s : State} (h : Memory.wf s = true) (ag : Agent) : CanonOut (execLoadDataReturn ag s) :=
  event_wf (performIf_wf h ..)

theorem execStorePerformed_wf {s : State} (h : Memory.wf s = true) (ag : Agent) : CanonOut (execStorePerformed ag s) :=
  event_wf (performIf_wf h ..)

theorem execCopyWritePerformed_wf {s : State} (h : Memory.wf s = true) (team copy : Nat) : CanonOut (execCopyWritePerformed team copy s) := by
  unfold execCopyWritePerformed
  refine event_wf ?_
  split
  · split
    · exact performCopy_wf h ..
    · exact h
  · exact h

theorem execCpaArrival_wf {s : State} (h : Memory.wf s = true) (team arrival : Nat) : CanonOut (execCpaArrival team arrival s) := by
  unfold execCpaArrival
  refine event_wf ?_
  split
  · split
    · exact applyArrival_wf (setTeam_wf h ..) ..
    · exact h
  · exact h

theorem execCoalescerMerge_wf {s : State} (h : Memory.wf s = true) (core : Nat) : CanonOut (execCoalescerMerge core s) := by
  unfold execCoalescerMerge
  refine event_wf ?_
  refine foldl_wf (fun _ _ hu => ?_) h ..
  split
  · exact modTeam_wf (copyRead_wf hu ..) ..
  · exact hu

theorem mapWrites_wf {s : State} (h : Memory.wf s = true) (f : SysWrite → Option SysWrite) : Memory.wf (mapWrites s f) = true :=
  wf_of_eq h rfl rfl

theorem arriveWrite_wf {s : State} (h : Memory.wf s = true) (w : SysWrite) : Memory.wf (arriveWrite s w) = true :=
  mapWrites_wf h ..

theorem linkWorks_wf {s : State} (h : Memory.wf s = true) (port : Nat) : Memory.wf (linkWorks s port) = true := by
  unfold linkWorks
  split
  · exact h
  · split
    · split
      · exact h
      · exact wf_of_eq h rfl rfl
    · exact h

theorem standsOver_wf {s : State} (h : Memory.wf s = true) (w : SysWrite) : Memory.wf (standsOver s w) = true := by
  unfold standsOver
  dsimp only
  split
  · exact h
  · exact mapWrites_wf h ..

theorem ackWrite_wf {s : State} (h : Memory.wf s = true) (w : SysWrite) : Memory.wf (ackWrite s w) = true :=
  linkWorks_wf (mapWrites_wf (standsOver_wf (arriveWrite_wf h ..) ..) ..) ..

theorem execSystemWriteAck_wf {s : State} (h : Memory.wf s = true) (ag : Agent) : CanonOut (execSystemWriteAck ag s) := by
  unfold execSystemWriteAck
  split
  · exact event_wf (ackWrite_wf h ..)
  · exact event_wf h

theorem execMarkerAck_wf {s : State} (h : Memory.wf s = true) (ag : Agent) : CanonOut (execMarkerAck ag s) := by
  unfold execMarkerAck
  split
  · exact event_wf h
  · split
    · split
      · exact event_wf (modThread_wf (linkWorks_wf (mapWrites_wf (foldl_wf (fun _ _ hu => standsOver_wf hu ..) (foldl_wf (fun _ _ hu =>
          arriveWrite_wf hu ..) h ..) ..) ..) ..) ..)
      · exact event_wf h
    · exact event_wf h

theorem execSynchDrainComplete_wf {s : State} (h : Memory.wf s = true) (ag : Agent) : CanonOut (execSynchDrainComplete ag s) := by
  unfold execSynchDrainComplete
  split
  · exact event_wf h
  · split
    · split
      · split
        · exact event_wf (modThread_wf h ..)
        · exact event_wf h
      · exact event_wf h
    · exact event_wf h

theorem execWindowGrant_wf {s : State} (h : Memory.wf s = true) (ag : Agent) : CanonOut (execWindowGrant ag s) := by
  unfold execWindowGrant
  split
  · exact event_wf h
  · split
    · split
      · exact event_wf (modThread_wf h ..)
      · exact event_wf h
    · exact event_wf h

theorem execWindowStaged_wf {s : State} (h : Memory.wf s = true) (ag : Agent) : CanonOut (execWindowStaged ag s) := by
  unfold execWindowStaged
  split
  · exact event_wf h
  · exact event_wf (modThread_wf h ..)

theorem execWindowLoss_wf {s : State} (h : Memory.wf s = true) (ag : Agent) : CanonOut (execWindowLoss ag s) := by
  unfold execWindowLoss
  split
  · exact event_wf h
  · exact event_wf (modThread_wf h ..)

theorem execNapDeadline_wf {s : State} (h : Memory.wf s = true) (ag : Agent) : CanonOut (execNapDeadline ag s) := by
  unfold execNapDeadline
  split
  · exact event_wf h
  · exact event_wf (modThread_wf h ..)

theorem execYieldExpiry_wf {s : State} (h : Memory.wf s = true) (ag : Agent) : CanonOut (execYieldExpiry ag s) := by
  unfold execYieldExpiry
  split
  · exact event_wf h
  · exact event_wf (modThread_wf h ..)

theorem execExitDrainComplete_wf {s : State} (h : Memory.wf s = true) (ag : Agent) : CanonOut (execExitDrainComplete ag s) := by
  unfold execExitDrainComplete
  split
  · exact event_wf h
  · split
    · split
      · exact event_wf h
      · split
        · exact event_wf (terminateGang_wf (removeThread_wf h ..) ..)
        · exact event_wf (removeThread_wf h ..)
    · exact event_wf h

theorem engineDrift_wf {s : State} (h : Memory.wf s = true) (k : Nat) : Memory.wf (engineDrift s k) = true := by
  unfold engineDrift
  dsimp only
  split
  · exact h
  · split
    · exact h
    · split
      · refine bulkFinish_wf ?_ ..
        split
        · split
          · exact loadStep_wf (foldl_wf (fun _ _ hu => unitStep_wf hu ..) h ..) ..
          · exact foldl_wf (fun _ _ hu => unitStep_wf hu ..) h ..
        · exact foldl_wf (fun _ _ hu => unitStep_wf hu ..) h ..
      · split
        · split
          · exact loadStep_wf (foldl_wf (fun _ _ hu => unitStep_wf hu ..) h ..) ..
          · exact foldl_wf (fun _ _ hu => unitStep_wf hu ..) h ..
        · exact foldl_wf (fun _ _ hu => unitStep_wf hu ..) h ..

theorem countCycles_wf {s : State} (h : Memory.wf s = true) : Memory.wf (countCycles s) = true :=
  foldl_wf (fun _ _ hu => addPerf_wf hu ..) (foldl_wf (fun _ _ hu => addPerf_wf hu ..) h ..) ..

theorem execCtDrift_wf {s : State} (h : Memory.wf s = true) : CanonOut (execCtDrift s) := by
  unfold execCtDrift
  refine event_wf ?_
  exact wf_of_eq (countCycles_wf (foldl_wf (fun _ _ hu => engineDrift_wf hu ..) h ..)) rfl rfl

theorem execGrowthRingTick_wf {s : State} (h : Memory.wf s = true) : CanonOut (execGrowthRingTick s) := by
  unfold execGrowthRingTick
  refine event_wf ?_
  refine endStopHalts_wf ?_
  exact wf_of_eq h rfl rfl

theorem execSpawnTimerExpiry_wf {s : State} (h : Memory.wf s = true) (core bin : Nat) : CanonOut (execSpawnTimerExpiry core bin s) := by
  unfold execSpawnTimerExpiry
  split
  · split
    · exact event_wf (flushBin_wf h ..)
    · exact event_wf h
  · exact event_wf h

theorem execSpawnTeamWaiting_wf {s : State} (h : Memory.wf s = true) (team : Nat) : CanonOut (execSpawnTeamWaiting team s) := by
  unfold execSpawnTeamWaiting
  split
  · exact event_wf h
  · split
    · exact event_wf (foldl_wf (fun _ _ hu => flushBin_wf hu ..) h ..)
    · exact event_wf h

theorem execUniformFaultDelivery_wf {s : State} (h : Memory.wf s = true) (team : Nat) : CanonOut (execUniformFaultDelivery team s) := by
  unfold execUniformFaultDelivery
  split
  · exact event_wf h
  · split
    · exact event_wf h
    · split
      · exact event_wf (terminateGang_wf h ..)
      · split
        · exact event_wf h
        · exact event_wf (modThread_wf (setTeam_wf h ..) ..)

theorem execWatchdog_wf {s : State} (h : Memory.wf s = true) : CanonOut (execWatchdog s) := by
  unfold execWatchdog
  split
  · exact event_wf h
  · split
    · exact event_wf (terminateGang_wf (setTeam_wf h ..) ..)
    · split
      · exact event_wf (terminateGang_wf (setTeam_wf h ..) ..)
      · exact event_wf (modThread_wf (modTeam_wf (setTeam_wf h ..) ..) ..)

theorem execRendezvousDeadlock_wf {s : State} (h : Memory.wf s = true) : CanonOut (execRendezvousDeadlock s) := by
  unfold execRendezvousDeadlock
  split
  · exact event_wf h
  · refine event_wf ?_
    refine modGang_wf ?_ ..
    refine foldl_wf (fun _ _ hu => ?_) h ..
    split
    · exact deliver_wf hu ..
    · exact hu

theorem execAsyncNoticeDelivery_wf {s : State} (h : Memory.wf s = true) (ag : Agent) : CanonOut (execAsyncNoticeDelivery ag s) := by
  unfold execAsyncNoticeDelivery
  split
  · exact event_wf h
  · split
    · split
      · split
        · exact event_wf h
        · exact event_wf (deliver_wf (modThread_wf h ..) ..)
      · split
        · exact event_wf (modThread_wf (modThread_wf h ..) ..)
        · exact event_wf h
    · exact event_wf h

theorem execFetchReturn_wf {s : State} (h : Memory.wf s = true) (cluster fill : Nat) : CanonOut (execFetchReturn cluster fill s) := by
  unfold execFetchReturn
  refine event_wf ?_
  split
  · exact setFills_wf h ..
  · exact h

theorem execDocFillComplete_wf {s : State} (h : Memory.wf s = true) (cluster fill : Nat) : CanonOut (execDocFillComplete cluster fill s) := by
  unfold execDocFillComplete
  dsimp only
  split
  · split
    · exact event_wf h
    · split
      · split
        · exact event_wf (setFills_wf h ..)
        · refine event_wf ?_
          exact wf_of_eq (noteFetch_wf (noteFetch_wf (setFills_wf h ..) ..) ..) rfl rfl
      · exact event_wf (setFills_wf h ..)
  · exact event_wf h

theorem runF_wf {s : State} (h : Memory.wf s = true) (opc : Nat) (a : Args) (f : Nat → Nat → Nat → FR) : CanonOut (runF opc a s f) :=
  runReg_wf h ..

theorem execFadd_wf {s : State} (h : Memory.wf s = true) (a : Args) : CanonOut (execFadd a s) :=
  runF_wf h ..

theorem execFsub_wf {s : State} (h : Memory.wf s = true) (a : Args) : CanonOut (execFsub a s) :=
  runF_wf h ..

theorem execFmul_wf {s : State} (h : Memory.wf s = true) (a : Args) : CanonOut (execFmul a s) :=
  runF_wf h ..

theorem execFfma_wf {s : State} (h : Memory.wf s = true) (a : Args) : CanonOut (execFfma a s) :=
  runF_wf h ..

theorem execFmin_wf {s : State} (h : Memory.wf s = true) (a : Args) : CanonOut (execFmin a s) :=
  runF_wf h ..

theorem execFmax_wf {s : State} (h : Memory.wf s = true) (a : Args) : CanonOut (execFmax a s) :=
  runF_wf h ..

theorem execFcmp_wf {s : State} (h : Memory.wf s = true) (a : Args) : CanonOut (execFcmp a s) :=
  runReg_wf h ..

theorem execFsel_wf {s : State} (h : Memory.wf s = true) (a : Args) : CanonOut (execFsel a s) :=
  runReg_wf h ..

theorem execFclass_wf {s : State} (h : Memory.wf s = true) (a : Args) : CanonOut (execFclass a s) :=
  runReg_wf h ..

theorem execFrnd_wf {s : State} (h : Memory.wf s = true) (a : Args) : CanonOut (execFrnd a s) :=
  runF_wf h ..

theorem execFscale_wf {s : State} (h : Memory.wf s = true) (a : Args) : CanonOut (execFscale a s) :=
  runReg_wf h ..

theorem execFrcp_wf {s : State} (h : Memory.wf s = true) (a : Args) : CanonOut (execFrcp a s) :=
  runF_wf h ..

theorem execFrsq_wf {s : State} (h : Memory.wf s = true) (a : Args) : CanonOut (execFrsq a s) :=
  runF_wf h ..

theorem execFsqrt_wf {s : State} (h : Memory.wf s = true) (a : Args) : CanonOut (execFsqrt a s) :=
  runF_wf h ..

theorem execFdiv_wf {s : State} (h : Memory.wf s = true) (a : Args) : CanonOut (execFdiv a s) :=
  runF_wf h ..

theorem execFexp2_wf {s : State} (h : Memory.wf s = true) (a : Args) : CanonOut (execFexp2 a s) :=
  runF_wf h ..

theorem execFlog2_wf {s : State} (h : Memory.wf s = true) (a : Args) : CanonOut (execFlog2 a s) :=
  runF_wf h ..

theorem execFsin_wf {s : State} (h : Memory.wf s = true) (a : Args) : CanonOut (execFsin a s) :=
  runF_wf h ..

theorem execFcos_wf {s : State} (h : Memory.wf s = true) (a : Args) : CanonOut (execFcos a s) :=
  runF_wf h ..

theorem execFtanh_wf {s : State} (h : Memory.wf s = true) (a : Args) : CanonOut (execFtanh a s) :=
  runF_wf h ..

theorem execFsigm_wf {s : State} (h : Memory.wf s = true) (a : Args) : CanonOut (execFsigm a s) :=
  runF_wf h ..

theorem runPk_wf {s : State} (h : Memory.wf s = true) (opc : Nat) (a : Args) (f : Nat → Nat → Nat → FR) : CanonOut (runPk opc a s f) :=
  runReg_wf h ..

theorem execPkadd_wf {s : State} (h : Memory.wf s = true) (a : Args) : CanonOut (execPkadd a s) :=
  runPk_wf h ..

theorem execPkmul_wf {s : State} (h : Memory.wf s = true) (a : Args) : CanonOut (execPkmul a s) :=
  runPk_wf h ..

theorem execPkfma_wf {s : State} (h : Memory.wf s = true) (a : Args) : CanonOut (execPkfma a s) :=
  runPk_wf h ..

theorem execPkmin_wf {s : State} (h : Memory.wf s = true) (a : Args) : CanonOut (execPkmin a s) :=
  runPk_wf h ..

theorem execPkmax_wf {s : State} (h : Memory.wf s = true) (a : Args) : CanonOut (execPkmax a s) :=
  runPk_wf h ..

theorem runCvt_wf {s : State} (h : Memory.wf s = true) (opc : Nat) (a : Args) (f : Ctx → Option Slot → Rnd → Thread) :
    CanonOut (runCvt opc a s f) := by
  unfold runCvt
  refine runThread_wf h _ _ _ (fun _ hu => ?_)
  dsimp only
  split
  · split
    · exact trivial
    · exact modThread_wf hu ..
  · exact modThread_wf hu ..

theorem execCvt_wf {s : State} (h : Memory.wf s = true) (a : Args) : CanonOut (execCvt a s) :=
  runCvt_wf h ..

theorem execCvti_wf {s : State} (h : Memory.wf s = true) (a : Args) : CanonOut (execCvti a s) :=
  runCvt_wf h ..

theorem execCvtf_wf {s : State} (h : Memory.wf s = true) (a : Args) : CanonOut (execCvtf a s) :=
  runCvt_wf h ..

theorem execQnt_wf {s : State} (h : Memory.wf s = true) (a : Args) : CanonOut (execQnt a s) := by
  unfold execQnt
  refine runThread_wf h _ _ _ (fun _ hu => ?_)
  dsimp only
  split
  · exact trivial
  · split <;> exact modThread_wf hu ..

theorem execDqnt_wf {s : State} (h : Memory.wf s = true) (a : Args) : CanonOut (execDqnt a s) := by
  unfold execDqnt
  refine runThread_wf h _ _ _ (fun _ hu => ?_)
  dsimp only
  split
  · exact trivial
  · exact modThread_wf hu ..

theorem execPack2_wf {s : State} (h : Memory.wf s = true) (a : Args) : CanonOut (execPack2 a s) := by
  unfold execPack2
  refine runThread_wf h _ _ _ (fun _ hu => ?_)
  dsimp only
  split
  · exact trivial
  · exact modThread_wf hu ..

theorem execUnpk_wf {s : State} (h : Memory.wf s = true) (a : Args) : CanonOut (execUnpk a s) :=
  runReg_wf h ..

theorem execFflag_wf {s : State} (h : Memory.wf s = true) (a : Args) : CanonOut (execFflag a s) :=
  runReg_wf h ..

theorem runArith_wf {s : State} (h : Memory.wf s = true) (opc : Nat) (a : Args) (f : ElTy → ℤ → ℤ → ℤ → ℤ) : CanonOut (runArith opc a s f) :=
  runReg_wf h ..

theorem runBits_wf {s : State} (h : Memory.wf s = true) (opc : Nat) (a : Args) (f : ElTy → Ctx → Nat → Nat) : CanonOut (runBits opc a s f) :=
  runReg_wf h ..

theorem runWord_wf {s : State} (h : Memory.wf s = true) (opc : Nat) (a : Args) (f : Ctx → Nat) : CanonOut (runWord opc a s f) :=
  runReg_wf h ..

theorem execIadd_wf {s : State} (h : Memory.wf s = true) (a : Args) : CanonOut (execIadd a s) :=
  runArith_wf h ..

theorem execIsum_wf {s : State} (h : Memory.wf s = true) (a : Args) : CanonOut (execIsum a s) :=
  runArith_wf h ..

theorem execIaddc_wf {s : State} (h : Memory.wf s = true) (a : Args) : CanonOut (execIaddc a s) :=
  runReg_wf h ..

theorem execIsub_wf {s : State} (h : Memory.wf s = true) (a : Args) : CanonOut (execIsub a s) :=
  runArith_wf h ..

theorem execImul_wf {s : State} (h : Memory.wf s = true) (a : Args) : CanonOut (execImul a s) :=
  runArith_wf h ..

theorem execImulh_wf {s : State} (h : Memory.wf s = true) (a : Args) : CanonOut (execImulh a s) :=
  runArith_wf h ..

theorem execImad_wf {s : State} (h : Memory.wf s = true) (a : Args) : CanonOut (execImad a s) :=
  runArith_wf h ..

theorem execImadw_wf {s : State} (h : Memory.wf s = true) (a : Args) : CanonOut (execImadw a s) :=
  runReg_wf h ..

theorem execIdiv_wf {s : State} (h : Memory.wf s = true) (a : Args) : CanonOut (execIdiv a s) :=
  runArith_wf h ..

theorem execIrem_wf {s : State} (h : Memory.wf s = true) (a : Args) : CanonOut (execIrem a s) :=
  runArith_wf h ..

theorem execImin_wf {s : State} (h : Memory.wf s = true) (a : Args) : CanonOut (execImin a s) :=
  runArith_wf h ..

theorem execImax_wf {s : State} (h : Memory.wf s = true) (a : Args) : CanonOut (execImax a s) :=
  runArith_wf h ..

theorem execIabs_wf {s : State} (h : Memory.wf s = true) (a : Args) : CanonOut (execIabs a s) :=
  runArith_wf h ..

theorem execIneg_wf {s : State} (h : Memory.wf s = true) (a : Args) : CanonOut (execIneg a s) :=
  runArith_wf h ..

theorem execIcmp_wf {s : State} (h : Memory.wf s = true) (a : Args) : CanonOut (execIcmp a s) :=
  runReg_wf h ..

theorem execIsel_wf {s : State} (h : Memory.wf s = true) (a : Args) : CanonOut (execIsel a s) :=
  runReg_wf h ..

theorem execLea_wf {s : State} (h : Memory.wf s = true) (a : Args) : CanonOut (execLea a s) :=
  runReg_wf h ..

theorem execAnd_wf {s : State} (h : Memory.wf s = true) (a : Args) : CanonOut (execAnd a s) :=
  runBits_wf h ..

theorem execOr_wf {s : State} (h : Memory.wf s = true) (a : Args) : CanonOut (execOr a s) :=
  runBits_wf h ..

theorem execXor_wf {s : State} (h : Memory.wf s = true) (a : Args) : CanonOut (execXor a s) :=
  runBits_wf h ..

theorem execAndn_wf {s : State} (h : Memory.wf s = true) (a : Args) : CanonOut (execAndn a s) :=
  runBits_wf h ..

theorem execLut_wf {s : State} (h : Memory.wf s = true) (a : Args) : CanonOut (execLut a s) :=
  runReg_wf h ..

theorem execShl_wf {s : State} (h : Memory.wf s = true) (a : Args) : CanonOut (execShl a s) :=
  runBits_wf h ..

theorem execShr_wf {s : State} (h : Memory.wf s = true) (a : Args) : CanonOut (execShr a s) :=
  runBits_wf h ..

theorem execSar_wf {s : State} (h : Memory.wf s = true) (a : Args) : CanonOut (execSar a s) :=
  runBits_wf h ..

theorem execRotl_wf {s : State} (h : Memory.wf s = true) (a : Args) : CanonOut (execRotl a s) :=
  runBits_wf h ..

theorem execFunl_wf {s : State} (h : Memory.wf s = true) (a : Args) : CanonOut (execFunl a s) :=
  runWord_wf h ..

theorem execFunr_wf {s : State} (h : Memory.wf s = true) (a : Args) : CanonOut (execFunr a s) :=
  runWord_wf h ..

theorem execMixh_wf {s : State} (h : Memory.wf s = true) (a : Args) : CanonOut (execMixh a s) :=
  runWord_wf h ..

theorem execBext_wf {s : State} (h : Memory.wf s = true) (a : Args) : CanonOut (execBext a s) :=
  runBits_wf h ..

theorem execBins_wf {s : State} (h : Memory.wf s = true) (a : Args) : CanonOut (execBins a s) :=
  runBits_wf h ..

theorem execBrev_wf {s : State} (h : Memory.wf s = true) (a : Args) : CanonOut (execBrev a s) :=
  runBits_wf h ..

theorem execPopc_wf {s : State} (h : Memory.wf s = true) (a : Args) : CanonOut (execPopc a s) :=
  runWord_wf h ..

theorem execClz_wf {s : State} (h : Memory.wf s = true) (a : Args) : CanonOut (execClz a s) :=
  runWord_wf h ..

theorem execCtz_wf {s : State} (h : Memory.wf s = true) (a : Args) : CanonOut (execCtz a s) :=
  runWord_wf h ..

theorem execBperm_wf {s : State} (h : Memory.wf s = true) (a : Args) : CanonOut (execBperm a s) :=
  runWord_wf h ..

theorem execPset_wf {s : State} (h : Memory.wf s = true) (a : Args) : CanonOut (execPset a s) :=
  runReg_wf h ..

theorem execPlut_wf {s : State} (h : Memory.wf s = true) (a : Args) : CanonOut (execPlut a s) :=
  runReg_wf h ..

theorem execP2v_wf {s : State} (h : Memory.wf s = true) (a : Args) : CanonOut (execP2v a s) :=
  runReg_wf h ..

theorem execV2p_wf {s : State} (h : Memory.wf s = true) (a : Args) : CanonOut (execV2p a s) :=
  runReg_wf h ..

theorem execIxset_wf {s : State} (h : Memory.wf s = true) (a : Args) : CanonOut (execIxset a s) := by
  unfold execIxset
  refine runThread_wf h _ _ _ (fun _ hu => ?_)
  dsimp only
  split
  · exact trivial
  · exact modThread_wf hu ..

theorem execLdix_wf {s : State} (h : Memory.wf s = true) (a : Args) : CanonOut (execLdix a s) := by
  unfold execLdix
  refine runThread_wf h _ _ _ (fun _ hu => ?_)
  split
  · exact trivial
  · split
    · exact trivial
    · exact modThread_wf hu ..

theorem execStix_wf {s : State} (h : Memory.wf s = true) (a : Args) : CanonOut (execStix a s) := by
  unfold execStix
  refine runThread_wf h _ _ _ (fun _ hu => ?_)
  split
  · exact trivial
  · exact modThread_wf hu ..

theorem execRgn_wf {s : State} (h : Memory.wf s = true) (a : Args) : CanonOut (execRgn a s) := by
  unfold execRgn
  refine runThread_wf h _ _ _ (fun _ hu => ?_)
  split <;> exact modThread_wf hu ..

theorem execRgnw_wf {s : State} (h : Memory.wf s = true) (a : Args) : CanonOut (execRgnw a s) :=
  runReg_wf h ..

end Sys2Proof.Machine
end

section
/-! SUPPORT. The canonical form of the memories: the scheduler, save and restore, management commands, host accesses, errors and boot keep it. -/

namespace Sys2Proof.Machine

/-! ## Changes of one memory, where the other stays -/

theorem mem_wf {s : State} (h : Memory.wf s = true) : cellsWf 0 s.mem = true := ((wf_iff s).mp h).1

theorem scratch_wf {s : State} (h : Memory.wf s = true) : cellsWf 0 s.scratch = true := ((wf_iff s).mp h).2

theorem wf_of_mem {s t : State} (h : Memory.wf s = true) (hm : cellsWf 0 t.mem = true) (hs : t.scratch = s.scratch) : Memory.wf t = true :=
  (wf_iff t).mpr ⟨hm, hs ▸ scratch_wf h⟩

theorem wf_of_scratch {s t : State} (h : Memory.wf s = true) (hm : t.mem = s.mem) (hs : cellsWf 0 t.scratch = true) : Memory.wf t = true :=
  (wf_iff t).mpr ⟨hm ▸ mem_wf h, hs⟩

theorem wf_ite_then {p : Prop} [Decidable p] {a b : State} (ha : Memory.wf a = true) (hb : Memory.wf a = true → Memory.wf b = true) :
    Memory.wf (if p then a else b) = true := by
  split
  · exact ha
  · exact hb ha

theorem wf_ite_else {p : Prop} [Decidable p] {a b : State} (hb : Memory.wf b = true) (ha : Memory.wf b = true → Memory.wf a = true) :
    Memory.wf (if p then a else b) = true := by
  split
  · exact ha hb
  · exact hb

/-! ## Scheduling, placement, save and restore -/

theorem writeImage_wf {s : State} (h : Memory.wf s = true) (gk : Nat) : Memory.wf (writeImage s gk) = true := by
  unfold writeImage
  split
  · exact h
  · dsimp only
    split
    · exact modGang_wf h ..
    · exact wf_of_mem (s := s.modGang gk _) (modGang_wf h ..) (cellsPut_wf (mem_wf h) ..) rfl

theorem refreshImage_wf {s : State} (h : Memory.wf s = true) (gk : Nat) : Memory.wf (refreshImage s gk) = true := by
  unfold refreshImage
  split
  · exact h
  · dsimp only
    split
    · split
      · exact wf_of_mem h (cellsPut_wf (mem_wf h) ..) rfl
      · exact h
    · exact h

theorem requestStop_wf {s : State} (h : Memory.wf s = true) (gk : Nat) : Memory.wf (requestStop s gk) = true := by
  unfold requestStop
  split
  · exact h
  · split
    · exact h
    · split
      · exact dropGang_wf h ..
      · exact endHalts_wf (foldl_wf (fun _ _ hu => modTeam_wf hu ..) (modGang_wf h ..) ..) ..

theorem switchOut_wf {s : State} (h : Memory.wf s = true) (vd : Nat) : Memory.wf (switchOut s vd) = true :=
  wf_of_eq (foldl_wf (fun _ _ hu => requestStop_wf hu ..) h ..) rfl rfl

theorem switchIn_wf {s : State} (h : Memory.wf s = true) (vd : Nat) : Memory.wf (switchIn s vd) = true :=
  wf_of_eq h rfl rfl

theorem decide417_wf {s : State} (h : Memory.wf s = true) (x : Nat) : Memory.wf (decide417 s x) = true := by
  unfold decide417
  dsimp only
  split
  · split
    · split
      · exact modVd_wf (foldl_wf (fun _ _ hu => switchIn_wf hu ..) (foldl_wf (fun _ _ hu => switchOut_wf hu ..) (modVd_wf h ..) ..) ..) ..
      · exact foldl_wf (fun _ _ hu => switchIn_wf hu ..) (foldl_wf (fun _ _ hu => switchOut_wf hu ..) (modVd_wf h ..) ..) ..
    · split
      · exact modVd_wf (foldl_wf (fun _ _ hu => switchIn_wf hu ..) (foldl_wf (fun _ _ hu => switchOut_wf hu ..) (modVd_wf h ..) ..) ..) ..
      · exact foldl_wf (fun _ _ hu => switchIn_wf hu ..) (foldl_wf (fun _ _ hu => switchOut_wf hu ..) (modVd_wf h ..) ..) ..
  · split
    · exact modVd_wf (foldl_wf (fun _ _ hu => switchIn_wf hu ..) (foldl_wf (fun _ _ hu => switchOut_wf hu ..) h ..) ..) ..
    · exact foldl_wf (fun _ _ hu => switchIn_wf hu ..) (foldl_wf (fun _ _ hu => switchOut_wf hu ..) h ..) ..

theorem execQuantumExpiry_wf {s : State} (h : Memory.wf s = true) : CanonOut (execQuantumExpiry s) := by
  unfold execQuantumExpiry
  split
  · exact event_wf (decide417_wf h ..)
  · exact event_wf h

theorem installImages_wf {s : State} (h : Memory.wf s = true) (vd : Nat) (block : List Nat) : Memory.wf (installImages s vd block) = true := by
  unfold installImages
  refine foldl_wf (fun _ _ hu => ?_) h ..
  split
  · exact hu
  · exact wf_of_eq hu rfl rfl

theorem applyGlinit_wf {s : State} (h : Memory.wf s = true) (k : Nat) (r : LaunchRec) : Memory.wf (applyGlinit s k r) = true := by
  refine foldl_wf (fun _ _ hu => ?_) h ..
  dsimp only
  split
  · exact hu
  · exact makeGlade_wf hu ..

theorem countGang_wf {s : State} (h : Memory.wf s = true) (launch node : Nat) : Memory.wf (countGang s launch node) = true :=
  modNode_wf h ..

theorem placeGang_wf {s : State} (h : Memory.wf s = true) (launch node : Nat) (x : Launch) (nd : Node) (block cores : List Nat) :
    Memory.wf (placeGang s launch node x nd block cores) = true := by
  unfold placeGang
  dsimp only
  refine wf_ite_else (foldl_wf (fun _ _ hu => applyGlinit_wf hu ..) ?_ _) fun hu => countGang_wf hu ..
  refine wf_of_eq (s := List.foldl _ (installImages s x.vd block) _) (foldl_wf (fun u y hu => ?_) (installImages_wf h ..) _) rfl rfl
  exact wf_of_eq (clearWindow_wf (raiseCt_wf hu ..) ..) rfl rfl

theorem finishPlacement_wf {s : State} (h : Memory.wf s = true) (gk launch node : Nat) : Memory.wf (finishPlacement s gk launch node) = true :=
  countGang_wf (modGang_wf h ..) ..

theorem execPlacementStep_wf {s : State} (h : Memory.wf s = true) (launch node : Nat) : CanonOut (execPlacementStep launch node s) := by
  unfold execPlacementStep
  split
  · exact event_wf (finishPlacement_wf h ..)
  · exact event_wf (placeGang_wf h ..)
  · exact event_wf h

theorem execPlacementAging_wf {s : State} (h : Memory.wf s = true) (launch node : Nat) : CanonOut (execPlacementAging launch node s) :=
  event_wf (modNode_wf h ..)

theorem enterPlacing_wf {s : State} (h : Memory.wf s = true) (launch node : Nat) (x : Launch) (nd : Node) :
    Memory.wf (enterPlacing s launch node x nd) = true := by
  unfold enterPlacing
  split
  · exact modNode_wf h ..
  · exact settleAll_wf (modNode_wf h ..)

theorem execResidencyThreshold_wf {s : State} (h : Memory.wf s = true) (launch node : Nat) : CanonOut (execResidencyThreshold launch node s) := by
  unfold execResidencyThreshold
  split
  · exact event_wf h
  · split
    · exact event_wf h
    · split
      · exact event_wf h
      · split
        · exact event_wf (settleAll_wf (modNode_wf h ..))
        · exact event_wf (enterPlacing_wf h ..)

theorem execImageSlotCopyDone_wf {s : State} (h : Memory.wf s = true) (cluster slot : Nat) : CanonOut (execImageSlotCopyDone cluster slot s) := by
  unfold execImageSlotCopyDone
  refine event_wf ?_
  split
  · exact wf_of_eq h rfl rfl
  · exact h

theorem execTeamRetire_wf {s : State} (h : Memory.wf s = true) (team : Nat) : CanonOut (execTeamRetire team s) := by
  unfold execTeamRetire
  dsimp only
  split
  · exact event_wf h
  · split
    · exact event_wf h
    · split
      · split
        · exact event_wf (settleAll_wf (dropGang_wf (modNode_wf (setTeam_wf h ..) ..) ..))
        · exact event_wf (setTeam_wf h ..)
      · exact event_wf (setTeam_wf h ..)

theorem finishDrain_wf {s : State} (h : Memory.wf s = true) (qn : Nat) : Memory.wf (finishDrain s qn) = true := by
  unfold finishDrain
  split
  · exact h
  · split
    · exact h
    · split
      · exact h
      · refine complete_wf ?_ ..
        exact wf_of_eq h rfl rfl

theorem execCompletionEntryWrite_wf {s : State} (h : Memory.wf s = true) (launch : Nat) : CanonOut (execCompletionEntryWrite launch s) := by
  unfold execCompletionEntryWrite
  split
  · exact h
  · split
    · exact h
    · split
      · exact h
      · split
        · exact wf_of_eq h rfl rfl
        · refine finishDrain_wf (settleAll_wf ?_) ..
          exact wf_of_mem h (cellsSet_wf (mem_wf h) ..) rfl

theorem execPreemptStopTimeout_wf {s : State} (h : Memory.wf s = true) (ag : Agent) : CanonOut (execPreemptStopTimeout ag s) := by
  unfold execPreemptStopTimeout
  split
  · exact event_wf h
  · exact event_wf (endStopHalts_wf (modThread_wf h ..))

theorem execDrainBoundExpiry_wf {s : State} (h : Memory.wf s = true) (gang : Nat) : CanonOut (execDrainBoundExpiry gang s) := by
  unfold execDrainBoundExpiry
  split
  · exact event_wf h
  · split
    · exact event_wf h
    · exact event_wf (endStopHalts_wf (foldl_wf (fun _ _ hu => modTeam_wf hu ..) h ..))

theorem settleStop_wf {s : State} (h : Memory.wf s = true) (k tid : Nat) : Memory.wf (settleStop s k tid) = true := by
  unfold settleStop
  split
  · split
    · exact endStopHalts_wf (modThread_wf h ..)
    · exact h
  · exact h

theorem finishLoad_wf {s : State} (h : Memory.wf s = true) (k : Nat) : Memory.wf (finishLoad s k) = true := by
  unfold finishLoad
  split
  · split
    · exact loadDone_wf h ..
    · exact h
  · exact h

theorem quiesceTeam_wf {s : State} (h : Memory.wf s = true) (k : Nat) : Memory.wf (quiesceTeam s k) = true :=
  finishLoad_wf (landTeam_wf h ..) ..

theorem saveTeam_wf {s : State} (h : Memory.wf s = true) (k : Nat) : Memory.wf (saveTeam s k) = true := by
  unfold saveTeam
  split
  · exact h
  · exact setTeam_wf h ..

theorem execContextSaveComplete_wf {s : State} (h : Memory.wf s = true) (gang : Nat) : CanonOut (execContextSaveComplete gang s) := by
  unfold execContextSaveComplete
  split
  · exact event_wf h
  · split
    · exact event_wf h
    · exact event_wf (settleAll_wf (modGang_wf (writeImage_wf (modGang_wf (foldl_wf (fun _ _ hu => saveTeam_wf hu ..) (foldl_wf (fun _ _ hu =>
        quiesceTeam_wf hu ..) (endHalts_wf h ..) ..) ..) ..) ..) ..))

theorem execSystemReplyArrival_wf {s : State} (h : Memory.wf s = true) (ag : Agent) : CanonOut (execSystemReplyArrival ag s) := by
  unfold execSystemReplyArrival
  dsimp only
  split
  · exact event_wf h
  · split
    · exact event_wf h
    · split
      · exact event_wf (performIf_wf h ..)
      · split
        · exact event_wf h
        · split
          · split
            · exact event_wf (refreshImage_wf (modTeam_wf (modTeam_wf (wf_of_fst (performAt_wf h ..) ‹_›) ..) ..) ..)
            · exact event_wf (wf_of_fst (performAt_wf h ..) ‹_›)
          · split
            · exact event_wf (refreshImage_wf (ackWrite_wf h ..) ..)
            · exact event_wf h

theorem restoreThreads_wf {s : State} (h : Memory.wf s = true) (k : Nat) : Memory.wf (restoreThreads s k) = true := by
  unfold restoreThreads
  split
  · exact h
  · refine foldl_wf (fun _ _ hu => ?_) h ..
    exact wf_of_eq (modThread_wf hu ..) rfl rfl

theorem replayCopy_wf {s : State} (h : Memory.wf s = true) (k id : Nat) : Memory.wf (replayCopy s k id) = true := by
  unfold replayCopy
  dsimp only
  split
  · exact h
  · split
    · exact h
    · split
      · exact modTeam_wf (recallLine_wf (noteAccess_wf (noteAccess_wf h ..) ..) ..) ..
      · refine modTeam_wf ?_ ..
        split
        · refine markFaulted_wf ?_ ..
          refine modTeam_wf ?_ ..
          split
          · refine modThread_wf ?_ ..
            split
            · exact noteWalk_wf (noteWalk_wf h ..) ..
            · exact noteWalk_wf h ..
          · split
            · exact noteWalk_wf (noteWalk_wf h ..) ..
            · exact noteWalk_wf h ..
        · refine modTeam_wf ?_ ..
          split
          · refine modThread_wf ?_ ..
            split
            · exact noteWalk_wf (noteWalk_wf h ..) ..
            · exact noteWalk_wf h ..
          · split
            · exact noteWalk_wf (noteWalk_wf h ..) ..
            · exact noteWalk_wf h ..

theorem replayReply_wf {s : State} (h : Memory.wf s = true) (k : Nat) (r : Replay) : Memory.wf (replayReply s k r) = true := by
  unfold replayReply
  split
  · exact modThread_wf h ..
  · exact h

theorem restoreTeam_wf {s : State} (h : Memory.wf s = true) (k core : Nat) : Memory.wf (restoreTeam s k core) = true := by
  unfold restoreTeam
  split
  · exact h
  · rename_i t _
    have hw := clearWindow_wf (raiseCt_wf h core t.savedCt) core ((pickWindow s t.vd core t.lrec.scratch).getD 0) t.lrec.scratch
    refine restoreThreads_wf (modTeam_wf (foldl_wf (fun _ _ hu => replayReply_wf hu ..) ?_ _) ..) k
    exact wf_of_scratch hw rfl (cellsSet_wf (scratch_wf hw) ..)

theorem replayTeam_wf {s : State} (h : Memory.wf s = true) (k : Nat) : Memory.wf (replayTeam s k) = true := by
  unfold replayTeam
  split
  · exact h
  · rename_i t _
    have hc := foldl_wf (f := fun s id => replayCopy s k id) (fun _ _ hu => replayCopy_wf hu ..) h (t.copies.map Prod.fst)
    exact wf_elim hc fun _ => recallKeys_wf hc ..

theorem execSchedulerDecide_wf {s : State} (h : Memory.wf s = true) : CanonOut (execSchedulerDecide s) := by
  unfold execSchedulerDecide
  dsimp only
  split
  · split
    · exact event_wf (modVd_wf h ..)
    · exact event_wf h
  · split
    · exact event_wf (decide417_wf (modVd_wf (modVd_wf h ..) ..) ..)
    · split
      · exact event_wf (decide417_wf (modVd_wf h ..) ..)
      · exact event_wf (modVd_wf h ..)

theorem execGangRestore_wf {s : State} (h : Memory.wf s = true) (gang : Nat) : CanonOut (execGangRestore gang s) := by
  unfold execGangRestore
  split
  · exact event_wf h
  · split
    · exact event_wf (modGang_wf h ..)
    · split
      · exact event_wf h
      · exact event_wf (foldl_wf (fun _ _ hu => replayTeam_wf hu ..) (modGang_wf (foldl_wf (fun _ _ hu => restoreTeam_wf hu ..) (installImages_wf h
          ..) ..) ..) ..)

theorem examine_wf {s : State} (h : Memory.wf s = true) (vd : Nat) : Memory.wf (examine s vd) = true :=
  settleAll_wf (foldl_wf (fun _ _ hu => dropGang_wf hu ..) (foldl_wf (fun _ _ hu => endNode_wf hu ..) (foldl_wf (fun _ _ hu => requestStop_wf hu ..)
      h ..) ..) ..)

theorem execGranuleMoveComplete_wf {s : State} (h : Memory.wf s = true) (granule : Nat) (tier : Tier) :
    CanonOut (execGranuleMoveComplete granule tier s) := by
  unfold execGranuleMoveComplete
  refine event_wf ?_
  split
  · exact h
  · split <;> exact wf_of_eq h rfl rfl

/-! ## Management commands -/

theorem runCmd_wf {s : State} (h : Memory.wf s = true) (c : Cmd) (vdn : Option Nat) (fs : List (Nat × Nat)) (checks : List (Nat × Bool))
    {body : State → State} (hb : ∀ u, Memory.wf u = true → Memory.wf (body u) = true) : CanonOut (runCmd c s vdn fs checks body) := by
  unfold runCmd
  refine event_wf ?_
  split
  · exact h
  · split
    · exact complete_wf h ..
    · split
      · exact complete_wf h ..
      · exact hb s h

theorem ends_wf {s : State} (h : Memory.wf s = true) (c : Cmd) (code detail : Nat) : Memory.wf (ends s c code detail) = true :=
  complete_wf h ..

/-- The words of a successful IMG_LOAD: the handle and the digest at the caller's place, and the completion. -/
theorem wf_imageGiven {s t : State} (h : Memory.wf s = true) (c : Cmd) (a b : Nat) (xs ys : List Byte) (ws : List (Nat × List Byte)) (code detail :
    Nat)
    (ht : t = { s with mem := cellsSet (cellsSet s.mem a xs) b ys }) : Memory.wf (complete t c ws code detail) = true := by
  subst ht
  refine complete_wf ?_ ..
  exact wf_of_mem h (cellsSet_wf (cellsSet_wf (mem_wf h) ..) ..) rfl

theorem execImgLoad_wf {s : State} (h : Memory.wf s = true) (c : Cmd) : CanonOut (execImgLoad c s) := by
  unfold execImgLoad
  refine runCmd_wf h _ _ _ _ fun u hu => ?_
  dsimp only
  split
  · exact ends_wf hu ..
  · split
    · exact wf_imageGiven hu _ _ _ _ _ _ _ _ rfl
    · split
      · exact ends_wf hu ..
      · exact wf_imageGiven (s := { u with images := AMap.set u.images _ _ }) (wf_of_eq hu rfl rfl) _ _ _ _ _ _ _ _ rfl

theorem execImgBind_wf {s : State} (h : Memory.wf s = true) (c : Cmd) : CanonOut (execImgBind c s) := by
  unfold execImgBind
  dsimp only
  refine runCmd_wf h _ _ _ _ (fun _ hu => ?_)
  split
  · exact ends_wf hu ..
  · split
    · exact ends_wf hu ..
    · split
      · exact ends_wf hu ..
      · split
        · exact ends_wf hu ..
        · exact ends_wf (modVd_wf hu ..) ..

theorem execImgUnbind_wf {s : State} (h : Memory.wf s = true) (c : Cmd) : CanonOut (execImgUnbind c s) := by
  unfold execImgUnbind
  refine runCmd_wf h _ _ _ _ (fun _ hu => ?_)
  split
  · exact ends_wf hu ..
  · split
    · exact ends_wf hu ..
    · exact ends_wf (modVd_wf hu ..) ..

theorem dropSlots_wf {s : State} (hs : Memory.wf s = true) (h : Nat) : Memory.wf (dropSlots s h) = true :=
  wf_of_eq hs rfl rfl

theorem execImgDrop_wf {s : State} (h : Memory.wf s = true) (c : Cmd) : CanonOut (execImgDrop c s) := by
  unfold execImgDrop
  refine runCmd_wf h _ _ _ _ (fun _ hu => ?_)
  split
  · exact ends_wf hu ..
  · split
    · exact ends_wf hu ..
    · refine ends_wf ?_ ..
      refine dropSlots_wf ?_ ..
      exact wf_of_eq hu rfl rfl

theorem setQueue_wf {s : State} (h : Memory.wf s = true) (n : Nat) (q : Queue) : Memory.wf (setQueue s n q) = true :=
  wf_of_eq h rfl rfl

theorem execQueueAssign_wf {s : State} (h : Memory.wf s = true) (c : Cmd) : CanonOut (execQueueAssign c s) := by
  unfold execQueueAssign
  refine runCmd_wf h _ _ _ _ (fun _ hu => ?_)
  split
  · exact ends_wf hu ..
  · refine ends_wf ?_ ..
    exact wf_of_eq hu rfl rfl

theorem execQueueRelease_wf {s : State} (h : Memory.wf s = true) (c : Cmd) : CanonOut (execQueueRelease c s) := by
  unfold execQueueRelease
  refine runCmd_wf h _ _ _ _ (fun _ hu => ?_)
  split
  · exact ends_wf hu ..
  · refine ends_wf ?_ ..
    exact wf_of_eq hu rfl rfl

theorem commandKill_wf {s : State} (h : Memory.wf s = true) (gk where' : Nat) (endsNode : Bool) :
    Memory.wf (commandKill s gk where' endsNode) = true :=
  terminateGang_wf h ..

theorem drainQueue_wf {s : State} (h : Memory.wf s = true) (q : Nat) (kill : Bool) : Memory.wf (drainQueue s q kill) = true := by
  unfold drainQueue
  refine settleAll_wf ?_
  split
  · exact foldl_wf (fun _ _ hu => commandKill_wf hu ..) (foldl_wf (fun _ _ hu => dropGang_wf hu ..) (foldl_wf (fun _ _ hu => dropGang_wf hu ..)
      (foldl_wf (fun _ _ hu => foldl_wf (fun _ _ hu' => endNode_wf hu' ..) hu ..) h ..) ..) ..) ..
  · exact foldl_wf (fun _ _ hu => dropGang_wf hu ..) (foldl_wf (fun _ _ hu => dropGang_wf hu ..) (foldl_wf (fun _ _ hu => foldl_wf (fun _ _ hu' =>
      endNode_wf hu' ..) hu ..) h ..) ..) ..

theorem execQueueDrain_wf {s : State} (h : Memory.wf s = true) (c : Cmd) : CanonOut (execQueueDrain c s) := by
  unfold execQueueDrain
  dsimp only
  split
  · exact event_wf h
  · refine runCmd_wf h _ _ _ _ (fun _ hu => ?_)
    split
    · exact hu
    · refine finishDrain_wf ?_ ..
      refine drainQueue_wf ?_ ..
      exact wf_of_eq hu rfl rfl

theorem execGraphRegister_wf {s : State} (h : Memory.wf s = true) (c : Cmd) : CanonOut (execGraphRegister c s) := by
  unfold execGraphRegister
  refine runCmd_wf h _ _ _ _ (fun _ hu => ?_)
  split
  · exact ends_wf hu ..
  · refine complete_wf ?_ ..
    exact wf_of_eq hu rfl rfl

theorem execGraphDrop_wf {s : State} (h : Memory.wf s = true) (c : Cmd) : CanonOut (execGraphDrop c s) := by
  unfold execGraphDrop
  refine runCmd_wf h _ _ _ _ (fun _ hu => ?_)
  split
  · exact ends_wf hu ..
  · refine ends_wf ?_ ..
    exact wf_of_eq hu rfl rfl

theorem unseat_wf {s : State} (h : Memory.wf s = true) (vd : Nat) : Memory.wf (unseat s vd) = true :=
  modVd_wf (switchOut_wf h ..) ..

theorem flushSlices_wf {s : State} (h : Memory.wf s = true) (dies : List Nat) : Memory.wf (flushSlices s dies) = true :=
  wf_of_eq h rfl rfl

theorem repartition_wf {s : State} (h : Memory.wf s = true) (config : Nat) (map : List Byte) : Memory.wf (repartition s config map) = true := by
  unfold repartition
  extract_lets moved vds movers dies s1 slices s2
  have h1 : Memory.wf s1 = true := flushSlices_wf (foldl_wf (fun _ _ hu => unseat_wf hu ..) h _) _
  have h2 : Memory.wf s2 = true := wf_of_eq h1 rfl rfl
  exact foldl_wf (fun _ _ hu => examine_wf hu ..) h2 _

theorem execPartSet_wf {s : State} (h : Memory.wf s = true) (c : Cmd) : CanonOut (execPartSet c s) := by
  unfold execPartSet
  dsimp only
  split
  · exact h
  · refine runCmd_wf (s := { s with partSet := none }) (wf_of_eq h rfl rfl) _ _ _ _ fun u hu => ?_
    have hstop := foldl_wf (f := fun s (g : Nat × Gang) => requestStop s g.1) (fun _ _ hu => requestStop_wf hu ..) hu
    split
    · exact ends_wf hu ..
    · split
      · exact wf_of_eq (hstop _) rfl rfl
      · exact ends_wf (repartition_wf (hstop _) ..) ..

theorem execVdConfig_wf {s : State} (h : Memory.wf s = true) (c : Cmd) : CanonOut (execVdConfig c s) := by
  unfold execVdConfig
  dsimp only
  refine runCmd_wf h _ _ _ _ (fun _ hu => ?_)
  split
  · exact ends_wf hu ..
  · split
    · exact ends_wf hu ..
    · split
      · exact ends_wf hu ..
      · split
        · exact ends_wf hu ..
        · refine complete_wf ?_ ..
          refine examine_wf ?_ ..
          refine modVd_wf ?_ ..
          split
          · exact unseat_wf hu ..
          · exact hu

theorem spillT1_wf {s : State} (h : Memory.wf s = true) (es : List (Nat × Nat)) (slice : Nat) : Memory.wf (spillT1 es s slice) = true := by
  unfold spillT1
  dsimp only
  split
  · exact h
  · exact wf_of_eq h rfl rfl

theorem execVdGrant_wf {s : State} (h : Memory.wf s = true) (c : Cmd) : CanonOut (execVdGrant c s) := by
  unfold execVdGrant
  dsimp only
  refine runCmd_wf h _ _ _ _ (fun _ hu => ?_)
  split
  · exact ends_wf hu ..
  · exact ends_wf (foldl_wf (fun _ _ hu' => spillT1_wf hu' ..) (modVd_wf hu ..) ..) ..

theorem execVdStatus_wf {s : State} (h : Memory.wf s = true) (c : Cmd) : CanonOut (execVdStatus c s) := by
  unfold execVdStatus
  exact runCmd_wf h _ _ _ _ (fun _ hu => complete_wf hu ..)

theorem execTierAdd_wf {s : State} (h : Memory.wf s = true) (c : Cmd) : CanonOut (execTierAdd c s) := by
  unfold execTierAdd
  refine runCmd_wf h _ _ _ _ (fun _ hu => ?_)
  refine ends_wf ?_ ..
  exact wf_of_eq hu rfl rfl

theorem execTlbInval_wf {s : State} (h : Memory.wf s = true) (c : Cmd) : CanonOut (execTlbInval c s) := by
  unfold execTlbInval
  exact runCmd_wf h _ _ _ _ (fun _ hu => ends_wf (foldl_wf (fun _ _ hu' => endShot_wf hu' ..) (clearTlbs_wf hu ..) ..) ..)

theorem execTeamTerm_wf {s : State} (h : Memory.wf s = true) (c : Cmd) : CanonOut (execTeamTerm c s) := by
  unfold execTeamTerm
  exact runCmd_wf h _ _ _ _ (fun _ hu => ends_wf (foldl_wf (fun _ _ hu' => commandKill_wf hu' ..) hu ..) ..)

theorem retireCluster_wf {s : State} (h : Memory.wf s = true) (cl : Nat) : Memory.wf (retireCluster s cl) = true := by
  unfold retireCluster
  split
  · exact h
  · refine settleAll_wf ?_
    refine foldl_wf (fun _ _ hu => examine_wf hu ..) ?_ ..
    refine foldl_wf (fun _ _ hu => requestStop_wf hu ..) ?_ ..
    exact wf_of_eq h rfl rfl

theorem requestReplacement_wf {s : State} (h : Memory.wf s = true) (cl : Nat) : Memory.wf (requestReplacement s cl) = true := by
  unfold requestReplacement
  split
  · exact retireCluster_wf h ..
  · exact hardwareNotice_wf h ..

theorem loseLines_wf {s : State} (h : Memory.wf s = true) (cl : Nat) : Memory.wf (loseLines s cl) = true := by
  unfold loseLines
  refine foldl_wf (fun _ _ hu => ?_) (poisonSectors_wf h ..) ..
  exact wf_of_eq hu rfl rfl

theorem containmentReset_wf {s : State} (h : Memory.wf s = true) (cl : Nat) (code : BitVec 8) (datum : DWord) :
    Memory.wf (containmentReset s cl code datum) = true := by
  unfold containmentReset
  extract_lets waiting s0 hit here lost s1 recent sc s2 s3
  have h0 : Memory.wf s0 = true := foldl_wf (fun _ _ hu => dropGang_wf hu ..) h _
  have hl : Memory.wf lost = true := loseLines_wf (foldl_wf (fun _ _ hu => modTeam_wf hu ..) h0 _) _
  have h1 : Memory.wf s1 = true := by
    refine foldl_wf (fun _ _ hu => terminateGang_wf hu ..) ?_ _
    exact wf_of_eq hl rfl rfl
  have h2 : Memory.wf s2 = true := wf_of_eq (clearCluster_wf h1 cl) rfl rfl
  exact wf_ite_then (hardwareNotice_wf h2 ..) fun hu => requestReplacement_wf hu ..

theorem execClusterReset_wf {s : State} (h : Memory.wf s = true) (c : Cmd) : CanonOut (execClusterReset c s) := by
  unfold execClusterReset
  exact runCmd_wf h _ _ _ _ (fun _ hu => ends_wf (containmentReset_wf (freeVal64_wf hu) ..) ..)

theorem execClusterRetire_wf {s : State} (h : Memory.wf s = true) (c : Cmd) : CanonOut (execClusterRetire c s) :=
  runCmd_wf h _ _ _ _ (fun _ hu => ends_wf (retireCluster_wf hu ..) ..)

theorem execPortBind_wf {s : State} (h : Memory.wf s = true) (c : Cmd) : CanonOut (execPortBind c s) := by
  unfold execPortBind
  refine runCmd_wf h _ _ _ _ (fun _ hu => ?_)
  refine ends_wf ?_ ..
  exact wf_of_eq hu rfl rfl

theorem cutCopies_wf {s : State} (h : Memory.wf s = true) (k port : Nat) : Memory.wf (cutCopies s k port) = true := by
  unfold cutCopies
  dsimp only
  split
  · exact h
  · refine foldl_wf (fun _ _ hu => ?_) (setTeam_wf h ..) ..
    split
    · refine markFaulted_wf ?_ ..
      refine modTeam_wf ?_ ..
      split
      · exact modThread_wf hu ..
      · exact hu
    · refine modTeam_wf ?_ ..
      split
      · exact modThread_wf hu ..
      · exact hu

theorem cutBulk_wf {s : State} (h : Memory.wf s = true) (k : Nat) : Memory.wf (cutBulk s k) = true := by
  unfold cutBulk
  split
  · exact h
  · exact wf_elim h fun _ => spoilBulk_wf h ..

theorem linkDown_wf {s : State} (h : Memory.wf s = true) (link : Nat) : Memory.wf (linkDown s link) = true := by
  unfold linkDown
  extract_lets port gone mem undone s2 s3
  have h2 : Memory.wf s2 = true := wf_of_mem h (withoutWrites_wf (mem_wf h) gone) rfl
  have h3 : Memory.wf s3 = true := by
    refine foldl_wf (fun u p hu => ?_) h2 _
    have hc := cutCopies_wf hu p.1 port
    dsimp only
    split
    · exact hc
    · exact cutBulk_wf hc ..
  refine foldl_wf (fun _ _ hu => refreshImage_wf hu ..) ?_ _
  exact wf_of_eq h3 rfl rfl

theorem execLinkUp_wf {s : State} (h : Memory.wf s = true) (c : Cmd) : CanonOut (execLinkUp c s) := by
  unfold execLinkUp
  refine runCmd_wf h _ _ _ _ (fun _ hu => ?_)
  refine ends_wf ?_ ..
  exact wf_of_eq hu rfl rfl

theorem execLinkDown_wf {s : State} (h : Memory.wf s = true) (c : Cmd) : CanonOut (execLinkDown c s) :=
  runCmd_wf h _ _ _ _ (fun _ hu => ends_wf (linkDown_wf hu ..) ..)

theorem execPwrLimit_wf {s : State} (h : Memory.wf s = true) (c : Cmd) : CanonOut (execPwrLimit c s) := by
  unfold execPwrLimit
  refine runCmd_wf h _ _ _ _ (fun _ hu => ?_)
  refine complete_wf ?_ ..
  exact wf_of_eq hu rfl rfl

/-- The report in memory (R485), and the completion. -/
theorem attestWords_wf {s : State} (h : Memory.wf s = true) (c : Cmd) (a : Nat) (bs : List Byte) :
    Memory.wf (ends { s with mem := cellsSet s.mem a bs } c 0 0) = true := by
  refine ends_wf ?_ ..
  exact wf_of_mem h (cellsSet_wf (mem_wf h) ..) rfl

theorem execAttest_wf {s : State} (h : Memory.wf s = true) (c : Cmd) : CanonOut (execAttest c s) := by
  unfold execAttest
  exact runCmd_wf h _ _ _ _ fun _ hu => attestWords_wf hu ..

/-! ## Host and peer accesses, registers -/

theorem clearOwners_wf {s : State} (h : Memory.wf s = true) (l : Loc) (n : Nat) : Memory.wf (clearOwners s l n) = true := by
  induction n generalizing s with
  | zero => exact h
  | succ n ih =>
    unfold clearOwners
    split
    · exact ih (performOwner_wf h ..)
    · exact h

theorem portWrite_wf {s : State} (h : Memory.wf s = true) (port pa : Nat) (bs : List Byte) (bad : Bool) :
    Memory.wf (portWrite s port pa bs bad) = true :=
  foldl_wf (fun _ _ hu => store_wf (clearOwners_wf hu ..) ..) h ..

theorem portRead_wf {s : State} (h : Memory.wf s = true) (port pa n : Nat) : Memory.wf (portRead s port pa n).1 = true :=
  foldl_wf (fun _ _ hu => readHome_wf hu ..) h ..

theorem portAtomic_wf {s : State} (h : Memory.wf s = true) (port pa op : Nat) (t : ElTy) (b c : DWord) :
    Memory.wf (portAtomic s port pa op t b c).1 = true := by
  unfold portAtomic
  dsimp only
  split
  · exact touchHome_wf (clearOwners_wf h ..) ..
  · exact storeHome_wf (clearOwners_wf h ..) ..

theorem answer_wf {s : State} (h : Memory.wf s = true) (r : Option (List Byte × Bool)) : Memory.wf (answer s r) = true :=
  wf_of_eq h rfl rfl

theorem hostStore_wf {s : State} (h : Memory.wf s = true) (port pa : Nat) (bs : List Byte) (bad : Bool) :
    Memory.wf (hostStore s port pa bs bad) = true := by
  unfold hostStore
  split
  · exact portWrite_wf h ..
  · exact answer_wf h ..

theorem hostLoad_wf {s : State} (h : Memory.wf s = true) (port pa n : Nat) : Memory.wf (hostLoad s port pa n) = true := by
  unfold hostLoad
  split
  · exact answer_wf (portRead_wf h ..) ..
  · exact answer_wf h ..

theorem execHostWrite_wf {s : State} (h : Memory.wf s = true) (port pa : Nat) (data : List Byte) (poison : Bool) :
    CanonOut (execHostWrite port pa data poison s) :=
  event_wf (hostStore_wf h ..)

theorem execHostRead_wf {s : State} (h : Memory.wf s = true) (port pa n : Nat) : CanonOut (execHostRead port pa n s) :=
  event_wf (hostLoad_wf h ..)

theorem execBar4Access_wf {s : State} (h : Memory.wf s = true) (port off : Nat) (data : PortData) (n : Nat) :
    CanonOut (execBar4Access port off data n s) := by
  unfold execBar4Access
  split
  · exact event_wf (answer_wf h ..)
  · split
    · exact event_wf (hostLoad_wf h ..)
    · exact event_wf (hostStore_wf h ..)

theorem execLinkRequest_wf {s : State} (h : Memory.wf s = true) (link : Nat) (r : PeerReq) : CanonOut (execLinkRequest link r s) := by
  unfold execLinkRequest
  dsimp only
  split
  · exact event_wf h
  · split
    · refine event_wf ?_
      exact wf_of_eq h rfl rfl
    · split
      · refine event_wf ?_
        refine answer_wf ?_ ..
        refine portRead_wf ?_ ..
        exact wf_of_eq h rfl rfl
      · refine event_wf ?_
        refine answer_wf ?_ ..
        exact wf_of_eq h rfl rfl
    · split
      · refine event_wf ?_
        refine portWrite_wf ?_ ..
        exact wf_of_eq h rfl rfl
      · refine event_wf ?_
        refine answer_wf ?_ ..
        exact wf_of_eq h rfl rfl
    · split
      · refine event_wf ?_
        refine answer_wf ?_ ..
        exact wf_of_eq h rfl rfl
      · refine event_wf ?_
        refine answer_wf ?_ ..
        refine portAtomic_wf ?_ ..
        exact wf_of_eq h rfl rfl

theorem execDoorbell_wf {s : State} (h : Memory.wf s = true) (port queue size : Nat) (w : DWord) : CanonOut (execDoorbell port queue size w s) := by
  unfold execDoorbell
  split
  · exact h
  · split
    · exact h
    · split
      · exact setQueue_wf h ..
      · refine settleAll_wf ?_
        exact wf_of_eq h rfl rfl

theorem execChead_wf {s : State} (h : Memory.wf s = true) (port queue : Nat) (x : Word) : CanonOut (execChead port queue x s) := by
  unfold execChead
  split
  · exact event_wf h
  · split
    · exact event_wf h
    · exact event_wf (setQueue_wf h ..)

theorem execQstatOvfClear_wf {s : State} (h : Memory.wf s = true) (port queue : Nat) (x : DWord) : CanonOut (execQstatOvfClear port queue x s) := by
  unfold execQstatOvfClear
  split
  · exact event_wf h
  · split
    · exact event_wf (setQueue_wf h ..)
    · exact event_wf h

theorem setPort_wf {s : State} (h : Memory.wf s = true) (n : Nat) (p : Port) : Memory.wf (setPort s n p) = true :=
  wf_of_eq h rfl rfl

theorem execCmdtail_wf {s : State} (h : Memory.wf s = true) (port : Nat) (x : Word) : CanonOut (execCmdtail port x s) := by
  unfold execCmdtail
  refine event_wf ?_
  split
  · exact setPort_wf h ..
  · exact h

theorem execEvhead_wf {s : State} (h : Memory.wf s = true) (port : Nat) (x : Word) : CanonOut (execEvhead port x s) := by
  unfold execEvhead
  refine event_wf ?_
  split
  · exact flushNotices_wf (setPort_wf h ..) ..
  · exact h

theorem execManagementRegisterWrite_wf {s : State} (h : Memory.wf s = true) (port off : Nat) (x : DWord) :
    CanonOut (execManagementRegisterWrite port off x s) := by
  unfold execManagementRegisterWrite
  refine event_wf ?_
  split
  · split
    · exact setPort_wf h ..
    · exact h
  · split
    · exact setPort_wf h ..
    · exact h
  · split
    · exact setPort_wf h ..
    · exact h
  · split
    · exact setPort_wf h ..
    · exact h
  · split
    · exact flushNotices_wf (setPort_wf h ..) ..
    · exact h
  · exact h

/-! ## Errors, links, power and boot -/

theorem execNoticeDrop_wf {s : State} (h : Memory.wf s = true) : CanonOut (execNoticeDrop s) := by
  unfold execNoticeDrop
  split
  · exact event_wf (setPort_wf h ..)
  · exact event_wf h

theorem unitNotice_wf {s : State} (h : Memory.wf s = true) (kind : Nat) (u : ErrUnit) : Memory.wf (unitNotice s kind u) = true := by
  unfold unitNotice
  split
  · exact hardwareNotice_wf h ..
  · exact hardwareNotice_wf (freeVal_wf h) ..

theorem execErrorCorrected_wf {s : State} (h : Memory.wf s = true) (u : ErrUnit) : CanonOut (execErrorCorrected u s) := by
  unfold execErrorCorrected
  dsimp only
  split
  · refine event_wf ?_
    refine unitNotice_wf ?_ ..
    exact wf_of_eq h rfl rfl
  · split
    · split
      · refine event_wf ?_
        refine requestReplacement_wf ?_ ..
        exact wf_of_eq h rfl rfl
      · refine event_wf ?_
        refine unitNotice_wf ?_ ..
        exact wf_of_eq h rfl rfl
    · refine event_wf ?_
      exact wf_of_eq h rfl rfl

theorem poisonSector_wf {s : State} (h : Memory.wf s = true) (l : Loc) (line : Bool) : Memory.wf (poisonSector s l line) = true := by
  unfold poisonSector
  split <;> exact poisonSectors_wf h ..

theorem poisonL1_wf {s : State} (h : Memory.wf s = true) (core : Nat) (l : Loc) : Memory.wf (poisonL1 s core l) = true := by
  unfold poisonL1
  split
  · split
    · exact wf_of_eq h rfl rfl
    · split
      · exact poisonSectors_wf h ..
      · exact h
  · exact h

theorem execUncorrectableError_wf {s : State} (h : Memory.wf s = true) (e : ErrSite) : CanonOut (execUncorrectableError e s) := by
  unfold execUncorrectableError
  split
  · split
    · exact event_wf (modThread_wf h ..)
    · exact event_wf h
  · exact event_wf (poisonSector_wf h ..)
  · exact event_wf (poisonL1_wf h ..)
  · exact event_wf (modTeam_wf h ..)
  · exact event_wf (modTeam_wf h ..)
  · split
    · exact event_wf (terminateGang_wf h ..)
    · exact event_wf h
  · exact event_wf (containmentReset_wf h ..)
  · exact event_wf h
  · exact event_wf (containmentReset_wf h ..)
  · refine event_wf ?_
    refine hardwareNotice_wf ?_ ..
    refine containmentReset_wf ?_ ..
    exact wf_of_eq (freeVal_wf h) rfl rfl

theorem execPatrolScrub_wf {s : State} (h : Memory.wf s = true) (e : ErrSite) (bad : Bool) : CanonOut (execPatrolScrub e bad s) := by
  unfold execPatrolScrub
  refine event_wf ?_
  split
  · exact h
  · split
    · exact poisonSector_wf h ..
    · exact modTeam_wf h ..
    · exact h

theorem portEnables_wf {s : State} (h : Memory.wf s = true) (port : Nat) (atomicOp relaxed : Bool) :
    Memory.wf (portEnables s port atomicOp relaxed) = true :=
  setPort_wf h ..

theorem hostByte_wf {s : State} (h : Memory.wf s = true) (a : Nat) (b : Byte) : Memory.wf (hostByte s a b) = true := by
  unfold hostByte
  extract_lets has under s1
  have h1 : Memory.wf s1 = true := by
    unfold s1
    split
    · exact mapWrites_wf h ..
    · exact h
  split
  · exact wf_of_mem h1 (cellSet_wf (mem_wf h1) (Nat.zero_le _) _) rfl
  · exact mapWrites_wf h1 ..

theorem hostMem_wf {s : State} (h : Memory.wf s = true) (pa : Nat) (bs : List Byte) : Memory.wf (hostMem s pa bs) = true := by
  unfold hostMem
  split
  · refine foldl_wf (fun _ _ hu => hostByte_wf hu ..) ?_ ..
    exact wf_of_eq h rfl rfl
  · exact h

theorem hostLook_wf {s : State} (h : Memory.wf s = true) (pa n : Nat) : Memory.wf (hostLook s pa n) = true := by
  unfold hostLook
  split
  · exact answer_wf h ..
  · exact h

theorem readEarly_wf {s : State} (h : Memory.wf s = true) (ag : Agent) (i : Nat) : Memory.wf (readEarly s ag i) = true := by
  unfold readEarly
  split
  · split
    · exact h
    · split
      · split
        · exact load_wf h ..
        · exact h
      · split
        · exact modThread_wf h ..
        · exact modTeam_wf h ..
  · exact h

theorem arriveNow_wf {s : State} (h : Memory.wf s = true) (ag : Agent) (i : Nat) : Memory.wf (arriveNow s ag i) = true := by
  unfold arriveNow
  split
  · split
    · exact h
    · exact arriveWrite_wf h ..
  · exact h

theorem execFlitCrcFailure_wf {s : State} (h : Memory.wf s = true) (link : Nat) : CanonOut (execFlitCrcFailure link s) := by
  unfold execFlitCrcFailure
  refine event_wf ?_
  split
  · exact wf_of_eq h rfl rfl
  · exact h

theorem execLinkFailure_wf {s : State} (h : Memory.wf s = true) : CanonOut (execLinkFailure s) := by
  unfold execLinkFailure
  split
  · exact event_wf (linkDown_wf h ..)
  · exact event_wf h

theorem execPowerLimitExceeded_wf {s : State} (h : Memory.wf s = true) : CanonOut (execPowerLimitExceeded s) := by
  unfold execPowerLimitExceeded
  refine event_wf ?_
  exact wf_of_eq h rfl rfl

theorem execCoreRailOvercurrent_wf {s : State} (h : Memory.wf s = true) : CanonOut (execCoreRailOvercurrent s) := by
  unfold execCoreRailOvercurrent
  refine event_wf ?_
  exact wf_of_eq h rfl rfl

theorem boot_wf {s : State} (h : Memory.wf s = true) : Memory.wf (boot s) = true :=
  (wf_iff (boot s)).mpr ⟨cellsWf_filter (mem_wf h) _, rfl⟩

theorem execPackageReset_wf {s : State} (h : Memory.wf s = true) : CanonOut (execPackageReset s) :=
  event_wf (boot_wf h)

theorem bootFails_wf {s : State} (h : Memory.wf s = true) (stage : Nat) : Memory.wf (bootFails s stage) = true := by
  unfold bootFails
  split
  · exact wf_of_eq (boot_wf h) rfl rfl
  · exact h

theorem execDebuggerAttach_wf {s : State} (h : Memory.wf s = true) (vd : Nat) (en : Bool) : CanonOut (execDebuggerAttach vd en s) :=
  event_wf (modVd_wf h ..)

theorem execDebuggerResume_wf {s : State} (h : Memory.wf s = true) (team : Nat) : CanonOut (execDebuggerResume team s) :=
  event_wf (modTeam_wf h ..)

end Sys2Proof.Machine
end

section
/-! SUPPORT. The canonical form of the memories: every instruction and event, the steps of agents, and the step of the package keep it (O57). -/

namespace Sys2Proof.Machine

/-! ## Every instruction and every event -/

theorem exec_wf {s : State} (h : Memory.wf s = true) : ∀ i, CanonOut (exec i s)
  | .iadd a => execIadd_wf h a
  | .isum a => execIsum_wf h a
  | .iaddc a => execIaddc_wf h a
  | .isub a => execIsub_wf h a
  | .imul a => execImul_wf h a
  | .imulh a => execImulh_wf h a
  | .imad a => execImad_wf h a
  | .imadw a => execImadw_wf h a
  | .idiv a => execIdiv_wf h a
  | .irem a => execIrem_wf h a
  | .imin a => execImin_wf h a
  | .imax a => execImax_wf h a
  | .iabs a => execIabs_wf h a
  | .ineg a => execIneg_wf h a
  | .icmp a => execIcmp_wf h a
  | .isel a => execIsel_wf h a
  | .lea a => execLea_wf h a
  | .andB a => execAnd_wf h a
  | .orB a => execOr_wf h a
  | .xorB a => execXor_wf h a
  | .andn a => execAndn_wf h a
  | .lut a => execLut_wf h a
  | .shl a => execShl_wf h a
  | .shr a => execShr_wf h a
  | .sar a => execSar_wf h a
  | .rotl a => execRotl_wf h a
  | .funl a => execFunl_wf h a
  | .funr a => execFunr_wf h a
  | .mixh a => execMixh_wf h a
  | .bext a => execBext_wf h a
  | .bins a => execBins_wf h a
  | .brev a => execBrev_wf h a
  | .popc a => execPopc_wf h a
  | .clz a => execClz_wf h a
  | .ctz a => execCtz_wf h a
  | .bperm a => execBperm_wf h a
  | .pset a => execPset_wf h a
  | .plut a => execPlut_wf h a
  | .p2v a => execP2v_wf h a
  | .v2p a => execV2p_wf h a
  | .ixset a => execIxset_wf h a
  | .ldix a => execLdix_wf h a
  | .stix a => execStix_wf h a
  | .rgn a => execRgn_wf h a
  | .rgnw a => execRgnw_wf h a
  | .bra a => execBra_wf h a
  | .brx a => execBrx_wf h a
  | .call a => execCall_wf h a
  | .callx a => execCallx_wf h a
  | .ret a => execRet_wf h a
  | .loopL a => execLoop_wf h a
  | .lend a => execLend_wf h a
  | .rep a => execRep_wf h a
  | .exitT a => execExit_wf h a
  | .yield a => execYield_wf h a
  | .nap a => execNap_wf h a
  | .spawn a => execSpawn_wf h a
  | .waitf a => execWaitf_wf h a
  | .setf a => execSetf_wf h a
  | .pxcall a => execPxcall_wf h a
  | .pxret a => execPxret_wf h a
  | .fadd a => execFadd_wf h a
  | .fsub a => execFsub_wf h a
  | .fmul a => execFmul_wf h a
  | .ffma a => execFfma_wf h a
  | .fmin a => execFmin_wf h a
  | .fmax a => execFmax_wf h a
  | .fcmp a => execFcmp_wf h a
  | .fsel a => execFsel_wf h a
  | .fclass a => execFclass_wf h a
  | .frnd a => execFrnd_wf h a
  | .fscale a => execFscale_wf h a
  | .frcp a => execFrcp_wf h a
  | .frsq a => execFrsq_wf h a
  | .fsqrt a => execFsqrt_wf h a
  | .fdiv a => execFdiv_wf h a
  | .fexp2 a => execFexp2_wf h a
  | .flog2 a => execFlog2_wf h a
  | .fsin a => execFsin_wf h a
  | .fcos a => execFcos_wf h a
  | .ftanh a => execFtanh_wf h a
  | .fsigm a => execFsigm_wf h a
  | .pkadd a => execPkadd_wf h a
  | .pkmul a => execPkmul_wf h a
  | .pkfma a => execPkfma_wf h a
  | .pkmin a => execPkmin_wf h a
  | .pkmax a => execPkmax_wf h a
  | .cvt a => execCvt_wf h a
  | .cvti a => execCvti_wf h a
  | .cvtf a => execCvtf_wf h a
  | .qnt a => execQnt_wf h a
  | .dqnt a => execDqnt_wf h a
  | .pack2 a => execPack2_wf h a
  | .unpk a => execUnpk_wf h a
  | .fflag a => execFflag_wf h a
  | .ld a => execLd_wf h a
  | .st a => execSt_wf h a
  | .lds a => execLds_wf h a
  | .sts a => execSts_wf h a
  | .atom a => execAtom_wf h a
  | .cas a => execCas_wf h a
  | .red a => execRed_wf h a
  | .pref a => execPref_wf h a
  | .synch a => execSynch_wf h a
  | .cp a => execCp_wf h a
  | .cpw a => execCpw_wf h a
  | .cpa a => execCpa_wf h a
  | .cpf a => execCpf_wf h a
  | .cpt a => execCpt_wf h a
  | .cfence a => execCfence_wf h a
  | .ginit a => execGinit_wf h a
  | .gexp a => execGexp_wf h a
  | .garv a => execGarv_wf h a
  | .garvr a => execGarvr_wf h a
  | .gwait a => execGwait_wf h a
  | .gtest a => execGtest_wf h a
  | .bara a => execBara_wf h a
  | .barw a => execBarw_wf h a
  | .bars a => execBars_wf h a
  | .rvx a => execRvx_wf h a
  | .csrr a => execCsrr_wf h a
  | .csrw a => execCsrw_wf h a
  | .trap a => execTrap_wf h a
  | .eret a => execEret_wf h a
  | .emret a => execEmret_wf h a
  | .tlbinv a => execTlbinv_wf h a
  | .tlbsync a => execTlbsync_wf h a
  | .perfr a => execPerfr_wf h a
  | .brkpt a => execBrkpt_wf h a
  | .haltt a => execHaltt_wf h a
  | .halttGo a => execHalttGo_wf h a
  | .kadd a => execKadd_wf h a
  | .ksub a => execKsub_wf h a
  | .kmul a => execKmul_wf h a
  | .kand a => execKand_wf h a
  | .kor a => execKor_wf h a
  | .kxor a => execKxor_wf h a
  | .kshl a => execKshl_wf h a
  | .kshr a => execKshr_wf h a
  | .kmov a => execKmov_wf h a
  | .kli a => execKli_wf h a
  | .kld a => execKld_wf h a
  | .kst a => execKst_wf h a
  | .kcmp a => execKcmp_wf h a
  | .kbr a => execKbr_wf h a
  | .kcall a => execKcall_wf h a
  | .kret a => execKret_wf h a
  | .kbar a => execKbar_wf h a
  | .kwait a => execKwait_wf h a
  | .kcp a => execKcp_wf h a
  | .kexit a => execKexit_wf h a
  | .macq a => execMacq_wf h a
  | .mrel a => execMrel_wf h a
  | .mzero a => execMzero_wf h a
  | .mldb a => execMldb_wf h a
  | .mfreeb a => execMfreeb_wf h a
  | .mma a => execMma_wf h a
  | .mscl a => execMscl_wf h a
  | .mdrain a => execMdrain_wf h a
  | .mswap a => execMswap_wf h a
  | .mstat a => execMstat_wf h a
  | .clauseHeader x => execClauseHeader_wf h x
  | .bufferedStorePerformed ag => execBufferedStorePerformed_wf h ag
  | .asyncNoticeDelivery ag => execAsyncNoticeDelivery_wf h ag
  | .uniformFaultDelivery team => execUniformFaultDelivery_wf h team
  | .loadDataReturn ag => execLoadDataReturn_wf h ag
  | .storePerformed ag => execStorePerformed_wf h ag
  | .copyWritePerformed team copy => execCopyWritePerformed_wf h team copy
  | .cpaArrival team arrival => execCpaArrival_wf h team arrival
  | .coalescerMerge core => execCoalescerMerge_wf h core
  | .windowGrant ag => execWindowGrant_wf h ag
  | .windowStaged ag => execWindowStaged_wf h ag
  | .windowLoss ag => execWindowLoss_wf h ag
  | .napDeadline ag => execNapDeadline_wf h ag
  | .exitDrainComplete ag => execExitDrainComplete_wf h ag
  | .synchDrainComplete ag => execSynchDrainComplete_wf h ag
  | .yieldExpiry ag => execYieldExpiry_wf h ag
  | .spawnTimerExpiry core bin => execSpawnTimerExpiry_wf h core bin
  | .spawnTeamWaiting team => execSpawnTeamWaiting_wf h team
  | .postedCommandHead team q => execPostedCommandHead_wf h team q
  | .macqGrant cluster => execMacqGrant_wf h cluster
  | .scaleLinesPresent team => execScaleLinesPresent_wf h team
  | .reservationGrant cluster u => execReservationGrant_wf h cluster u
  | .reservationAging team => execReservationAging_wf h team
  | .mmaComplete cluster => execMmaComplete_wf h cluster
  | .drainUnitComplete cluster => execDrainUnitComplete_wf h cluster
  | .canopyLoadComplete cluster => execCanopyLoadComplete_wf h cluster
  | .mstatWrite team => execMstatWrite_wf h team
  | .kcpComplete team => execKcpComplete_wf h team
  | .docFillComplete cluster fill => execDocFillComplete_wf h cluster fill
  | .fetchReturn cluster fill => execFetchReturn_wf h cluster fill
  | .markerAck ag => execMarkerAck_wf h ag
  | .systemWriteAck ag => execSystemWriteAck_wf h ag
  | .systemReplyArrival ag => execSystemReplyArrival_wf h ag
  | .granuleMoveComplete granule tier => execGranuleMoveComplete_wf h granule tier
  | .residencyThreshold launch node => execResidencyThreshold_wf h launch node
  | .placementStep launch node => execPlacementStep_wf h launch node
  | .placementAging launch node => execPlacementAging_wf h launch node
  | .imageSlotCopyDone cluster slot => execImageSlotCopyDone_wf h cluster slot
  | .teamRetire team => execTeamRetire_wf h team
  | .completionEntryWrite launch => execCompletionEntryWrite_wf h launch
  | .preemptStopTimeout ag => execPreemptStopTimeout_wf h ag
  | .drainBoundExpiry gang => execDrainBoundExpiry_wf h gang
  | .gangRestore gang => execGangRestore_wf h gang
  | .errorCorrected u => execErrorCorrected_wf h u
  | .uncorrectableError e => execUncorrectableError_wf h e
  | .patrolScrub e bad => execPatrolScrub_wf h e bad
  | .flitCrcFailure link => execFlitCrcFailure_wf h link
  | .linkRequest link r => execLinkRequest_wf h link r
  | .hostWrite port pa data poison => execHostWrite_wf h port pa data poison
  | .hostRead port pa n => execHostRead_wf h port pa n
  | .bar4Access port off data n => execBar4Access_wf h port off data n
  | .doorbell port queue size w => execDoorbell_wf h port queue size w
  | .chead port queue x => execChead_wf h port queue x
  | .qstatOvfClear port queue x => execQstatOvfClear_wf h port queue x
  | .cmdtail port x => execCmdtail_wf h port x
  | .evhead port x => execEvhead_wf h port x
  | .managementRegisterWrite port off x => execManagementRegisterWrite_wf h port off x
  | .imgLoad c => execImgLoad_wf h c
  | .imgBind c => execImgBind_wf h c
  | .imgUnbind c => execImgUnbind_wf h c
  | .imgDrop c => execImgDrop_wf h c
  | .queueAssign c => execQueueAssign_wf h c
  | .queueRelease c => execQueueRelease_wf h c
  | .queueDrain c => execQueueDrain_wf h c
  | .graphRegister c => execGraphRegister_wf h c
  | .graphDrop c => execGraphDrop_wf h c
  | .partSet c => execPartSet_wf h c
  | .vdConfig c => execVdConfig_wf h c
  | .vdGrant c => execVdGrant_wf h c
  | .vdStatus c => execVdStatus_wf h c
  | .tierAdd c => execTierAdd_wf h c
  | .tlbInval c => execTlbInval_wf h c
  | .teamTerm c => execTeamTerm_wf h c
  | .clusterReset c => execClusterReset_wf h c
  | .clusterRetire c => execClusterRetire_wf h c
  | .portBind c => execPortBind_wf h c
  | .linkUp c => execLinkUp_wf h c
  | .linkDown c => execLinkDown_wf h c
  | .pwrLimit c => execPwrLimit_wf h c
  | .attest c => execAttest_wf h c
  | .contextSaveComplete gang => execContextSaveComplete_wf h gang
  | .debuggerAttach vd en => execDebuggerAttach_wf h vd en
  | .debuggerResume team => execDebuggerResume_wf h team
  | .guestInstructionDecode => execGuestInstructionDecode_wf h
  | .commitPoint => execCommitPoint_wf h
  | .growthRingTick => execGrowthRingTick_wf h
  | .ctDrift => execCtDrift_wf h
  | .rendezvousDeadlock => execRendezvousDeadlock_wf h
  | .watchdog => execWatchdog_wf h
  | .quantumExpiry => execQuantumExpiry_wf h
  | .schedulerDecide => execSchedulerDecide_wf h
  | .linkFailure => execLinkFailure_wf h
  | .noticeDrop => execNoticeDrop_wf h
  | .powerLimitExceeded => execPowerLimitExceeded_wf h
  | .coreRailOvercurrent => execCoreRailOvercurrent_wf h
  | .packageReset => execPackageReset_wf h

/-! ## What a fetch comes to -/

/-- The state that a fetch leaves. -/
def Fetched.left : Fetched → State
  | .fault s _ _ => s
  | .wait s => s
  | .op _ s => s

theorem fetchNative_wf {s : State} (h : Memory.wf s = true) (k tid : Nat) (t : Team) (th : Thread) :
    Memory.wf (fetchNative s k tid t th).left = true := by
  unfold fetchNative
  dsimp only
  split
  · exact h
  · split
    · exact h
    · split
      · exact h
      · exact takeSpot_wf h ..
    · exact h
    · split
      · exact noteFetch_wf h ..
      · exact h
      · exact startFill_wf h ..

theorem fetchGuestOp_wf {s : State} (h : Memory.wf s = true) (k tid : Nat) (t : Team) (th : Thread) :
    Memory.wf (fetchGuestOp s k tid t th).left = true := by
  unfold fetchGuestOp
  split
  · split
    · exact missGuest_wf h ..
    · exact h
  · exact h

theorem fetchThread_wf {s : State} (h : Memory.wf s = true) (k tid : Nat) (t : Team) (th : Thread) :
    Memory.wf (fetchThread s k tid t th).left = true := by
  unfold fetchThread
  split
  · exact h
  · exact h
  · split
    · exact fetchNative_wf h ..
    · exact fetchGuestOp_wf h ..

theorem fetchStream_wf {s : State} (h : Memory.wf s = true) (t : Team) : Memory.wf (fetchStream s t).left = true := by
  unfold fetchStream
  dsimp only
  split
  · exact h
  · split
    · exact noteFetch_wf h ..
    · split <;> exact noteFetch_wf (noteFetch_wf h ..) ..

/-! ## The step of an agent -/

theorem canonOut_of_next {s : State} {o : Out} (h : CanonOut o) (ho : o = .next s) : Memory.wf s = true := by
  subst ho
  exact h

theorem countIssue_wf {u : State} (h : Memory.wf u = true) (s : State) (k tid : Nat) (t : Team) (th : Thread) (i : Instr) :
    Memory.wf (countIssue s u k tid t th i) = true := by
  unfold countIssue
  dsimp only
  split
  · exact countPerf_wf (countPerf_wf h ..) ..
  · exact h

theorem runFetched_wf {f : Fetched} (h : Memory.wf f.left = true) (s : State) (k tid : Nat) (t : Team) (th : Thread) :
    CanonOut (runFetched s k tid t th f) := by
  cases f with
  | fault u code d => exact faultThread_wf (s := u) h ..
  | wait u => exact h
  | op i u =>
    have he := exec_wf (s := u) h i
    show CanonOut (match exec i u with
      | .next s2 => .next (countIssue s s2 k tid t th i)
      | o => o)
    split
    · rename_i s2 hx
      exact countIssue_wf (canonOut_of_next he hx) ..
    · exact he

theorem notice_wf {s : State} (h : Memory.wf s = true) (k tid : Nat) : CanonOut (notice s k tid) := exec_wf (modThread_wf h ..) _

theorem repFails_wf {s2 : State} (h : Memory.wf s2 = true) (s : State) (k tid : Nat) (t : Team) (th : Thread) :
    CanonOpt (repFails s s2 k tid t th) := by
  unfold repFails
  split
  · rename_i r _
    have he := exec_wf h r.op
    split
    · trivial
    · split
      · rename_i hx
        split
        · exact canonOut_of_next he hx
        · trivial
      · trivial
  · trivial

theorem runNoticed_wf {s : State} (h : Memory.wf s = true) (k tid : Nat) (t : Team) (th : Thread) : CanonOut (runNoticed s k tid t th) := by
  have hf := fetchThread_wf h k tid t th
  unfold runNoticed
  cases hfetch : fetchThread s k tid t th with
  | fault u code d => exact faultThread_wf (s := u) (by rwa [hfetch] at hf) ..
  | wait u => rwa [hfetch] at hf
  | op i u =>
    have he := exec_wf (s := u) (by rwa [hfetch] at hf) i
    dsimp only
    split
    · rename_i s2 hx
      have h2 := canonOut_of_next he hx
      split
      · exact h2
      · split
        · rename_i s3 hr
          exact wf_of_some (repFails_wf h2 ..) hr
        · exact notice_wf h ..
    · exact he

theorem runHeld_wf {s : State} (h : Memory.wf s = true) (k tid : Nat) (t : Team) (th : Thread) : CanonOut (runHeld s k tid t th) := by
  have hf := fetchThread_wf h k tid t th
  unfold runHeld
  cases hfetch : fetchThread s k tid t th with
  | fault u code d => exact faultThread_wf (s := u) (by rwa [hfetch] at hf) ..
  | wait u => rwa [hfetch] at hf
  | op i u =>
    have hu : Memory.wf u = true := by rwa [hfetch] at hf
    have he := exec_wf (modThread_wf hu k tid fun x => { x with wait := none }) i
    dsimp only
    split
    · rename_i s2 hx
      have h2 := canonOut_of_next he hx
      split
      · exact h2
      · split
        · exact modTeam_wf (modThread_wf h2 ..) ..
        · exact notice_wf h ..
    · exact he

theorem threadStep_wf {s : State} (h : Memory.wf s = true) (k tid : Nat) (t : Team) (th : Thread) : CanonOut (threadStep s k tid t th) := by
  unfold threadStep
  split
  · exact faultThread_wf h ..
  · split
    · exact runFetched_wf (fetchThread_wf h ..) ..
    · split
      · exact runHeld_wf h ..
      · exact runHeld_wf h ..
      · exact notice_wf h ..
      · exact runNoticed_wf h ..

theorem streamStep_wf {s : State} (h : Memory.wf s = true) (k : Nat) (t : Team) : CanonOut (streamStep s k t) := by
  have hf := fetchStream_wf h t
  unfold streamStep
  cases hfetch : fetchStream s t with
  | fault u code d => exact faultStream_wf (s := u) (by rwa [hfetch] at hf) ..
  | wait u => rwa [hfetch] at hf
  | op i u => exact exec_wf (by rwa [hfetch] at hf) i

theorem agentStep_wf {s : State} (h : Memory.wf s = true) (a : Agent) : CanonOut (agentStep s a) := by
  cases a with
  | thread k tid =>
    show CanonOut (match s.team? k, s.thread? k tid with
      | some t, some th => match threadStep s k tid t th with
        | .next s1 => .next (settleStop s1 k tid)
        | o => o
      | _, _ => event s)
    split
    · rename_i t th _ _
      have hs := threadStep_wf h k tid t th
      split
      · rename_i hx
        exact settleStop_wf (canonOut_of_next hs hx) ..
      · exact hs
    · exact h
  | stream k =>
    show CanonOut (match s.team? k with
      | some t => streamStep s k t
      | none => event s)
    split
    · exact streamStep_wf h ..
    · exact h

/-! ## A step of the package -/

theorem runCommand_wf {s : State} (h : Memory.wf s = true) (c : Cmd) : CanonOut (runCommand s c) := by
  unfold runCommand
  dsimp only
  split
  · exact exec_wf (setPort_wf h ..) _
  · exact complete_wf (setPort_wf h ..) ..

theorem roundStep_wf {s : State} (h : Memory.wf s = true) : CanonOut (roundStep s) := by
  unfold roundStep
  extract_lets s0 r
  have h0 : Memory.wf s0 = true := wf_of_eq h rfl rfl
  have hr : CanonOut r := by
    unfold r
    split
    · exact runCommand_wf h0 _
    · split
      · exact exec_wf h0 _
      · exact h0
  clear_value r
  cases r with
  | next s1 => exact exec_wf hr _
  | _ => exact hr

theorem inputStep_wf {s : State} (h : Memory.wf s = true) (x : Input) (rest : List Input) : CanonOut (inputStep s x rest) := by
  have h0 : Memory.wf { s with inputs := rest } = true := wf_of_eq h rfl rfl
  cases x with
  | turn a => exact wf_of_eq h rfl rfl
  | event i => exact canonOut_ite h0 (exec_wf h0 i)
  | portEnables p a r => exact portEnables_wf h0 ..
  | arrive a i => exact arriveNow_wf h0 ..
  | hostMem pa bs => exact hostMem_wf h0 ..
  | hostLook pa n => exact hostLook_wf h0 ..
  | readEarly a i => exact readEarly_wf h0 ..
  | bootFails n => exact bootFails_wf h0 ..
  | keyManifest ks => exact wf_of_eq h rfl rfl

theorem turnStep_wf {s : State} (h : Memory.wf s = true) (a : Agent) : CanonOut (turnStep s a) := by
  have hs := agentStep_wf (s := { s with turn := a }) (wf_of_eq h rfl rfl) a
  unfold turnStep
  split
  · rename_i s1 hx
    exact wf_of_eq (canonOut_of_next hs hx) rfl rfl
  · exact hs

theorem step_wf {s : State} (h : Memory.wf s = true) : CanonOut (step s) := by
  unfold step
  split
  · exact exec_wf h _
  · split
    · exact exec_wf h _
    · split
      · exact inputStep_wf h ..
      · split
        · exact roundStep_wf h
        · split
          · exact turnStep_wf h _
          · exact roundStep_wf h

/-- Settles O57: every part of a step, down to the single writes of a memory, keeps the two memories canonical. -/
theorem stepKeepsMemoryCanonical : Obligations.StepKeepsMemoryCanonical := by
  unfold Obligations.StepKeepsMemoryCanonical
  intro s t h hs
  exact canonOut_of_next (step_wf h) hs

end Sys2Proof.Machine
end

section
/-! SUPPORT. What an access leaves beside the caches, their times and the records of granules and translations (R331 to R338, R421 to R427), and
the completion of instruction fills and image copies (R383 to R388). -/

namespace Sys2Proof.Machine

/-! ## A state without what accesses note -/

/-- The state without the fields in which an access notes its line, its granule, its translation and its time. -/
def withoutNotes (s : State) : State :=
  { s with ct := [], times := [], floor := [], holder := [], pins := [], icode := [], vds := [], tlb := [], walked := [], t0 := [], t2 := [],
           pinned := [], dirtyGran := [], granUse := [], links := [] }

/-- The fields that accesses leave alone are as they were. -/
theorem fields_of_withoutNotes {s u : State} (h : withoutNotes u = withoutNotes s) :
    u.mem = s.mem ∧ u.teams = s.teams ∧ u.fills = s.fills ∧ u.lines = s.lines ∧ u.reads = s.reads :=
  ⟨(congrArg State.mem h :), (congrArg State.teams h :), (congrArg State.fills h :), (congrArg State.lines h :), (congrArg State.reads h :)⟩

theorem withoutNotes_foldl {α : Type} {f : State → α → State} (hf : ∀ u a, withoutNotes (f u a) = withoutNotes u) (as : List α) (s : State) :
    withoutNotes (as.foldl f s) = withoutNotes s := by
  induction as generalizing s with
  | nil => rfl
  | cons a as ih => exact (ih (f s a)).trans (hf s a)

theorem withoutNotes_raiseCt (s : State) (core : Nat) (t : DWord) : withoutNotes (raiseCt s core t) = withoutNotes s := by
  unfold raiseCt
  split <;> rfl

theorem withoutNotes_makeRoom (s : State) (line : Nat) : withoutNotes (makeRoom s line) = withoutNotes s := by
  unfold makeRoom
  dsimp only
  split
  · rfl
  · split <;> rfl

theorem withoutNotes_setTimes (s : State) (l : Loc) (t : Times) : withoutNotes (setTimes s l t) = withoutNotes s := by
  unfold setTimes
  dsimp only
  split
  · split
    · rfl
    · exact withoutNotes_makeRoom ..
  · rfl

theorem withoutNotes_passLink (s : State) (l : Loc) : withoutNotes (passLink s l) = withoutNotes s := by
  cases l with
  | scr core off => rfl
  | phys a =>
    unfold passLink
    dsimp only
    split
    · split
      · split <;> rfl
      · rfl
    · rfl

theorem withoutNotes_touch (s : State) (core : Nat) (l : Loc) (write : Bool) : withoutNotes (touch s core l write) = withoutNotes s := by
  unfold touch
  dsimp only
  split <;> exact (withoutNotes_raiseCt ..).trans ((withoutNotes_setTimes ..).trans (withoutNotes_passLink ..))

theorem withoutNotes_recallLine (s : State) (l : Loc) : withoutNotes (recallLine s l) = withoutNotes s := by
  unfold recallLine
  split <;> rfl

theorem withoutNotes_trimT1 (s : State) (slice keep : Nat) : withoutNotes (trimT1 s slice keep) = withoutNotes s := by
  unfold trimT1
  dsimp only
  split
  · rfl
  · split <;> rfl

theorem withoutNotes_comeUp (s : State) (g : Nat) : withoutNotes (comeUp s g) = withoutNotes s := by
  unfold comeUp
  extract_lets sl s1 use pins s2
  have h2 : withoutNotes s2 = withoutNotes s := by
    unfold s2
    split
    · rfl
    · split <;> rfl
  exact (withoutNotes_trimT1 ..).trans h2

theorem withoutNotes_reachGranule (s : State) (l : Loc) : withoutNotes (reachGranule s l) = withoutNotes s := by
  unfold reachGranule
  split
  · rfl
  · dsimp only
    split
    · exact withoutNotes_comeUp ..
    · rfl

theorem withoutNotes_readHome (s : State) (core : Nat) (l : Loc) : withoutNotes (readHome s core l) = withoutNotes s :=
  (withoutNotes_touch ..).trans ((withoutNotes_recallLine ..).trans (withoutNotes_reachGranule ..))

theorem withoutNotes_fillTlb (s : State) (vd core va : Nat) : withoutNotes (fillTlb s vd core va) = withoutNotes s := by
  have hwalk (as : List Nat) : withoutNotes (as.foldl (fun s a => readHome s core (.phys a)) s) = withoutNotes s :=
    withoutNotes_foldl (fun _ _ => withoutNotes_readHome ..) as s
  unfold fillTlb
  split
  · rfl
  · split
    · rfl
    · dsimp only
      split <;> exact hwalk _

theorem withoutNotes_noteHome (s : State) (t : Trans) (l : Loc) : withoutNotes (noteHome s t l) = withoutNotes s := by
  unfold noteHome
  split
  · rfl
  · dsimp only
    split
    · split <;> rfl
    · split <;> rfl

theorem withoutNotes_recordGranule (s : State) (vd : Nat) (l : Loc) : withoutNotes (recordGranule s vd l) = withoutNotes s := by
  cases l with
  | scr core off => rfl
  | phys a =>
    unfold recordGranule
    dsimp only
    split
    · split <;> rfl
    · rfl

theorem withoutNotes_cacheCode (s : State) (core pa : Nat) : withoutNotes (cacheCode s core pa) = withoutNotes s := by
  unfold cacheCode
  dsimp only
  split
  · rfl
  · exact withoutNotes_reachGranule ..

theorem withoutNotes_noteFetch (s : State) (vd core : Nat) (va : DWord) : withoutNotes (noteFetch s vd core va) = withoutNotes s := by
  unfold noteFetch
  split
  · rfl
  · refine (withoutNotes_cacheCode ..).trans ((withoutNotes_recordGranule ..).trans ?_)
    split
    · exact (withoutNotes_noteHome ..).trans (withoutNotes_fillTlb ..)
    · exact withoutNotes_fillTlb ..

/-! ## Fills and image copies -/

variable {s : State} {cl i : Nat} {f : Fill}

theorem addLine_head (ls : List Line) (l : Line) : ∃ r, addLine ls l = l :: r := by
  unfold addLine
  dsimp only
  split <;> exact ⟨_, rfl⟩

theorem fetchReturn_marks (hf : (AMap.get [] s.fills cl)[i]? = some f) :
    exec (.fetchReturn cl i) s = .next (setFills s cl ((AMap.get [] s.fills cl).set i { f with returned := true })) := by
  change execFetchReturn cl i s = _
  simp only [execFetchReturn, hf, event]

theorem docFillComplete_waits (hf : (AMap.get [] s.fills cl)[i]? = some f) (hr : f.returned = false) :
    exec (.docFillComplete cl i) s = .next s := by
  change execDocFillComplete cl i s = _
  simp [execDocFillComplete, hf, hr, event]

/-- The state in which a fill's entry is gone. -/
def fillGone (s : State) (cl i : Nat) : State := setFills s cl ((AMap.get [] s.fills cl).eraseIdx i)

/-- What a fill writes into its line. -/
def fillCode (s : State) (cl : Nat) (f : Fill) : List Decoded :=
  if f.psel < 14 && (slotImage s cl f.psel f.vd f.pix).isNone then []
  else lineCode s f.vd (f.cores.headD 0) f.pix (slotImage s cl f.psel f.vd f.pix) 64 16 (BitVec.ofNat 64 f.va)

/-- The state in which the first and the last byte of a fill's instructions have been fetched. -/
def codeFetched (s : State) (f : Fill) (code : List Decoded) : State :=
  let va : DWord := BitVec.ofNat 64 f.va
  noteFetch (noteFetch s f.vd (f.cores.headD 0) va) f.vd (f.cores.headD 0) (va + BitVec.ofNat 64 (codeBytes code - 1))

/-- A fill's line, as it is written in a state. -/
def filledLine (s : State) (f : Fill) (code : List Decoded) : Line := { id := s.nextKey, psel := f.psel, pa := f.pa, used := s.cycle, code := code }

/-- The state after a fill whose line is written. -/
def lineWritten (s : State) (cl : Nat) (f : Fill) (code : List Decoded) : State :=
  let s1 := codeFetched s f code
  { s1 with nextKey := s1.nextKey + 1, lines := AMap.set s1.lines cl (addLine (AMap.get [] s1.lines cl) (filledLine s1 f code)) }

theorem docFillComplete_writes (hf : (AMap.get [] s.fills cl)[i]? = some f) (hr : f.returned = true) {d : Decoded} {ds : List Decoded}
    (hp : fetchPlace s f.vd (f.cores.headD 0) (BitVec.ofNat 64 f.va) = .ok f.pa) (hc : fillCode s cl f = d :: ds) :
    exec (.docFillComplete cl i) s = .next (lineWritten (fillGone s cl i) cl f (d :: ds)) := by
  change execDocFillComplete cl i s = _
  unfold fillCode at hc
  simp only [execDocFillComplete, hf, hr, hp, hc, event, ne_eq, not_true_eq_false, Bool.not_true, Bool.false_eq_true, ↓reduceIte]
  rfl

theorem docFillComplete_drops (hf : (AMap.get [] s.fills cl)[i]? = some f) (hr : f.returned = true)
    (h : fetchPlace s f.vd (f.cores.headD 0) (BitVec.ofNat 64 f.va) ≠ .ok f.pa ∨ fillCode s cl f = []) :
    exec (.docFillComplete cl i) s = .next (fillGone s cl i) := by
  change execDocFillComplete cl i s = _
  unfold fillCode at h
  simp only [execDocFillComplete, hf, hr, event, Bool.not_true, Bool.false_eq_true, ↓reduceIte]
  split
  · rename_i pa d ds hp hc
    rw [hp, hc] at h
    have hpa : pa ≠ f.pa := by simpa using h
    rw [if_pos hpa]
    rfl
  · rfl

theorem fillCode_eq (h : 14 ≤ f.psel ∨ (slotImage s cl f.psel f.vd f.pix).isSome = true) : fillCode s cl f =
    lineCode s f.vd (f.cores.headD 0) f.pix (slotImage s cl f.psel f.vd f.pix) 64 16 (BitVec.ofNat 64 f.va) := by
  refine if_neg ?_
  rcases h with h | h
  · simp [Nat.not_lt.mpr h]
  · simp [Option.isSome_iff_ne_none.mp h]

theorem fillCode_nil (h : lineCode s f.vd (f.cores.headD 0) f.pix (slotImage s cl f.psel f.vd f.pix) 64 16 (BitVec.ofNat 64 f.va) = [] ∨
    (f.psel < 14 ∧ slotImage s cl f.psel f.vd f.pix = none)) : fillCode s cl f = [] := by
  unfold fillCode
  rcases h with h | ⟨hp, hi⟩
  · rw [h, ite_self]
  · simp [hp, hi]

theorem lineWritten_effect (s : State) (cl : Nat) (f : Fill) (code : List Decoded) :
    (lineWritten s cl f code).fills = s.fills ∧ (lineWritten s cl f code).mem = s.mem ∧
      AMap.get [] (lineWritten s cl f code).lines cl = addLine (AMap.get [] s.lines cl) (filledLine (codeFetched s f code) f code) := by
  have hn : withoutNotes (codeFetched s f code) = withoutNotes s := (withoutNotes_noteFetch ..).trans (withoutNotes_noteFetch ..)
  obtain ⟨hmem, -, hfills, hlines, -⟩ := fields_of_withoutNotes hn
  refine ⟨hfills, hmem, ?_⟩
  simp only [lineWritten, AMap.get_set_same, hlines]

theorem docFillComplete_effect (hf : (AMap.get [] s.fills cl)[i]? = some f) (hr : f.returned = true) :
    ∃ u, exec (.docFillComplete cl i) s = .next u ∧ AMap.get [] u.fills cl = (AMap.get [] s.fills cl).eraseIdx i ∧ u.mem = s.mem ∧
      (∀ d ds, fetchPlace s f.vd (f.cores.headD 0) (BitVec.ofNat 64 f.va) = .ok f.pa → fillCode s cl f = d :: ds →
        ∃ l, lineOf u cl f.psel f.pa = some l ∧ l.code = d :: ds ∧ AMap.get [] u.lines cl = addLine (AMap.get [] s.lines cl) l) ∧
      (fillCode s cl f = [] → u.lines = s.lines) := by
  by_cases hw : fetchPlace s f.vd (f.cores.headD 0) (BitVec.ofNat 64 f.va) = .ok f.pa ∧ fillCode s cl f ≠ []
  · obtain ⟨hp, hc⟩ := hw
    obtain ⟨d, ds, hcode⟩ := List.exists_cons_of_ne_nil hc
    obtain ⟨hfills, hmem, hlines⟩ := lineWritten_effect (fillGone s cl i) cl f (d :: ds)
    obtain ⟨r, hadd⟩ := addLine_head (AMap.get [] s.lines cl) (filledLine (codeFetched (fillGone s cl i) f (d :: ds)) f (d :: ds))
    refine ⟨_, docFillComplete_writes hf hr hp hcode, ?_, hmem, fun d' ds' _ hc' => ⟨_, ?_, hcode.symm.trans hc', hlines⟩, fun h => absurd h hc⟩
    · rw [hfills]
      exact AMap.get_set_same ..
    · rw [lineOf, hlines]
      change (addLine (AMap.get [] s.lines cl) _).find? _ = _
      rw [hadd]
      simp [filledLine]
  · have hdrop : fetchPlace s f.vd (f.cores.headD 0) (BitVec.ofNat 64 f.va) ≠ .ok f.pa ∨ fillCode s cl f = [] := by
      rwa [not_and_or, not_not] at hw
    refine ⟨_, docFillComplete_drops hf hr hdrop, AMap.get_set_same .., rfl, fun d ds hp hc => ?_, fun _ => rfl⟩
    rcases hdrop with h | h
    · exact absurd hp h
    · rw [h] at hc
      cases hc

theorem imageSlotCopyDone_ends {x : ImgSlot} (hx : AMap.find (AMap.get [] s.slots cl) i = some x) : exec (.imageSlotCopyDone cl i) s =
    .next { s with slots := AMap.set s.slots cl (AMap.set (AMap.get [] s.slots cl) i { x with copying := false }) } := by
  change execImageSlotCopyDone cl i s = _
  simp only [execImageSlotCopyDone, hx, event]

end Sys2Proof.Machine

namespace Sys2Proof.Machine

/-- Settles O46: a fill returns, completes with the line its bytes decode to or without one, or waits; a slot's copy ends. -/
theorem fetchFills : Obligations.FetchFills := by
  unfold Obligations.FetchFills
  refine ⟨fun s cl i f hf => ⟨⟨_, fetchReturn_marks hf, ?_, rfl, rfl⟩, fun hr => ?_, docFillComplete_waits hf⟩, fun s cl i x hx =>
    ⟨_, imageSlotCopyDone_ends hx, ?_, rfl⟩⟩
  · have hi := (List.getElem?_eq_some_iff.mp hf).1
    simp [setFills, hi]
  · obtain ⟨u, hu, hfills, hmem, hline, hnone⟩ := docFillComplete_effect hf hr
    refine ⟨u, hu, hfills, hmem, fun d ds hp himg hc => hline d ds hp ?_, fun h => hnone (fillCode_nil h)⟩
    rw [fillCode_eq himg]
    exact hc
  · simp

end Sys2Proof.Machine
end

section
/-! SUPPORT. Host and peer accesses (R343, R477, R478), and the registers of queues and of the management controller (R393 to R404, R479, R480). -/

namespace Sys2Proof.Machine

/-! ## Accesses of the host and of peers -/

theorem withoutNotes_portRead (s : State) (port pa n : Nat) : withoutNotes (portRead s port pa n).1 = withoutNotes s :=
  withoutNotes_foldl (fun _ _ => withoutNotes_readHome ..) ..

theorem hostWrite_effect (s : State) (port pa : Nat) (bs : List Byte) (bad : Bool) : exec (.hostWrite port pa bs bad) s =
    .next (if portReaches s port pa bs.length then portWrite s port pa bs bad else { s with reads := none :: s.reads }) := rfl

theorem hostRead_reaches {s : State} {port pa n : Nat} (h : portReaches s port pa n = true) :
    exec (.hostRead port pa n) s = .next (answer (portRead s port pa n).1 (some (portRead s port pa n).2)) := by
  change event (hostLoad s port pa n) = _
  rw [hostLoad, if_pos h]
  rfl

theorem hostRead_turnedAway {s : State} {port pa n : Nat} (h : portReaches s port pa n = false) :
    exec (.hostRead port pa n) s = .next { s with reads := none :: s.reads } := by
  change event (hostLoad s port pa n) = _
  simp only [hostLoad, h, Bool.false_eq_true, if_false]
  rfl

theorem clearOwners_of_noTeams {s : State} (h : s.teams = []) (l : Loc) (n : Nat) : clearOwners s l n = s := by
  cases n with
  | zero => rfl
  | succ n => simp [clearOwners, ownerOf, h]

theorem linePieces_oneLine {pa : Nat} {bs : List Byte} (hline : pa % 64 + bs.length ≤ 64) (hbs : bs ≠ []) (n : Nat) :
    linePieces (n + 2) pa bs = [(pa, bs)] := by
  have htake : bs.take (64 - pa % 64) = bs := List.take_of_length_le (by omega)
  have hdrop : bs.drop (64 - pa % 64) = [] := List.drop_of_length_le (by omega)
  have hne : bs.isEmpty = false := by simpa using hbs
  simp [linePieces, hne, htake, hdrop]

theorem store_phys_mem {s : State} {pa : Nat} (hlink : linkCut s (.phys pa) = false) (core : Nat) (bs : List Byte) (bad : Bool) :
    (store s core (.phys pa) bs bad).mem = cellsSet s.mem pa bs := by
  rw [(store_memories hlink core bs bad).1, writeBytes_phys]
  simp

theorem linkCut_deviceMemory (s : State) {pa : Nat} (h : pa < 2 ^ 42) : linkCut s (.phys pa) = false := by
  have hr : (pa / 2 ^ 48 % 16 == 1) = false := by
    rw [beq_eq_false_iff_ne]
    omega
  rw [linkCut, hr, Bool.false_and]

theorem portWrite_bytes {s : State} {port pa : Nat} {bs : List Byte} {bad : Bool} (hwf : Memory.wf s = true) (hteams : s.teams = [])
    (hline : pa % 64 + bs.length ≤ 64) (hdev : pa + bs.length ≤ 2 ^ 42) (hbs : bs ≠ []) (a : Nat) :
    cellGet (portWrite s port pa bs bad).mem a = if pa ≤ a ∧ a < pa + bs.length then bs.getD (a - pa) 0 else cellGet s.mem a := by
  have hpa : pa < 2 ^ 42 := by
    have := List.length_pos_of_ne_nil hbs
    omega
  simp only [portWrite, linePieces_oneLine hline hbs, List.foldl_cons, List.foldl_nil, clearOwners_of_noTeams hteams]
  rw [store_phys_mem (linkCut_deviceMemory s hpa), cellGet_cellsSet (mem_wf hwf)]

section
variable {s : State} {port off n : Nat} {bs : List Byte} {bad : Bool}

theorem bar4Access_outside (h : 2 ^ 36 < off + max n bs.length) :
    exec (.bar4Access port off ⟨bs, bad⟩ n) s = .next { s with reads := none :: s.reads } := if_pos h

theorem bar4Access_inside (h : off + max n bs.length ≤ 2 ^ 36) : exec (.bar4Access port off ⟨bs, bad⟩ n) s =
    if bs = [] then exec (.hostRead port ((AMap.get {} s.ports port).winbase.toNat + off) n) s
    else exec (.hostWrite port ((AMap.get {} s.ports port).winbase.toNat + off) bs bad) s := by
  refine (if_neg (Nat.not_lt.mpr h)).trans ?_
  cases bs <;> rfl

end

/-! ## Queue registers -/

section
variable {s : State} {port qn : Nat} {q : Queue}

theorem shownQueue_shown (hq : AMap.find s.queues qn = some q) (hp : q.port = port)
    (hpart : (AMap.get {} s.ports port).parts.getLsbD (s.vd q.vd).part = true) : shownQueue s port qn = some q := by
  simp only [shownQueue, hq, Option.filter_some, hp, hpart, beq_self_eq_true, Bool.and_self, if_true]

theorem shownQueue_hidden (hq : AMap.find s.queues qn = some q)
    (h : q.port ≠ port ∨ (AMap.get {} s.ports port).parts.getLsbD (s.vd q.vd).part = false) : shownQueue s port qn = none := by
  rw [shownQueue, hq, Option.filter_some, if_neg]
  rcases h with h | h
  · simp [h]
  · rw [h, Bool.and_false]
    exact Bool.false_ne_true

section
variable (hq : shownQueue s port qn = some q)
include hq

theorem doorbell_size {size : Nat} (hs : size ≠ 8) (w : DWord) : exec (.doorbell port qn size w) s = .next s := by
  change execDoorbell port qn size w s = _
  simp only [execDoorbell, hq, if_pos hs]
  rfl

theorem doorbell_overflows (h : q.draining ≠ none ∨ 256 ≤ ((launchesOf s qn).filter fun p => !launchDone p.2).length) (w : DWord) :
    exec (.doorbell port qn 8 w) s = .next (setQueue s qn { q with ovf := true }) := by
  have hfull : (q.draining.isSome || decide (256 ≤ ((launchesOf s qn).filter fun p => !launchDone p.2).length)) = true := by
    simpa [Option.isSome_iff_ne_none] using h
  change execDoorbell port qn 8 w s = _
  simp only [execDoorbell, hq, hfull, ne_eq, not_true_eq_false, if_false, if_true]
  rfl

theorem doorbell_accepts (hd : q.draining = none) (hl : ((launchesOf s qn).filter fun p => !launchDone p.2).length < 256) (w : DWord) :
    exec (.doorbell port qn 8 w) s = .next (settleAll { setQueue s qn { q with accepted := (q.accepted + 1) % 2 ^ 32 } with
      launches := AMap.set s.launches s.nextKey { newLaunch s qn q ((q.accepted + 1) % 2 ^ 32) w with ct := hostTime s },
      nextKey := s.nextKey + 1 }) := by
  have hroom : (q.draining.isSome || decide (256 ≤ ((launchesOf s qn).filter fun p => !launchDone p.2).length)) = false := by
    simp [hd, hl]
  change execDoorbell port qn 8 w s = _
  simp only [execDoorbell, hq, hroom, ne_eq, not_true_eq_false, if_false, Bool.false_eq_true]
  rfl

theorem chead_moves {x : Word} (h : (q.w + 2 ^ 32 - x.toNat) % 2 ^ 32 ≤ q.entries) :
    exec (.chead port qn x) s = .next (setQueue s qn { q with chead := x.toNat }) := by
  change execChead port qn x s = _
  simp only [execChead, hq, if_neg (Nat.not_lt.mpr h)]
  rfl

theorem chead_ignored {x : Word} (h : q.entries < (q.w + 2 ^ 32 - x.toNat) % 2 ^ 32) : exec (.chead port qn x) s = .next s := by
  change execChead port qn x s = _
  simp only [execChead, hq, if_pos h]
  rfl

theorem qstatOvfClear_clears {x : DWord} (h : x.getLsbD 0 = true) :
    exec (.qstatOvfClear port qn x) s = .next (setQueue s qn { q with ovf := false }) := by
  change execQstatOvfClear port qn x s = _
  simp only [execQstatOvfClear, hq, h, if_true]
  rfl

theorem qstatOvfClear_ignored {x : DWord} (h : x.getLsbD 0 = false) : exec (.qstatOvfClear port qn x) s = .next s := by
  change execQstatOvfClear port qn x s = _
  simp only [execQstatOvfClear, hq, h, Bool.false_eq_true, if_false]
  rfl

end

section
variable (hq : shownQueue s port qn = none)
include hq

theorem doorbell_hidden (n : Nat) (w : DWord) : exec (.doorbell port qn n w) s = .next s := by
  change execDoorbell port qn n w s = _
  simp only [execDoorbell, hq]
  rfl

theorem chead_hidden (x : Word) : exec (.chead port qn x) s = .next s := by
  change execChead port qn x s = _
  simp only [execChead, hq]
  rfl

theorem qstatOvfClear_hidden (x : DWord) : exec (.qstatOvfClear port qn x) s = .next s := by
  change execQstatOvfClear port qn x s = _
  simp only [execQstatOvfClear, hq]
  rfl

theorem qstat_hidden : qstat s port qn = 0 := by simp only [qstat, hq]

end

/-! ## The launch of an accepted word -/

variable (grid : Nat) {w : DWord}

theorem newLaunch_reserved (h : bitsOf w 47 20 ≠ 0) : (newLaunch s qn q grid w).early = some 6 := by simp [newLaunch, h]

theorem newLaunch_noGraph (h : bitsOf w 47 20 = 0) (hg : AMap.find s.graphs (bitsOf w 19 0) = none) : (newLaunch s qn q grid w).early = some 5 := by
  simp [newLaunch, h, hg]

theorem newLaunch_graph (h : bitsOf w 47 20 = 0) {g : Graph} (hg : AMap.find s.graphs (bitsOf w 19 0) = some g) (hvd : g.vd = q.vd) :
    (newLaunch s qn q grid w).early = none ∧ (newLaunch s qn q grid w).nodes.map Prod.snd = g.nodes := by
  simp [newLaunch, h, hg, hvd, Option.filter_some, List.map_snd_zip]

theorem newLaunch_tag (w : DWord) : (newLaunch s qn q grid w).tag = bitsOf w 63 48 := by
  unfold newLaunch
  dsimp only
  split
  · rfl
  · split <;> rfl

end

/-! ## Registers of the management controller -/

section
variable {s : State} {port : Nat} {p : Port} (hp : AMap.find s.ports port = some p)
include hp

theorem get_port : AMap.get {} s.ports port = p := by simp [AMap.get, hp]

theorem cmdtail_effect (x : Word) : exec (.cmdtail port x) s = .next (if x.toNat < p.cmdsize.toNat then setPort s port { p with cmdtail := x } else s) := by
  change execCmdtail port x s = _
  rw [execCmdtail, get_port hp]
  rfl

theorem evhead_effect (x : Word) : exec (.evhead port x) s =
    .next (if x.toNat < p.evsize.toNat then flushNotices (setPort s port { p with evhead := x }) port p.notices.length else s) := by
  change execEvhead port x s = _
  rw [execEvhead, get_port hp]
  rfl

/-- What a write of a management register leaves (R479). -/
def registerWritten (s : State) (port : Nat) (p : Port) (off : Nat) (x : DWord) : State :=
  match off with
  | 0x0108 => if x.toNat % 2 ^ 30 = 0 then setPort s port { p with winbase := x } else s
  | 0x1000 => if x.toNat % 64 = 0 then setPort s port { p with cmdbase := x } else s
  | 0x1008 => if isPow2 (x.toNat % 2 ^ 32) 16 4096 then setPort s port { p with cmdsize := x.truncate 32 } else s
  | 0x1100 => if x.toNat % 32 = 0 then setPort s port { p with evbase := x } else s
  | 0x1108 => if isPow2 (x.toNat % 2 ^ 32) 64 65536 then flushNotices (setPort s port { p with evsize := x.truncate 32 }) port p.notices.length else s
  | _ => s

theorem managementRegisterWrite_effect (off : Nat) (x : DWord) :
    exec (.managementRegisterWrite port off x) s = .next (registerWritten s port p off x) := by
  change execManagementRegisterWrite port off x s = _
  have hw : (x.truncate 32 : Word).toNat = x.toNat % 2 ^ 32 := by simp
  unfold execManagementRegisterWrite
  simp only [get_port hp, hw]
  rfl

omit hp in
theorem registerWritten_other {off : Nat} (h : off ∉ [0x0108, 0x1000, 0x1008, 0x1100, 0x1108]) (x : DWord) : registerWritten s port p off x = s := by
  simp only [List.mem_cons, List.not_mem_nil, or_false, not_or] at h
  obtain ⟨h1, h2, h3, h4, h5⟩ := h
  unfold registerWritten
  split
  · exact absurd rfl h1
  · exact absurd rfl h2
  · exact absurd rfl h3
  · exact absurd rfl h4
  · exact absurd rfl h5
  · rfl

end

/-! ## Requests of a peer -/

section
variable {s : State} {l : Nat} {x : Link} (hx : AMap.find s.links l = some x)
include hx

theorem linkRequest_down (hup : x.up = false) (r : PeerReq) : exec (.linkRequest l r) s = .next s := by
  change execLinkRequest l r s = _
  simp [execLinkRequest, AMap.get, hx, hup, event]

/-- A request has passed the link: its retries are forgotten (R478). -/
def linkPassed (s : State) (l : Nat) (x : Link) : State := { s with links := AMap.set s.links l { x with failed := 0 } }

omit hx in
/-- What a peer's request leaves, once it has passed the link. -/
def peerServed (s : State) (port : Nat) : PeerReq → State
  | .fence => s
  | .read pa n => if pa + n ≤ 2 ^ 42 then answer (portRead s port pa n).1 (some (portRead s port pa n).2) else answer s none
  | .write pa bs bad => if pa + bs.length ≤ 2 ^ 42 then portWrite s port pa bs bad else answer s none
  | .atom pa op ty b c =>
    if 2 ^ 42 < pa + (ElTy.ofCode ty).width / 8 ∨ pa % ((ElTy.ofCode ty).width / 8) ≠ 0 then answer s none
    else answer (portAtomic s port pa op (ElTy.ofCode ty) b c).1 (some (portAtomic s port pa op (ElTy.ofCode ty) b c).2)

theorem linkRequest_up (hup : x.up = true) (r : PeerReq) : exec (.linkRequest l r) s = .next (peerServed (linkPassed s l x) (l + 2) r) := by
  have hget : AMap.get { up := false } s.links l = x := by simp [AMap.get, hx]
  change execLinkRequest l r s = _
  unfold execLinkRequest
  simp only [hget]
  refine (if_neg (by simp [hup])).trans ?_
  cases r with
  | fence => rfl
  | read pa n | write pa bs bad | atom pa op ty b c => exact (apply_ite event _ _ _).symm

end

section
variable {s : State} {port pa : Nat}

theorem peerServed_read {n : Nat} (h : pa + n ≤ 2 ^ 42) :
    peerServed s port (.read pa n) = answer (portRead s port pa n).1 (some (portRead s port pa n).2) := if_pos h

theorem peerServed_outside {n : Nat} (h : 2 ^ 42 < pa + n) : peerServed s port (.read pa n) = { s with reads := none :: s.reads } :=
  if_neg (Nat.not_le.mpr h)

theorem peerServed_write {bs : List Byte} (h : pa + bs.length ≤ 2 ^ 42) (bad : Bool) :
    peerServed s port (.write pa bs bad) = portWrite s port pa bs bad := if_pos h

variable {op ty : Nat} {b c : DWord}

section
variable (hpa : pa + (ElTy.ofCode ty).width / 8 ≤ 2 ^ 42) (hal : pa % ((ElTy.ofCode ty).width / 8) = 0)
  (hbad : locPoisoned (clearOwners s (.phys pa) (ownerCount s)) (.phys pa) ((ElTy.ofCode ty).width / 8) = false)
include hpa hal hbad

theorem peerServed_atom : peerServed s port (.atom pa op ty b c) = answer (portAtomic s port pa op (ElTy.ofCode ty) b c).1
    (some (readBytes (clearOwners s (.phys pa) (ownerCount s)) (.phys pa) ((ElTy.ofCode ty).width / 8), false)) := by
  have hin : ¬ (2 ^ 42 < pa + (ElTy.ofCode ty).width / 8 ∨ pa % ((ElTy.ofCode ty).width / 8) ≠ 0) := by
    rw [not_or]
    exact ⟨Nat.not_lt.mpr hpa, not_not.mpr hal⟩
  refine (if_neg hin).trans ?_
  simp only [portAtomic, hbad]

theorem peerServed_casFails (hop : op = 16)
    (hold : leNat (readBytes (clearOwners s (.phys pa) (ownerCount s)) (.phys pa) ((ElTy.ofCode ty).width / 8)) ≠
      b.toNat % 2 ^ (8 * ((ElTy.ofCode ty).width / 8))) :
    peerServed s port (.atom pa op ty b c) = answer (touchHome (clearOwners s (.phys pa) (ownerCount s)) (portCore port) (.phys pa))
      (some (readBytes (clearOwners s (.phys pa) (ownerCount s)) (.phys pa) ((ElTy.ofCode ty).width / 8), false)) :=
  (peerServed_atom hpa hal hbad).trans (congrArg (answer · _) (if_pos ⟨hop, Or.inr hold⟩))

theorem peerServed_casStores (hop : op = 16)
    (hold : leNat (readBytes (clearOwners s (.phys pa) (ownerCount s)) (.phys pa) ((ElTy.ofCode ty).width / 8)) =
      b.toNat % 2 ^ (8 * ((ElTy.ofCode ty).width / 8))) :
    peerServed s port (.atom pa op ty b c) =
      answer (storeHome (clearOwners s (.phys pa) (ownerCount s)) (portCore port) (.phys pa) (leBytes ((ElTy.ofCode ty).width / 8) c.toNat) false)
        (some (readBytes (clearOwners s (.phys pa) (ownerCount s)) (.phys pa) ((ElTy.ofCode ty).width / 8), false)) := by
  rw [peerServed_atom hpa hal hbad]
  simp only [portAtomic, hbad, hold, hop, Bool.false_eq_true, ne_eq, not_true_eq_false, or_self, and_false, if_false, if_true]

theorem peerServed_updates (hop : op ≠ 16) :
    peerServed s port (.atom pa op ty b c) =
      answer (storeHome (clearOwners s (.phys pa) (ownerCount s)) (portCore port) (.phys pa) (leBytes ((ElTy.ofCode ty).width / 8)
        (atomNew op (ElTy.ofCode ty) (leNat (readBytes (clearOwners s (.phys pa) (ownerCount s)) (.phys pa) ((ElTy.ofCode ty).width / 8)))
          (b.toNat % 2 ^ (8 * ((ElTy.ofCode ty).width / 8))))) false)
        (some (readBytes (clearOwners s (.phys pa) (ownerCount s)) (.phys pa) ((ElTy.ofCode ty).width / 8), false)) := by
  rw [peerServed_atom hpa hal hbad]
  simp only [portAtomic, hop, false_and, if_false]

end

end

/-- Settles O51: an access of the host or of a peer and a write of a register act as their lemmas say, or have no effect. -/
theorem hostAndQueueRegisters : Obligations.HostAndQueueRegisters := by
  unfold Obligations.HostAndQueueRegisters
  refine ⟨fun s port pa n bs bad => ⟨hostWrite_effect .., fun h => ?_, hostRead_turnedAway⟩,
    fun s port pa bs bad hwf ht hl hd hb a => portWrite_bytes hwf ht hl hd hb a,
    fun s port off n bs bad => ⟨bar4Access_outside, bar4Access_inside⟩, ?shown, ?hidden, ?launch, ?controller, ?peer⟩
  · obtain ⟨hmem, hteams, -, -, hreads⟩ := fields_of_withoutNotes (withoutNotes_portRead s port pa n)
    exact ⟨_, hostRead_reaches h, hmem, hteams, (portRead s port pa n).2.2, congrArg (List.cons _) hreads⟩
  case shown =>
    intro s port qn q hq hp hpart
    have h := shownQueue_shown hq hp hpart
    exact ⟨fun size w => ⟨fun hs => doorbell_size h hs w, fun ho => doorbell_overflows h ho w, fun hd hl => doorbell_accepts h hd hl w⟩,
      fun x => ⟨chead_moves h, chead_ignored h⟩, fun x => ⟨qstatOvfClear_clears h, qstatOvfClear_ignored h⟩⟩
  case hidden =>
    intro s port qn q hq hno
    have h := shownQueue_hidden hq hno
    exact ⟨doorbell_hidden h, chead_hidden h, qstatOvfClear_hidden h, qstat_hidden h⟩
  case launch =>
    exact fun s qn grid q w => ⟨newLaunch_reserved grid, newLaunch_noGraph grid, fun g hw hg hvd => newLaunch_graph grid hw hg hvd, newLaunch_tag grid w⟩
  case controller =>
    intro s port p hp
    have hreg := managementRegisterWrite_effect hp
    refine ⟨fun x => ⟨fun h => ?_, fun h => ?_, fun h => ?_, fun h => ?_⟩, fun x => ⟨fun h => ?_, fun h => ?_, fun h => ?_, fun h => ?_, fun h => ?_,
      fun off h => ?_⟩, rfl, rfl, ?_, ?_, ?_⟩
    · rw [cmdtail_effect hp, if_pos h]
    · rw [cmdtail_effect hp, if_neg (Nat.not_lt.mpr h)]
    · rw [evhead_effect hp, if_pos h]
    · rw [evhead_effect hp, if_neg (Nat.not_lt.mpr h)]
    · exact (hreg ..).trans (congrArg _ (if_pos h))
    · exact (hreg ..).trans (congrArg _ (if_pos h))
    · exact (hreg ..).trans (congrArg _ (if_pos h))
    · exact (hreg ..).trans (congrArg _ (if_pos h))
    · exact (hreg ..).trans (congrArg _ (if_pos h))
    · rw [hreg, registerWritten_other h]
    · exact congrArg (fun p : Port => p.cmdhead.toNat) (get_port hp)
    · exact congrArg (fun p : Port => p.evtail.toNat) (get_port hp)
    · exact congrArg (fun p : Port => p.evlost.toNat) (get_port hp)
  case peer =>
    intro s l x hx
    refine ⟨linkRequest_down hx, fun hup => ?_⟩
    have hserved := linkRequest_up hx hup
    refine ⟨hserved .fence, fun pa n h => ?_, fun pa bs bad h => ?_, fun pa n h => ?_, fun pa op ty b c hpa hal hbad => ?_⟩
    · exact (hserved _).trans (congrArg _ (peerServed_read h))
    · exact (hserved _).trans (congrArg _ (peerServed_write h bad))
    · exact (hserved _).trans (congrArg _ (peerServed_outside h))
    · exact ⟨fun hop hold => (hserved _).trans (congrArg _ (peerServed_casFails hpa hal hbad hop hold)),
        fun hop hold => (hserved _).trans (congrArg _ (peerServed_casStores hpa hal hbad hop hold)),
        fun hop => (hserved _).trans (congrArg _ (peerServed_updates hpa hal hbad hop))⟩

end Sys2Proof.Machine
end

section
/-! SUPPORT. How a management command runs (R480 to R482), and the commands of images, queues and graphs (R381 to R383, R393 to R398). -/

namespace Sys2Proof.Machine

/-! ## How a command runs -/

section
variable {s : State} {c : Cmd} {who : Option Nat} {fields : List (Nat × Nat)} {checks : List (Nat × Bool)} {body : State → State}

theorem runCmd_notReady (hr : s.ready = false) : runCmd c s who fields checks body = .next s := by
  simp only [runCmd, hr, Bool.not_false, if_true]
  rfl

variable (hr : s.ready = true)
include hr

theorem runCmd_roleDenied (hrole : roleAllows s c who = false) : runCmd c s who fields checks body = .next (complete s c [] 0x40 0) := by
  simp only [runCmd, hr, hrole, Bool.not_false, Bool.not_true, Bool.false_eq_true, if_false, if_true]
  rfl

variable (hrole : roleAllows s c who = true)
include hrole

theorem runCmd_badParam {o : Nat} (ho : paramFail c fields checks = some o) :
    runCmd c s who fields checks body = .next (complete s c [] 0x42 o) := by
  simp only [runCmd, hr, hrole, ho, Bool.not_true, Bool.false_eq_true, if_false]
  rfl

theorem runCmd_runs (ho : paramFail c fields checks = none) : runCmd c s who fields checks body = .next (body s) := by
  simp only [runCmd, hr, hrole, ho, Bool.not_true, Bool.false_eq_true, if_false]
  rfl

end

/-- A command whose arm is `runCmd` has the rows that its body gives. -/
theorem command_of_runCmd {i : Cmd → Instr} {idle : State → Cmd → Prop} {who : Cmd → Option Nat} {fields : List (Nat × Nat)}
    {checks : State → Cmd → List (Nat × Bool)} {rows : List ((State → Cmd → Prop) × (State → Cmd → State))}
    (h : ∀ s c, idle s c → ∃ body : State → State, exec (i c) s = runCmd c s (who c) fields (checks s c) body ∧
      rows.Forall fun row => row.1 s c → body s = row.2 s c) : Command i idle who fields checks rows := by
  intro s c hidle
  obtain ⟨body, he, hrows⟩ := h s c hidle
  rw [he]
  refine ⟨runCmd_notReady, fun hr => ⟨runCmd_roleDenied hr, fun o hrole ho => runCmd_badParam hr hrole ho, fun row hrow hrole ho hmeets => ?_⟩⟩
  rw [runCmd_runs hr hrole ho, List.forall_iff_forall_mem.mp hrows row hrow hmeets]

/-! ## The completion words -/

theorem cellsGet_eq {m : List Host.Cell} {a : Nat} {bs : List Byte} (h : ∀ i, i < bs.length → cellGet m (a + i) = bs.getD i 0) :
    cellsGet m a bs.length = bs := by
  induction bs generalizing a with
  | nil => rfl
  | cons b bs ih =>
    have hb : cellGet m a = b := h 0 (by simp)
    rw [List.length_cons, cellsGet, hb, ih fun i hi => ?_]
    rw [Nat.add_assoc, Nat.add_comm 1 i]
    simpa using h (i + 1) (by simpa using hi)

theorem cellsGet_cellsSet {m : List Host.Cell} (h : cellsWf 0 m = true) (a : Nat) (bs : List Byte) : cellsGet (cellsSet m a bs) a bs.length = bs := by
  refine cellsGet_eq fun i hi => ?_
  rw [cellGet_cellsSet h, if_pos (by omega), Nat.add_sub_cancel_left]

theorem cellGet_cellsSet_outside {m : List Host.Cell} (h : cellsWf 0 m = true) {a b : Nat} {bs : List Byte} (hb : b < a ∨ a + bs.length ≤ b) :
    cellGet (cellsSet m a bs) b = cellGet m b := by
  rw [cellGet_cellsSet h, if_neg (by omega)]

theorem cellsGet_congr {m m' : List Host.Cell} {a n : Nat} (h : ∀ i, i < n → cellGet m (a + i) = cellGet m' (a + i)) :
    cellsGet m a n = cellsGet m' a n := by
  induction n generalizing a with
  | zero => rfl
  | succ n ih =>
    rw [cellsGet, cellsGet, ih fun i hi => ?_]
    · exact congrArg (· :: _) (h 0 (by omega))
    · rw [Nat.add_assoc, Nat.add_comm 1 i]
      exact h (i + 1) (by omega)

theorem complete_words {s : State} (hwf : Memory.wf s = true) (c : Cmd) (code detail : Nat) :
    cellsGet (complete s c [] code detail).mem (c.entry + 60) 4 = leBytes 4 1 ∧
    cellsGet (complete s c [] code detail).mem (c.entry + 56) 4 = leBytes 4 (code + 256 * detail) ∧
    ∀ a, a < c.entry + 56 ∨ c.entry + 64 ≤ a → cellGet (complete s c [] code detail).mem a = cellGet s.mem a := by
  have h0 := mem_wf hwf
  have h1 := cellsSet_wf h0 (c.entry + 56) (leBytes 4 (code + 256 * detail))
  refine ⟨cellsGet_cellsSet h1 .., ?_, fun a ha => ?_⟩
  · refine Eq.trans (cellsGet_congr fun i hi => ?_) (cellsGet_cellsSet h0 (c.entry + 56) (leBytes 4 (code + 256 * detail)))
    exact cellGet_cellsSet_outside h1 (by omega)
  · refine (cellGet_cellsSet_outside h1 ?_).trans (cellGet_cellsSet_outside h0 ?_)
    · rw [leBytes_length]
      omega
    · rw [leBytes_length]
      omega

/-! ## Images -/

theorem imgIndex_bad {i : Nat} (h : ¬ (1 ≤ i ∧ i ≤ 7)) : i = 0 ∨ 7 < i := by omega

theorem imgIndex_good {i : Nat} (h : 1 ≤ i ∧ i ≤ 7) : ¬ (i = 0 ∨ 7 < i) := by omega

section
variable {s : State} {c : Cmd} (hr : s.ready = true) (hrole : roleAllows s c none = true)
  (hparam : paramFail c [(0x08, 8), (0x10, 4), (0x18, 8)]
    [(0x08, readable (cNat c 0x08 8) (max (cNat c 0x10 4) 1) && regionOf (cNat c 0x08 8) != 1),
      (0x18, readable (cNat c 0x18 8) 128 && cNat c 0x18 8 % 64 == 0)] = none)
include hr hrole hparam

/-- The words of IMG_LOAD in memory, and its completion (R381). -/
def imageGiven (s : State) (c : Cmd) (h : Nat) (d : BitVec 512) : State :=
  complete { s with mem := cellsSet (cellsSet s.mem (cNat c 0x18 8) (leBytes 4 h)) (cNat c 0x18 8 + 0x40) (digestBytes d) } c [(0x20, leBytes 4 h)] 0 0

theorem imgLoad_fails {st d : Nat} (h : checkImage s (cellsGet s.mem (cNat c 0x08 8) (cNat c 0x10 4)) = .error (st, d)) :
    exec (.imgLoad c) s = .next (complete s c [] st d) := by
  change execImgLoad c s = _
  unfold execImgLoad
  rw [runCmd_runs hr hrole hparam]
  simp only [h]
  rfl

variable {body : List Byte} {d : BitVec 512} (h : checkImage s (cellsGet s.mem (cNat c 0x08 8) (cNat c 0x10 4)) = .ok (body, d))
include h

theorem imgLoad_known {p : Nat × Image} (hp : (s.images.find? fun p => p.2.digest == d) = some p) :
    exec (.imgLoad c) s = .next (imageGiven s c p.1 d) := by
  change execImgLoad c s = _
  unfold execImgLoad
  rw [runCmd_runs hr hrole hparam]
  simp only [h, hp]
  rfl

theorem imgLoad_full (hp : (s.images.find? fun p => p.2.digest == d) = none) (hn : 64 ≤ s.images.length) :
    exec (.imgLoad c) s = .next (complete s c [] 0x2A 0) := by
  change execImgLoad c s = _
  unfold execImgLoad
  rw [runCmd_runs hr hrole hparam]
  simp only [h, hp, if_pos hn]
  rfl

theorem imgLoad_new (hp : (s.images.find? fun p => p.2.digest == d) = none) (hn : s.images.length < 64) : exec (.imgLoad c) s =
    .next (imageGiven { s with images := AMap.set s.images (freeHandle s.images) { body := body, digest := d } } c (freeHandle s.images) d) := by
  change execImgLoad c s = _
  unfold execImgLoad
  rw [runCmd_runs hr hrole hparam]
  simp only [h, hp, if_neg (Nat.not_le.mpr hn)]
  rfl

end

/-! ## Queues and graphs -/

section
variable {s : State} {c : Cmd}

theorem queueReleaseBusy_iff : ((launchesOf s (cNat c 8 2)).any (fun p => !launchDone p.2) || (AMap.find s.queues (cNat c 8 2)).any fun x => x.draining.isSome) = true ↔
    (∃ p ∈ s.launches, p.2.queue = cNat c 8 2 ∧ launchDone p.2 = false) ∨ ∃ q, AMap.find s.queues (cNat c 8 2) = some q ∧ q.draining ≠ none := by
  simp [launchesOf, Option.any_eq_true, Option.isSome_iff_ne_none]

theorem queueDrain_waits {q : Queue} (hq : AMap.find s.queues (cNat c 8 2) = some q) (hd : q.draining.isSome = true) :
    exec (.queueDrain c) s = .next s := by
  change execQueueDrain c s = _
  simp only [execQueueDrain, hq, Option.any_some, hd, if_true]
  rfl

theorem queueDrain_runs {q : Queue} (hr : s.ready = true) (hrole : roleAllows s c none = true) (hq : AMap.find s.queues (cNat c 8 2) = some q)
    (hd : q.draining = none) (hn : cNat c 8 2 < 4096) (hk : cNat c 0x0A 1 < 2) (hparam : paramFail c [(0x08, 3)] [(0x08, true), (0x0A, true)] = none) :
    exec (.queueDrain c) s = .next (finishDrain
      (drainQueue { s with queues := AMap.set s.queues (cNat c 8 2) { q with draining := some c, cancelled := 0 } } (cNat c 8 2)
        (cNat c 0x0A 1 == 1)) (cNat c 8 2)) := by
  have hchecks : paramFail c [(0x08, 3)] [(0x08, decide (cNat c 8 2 < 4096) && (AMap.find s.queues (cNat c 8 2)).isSome),
      (0x0A, decide (cNat c 0x0A 1 < 2))] = none := by simpa [hq, hn, hk] using hparam
  change execQueueDrain c s = _
  unfold execQueueDrain
  rw [if_neg (by simp [hq, hd]), runCmd_runs hr hrole hchecks, hq]

variable (hr : s.ready = true) (hrole : roleAllows s c (some (cNat c 8 1)) = true) (hparam : paramFail c [(0x08, 1), (0x10, 8)] [] = none)
include hr hrole hparam

theorem graphRegister_fails {st i : Nat} (h : checkGraph s (cNat c 8 1) (cNat c 0x10 8) = .error (st, i)) :
    exec (.graphRegister c) s = .next (complete s c [] st i) := by
  change execGraphRegister c s = _
  unfold execGraphRegister
  rw [runCmd_runs hr hrole hparam, h]
  rfl

theorem graphRegister_registers {g : Graph} (h : checkGraph s (cNat c 8 1) (cNat c 0x10 8) = .ok g) : exec (.graphRegister c) s =
    .next (complete { s with graphs := AMap.set s.graphs (freeHandle s.graphs) g } c [(0x20, leBytes 4 (freeHandle s.graphs))] 0 0) := by
  change execGraphRegister c s = _
  unfold execGraphRegister
  rw [runCmd_runs hr hrole hparam, h]

end

/-- Settles O49: each command is `runCmd` of a body whose branches are its rows. -/
theorem imageAndQueueCommands : Obligations.ImageAndQueueCommands := by
  unfold Obligations.ImageAndQueueCommands
  dsimp only
  refine ⟨fun s c hr hrole hparam => ⟨fun st d h => imgLoad_fails hr hrole hparam h, fun body d h =>
    ⟨fun p hp => imgLoad_known hr hrole hparam h hp, imgLoad_new hr hrole hparam h, imgLoad_full hr hrole hparam h⟩⟩, ⟨?bind, ?unbind, ?drop⟩,
    ?assign, ?release, fun s c q hr hrole hq => ⟨queueDrain_waits hq, fun hd hn hk hparam => queueDrain_runs hr hrole hq hd hn hk hparam⟩,
    fun s c hr hrole hparam => ⟨fun st i h => graphRegister_fails hr hrole hparam h, fun g h => graphRegister_registers hr hrole hparam h⟩, ?graph,
    fun s c code detail hwf => complete_words hwf c code detail⟩
  case bind =>
    refine command_of_runCmd fun s c _ => ⟨_, by change execImgBind c s = _; unfold execImgBind; rfl, ?_⟩
    dsimp only [List.Forall]
    refine ⟨fun h => if_pos (by simpa using h), fun ⟨hk, hi⟩ => ?_, fun ⟨hk, hi, hf⟩ => ?_, fun ⟨hk, hi, hf, hs⟩ => ?_, fun ⟨hk, hi, hf, hs⟩ => ?_⟩
    all_goals rw [if_neg (by simp [Option.isSome_iff_ne_none.mp hk])]
    · exact if_pos (imgIndex_bad hi)
    · rw [if_neg (imgIndex_good hi)]
      exact if_pos (by simpa using hf)
    · rw [if_neg (imgIndex_good hi), if_neg (by simp [hf])]
      exact if_pos hs
    · rw [if_neg (imgIndex_good hi), if_neg (by simp [hf])]
      exact if_neg (Nat.not_lt.mpr hs)
  case unbind =>
    refine command_of_runCmd fun s c _ => ⟨_, by change execImgUnbind c s = _; unfold execImgUnbind; rfl, ?_⟩
    dsimp only [List.Forall]
    refine ⟨fun hi => if_pos (imgIndex_bad hi), fun ⟨hi, hf⟩ => ?_, fun ⟨hi, hf⟩ => ?_⟩
    all_goals rw [if_neg (imgIndex_good hi)]
    · exact if_pos (by simpa using hf)
    · exact if_neg (by simp [hf])
  case drop =>
    refine command_of_runCmd fun s c _ => ⟨_, by change execImgDrop c s = _; unfold execImgDrop; rfl, ?_⟩
    dsimp only [List.Forall]
    refine ⟨fun h => if_pos (by simpa using h), fun ⟨hk, hu⟩ => ?_, fun ⟨hk, hu⟩ => ?_⟩
    all_goals rw [if_neg (by simp [Option.isSome_iff_ne_none.mp hk])]
    · exact if_pos (by simpa using hu)
    · exact if_neg (by simpa using hu)
  case assign =>
    refine command_of_runCmd fun s c _ => ⟨_, by change execQueueAssign c s = _; unfold execQueueAssign; rfl, ?_⟩
    dsimp only [List.Forall]
    exact ⟨fun h => if_pos h, fun h => if_neg (by simp [h])⟩
  case release =>
    refine command_of_runCmd fun s c _ => ⟨_, by change execQueueRelease c s = _; unfold execQueueRelease; rfl, ?_⟩
    dsimp only [List.Forall]
    exact ⟨fun h => if_pos (queueReleaseBusy_iff.mpr h), fun h => if_neg (mt queueReleaseBusy_iff.mp h)⟩
  case graph =>
    refine command_of_runCmd fun s c _ => ⟨_, by change execGraphDrop c s = _; unfold execGraphDrop; rfl, ?_⟩
    dsimp only [List.Forall]
    exact ⟨fun h => if_pos (by simpa using h), fun h => if_neg (by simpa using h)⟩

end Sys2Proof.Machine
end

section
/-! SUPPORT. The commands of partitions, virtual devices, memory tiers, termination, ports, links, power and attestation (R412 to R424, R448, R458 to
R461, R477, R478, R480 to R486), and a thread's and a stream's traffic on a link that goes down (R478). -/

namespace Sys2Proof.Machine

/-! ## PART_SET -/

theorem find?_range_none {n : Nat} {p : Nat → Bool} (h : ∀ i, i < n → p i = false) : (List.range n).find? p = none := by
  rw [List.find?_eq_none]
  intro i hi
  simp [h i (List.mem_range.mp hi)]

/-- The gangs whose partition's quadrants a PART_SET changes. -/
def partSetMovers (s : State) (c : Cmd) : AMap Gang :=
  s.gangs.filter fun g => quadrants s.config (s.vd g.2.vd).part != quadrants (cNat c 0x08 1) (s.vd g.2.vd).part

/-- The map that a PART_SET names. -/
def partSetMap (s : State) (c : Cmd) : List Byte := cellsGet s.mem (cNat c 0x10 8) 256

/-- The effect of a PART_SET that is admitted (R412). -/
def partSetBody (s : State) (c : Cmd) (u : State) : State :=
  match (List.range 4).find? fun p => decide (64 < mapCount u (partSetMap s c) p) with
  | some p => ends u c 0x31 p
  | none =>
    if (partSetMovers s c).any fun g => !g.2.saved then { (partSetMovers s c).foldl (fun s g => requestStop s g.1) u with partSet := some c }
    else ends (repartition ((partSetMovers s c).foldl (fun s g => requestStop s g.1) u) (cNat c 0x08 1) (partSetMap s c)) c 0 0

theorem partSet_none {s : State} (h : s.partSet = none) : { s with partSet := none } = s := congrArg (fun p => { s with partSet := p }) h.symm

theorem partSet_runs {s : State} {c : Cmd} (h : s.partSet = none) : exec (.partSet c) s = runCmd c s none [(0x08, 1), (0x10, 8)]
    [(0x08, decide (cNat c 0x08 1 < 3)), (0x10, readable (cNat c 0x10 8) 256 && mapOk s (cNat c 0x08 1) (partSetMap s c))] (partSetBody s c) := by
  change execPartSet c s = _
  unfold execPartSet
  rw [if_neg (by simp [h]), partSet_none h]
  rfl

section
variable {s : State} {c : Cmd} (hroom : ∀ p, p < 4 → mapCount s (partSetMap s c) p ≤ 64)
include hroom

theorem partSetRoom : ((List.range 4).find? fun p => decide (64 < mapCount s (partSetMap s c) p)) = none :=
  find?_range_none fun p hp => by simpa using hroom p hp

theorem partSetBody_repartitions (hno : partSetMovers s c = []) :
    partSetBody s c s = complete (repartition s (cNat c 0x08 1) (partSetMap s c)) c [] 0 0 := by
  simp only [partSetBody, partSetRoom hroom, hno, List.any_nil, Bool.false_eq_true, if_false, List.foldl_nil]
  rfl

theorem partSetBody_stops {g : Nat × Gang} (hone : partSetMovers s c = [g]) (hsaved : g.2.saved = false) :
    partSetBody s c s = { requestStop s g.1 with partSet := some c } := by
  simp only [partSetBody, partSetRoom hroom, hone, List.any_cons, List.any_nil, hsaved, Bool.not_false, Bool.or_false, if_true, List.foldl_cons,
    List.foldl_nil]

end

theorem partSet_busy {s : State} {c d : Cmd} (hd : s.partSet = some d) (hne : d ≠ c) : exec (.partSet c) s = .next s := by
  change execPartSet c s = _
  unfold execPartSet
  exact if_pos (by simpa [hd] using hne)

/-! ## Translation caches -/

theorem clearTlbs_tlb (s : State) (hit : Trans → Bool) (core : Nat) :
    AMap.get [] (clearTlbs s hit).tlb core = (AMap.get [] s.tlb core).filter fun x => !hit x := by
  rw [AMap.get, AMap.get, clearTlbs, AMap.find_map s.tlb fun p => p.2.filter fun x => !hit x]
  cases AMap.find s.tlb core <;> rfl

/-! ## Extents -/

/-- The extents that a VD_GRANT gives. -/
def grantedExtents (s : State) (c : Cmd) : List (Nat × Nat) :=
  (List.range (cNat c 9 1)).map fun i => (leNat (cellsGet s.mem (cNat c 0x10 8 + 16 * i) 8), leNat (cellsGet s.mem (cNat c 0x10 8 + 16 * i + 8) 8))

/-- The extents of the other virtual devices. -/
def otherExtents (s : State) (c : Cmd) : List (Nat × Nat) := ((s.vds.filter fun p => p.1 != cNat c 8 1).map fun p => p.2.extents).flatten

/-- The effect of a VD_GRANT that is admitted (R419). -/
def grantBody (s : State) (c : Cmd) (u : State) : State :=
  match (List.range 4).find? fun q => decide (backing u q < bytesIn (otherExtents u c) q + bytesIn (grantedExtents s c) q) with
  | some q => ends u c 0x34 q
  | none => ends ((List.range 16).foldl (spillT1 (grantedExtents s c)) (u.modVd (cNat c 8 1) fun v => { v with extents := grantedExtents s c })) c 0 0

theorem grantBody_fits {s : State} {c : Cmd} (h : ∀ q, q < 4 → bytesIn (otherExtents s c) q + bytesIn (grantedExtents s c) q ≤ backing s q) :
    grantBody s c s = complete ((List.range 16).foldl (spillT1 (grantedExtents s c))
      (s.modVd (cNat c 8 1) fun v => { v with extents := grantedExtents s c })) c [] 0 0 := by
  have hnone := find?_range_none (p := fun q => decide (backing s q < bytesIn (otherExtents s c) q + bytesIn (grantedExtents s c) q))
    fun q hq => by simpa using h q hq
  simp only [grantBody, hnone]
  rfl

theorem grantBody_full {s : State} {c : Cmd} (h : backing s 0 < bytesIn (otherExtents s c) 0 + bytesIn (grantedExtents s c) 0) :
    grantBody s c s = complete s c [] 0x34 0 := by
  have hfirst : ((List.range 4).find? fun q => decide (backing s q < bytesIn (otherExtents s c) q + bytesIn (grantedExtents s c) q)) = some 0 :=
    List.find?_cons_of_pos (by simpa using h)
  simp only [grantBody, hfirst]
  rfl

/-! ## Termination by a command -/

/-- TEAM_TERM names a gang by its virtual device, queue and grid, with the team number 0xFFFFFFFF (R448). -/
theorem teamTerm_gang {s : State} {c : Cmd} {g : Nat × Gang} {x : Launch} (hall : cNat c 0x10 4 = 0xFFFFFFFF) (hg : s.gangs = [g])
    (hvd : g.2.vd = cNat c 8 1) (hf : g.2.fresh = false) (hx : AMap.find s.launches g.2.launch = some x) (hq : x.queue = cNat c 0x0A 2)
    (hgrid : x.grid % 2 ^ 32 = cNat c 0x0C 4) :
    (s.gangs.filter fun p => p.2.vd == cNat c 8 1 && !p.2.fresh &&
      (AMap.find s.launches p.2.launch).any (fun x => x.queue == cNat c 0x0A 2 && x.grid % 2 ^ 32 == cNat c 0x0C 4) &&
      (cNat c 0x10 4 == 0xFFFFFFFF || p.2.teams.any fun k => (s.team? k).any fun t => t.teamid == cNat c 0x10 4)) = [g] := by
  simpa [hg, hvd, hf, hx, hq, hall] using hgrid

/-! ## A thread's traffic on a link that goes down (R478) -/

/-- An access to a port that goes down ends: a read returns poisoned. -/
def cutAccess (th : Thread) (ac : Access) : Thread := decFlag (if returnsData ac.op then giveData th ac (some (0, true)) else th) ac.flag

/-- The thread after the end of its accesses to a port. -/
def trafficCut (port : Nat) (th : Thread) : Thread :=
  (th.out.filter fun ac => ac.port == some port).foldl cutAccess
    { th with out := th.out.filter fun ac => ac.port != some port, unacked := th.unacked.filter fun w => w.port != port,
              markers := th.markers.filter fun m => m.1 != port }

/-- The thread with the notice of the first of some lost writes. -/
def lossNoticed (lost : List (Nat × DWord)) (th : Thread) : Thread :=
  match leastBy Prod.fst lost with
  | some w => addPending th 2 cPOISON w.2
  | none => th

/-- An open expansion has buffered a store to a port, and no event of it ends it already. -/
def cutsExpansion (port : Nat) (th : Thread) : Bool :=
  (th.expansion.any fun x => !x.committed && x.stores.any fun ac => ac.port == some port) && !th.pending.any fun p => p.rank == 1

theorem cutThread_eq (port tid : Nat) (t : Team) (th : Thread) : cutThread port t tid th =
    if cutsExpansion port (lossNoticed (lostWrites port t tid th) (trafficCut port th)) then
      rollback (lossNoticed (lostWrites port t tid th) (trafficCut port th))
    else lossNoticed (lostWrites port t tid th) (trafficCut port th) := rfl

theorem decFlag_expansion (th : Thread) (j : Option (BitVec 4)) : (decFlag th j).expansion = th.expansion := by cases j <;> rfl

theorem decFlag_pending (th : Thread) (j : Option (BitVec 4)) : (decFlag th j).pending = th.pending := by cases j <;> rfl

theorem cutAccess_expansion (th : Thread) (ac : Access) : (cutAccess th ac).expansion = th.expansion := by
  unfold cutAccess
  rw [decFlag_expansion]
  split <;> rfl

theorem cutAccess_pending {th : Thread} {ac : Access} (h : returnsData ac.op = false) : (cutAccess th ac).pending = th.pending := by
  unfold cutAccess
  rw [decFlag_pending, h]
  rfl

theorem foldl_cutAccess_expansion (acs : List Access) (th : Thread) : (acs.foldl cutAccess th).expansion = th.expansion := by
  induction acs generalizing th with
  | nil => rfl
  | cons ac acs ih => exact (ih _).trans (cutAccess_expansion th ac)

theorem foldl_cutAccess_pending {acs : List Access} (h : ∀ ac ∈ acs, returnsData ac.op = false) (th : Thread) :
    (acs.foldl cutAccess th).pending = th.pending := by
  induction acs generalizing th with
  | nil => rfl
  | cons ac acs ih => exact (ih (fun x hx => h x (by simp [hx])) _).trans (cutAccess_pending (h ac (by simp)))

theorem trafficCut_expansion (port : Nat) (th : Thread) : (trafficCut port th).expansion = th.expansion := foldl_cutAccess_expansion ..

theorem trafficCut_pending {port : Nat} {th : Thread} (h : ∀ ac ∈ th.out, ac.port = some port → returnsData ac.op = false) :
    (trafficCut port th).pending = th.pending := by
  refine foldl_cutAccess_pending (fun ac hac => ?_) _
  obtain ⟨hout, hport⟩ := List.mem_filter.mp hac
  exact h ac hout (by simpa using hport)

theorem lossNoticed_expansion (lost : List (Nat × DWord)) (th : Thread) : (lossNoticed lost th).expansion = th.expansion := by
  unfold lossNoticed
  split <;> rfl

section
variable {port tid : Nat} {t : Team} {th : Thread}

/-- Without a buffered store to the port the expansion stays. -/
theorem cutThread_of_kept (hk : ∀ x, th.expansion = some x → x.committed = true ∨ ∀ ac ∈ x.stores, ac.port ≠ some port) :
    cutThread port t tid th = lossNoticed (lostWrites port t tid th) (trafficCut port th) := by
  rw [cutThread_eq, if_neg]
  unfold cutsExpansion
  rw [lossNoticed_expansion, trafficCut_expansion]
  cases hx : th.expansion with
  | none => simp
  | some x =>
    rcases hk x hx with hc | hs
    · simp [hc]
    · have hany : (x.stores.any fun ac => ac.port == some port) = false := by simpa using hs
      simp [hany]

section
variable {ac : Access} (hout : th.out = [ac]) (hport : ac.port = some port) (hu : th.unacked = []) (hm : th.markers = [])
include hout hport hu hm

theorem trafficCut_one : trafficCut port th = cutAccess { th with out := [] } ac := by
  have hrest : ({ th with out := [], unacked := [], markers := [] } : Thread) = { th with out := [] } := by
    rw [← hu, ← hm]
  simp [trafficCut, hout, hport, hu, hm, hrest]

variable (hcopies : t.copies = []) (hreplays : t.replays = [])
  (hk : ∀ x, th.expansion = some x → x.committed = true ∨ ∀ ac ∈ x.stores, ac.port ≠ some port)
include hcopies hreplays hk

theorem cutThread_read (hret : returnsData ac.op = true) :
    cutThread port t tid th = decFlag (giveData { th with out := [] } ac (some (0, true))) ac.flag := by
  have hlost : lostWrites port t tid th = [] := by simp [lostWrites, hreplays, hcopies, hu, hout, hret]
  rw [cutThread_of_kept hk, trafficCut_one hout hport hu hm, hlost, cutAccess, if_pos hret]
  rfl

theorem cutThread_write (hret : returnsData ac.op = false) :
    cutThread port t tid th = addPending (decFlag { th with out := [] } ac.flag) 2 0x22 ac.va := by
  have hlost : lostWrites port t tid th = [(ac.no, ac.va)] := by simp [lostWrites, hreplays, hcopies, hu, hout, hret, hport]
  rw [cutThread_of_kept hk, trafficCut_one hout hport hu hm, hlost, cutAccess, if_neg (by simp [hret])]
  rfl

end

section
variable (hw : ∀ ac ∈ th.out, ac.port = some port → returnsData ac.op = false)
  (hk : ∀ x, th.expansion = some x → x.committed = true ∨ ∀ ac ∈ x.stores, ac.port ≠ some port)
include hw hk

theorem cutThread_pending_of_none (h : lostWrites port t tid th = []) : (cutThread port t tid th).pending = th.pending := by
  rw [cutThread_of_kept hk, h]
  exact trafficCut_pending hw

theorem cutThread_pending_of_some (h : lostWrites port t tid th ≠ []) :
    ∃ w ∈ lostWrites port t tid th, (∀ x ∈ lostWrites port t tid th, w.1 ≤ x.1) ∧
      (cutThread port t tid th).pending = th.pending ++ [{ rank := 2, code := 0x22, datum := w.2 }] := by
  cases hw' : leastBy Prod.fst (lostWrites port t tid th) with
  | none => exact absurd (leastBy_none hw') h
  | some w =>
    obtain ⟨hmem, hleast⟩ := leastBy_some hw'
    refine ⟨w, hmem, hleast, ?_⟩
    rw [cutThread_of_kept hk, lossNoticed, hw', ← trafficCut_pending hw]
    rfl

end

/-- An open expansion with a buffered store to the port goes back to its boundary. -/
theorem cutThread_rollsBack {x : Expansion} (hx : th.expansion = some x) (hc : x.committed = false) (hs : ∃ ac ∈ x.stores, ac.port = some port)
    (hout : ∀ ac ∈ th.out, ac.port ≠ some port) (hp : ∀ p ∈ th.pending, p.rank ≠ 1) :
    (cutThread port t tid th).expansion = none ∧ (cutThread port t tid th).arch = x.saved := by
  have hpend := trafficCut_pending fun ac hac hport => absurd hport (hout ac hac)
  have hexp : (lossNoticed (lostWrites port t tid th) (trafficCut port th)).expansion = some x := by
    rw [lossNoticed_expansion, trafficCut_expansion, hx]
  have hrank : ∀ p ∈ (lossNoticed (lostWrites port t tid th) (trafficCut port th)).pending, p.rank ≠ 1 := by
    unfold lossNoticed
    split
    · intro p hmem
      rw [addPending, hpend, List.mem_append, List.mem_singleton] at hmem
      rcases hmem with hmem | rfl
      · exact hp p hmem
      · exact (by decide : (2 : Nat) ≠ 1)
    · simpa [hpend] using hp
  have hcut : cutsExpansion port (lossNoticed (lostWrites port t tid th) (trafficCut port th)) = true := by
    simpa [cutsExpansion, hexp, hc, hs] using hrank
  obtain ⟨harch, -, -, hnone, -⟩ := rollback_uncommitted hexp hc
  rw [cutThread_eq, if_pos hcut]
  exact ⟨hnone, harch⟩

end

theorem cutStream_clear {port : Nat} {t : Team} (hu : ∀ w ∈ t.stream.unacked, w.port ≠ port) (ho : ∀ ac ∈ t.stream.out, ac.port ≠ some port) :
    cutStream port [] t = t ∧ ∀ va rest, cutStream port (va :: rest) t = ufault t 0x22 va t.stream.pc 0 := by
  have hon : (t.stream.out.filter fun ac => ac.port == some port) = [] := by simpa using ho
  have hout : (t.stream.out.filter fun ac => ac.port != some port) = t.stream.out := by simpa using ho
  have hlost : (t.stream.unacked.filter fun w => w.port == port) = [] := by simpa using hu
  have hkeep : (t.stream.unacked.filter fun w => w.port != port) = t.stream.unacked := by simpa using hu
  constructor
  · simp only [cutStream, hon, hout, hlost, hkeep]
    rfl
  · intro va rest
    simp only [cutStream, hon, hout, hlost, hkeep]
    rfl

/-- Settles O50: each command is `runCmd` of a body whose branches are its rows; what a link that goes down ends is said of each thread and stream. -/
theorem partitionAndManagementCommands : Obligations.PartitionAndManagementCommands := by
  unfold Obligations.PartitionAndManagementCommands
  dsimp only
  refine ⟨?partSet, fun s c d => partSet_busy, ?vdConfig, fun v => ⟨rfl, rfl⟩, ?vdGrant, ?vdStatus, ?tierAdd, ?tlbInval, clearTlbs_tlb, ?teamTerm,
    ?clusterReset, ?clusterRetire, ?portBind, ?linkUp, ?linkDown,
    ⟨fun port tid t th ac hout hport hu hm hcopies hreplays hk =>
      ⟨cutThread_read hout hport hu hm hcopies hreplays hk, cutThread_write hout hport hu hm hcopies hreplays hk⟩,
      fun port tid t th hw hk => ⟨cutThread_pending_of_none hw hk, cutThread_pending_of_some hw hk⟩⟩,
    fun port tid t th x hx hc hs hout hp => cutThread_rollsBack hx hc hs hout hp, fun port t hu ho => cutStream_clear hu ho, ?pwrLimit, ?attest⟩
  case partSet =>
    refine command_of_runCmd fun s c hidle => ⟨_, partSet_runs hidle, ?_⟩
    dsimp only [List.Forall]
    refine ⟨fun ⟨hroom, hno⟩ => partSetBody_repartitions hroom ?_, fun ⟨hroom, g, hg, hhit, hsaved⟩ => ?_⟩
    · exact List.filter_eq_nil_iff.mpr fun g hmem => by simpa using hno g hmem
    · rw [partSetBody_stops hroom (g := g) (by simpa [partSetMovers, hg] using hhit) hsaved, hg]
      rfl
  case vdConfig =>
    refine command_of_runCmd fun s c _ => ⟨_, by change execVdConfig c s = _; unfold execVdConfig; rfl, ?_⟩
    dsimp only [List.Forall]
    refine ⟨fun h => ?_, fun ⟨hq, hf⟩ => ?_, fun ⟨hq, hf, h0⟩ => ?_, fun ⟨hq, hf, h0, hsm⟩ => ?_, fun ⟨hq, hf, h0, hsm, hcl⟩ => ?_,
      fun ⟨hq, hf, h0, hsm, hres, hcl⟩ => ?_⟩
    · obtain ⟨o, ho⟩ := Option.ne_none_iff_exists'.mp h
      simp only [ho]
      rfl
    all_goals simp only [hq]
    · exact if_pos hf
    · rw [if_neg hf]
      exact if_pos h0
    all_goals rw [if_neg hf, if_neg h0]
    · exact if_pos hsm
    all_goals rw [if_neg hsm]
    · rw [if_neg (by simpa using hcl)]
    · rw [if_pos (by simpa [hres] using hcl)]
  case vdGrant =>
    refine command_of_runCmd (rows := [_, _]) fun s c _ => ⟨grantBody s c, rfl, ?_⟩
    exact ⟨grantBody_fits, grantBody_full⟩
  case teamTerm =>
    refine command_of_runCmd fun s c _ => ⟨_, by change execTeamTerm c s = _; unfold execTeamTerm; rfl, ?_⟩
    dsimp only [List.Forall]
    refine ⟨fun h => ?_, fun ⟨hall, g, x, hg, hvd, hf, hx, hq, hgrid⟩ => ?_⟩
    · rw [List.filter_eq_nil_iff.mpr fun g hmem => by simp [h g hmem]]
      rfl
    · rw [teamTerm_gang hall hg hvd hf hx hq hgrid, hg, hall]
      rfl
  case vdStatus => exact command_of_runCmd fun s c _ => ⟨_, by change execVdStatus c s = _; unfold execVdStatus; rfl, fun _ => rfl⟩
  case tierAdd => exact command_of_runCmd fun s c _ => ⟨_, by change execTierAdd c s = _; unfold execTierAdd; rfl, fun _ => rfl⟩
  case tlbInval => exact command_of_runCmd fun s c _ => ⟨_, by change execTlbInval c s = _; unfold execTlbInval; rfl, fun _ => rfl⟩
  case clusterReset => exact command_of_runCmd fun s c _ => ⟨_, by change execClusterReset c s = _; unfold execClusterReset; rfl, fun _ => rfl⟩
  case clusterRetire => exact command_of_runCmd fun s c _ => ⟨_, by change execClusterRetire c s = _; unfold execClusterRetire; rfl, fun _ => rfl⟩
  case portBind => exact command_of_runCmd fun s c _ => ⟨_, by change execPortBind c s = _; unfold execPortBind; rfl, fun _ => rfl⟩
  case linkUp => exact command_of_runCmd fun s c _ => ⟨_, by change execLinkUp c s = _; unfold execLinkUp; rfl, fun _ => rfl⟩
  case linkDown => exact command_of_runCmd fun s c _ => ⟨_, by change execLinkDown c s = _; unfold execLinkDown; rfl, fun _ => rfl⟩
  case pwrLimit => exact command_of_runCmd fun s c _ => ⟨_, by change execPwrLimit c s = _; unfold execPwrLimit; rfl, fun _ => rfl⟩
  case attest => exact command_of_runCmd fun s c _ => ⟨_, by change execAttest c s = _; unfold execAttest; rfl, fun _ => rfl⟩

end Sys2Proof.Machine
end

section
/-! SUPPORT. Errors and their counts (R453 to R457), containment and retirement (R459, R461), links (R478), notices that are dropped (R480), power
(R486) and boot (R484). -/

namespace Sys2Proof.Machine

/-! ## Corrected errors (R457) -/

section
variable {s : State} {x : ErrUnit} {ts : List Nat}

/-- The corrections of a unit replaced. -/
def withCorrections (s : State) (x : ErrUnit) (now : List Nat) : State := { s with corrections := AMap.set s.corrections (unitKey x) now }

/-- The corrections of the hour that ends now. -/
def hourNow (s : State) (ts : List Nat) : List Nat := s.growth.toNat :: ts.filter fun t => decide (s.growth.toNat ≤ t + 360000000000)

theorem hourNow_all (h : ∀ t ∈ ts, s.growth.toNat ≤ t + 360000000000) : hourNow s ts = s.growth.toNat :: ts := by
  rw [hourNow, List.filter_eq_self.mpr fun t ht => by simpa using h t ht]

theorem hourNow_none (h : ∀ t ∈ ts, t + 360000000000 < s.growth.toNat) : hourNow s ts = [s.growth.toNat] := by
  rw [hourNow, List.filter_eq_nil_iff.mpr fun t ht => by simpa using h t ht]

variable (hts : AMap.find s.corrections (unitKey x) = some ts)
include hts

theorem errorCorrected_eq : exec (.errorCorrected x) s =
    if (hourNow s ts).length = 65 ∧ ts.length = 64 then event (unitNotice (withCorrections s x ((hourNow s ts).take 1026)) 6 x)
    else if (hourNow s ts).length = 1025 ∧ ts.length = 1024 then
      match x with
      | .cluster c => event (requestReplacement (withCorrections s x ((hourNow s ts).take 1026)) c)
      | _ => event (unitNotice (withCorrections s x ((hourNow s ts).take 1026)) 5 x)
    else event (withCorrections s x ((hourNow s ts).take 1026)) := by
  have hget : AMap.get [] s.corrections (unitKey x) = ts := by simp [AMap.get, hts]
  change execErrorCorrected x s = _
  simp only [execErrorCorrected, hget]
  cases x <;> rfl

theorem errorCorrected_counts (h64 : (hourNow s ts).length = 65 → ts.length ≠ 64) (h1024 : (hourNow s ts).length = 1025 → ts.length ≠ 1024) :
    exec (.errorCorrected x) s = .next (withCorrections s x ((hourNow s ts).take 1026)) := by
  rw [errorCorrected_eq hts, if_neg (not_and.mpr h64), if_neg (not_and.mpr h1024)]
  rfl

theorem errorCorrected_old (h : ∀ t ∈ ts, t + 360000000000 < s.growth.toNat) :
    exec (.errorCorrected x) s = .next (withCorrections s x [s.growth.toNat]) := by
  have hnow := hourNow_none h
  rw [errorCorrected_counts hts (by simp [hnow]) (by simp [hnow]), hnow]
  rfl

section
variable (hall : ∀ t ∈ ts, s.growth.toNat ≤ t + 360000000000)
include hall

omit hts in
theorem hourNow_take (hlen : ts.length < 1026) : (hourNow s ts).take 1026 = s.growth.toNat :: ts := by
  rw [hourNow_all hall, List.take_of_length_le (by simpa using hlen)]

theorem errorCorrected_warns (h : ts.length = 64) :
    exec (.errorCorrected x) s = .next (unitNotice (withCorrections s x (s.growth.toNat :: ts)) 6 x) := by
  rw [errorCorrected_eq hts, if_pos ⟨by simp [hourNow_all hall, h], h⟩, hourNow_take hall (by omega)]
  rfl

theorem errorCorrected_replaces (h : ts.length = 1024) {c : Nat} (hx : x = .cluster c) :
    exec (.errorCorrected x) s = .next (requestReplacement (withCorrections s x (s.growth.toNat :: ts)) c) := by
  subst hx
  rw [errorCorrected_eq hts, if_neg (by omega), if_pos ⟨by simp [hourNow_all hall, h], h⟩, hourNow_take hall (by omega)]
  rfl

theorem errorCorrected_replacesUnit (h : ts.length = 1024) (hx : ∀ c, x ≠ .cluster c) :
    exec (.errorCorrected x) s = .next (unitNotice (withCorrections s x (s.growth.toNat :: ts)) 5 x) := by
  rw [errorCorrected_eq hts, if_neg (by omega), if_pos ⟨by simp [hourNow_all hall, h], h⟩, hourNow_take hall (by omega)]
  cases x with
  | cluster c => exact absurd rfl (hx c)
  | l2 i | mem i => rfl

end

end

/-! ## Registers in error (R453, R454) -/

theorem coreUnit_toNat {core code : Nat} (hcore : core < 768) (hcode : code < 64) (ix : Nat) : (coreUnit core code ix).toNat =
    15 * 2 ^ 48 + core / 4 * 2 ^ 40 + core % 4 * 2 ^ 38 + code * 2 ^ 32 + ix % 2 ^ 32 := by
  rw [coreUnit, BitVec.toNat_ofNat, Nat.mod_eq_of_lt]
  omega

theorem coreUnit_layout {core code : Nat} (hcore : core < 768) (hcode : code < 64) (ix : Nat) :
    (coreUnit core code ix).toNat / 2 ^ 48 = 15 ∧ (coreUnit core code ix).toNat / 2 ^ 40 % 2 ^ 8 = core / 4 ∧
    (coreUnit core code ix).toNat / 2 ^ 38 % 4 = core % 4 ∧ (coreUnit core code ix).toNat / 2 ^ 32 % 64 = code ∧
    (coreUnit core code ix).toNat % 2 ^ 32 = ix % 2 ^ 32 := by
  rw [coreUnit_toNat hcore hcode]
  refine ⟨?_, ?_, ?_, ?_, ?_⟩ <;> omega

theorem coreUnit_core {core code : Nat} (hcore : core < 768) (hcode : code < 64) (ix : Nat) : (coreUnit core code ix).toNat / 2 ^ 38 % 2 ^ 10 = core := by
  rw [coreUnit_toNat hcore hcode]
  omega

theorem regUnit_eq {th : Thread} {j n : Nat} (hb : AMap.find th.bad j = some n) (core : Nat) :
    ∃ ix, regUnit core th j = coreUnit core (if (dirtyNear th j).map (· + 1) = some n then 1 else 0) ix := by
  have hget : AMap.get 0 th.bad j = n := by simp [AMap.get, hb]
  unfold regUnit
  cases hd : dirtyNear th j with
  | none => exact ⟨_, rfl⟩
  | some k =>
    dsimp only
    rw [hget]
    by_cases hn : n = k + 1
    · exact ⟨_, by rw [if_pos hn, if_pos (by simp [hn])]⟩
    · exact ⟨_, by rw [if_neg hn, if_neg (by simpa using Ne.symm hn)]⟩

theorem softError_of_clean {c : Ctx} (h : c.th.bad = []) (xs : List Nat) : softError c xs = none := by
  simp [softError, h, AMap.find]

theorem softError_of_mem {c : Ctx} {xs : List Nat} {j : Nat} (hb : (AMap.find c.th.bad j).isSome = true) (hj : j ∈ xs) :
    ∃ d, softError c xs = some (0x21, d) := by
  have hfind : (xs.find? fun j => (AMap.find c.th.bad j).isSome).isSome = true := List.find?_isSome.mpr ⟨j, hj, hb⟩
  obtain ⟨i, hi⟩ := Option.isSome_iff_exists.mp hfind
  exact ⟨_, by rw [softError, hi]; rfl⟩

theorem softError_datum {c : Ctx} {j n : Nat} (hcore : c.team.core < 768) (hb : AMap.find c.th.bad j = some n) : ∃ d, softError c [j] = some (0x21, d) ∧
    d.toNat / 2 ^ 48 = 15 ∧ d.toNat / 2 ^ 38 % 2 ^ 10 = c.team.core ∧
    d.toNat / 2 ^ 32 % 64 = if (dirtyNear c.th j).map (· + 1) = some n then 1 else 0 := by
  obtain ⟨ix, hix⟩ := regUnit_eq hb c.team.core
  have hcode : (if (dirtyNear c.th j).map (· + 1) = some n then 1 else 0) < 64 := by split <;> omega
  obtain ⟨htop, -, -, hunit, -⟩ := coreUnit_layout hcore hcode ix
  refine ⟨regUnit c.team.core c.th j, by simp [softError, hb, cSOFT], ?_⟩
  rw [hix]
  exact ⟨htop, coreUnit_core hcore hcode ix, hunit⟩

theorem uncorrectable_reg {s : State} {k tid : Nat} {th : Thread} (hth : s.thread? k tid = some th) (j : BitVec 8) (near : Bool) :
    ∃ u, exec (.uncorrectableError (.reg (.thread k tid) j near)) s = .next u ∧ u.thread? k tid = some (spoilReg th j.toNat near) ∧ u.mem = s.mem :=
  ⟨_, rfl, thread?_modThread_same hth _, modThread_mem ..⟩

theorem spoilReg_arch (th : Thread) (j : Nat) (near : Bool) : (spoilReg th j near).arch = th.arch := by
  unfold spoilReg
  dsimp only
  split
  · split <;> rfl
  · rfl

theorem spoilReg_row (th : Thread) (j : Nat) : AMap.find (spoilReg th j false).bad j = some 0 := AMap.find_set_same ..

theorem spoilReg_near {th : Thread} {j n : Nat} (h : dirtyNear th j = some n) : AMap.find (spoilReg th j true).bad j = some (n + 1) := by
  simp only [spoilReg, h, if_true, AMap.find_set_same]

theorem spoilReg_restaged {th : Thread} {j : Nat} (h : dirtyNear th j = none) : spoilReg th j true = th := by
  simp only [spoilReg, h, if_true]

/-! ## Sectors, tiles and teams in error (R453, R456) -/

theorem mem_poisonSectors (s : State) (ks : List Nat) (x : Nat) : x ∈ (poisonSectors s ks).poison ↔ x ∈ s.poison ∨ x ∈ ks := by
  simp only [poisonSectors, List.mem_append, List.mem_filter, Bool.not_eq_true', List.contains_eq_mem, decide_eq_false_iff_not]
  tauto

theorem mem_poisonSector_phys (s : State) (a : Nat) (line : Bool) (x : Nat) : x ∈ (poisonSector s (.phys a) line).poison ↔
    x ∈ s.poison ∨ x = sectorKey (.phys a) ∨ (line = true ∧ x / 4 = a / 64 ∧ x % 2 = 0) := by
  rw [poisonSector, mem_poisonSectors]
  cases line with
  | false => simp
  | true =>
    refine or_congr_right ?_
    simp only [if_true, List.mem_cons, List.not_mem_nil, or_false, sectorKey, true_and]
    omega

theorem poisonSector_mem (s : State) (l : Loc) (line : Bool) : (poisonSector s l line).mem = s.mem := by cases l <;> rfl

theorem uncorrectable_l1 {s : State} {core a : Nat} {c : Lease} (ha : a < 2 ^ 42) (hc : leaseOf s core (a / 64) = some c) :
    ∃ u, exec (.uncorrectableError (.l1 core (.phys a))) s = .next u ∧
      leaseOf u core (a / 64) = some { c with bad := c.bad.set (a % 64 / 32) true } ∧ u.poison = s.poison ∧ u.mem = s.mem := by
  refine ⟨{ s with l1 := AMap.set s.l1 core (AMap.set (AMap.get [] s.l1 core) (a / 64) { c with bad := c.bad.set (a % 64 / 32) true }) }, ?_, ?_, rfl, rfl⟩
  · change event (poisonL1 s core (.phys a)) = _
    simp only [poisonL1, cached, if_pos ha, hc]
    rfl
  · simp [leaseOf]

section
variable {t : Team} {j e : Nat} {p : Bool} {rows : List (List Byte)} (h : AMap.find t.canopy j = some (.tile e p rows))
include h

theorem poisonCanopy_first : poisonCanopy t j = { t with canopy := AMap.set t.canopy j (.tile e true rows) } := by
  simp only [poisonCanopy, h]

/-- The second half of a tile stands for its first. -/
theorem poisonCanopy_second (h2 : AMap.find t.canopy (j + 1) = some .second) : poisonCanopy t (j + 1) = { t with canopy := AMap.set t.canopy j (.tile e true rows) } := by
  simp only [poisonCanopy, h2, Nat.add_sub_cancel, h]

end

section
variable {s : State} {k : Nat} {t : Team} (ht : s.team? k = some t)
include ht

theorem uncorrectable_canopy (j : Nat) : exec (.uncorrectableError (.canopy k j)) s = .next (s.setTeam k (poisonCanopy t j)) := by
  change event (s.modTeam k fun t => poisonCanopy t j) = _
  rw [modTeam_some ht]
  rfl

theorem scrub_canopy (j : Nat) : exec (.patrolScrub (.canopy k j) true) s = .next (s.setTeam k (poisonCanopy t j)) := uncorrectable_canopy ht j

theorem uncorrectable_tile {j : Nat} {x : Tile} (hx : AMap.find t.tiles j = some x) : exec (.uncorrectableError (.tile k j)) s =
    .next (s.setTeam k { t with tiles := AMap.set t.tiles j { x with poison := true } }) := by
  change event (s.modTeam k _) = _
  rw [modTeam_some ht]
  simp only [hx]
  rfl

theorem uncorrectable_team (ix : Nat) : exec (.uncorrectableError (.team k ix)) s =
    .next (terminateGang s t.gang 0x21 0 t.teamid 0xFFFFFFFF (coreUnit t.core 3 ix) true) := by
  change execUncorrectableError (.team k ix) s = _
  simp only [execUncorrectableError, ht]
  rfl

end

/-! ## Retired clusters (R461) -/

section
variable {s : State} {c : Nat} (h : s.retiring = [c])
include h

theorem clearRetired_empty (he : teamsIn s c = []) :
    clearRetired s = hardwareNotice (hardwareNotice { clearCluster s c with retiring := [] } 4 0 c 0) 5 0 c 0 := by
  simp [clearRetired, h, he]

theorem clearRetired_waits (he : teamsIn s c ≠ []) : clearRetired s = s := by
  have hne : ¬ (teamsIn s c).isEmpty = true := by simpa using he
  rw [clearRetired, h, List.foldl_cons, List.foldl_nil, if_neg hne]

end

/-! ## Links (R478) -/

section
variable {s : State} {l : Nat} {x : Link} (hx : AMap.find s.links l = some x)
include hx

/-- A link whose retries are forgotten already is as it was. -/
theorem forgotten_eq (h : x.failed = 0) : AMap.find s.links l = some { x with failed := 0 } := by rw [← h, hx]

theorem passLink_forgets {a : Nat} (hr : a / 2 ^ 48 % 16 = 1) (hl : a / 2 ^ 44 % 16 = l) :
    AMap.find (passLink s (.phys a)).links l = some { x with failed := 0 } := by
  simp only [passLink, hr, hl, hx, if_true]
  split
  · next h => exact forgotten_eq hx h
  · exact AMap.find_set_same ..

theorem linkWorks_forgets : AMap.find (linkWorks s (l + 2)).links l = some { x with failed := 0 } := by
  rw [linkWorks, if_neg (by omega), Nat.add_sub_cancel, hx]
  dsimp only
  split
  · next h => exact forgotten_eq hx h
  · exact AMap.find_set_same ..

theorem flitCrcFailure_counts (hup : x.up = true) : ∃ u, exec (.flitCrcFailure l) s = .next u ∧
    AMap.find u.links l = some { x with failed := x.failed + 1 } ∧ u.mem = s.mem ∧ u.teams = s.teams := by
  have hget : AMap.get { up := false } s.links l = x := by simp [AMap.get, hx]
  refine ⟨{ s with links := AMap.set s.links l { x with failed := x.failed + 1 } }, ?_, AMap.find_set_same .., rfl, rfl⟩
  change execFlitCrcFailure l s = _
  simp only [execFlitCrcFailure, hget]
  exact congrArg event (if_pos hup)

end

theorem linkFailure_goesDown {s : State} {l : Nat} {x : Link} (h : (s.links.find? fun p => linkFails p.2) = some (l, x)) :
    exec .linkFailure s = .next (linkDown s l) := by
  change execLinkFailure s = _
  simp only [execLinkFailure, h]
  rfl

theorem linkFails_iff (x : Link) : linkFails x = true ↔ x.up = true ∧ 1 + 16 ≤ x.failed := by simp [linkFails]

theorem step_linkFailure {s : State} (hw : watchdogFirst s = false) (h : ∃ p ∈ s.links, linkFails p.2 = true) : step s = exec .linkFailure s := by
  have hl : linkFirst s = true := List.any_eq_true.mpr h
  rw [step, if_neg (by simp [hw]), if_pos hl]

/-! ## Notices that are dropped, power and boot -/

theorem noticeDrop_drops {s : State} {port : Nat} {p : Port} (h : (s.ports.find? fun p => dropDue s p.2) = some (port, p)) :
    ∃ u, exec .noticeDrop s = .next u ∧ AMap.find u.ports port = some { p with notices := p.notices.tail, evlost := p.evlost + 1 } ∧ u.mem = s.mem := by
  refine ⟨setPort s port { p with notices := p.notices.drop 1, evlost := p.evlost + 1 }, ?_, ?_, rfl⟩
  · change execNoticeDrop s = _
    simp only [execNoticeDrop, h]
    rfl
  · rw [setPort, AMap.find_set_same, List.drop_one]

theorem boot_mem {s : State} {c : Host.Cell} (h : c ∈ (boot s).mem) : 2 ^ 48 ≤ c.1 := by
  simpa using (List.mem_filter.mp h).2

/-- Settles O52: each error, its later use and its containment, and the events of links, power and boot act as their lemmas say. -/
theorem errorsPowerBoot : Obligations.ErrorsPowerBoot := by
  unfold Obligations.ErrorsPowerBoot
  refine ⟨fun s x ts hts => ⟨fun hall hlen => ⟨fun h64 h1024 => ?_, errorCorrected_warns hts hall, fun h c hx => errorCorrected_replaces hts hall h hx,
      fun h hx => errorCorrected_replacesUnit hts hall h hx⟩, errorCorrected_old hts, fun h64 h1024 => ?_⟩,
    fun s k tid th j near hth => ?reg, fun c xs h => softError_of_clean h xs, fun c xs j hb hj => softError_of_mem hb hj,
    fun c j n hcore hb => softError_datum hcore hb, fun s core off a line => ?sectors, fun s k j t ht => ?tiles, fun core code ix => coreUnit_layout (ix := ix),
    fun s b cl core code ix => ⟨rfl, rfl, rfl, _, rfl⟩, fun s c h => ⟨clearRetired_empty h, clearRetired_waits h⟩,
    fun s l a x hx hr hl => ⟨passLink_forgets hx hr hl, linkWorks_forgets hx⟩,
    fun s l x hx => ⟨flitCrcFailure_counts hx, linkFailure_goesDown⟩, linkFails_iff, fun s => step_linkFailure, fun s port p => noticeDrop_drops,
    fun s => ⟨⟨_, rfl, rfl⟩, ⟨_, rfl, rfl⟩, boot s, rfl, rfl, rfl, rfl, rfl, rfl, rfl, rfl, rfl, rfl, rfl, rfl, rfl, rfl, rfl, rfl, fun c => boot_mem⟩⟩
  · rw [errorCorrected_counts hts (fun _ => h64) (fun _ => h1024), hourNow_take hall hlen]
    rfl
  · exact errorCorrected_counts hts (fun _ => h64) (fun _ => h1024)
  case reg =>
    obtain ⟨u, hu, hth1, hmem⟩ := uncorrectable_reg hth j near
    refine ⟨u, _, hu, hth1, spoilReg_arch .., hmem, ?_, ?_, ?_⟩
    · rintro rfl
      exact spoilReg_row ..
    · rintro n rfl hd
      exact spoilReg_near hd
    · rintro rfl hd
      exact spoilReg_restaged hd
  case sectors =>
    refine ⟨⟨_, rfl, ?_, poisonSector_mem .., mem_poisonSector_phys s a line⟩, fun c ha hc => uncorrectable_l1 ha hc,
      ⟨poisonSector s (.scr core off) line, rfl, rfl, fun x => ?_⟩, rfl, fun e => rfl⟩
    · exact (mem_poisonSector_phys ..).mpr (Or.inr (Or.inl rfl))
    · change x ∈ (poisonSectors s _).poison ↔ _
      rw [mem_poisonSectors, List.mem_singleton]
  case tiles =>
    refine ⟨fun e p rows h => ?_, fun x hx => uncorrectable_tile ht hx, uncorrectable_team ht⟩
    have hfirst := poisonCanopy_first h
    refine ⟨?_, ?_, fun h2 => ?_⟩
    · rw [uncorrectable_canopy ht, hfirst]
    · rw [scrub_canopy ht, hfirst]
    · rw [uncorrectable_canopy ht, poisonCanopy_second h h2]

end Sys2Proof.Machine
end

section
/-! SUPPORT. Stop requests, the drain bound, save and restore, system replies and granules (R425 to R433, R470). -/

namespace Sys2Proof.Machine

/-! ## The time limit of a stop request (R428 step 1) -/

/-- A thread that the time limit stops. -/
def timedOut (th : Thread) : Thread :=
  { (if th.expansion.isSome then rollback th else th) with preempted := true, safe := if th.expansion.isSome then none else th.safe }

theorem timedOut_native {th : Thread} (hx : th.expansion = none) : timedOut th = { th with preempted := true } := by
  simp [timedOut, hx]

section
variable {s : State} {k tid : Nat} {th : Thread}

/-- The state in which the time limit has stopped a thread, before the halts of stopped threads end. -/
def stoppedAt (s : State) (k tid : Nat) : State := s.modThread k tid fun th => if stopTimedOut s k th then timedOut th else th

theorem preemptStopTimeout_effect : exec (.preemptStopTimeout (.thread k tid)) s = .next (endStopHalts (stoppedAt s k tid)) := rfl

theorem stoppedAt_other {j i : Nat} (h : ¬ (j = k ∧ i = tid)) : (stoppedAt s k tid).thread? j i = s.thread? j i := by
  refine thread?_modThread_other s _ ?_
  rw [not_and_or] at h
  exact h.imp Ne.symm Ne.symm

theorem mem_endStopHalts (u : State) (h : Halt) : h ∈ (endStopHalts u).halts ↔
    h ∈ u.halts ∧ ∀ y, u.thread? h.team h.tid = some y → y.preempted = false := by
  simp only [endStopHalts, endHalts, List.mem_filter, Bool.not_eq_true']
  refine and_congr_right fun _ => ?_
  cases u.thread? h.team h.tid <;> simp

variable (hth : s.thread? k tid = some th) (hto : stopTimedOut s k th = true)
include hth hto

theorem stoppedAt_same : (stoppedAt s k tid).thread? k tid = some (timedOut th) := by
  rw [stoppedAt, thread?_modThread_same hth, if_pos hto]

/-- The halts that are left: none of the stopped thread, and none of a thread that had stopped before. -/
theorem mem_stoppedHalts (h : Halt) : h ∈ (endStopHalts (stoppedAt s k tid)).halts ↔
    h ∈ s.halts ∧ ¬ (h.team = k ∧ h.tid = tid) ∧ ∀ y, s.thread? h.team h.tid = some y → y.preempted = false := by
  rw [mem_endStopHalts]
  have hhalts : (stoppedAt s k tid).halts = s.halts := modThread_halts ..
  rw [hhalts]
  refine and_congr_right fun _ => ?_
  by_cases hme : h.team = k ∧ h.tid = tid
  · rw [hme.1, hme.2, stoppedAt_same hth hto]
    simp [timedOut]
  · rw [stoppedAt_other hme]
    simp [hme]

theorem preemptStopTimeout_native (hx : th.expansion = none) : ∃ u, exec (.preemptStopTimeout (.thread k tid)) s = .next u ∧ u.mem = s.mem ∧
    u.thread? k tid = some { th with preempted := true } ∧ (∀ j i, ¬ (j = k ∧ i = tid) → u.thread? j i = s.thread? j i) ∧
    ∀ h, h ∈ u.halts ↔ h ∈ s.halts ∧ ¬ (h.team = k ∧ h.tid = tid) ∧ ∀ y, s.thread? h.team h.tid = some y → y.preempted = false :=
  ⟨_, preemptStopTimeout_effect, modThread_mem .., (stoppedAt_same hth hto).trans (congrArg some (timedOut_native hx)), fun _ _ => stoppedAt_other,
    mem_stoppedHalts hth hto⟩

theorem preemptStopTimeout_expansion {x : Expansion} (hx : th.expansion = some x) (hc : x.committed = false) :
    ∃ u, exec (.preemptStopTimeout (.thread k tid)) s = .next u ∧ (∀ h ∈ u.halts, ¬ (h.team = k ∧ h.tid = tid)) ∧
      (u.thread? k tid).map Thread.arch = some x.saved ∧ (u.thread? k tid).map Thread.expansion = some none ∧
      (u.thread? k tid).map Thread.preempted = some true ∧ (u.thread? k tid).map Thread.safe = some none ∧ u.mem = s.mem := by
  have hsame : (endStopHalts (stoppedAt s k tid)).thread? k tid = some (timedOut th) := stoppedAt_same hth hto
  obtain ⟨harch, -, -, hexp, -⟩ := rollback_uncommitted hx hc
  have hsome : th.expansion.isSome = true := by simp [hx]
  refine ⟨_, preemptStopTimeout_effect, fun h hh => ((mem_stoppedHalts hth hto h).mp hh).2.1, ?_, ?_, ?_, ?_, modThread_mem ..⟩
  all_goals rw [hsame]
  · simp [timedOut, hsome, harch]
  · simp [timedOut, hsome, hexp]
  · rfl
  · simp [timedOut, hsome]

end

/-! ## A stop request (R428, R470) -/

/-- A team's threads that a stop request stops at once. -/
def teamAsked (s : State) (placed : Bool) (k : Nat) (t : Team) : Team :=
  { t with threads := t.threads.map fun p => (p.1, if !placed || stopsAtOnce p.2 || hasStopped s k p.1 p.2 then stopHere p.2 else p.2) }

/-- A stop request reaches a gang's teams. -/
def teamsAsked (s : State) (placed : Bool) (ks : List Nat) : State := ks.foldl (fun s k => s.modTeam k (teamAsked s placed k)) s

theorem teamsAsked_frame (placed : Bool) (ks : List Nat) (s : State) :
    (teamsAsked s placed ks).halts = s.halts ∧ (teamsAsked s placed ks).gangs = s.gangs ∧ (teamsAsked s placed ks).mem = s.mem := by
  induction ks generalizing s with
  | nil => exact ⟨rfl, rfl, rfl⟩
  | cons k ks ih =>
    obtain ⟨hhalts, hgangs, hmem⟩ := ih (s.modTeam k (teamAsked s placed k))
    exact ⟨hhalts.trans (modTeam_halts ..), hgangs.trans (modTeam_gangs ..), hmem.trans (modTeam_mem ..)⟩

section
variable {s : State} {k tid : Nat} {th : Thread} (hth : s.thread? k tid = some th)
include hth

theorem teamAsked_thread (placed : Bool) : (s.modTeam k (teamAsked s placed k)).thread? k tid =
    some (if !placed || stopsAtOnce th || hasStopped s k tid th then stopHere th else th) := by
  cases ht : s.team? k with
  | none => simp [State.thread?, ht] at hth
  | some t =>
    rw [thread?_of_team ht] at hth
    rw [thread?_of_team (team?_modTeam_same ht _)]
    exact AMap.find_map_some hth _

theorem teamAsked_stops (placed : Bool) (h : stopsAtOnce th = true ∨ th.preempted = true) :
    ∃ y, (s.modTeam k (teamAsked s placed k)).thread? k tid = some y ∧ y.preempted = true := by
  refine ⟨_, teamAsked_thread hth placed, ?_⟩
  split
  · rfl
  · next hno =>
    rcases h with h | h
    · simp [h] at hno
    · exact h

end

theorem teamAsked_other (s : State) (placed : Bool) {j k : Nat} (h : j ≠ k) (tid : Nat) :
    (s.modTeam j (teamAsked s placed j)).thread? k tid = s.thread? k tid := by
  rw [State.thread?, State.thread?, team?_modTeam_other s _ h]

/-- A thread that has stopped stays stopped while further teams are asked. -/
theorem teamsAsked_keepsStopped (placed : Bool) (ks : List Nat) {s : State} {k tid : Nat} {th : Thread} (hth : s.thread? k tid = some th)
    (hp : th.preempted = true) : ∃ y, (teamsAsked s placed ks).thread? k tid = some y ∧ y.preempted = true := by
  induction ks generalizing s th with
  | nil => exact ⟨th, hth, hp⟩
  | cons j ks ih =>
    by_cases hj : j = k
    · subst hj
      obtain ⟨y, hy, hyp⟩ := teamAsked_stops hth placed (Or.inr hp)
      exact ih hy hyp
    · exact ih ((teamAsked_other s placed hj tid).trans hth) hp

theorem teamsAsked_stops (placed : Bool) {ks : List Nat} {s : State} {k tid : Nat} {th : Thread} (hk : k ∈ ks) (hth : s.thread? k tid = some th)
    (h : stopsAtOnce th = true) : ∃ y, (teamsAsked s placed ks).thread? k tid = some y ∧ y.preempted = true := by
  induction ks generalizing s with
  | nil => cases hk
  | cons j ks ih =>
    by_cases hj : j = k
    · subst hj
      obtain ⟨y, hy, hyp⟩ := teamAsked_stops hth placed (Or.inl h)
      exact teamsAsked_keepsStopped placed ks hy hyp
    · exact ih ((List.mem_cons.mp hk).resolve_left (Ne.symm hj)) ((teamAsked_other s placed hj tid).trans hth)

section
variable {s : State} {gk : Nat} {g : Gang} (hg : s.gang? gk = some g)
include hg

theorem gang?_modGang (f : Gang → Gang) : (s.modGang gk f).gang? gk = some (f g) := by
  rw [modGang_some hg]
  exact AMap.find_set_same ..

theorem modGang_halts (f : Gang → Gang) : (s.modGang gk f).halts = s.halts := by rw [modGang_some hg]

variable (hs : g.saved = false) (ha : g.stopAt = none) (hf : g.fresh = false)
include hs ha hf

theorem requestStop_eq : requestStop s gk = endHalts
    (teamsAsked (s.modGang gk fun g => { g with stopAt := some s.cycle, blocked := none }) g.placed g.teams) fun h => g.teams.contains h.team := by
  rw [requestStop, hg]
  simp only [hs, ha, hf, Option.isSome_none, Bool.or_self, Bool.false_eq_true, if_false]
  rfl

theorem requestStop_frame : (requestStop s gk).halts = s.halts.filter (fun h => !g.teams.contains h.team) ∧
    (requestStop s gk).gang? gk = some { g with stopAt := some s.cycle, blocked := none } ∧ (requestStop s gk).mem = s.mem := by
  obtain ⟨hhalts, hgangs, hmem⟩ := teamsAsked_frame g.placed g.teams (s.modGang gk fun g => { g with stopAt := some s.cycle, blocked := none })
  rw [requestStop_eq hg hs ha hf]
  refine ⟨?_, ?_, hmem.trans (modGang_mem ..)⟩
  · rw [endHalts, hhalts, modGang_halts hg]
  · exact (congrArg (AMap.find · gk) hgangs).trans (gang?_modGang hg _)

theorem requestStop_stops {k tid : Nat} {th u : Thread} (hk : k ∈ g.teams) (hth : s.thread? k tid = some th) (h : stopsAtOnce th = true)
    (hu : (requestStop s gk).thread? k tid = some u) : u.preempted = true := by
  have hth' : (s.modGang gk fun g => { g with stopAt := some s.cycle, blocked := none }).thread? k tid = some th := by
    rw [← hth, State.thread?, State.team?, modGang_teams]
    rfl
  obtain ⟨y, hy, hyp⟩ := teamsAsked_stops g.placed hk hth' h
  rw [requestStop_eq hg hs ha hf] at hu
  exact Option.some.inj (hu.symm.trans hy) ▸ hyp

end

/-! ## The drain bound (R428, R429) -/

/-- A thread's system atomics and SYNCH at the drain bound. -/
def boundStrip (th : Thread) : Thread :=
  let th1 := { th with out := th.out.filter fun ac => !(ac.port.isSome && returnsData ac.op && isWrite ac.op) }
  match th.wait with
  | some (.drain _) | some (.tick _ _) => { th1 with wait := none, unacked := [], markers := [], preempted := true }
  | _ => th1

/-- A team at the drain bound. -/
def boundTeam (t : Team) : Team :=
  { t with replays := t.replays ++ (t.threads.map fun p => boundReplays p.1 p.2).flatten, threads := t.threads.map fun p => (p.1, boundStrip p.2) }

/-- A team no longer awaits system atomics or a SYNCH's drain. -/
def BoundClear (t : Team) : Prop :=
  (∀ p ∈ t.threads, ∀ ac ∈ p.2.out, ¬ (ac.port.isSome = true ∧ returnsData ac.op = true ∧ isWrite ac.op = true)) ∧
  ∀ p ∈ t.threads, ∀ len, p.2.wait ≠ some (.drain len)

theorem boundStrip_out (th : Thread) : (boundStrip th).out = th.out.filter fun ac => !(ac.port.isSome && returnsData ac.op && isWrite ac.op) := by
  unfold boundStrip
  split <;> rfl

theorem boundStrip_wait (th : Thread) (len : Nat) : (boundStrip th).wait ≠ some (.drain len) := by
  unfold boundStrip
  split
  · exact nofun
  · exact nofun
  · next hdrain _ => exact hdrain len

theorem boundTeam_clear (t : Team) : BoundClear (boundTeam t) := by
  refine ⟨fun p hp ac hac => ?_, fun p hp len => ?_⟩
  all_goals
    obtain ⟨q, -, rfl⟩ := List.mem_map.mp hp
  · rw [boundStrip_out] at hac
    have hkept := (List.mem_filter.mp hac).2
    rintro ⟨hport, hret, hw⟩
    simp [hport, hret, hw] at hkept
  · exact boundStrip_wait q.2 len

theorem boundTeam_replays (t : Team) : ∀ r ∈ t.replays, r ∈ (boundTeam t).replays := fun _ hr => List.mem_append_left _ hr

theorem mem_boundTeam_replays {t : Team} {p : Nat × Thread} (hp : p ∈ t.threads) {r : Replay} (hr : r ∈ boundReplays p.1 p.2) :
    r ∈ (boundTeam t).replays :=
  List.mem_append_right _ (List.mem_flatten.mpr ⟨_, List.mem_map.mpr ⟨p, hp, rfl⟩, hr⟩)

theorem boundReplays_access {tid : Nat} {th : Thread} {ac : Access} (hac : ac ∈ th.out) (hport : ac.port.isSome = true) (hret : returnsData ac.op = true)
    (hw : isWrite ac.op = true) : { kind := 4, tid := tid, access := some ac, write := none, reply := none, acked := false } ∈ boundReplays tid th :=
  List.mem_append_left _ (List.mem_map.mpr ⟨ac, List.mem_filter.mpr ⟨hac, by simp [hport, hret, hw]⟩, rfl⟩)

theorem boundReplays_write {tid len : Nat} {th : Thread} (hwait : th.wait = some (.drain len)) {w : SysWrite} (hw : w ∈ th.unacked) :
    { kind := 5, tid := tid, access := none, write := some w, reply := none, acked := false } ∈ boundReplays tid th := by
  refine List.mem_append_right _ ?_
  rw [hwait]
  exact List.mem_map.mpr ⟨w, hw, rfl⟩

/-- A gang's teams at the drain bound. -/
def teamsBound (s : State) (ks : List Nat) : State := ks.foldl (fun s k => s.modTeam k boundTeam) s

theorem teamsBound_mem (ks : List Nat) (s : State) : (teamsBound s ks).mem = s.mem := by
  induction ks generalizing s with
  | nil => rfl
  | cons k ks ih => exact (ih _).trans (modTeam_mem ..)

/-- A team that the bound has met, perhaps again, is clear and has the entries that it had. -/
theorem teamsBound_again (ks : List Nat) {s : State} {k : Nat} {t : Team} (ht : s.team? k = some t) (hc : BoundClear t) :
    ∃ t1, (teamsBound s ks).team? k = some t1 ∧ (∀ r ∈ t.replays, r ∈ t1.replays) ∧ BoundClear t1 := by
  induction ks generalizing s t with
  | nil => exact ⟨t, ht, fun _ hr => hr, hc⟩
  | cons j ks ih =>
    by_cases hj : j = k
    · subst hj
      obtain ⟨t1, ht1, hreplays, hclear⟩ := ih (team?_modTeam_same ht boundTeam) (boundTeam_clear t)
      exact ⟨t1, ht1, fun r hr => hreplays r (boundTeam_replays t r hr), hclear⟩
    · exact ih ((team?_modTeam_other s boundTeam hj).trans ht) hc

theorem teamsBound_team {ks : List Nat} {s : State} {k : Nat} {t : Team} (hk : k ∈ ks) (ht : s.team? k = some t) :
    ∃ t1, (teamsBound s ks).team? k = some t1 ∧ (∀ r ∈ (boundTeam t).replays, r ∈ t1.replays) ∧ BoundClear t1 := by
  induction ks generalizing s with
  | nil => cases hk
  | cons j ks ih =>
    by_cases hj : j = k
    · subst hj
      exact teamsBound_again ks (team?_modTeam_same ht boundTeam) (boundTeam_clear t)
    · exact ih ((List.mem_cons.mp hk).resolve_left (Ne.symm hj)) ((team?_modTeam_other s boundTeam hj).trans ht)

theorem drainBoundExpiry_effect {s : State} {gk : Nat} {g : Gang} (hg : s.gang? gk = some g) (hb : boundPassed s g = true) :
    exec (.drainBoundExpiry gk) s = .next (endStopHalts (teamsBound s g.teams)) := by
  change execDrainBoundExpiry gk s = _
  simp only [execDrainBoundExpiry, hg, hb, Bool.not_true, Bool.false_eq_true, if_false]
  rfl

/-! ## Save and restore (R428 to R433) -/

/-- A gang's teams that are there, written back on their cores. -/
def teamsRestored (s : State) (g : Gang) (block cores : List Nat) : State :=
  ((g.teams.filter fun k => (s.team? k).isSome).zip cores).foldl (fun s x => restoreTeam s x.1 x.2) (installImages s g.vd block)

section
variable {s : State} {gk : Nat} {g : Gang} (hg : s.gang? gk = some g)
include hg

theorem contextSaveComplete_saves (hr : saveReady s g = true) : exec (.contextSaveComplete gk) s = .next (settleAll
    ((writeImage ((g.teams.foldl saveTeam (g.teams.foldl quiesceTeam (endHalts s fun h => g.teams.contains h.team))).modGang gk
      fun g => { g with stopAt := none, blocked := none }) gk).modGang gk fun g => { g with saved := true })) := by
  change execContextSaveComplete gk s = _
  simp only [execContextSaveComplete, hg, hr, Bool.not_true, Bool.false_eq_true, if_false]
  rfl

theorem gangRestore_ends (hr : restoreEnds s gk g = true) : exec (.gangRestore gk) s = .next (s.modGang gk fun g => { g with placed := true }) := by
  change execGangRestore gk s = _
  simp only [execGangRestore, hg, hr, if_true]
  rfl

theorem gangRestore_restores {block cores : List Nat} (hr : restoreEnds s gk g = false) (hp : restorePlace s g = some (block, cores)) :
    exec (.gangRestore gk) s = .next ((g.teams.filter fun k => (s.team? k).isSome).foldl replayTeam ((teamsRestored s g block cores).modGang gk fun x => { x with
      saved := false, stopAt := none, blocked := none, block := block.headD 0, image := none, placed := imagesReady (teamsRestored s g block cores) gk x.vd })) := by
  change execGangRestore gk s = _
  simp only [execGangRestore, hg, hr, hp, Bool.false_eq_true, if_false]
  rfl

theorem writeImage_writes {a : Nat} (ha : imagePlace s g.vd (gangImage g (g.teams.filterMap s.team?)).length = some a) :
    (writeImage s gk).mem = cellsPut s.mem a (gangImage g (g.teams.filterMap s.team?)) ∧
    ((writeImage s gk).gang? gk).map Gang.image = some (some (a, (gangImage g (g.teams.filterMap s.team?)).length)) ∧
    (writeImage s gk).teams = s.teams := by
  simp only [writeImage, hg, ha]
  refine ⟨trivial, ?_, modGang_teams ..⟩
  exact congrArg (Option.map Gang.image) (gang?_modGang hg _)

end

section
variable {s : State} {k : Nat} {t : Team} (ht : s.team? k = some t)
include ht

theorem replayTeam_eq : replayTeam s k = t.running.elim ((t.copies.map Prod.fst).foldl (fun s id => replayCopy s k id) s) fun r =>
    recallKeys ((t.copies.map Prod.fst).foldl (fun s id => replayCopy s k id) s)
      (bulkLines ((t.copies.map Prod.fst).foldl (fun s id => replayCopy s k id) s) t r) := by
  simp only [replayTeam, ht]

theorem saveTeam_saves : ∃ t1, (saveTeam s k).team? k = some t1 ∧ t1.resident = false ∧ t1.savedCt = ctOf s t.core ∧
    t1.savedWindow = cellsGet s.scratch (t.core * 2 ^ 19 + t.winBase) t.lrec.scratch ∧ t1.wdcnt = t.wdcnt ∧ t1.wdDue = t.wdDue ∧
    (saveTeam s k).mem = s.mem ∧ (saveTeam s k).scratch = s.scratch := by
  simp only [saveTeam, ht]
  exact ⟨_, team?_setTeam_same .., rfl, rfl, rfl, rfl, rfl, rfl, rfl⟩

end

theorem boundarySafe_noRecord {th : Thread} (h : th.safe = none) : boundarySafe th = none := by
  unfold boundarySafe
  rw [h]
  split
  · rfl
  · split <;> rfl

theorem safeSave_noRecord {th : Thread} (h : th.safe = none) : safeSave th = none := by
  rw [safeSave, boundarySafe_noRecord h, ite_self]

theorem restoreThread_noRecord {s : State} {alloc run tid : Nat} {th : Thread} (h : th.safe = none) :
    restoreThread s alloc run tid th = { th with slot := slotIn run tid, waitFrom := s.cycle, preempted := false } := by
  have hsafe : safeSave { th with slot := slotIn run tid, waitFrom := s.cycle, preempted := false } = none := safeSave_noRecord h
  rw [restoreThread, hsafe]
  rfl

section
variable (s : State) {alloc : Nat} (th : Thread) {l : LiveRec} {j : Nat}

theorem applyLive_v (hj : j < alloc) (hv : l.vmask.getLsbD (j / 8) = true) : vReg (applyLive s alloc th l).arch j = vReg th.arch j := by
  simp only [vReg, AMap.get, applyLive, find_map_range, if_pos hj, hv, if_true, Option.getD_some]

theorem applyLive_p (hp : l.pmask.getLsbD j = true) : (applyLive s alloc th l).arch.p.getLsbD j = th.arch.p.getLsbD j := by
  simp [applyLive, hp]

theorem applyLive_lc0 (h : l.lc0 = true) : (applyLive s alloc th l).arch.lc0 = th.arch.lc0 := if_pos h

theorem applyLive_lc1 (h : l.lc1 = true) : (applyLive s alloc th l).arch.lc1 = th.arch.lc1 := if_pos h

end

/-! ## System replies (R429) -/

section
variable {s : State} {k tid : Nat} {t : Team} {th : Thread} (ht : s.team? k = some t) (hth : s.thread? k tid = some th)
include ht hth

/-- The answer to a thread's oldest access, a system atomic, performs it. -/
theorem systemReplyArrival_performs {ac : Access} {rest : List Access} (hout : th.out = ac :: rest) (hport : ac.port.isSome = true)
    (hret : returnsData ac.op = true) (hw : isWrite ac.op = true) :
    exec (.systemReplyArrival (.thread k tid)) s = .next (performOldest s (.thread k tid)) := by
  have houtOf : outOf s (.thread k tid) = ac :: rest := (outOf_thread hth).trans hout
  change execSystemReplyArrival (.thread k tid) s = _
  simp only [execSystemReplyArrival, ht, performIf, houtOf, List.any_cons, hport, hret, hw, Bool.and_self, Bool.true_or, if_true]
  rfl

/-- The acknowledgment of a write that a replay entry holds. -/
theorem systemReplyArrival_acks {r : Replay} {w : SysWrite} (hout : th.out = []) (hr : t.replays = [r]) (hk : r.kind = 5) (htid : r.tid = tid)
    (hacked : r.acked = false) (ha : r.access = none) (hw : r.write = some w) :
    exec (.systemReplyArrival (.thread k tid)) s = .next (refreshImage (ackWrite s w) t.gang) := by
  have houtOf : outOf s (.thread k tid) = [] := (outOf_thread hth).trans hout
  change execSystemReplyArrival (.thread k tid) s = _
  simp [execSystemReplyArrival, ht, houtOf, hr, hk, htid, hacked, ha, hw, event]

end

/-- A team that awaits the acknowledgment of one replay entry's write. -/
def AwaitsOne (s : State) (k : Nat) (r : Replay) (w : SysWrite) : Prop :=
  ∃ t, s.team? k = some t ∧ t.replays = [{ r with write := some w }] ∧ r.acked = false

section
variable {s : State} {k : Nat} {r : Replay} {w : SysWrite}

theorem mapWrites_replays {f : SysWrite → Option SysWrite} (h : AwaitsOne s k r w) : ∃ t, (mapWrites s f).team? k = some t ∧
    t.replays = [(f w).elim { r with write := some w, acked := true } fun x => { r with write := some x }] := by
  obtain ⟨t, ht, hr, hacked⟩ := h
  refine ⟨_, AMap.find_map_some ht _, ?_⟩
  simp only [hr, hacked, List.map_cons, List.map_nil, Bool.false_eq_true, if_false]
  cases f w <;> rfl

/-- A change of writes that keeps them all moves the entry's write. -/
theorem mapWrites_moves {g : SysWrite → SysWrite} (h : AwaitsOne s k r w) : AwaitsOne (mapWrites s fun x => some (g x)) k r (g w) := by
  obtain ⟨t, ht, hr⟩ := mapWrites_replays (f := fun x => some (g x)) h
  obtain ⟨-, -, -, hacked⟩ := h
  exact ⟨t, ht, hr, hacked⟩

theorem seqLe_self (a : Nat) : seqLe a a = true := by
  simp [seqLe]

theorem arriveWrite_arrives (h : AwaitsOne s k r w) : AwaitsOne (arriveWrite s w) k r { w with arrived := true } := by
  unfold arriveWrite
  dsimp only
  convert mapWrites_moves h using 1
  simp [sameWay, seqLe_self]

/-- A write is not under itself: the newer write that stands over others leaves it. -/
theorem standsOver_keeps (h : AwaitsOne s k r { w with arrived := true }) : AwaitsOne (standsOver s w) k r { w with arrived := true } := by
  unfold standsOver
  dsimp only
  split
  · exact h
  · convert mapWrites_moves h using 1
    simp

theorem ackWrite_acks (h : AwaitsOne s k r w) : ∃ t, (ackWrite s w).team? k = some t ∧
    t.replays = [{ r with write := some { w with arrived := true }, acked := true }] := by
  obtain ⟨t, ht, hr⟩ := mapWrites_replays (f := fun x => if sameWay x w && x.seq == w.seq then none else some x) (standsOver_keeps (arriveWrite_arrives h))
  refine ⟨t, ?_, ?_⟩
  · rw [← ht, State.team?, State.team?, ackWrite, linkWorks_teams]
  · simpa [sameWay] using hr

theorem refreshImage_teams (s : State) (gk : Nat) : (refreshImage s gk).teams = s.teams := by
  unfold refreshImage
  split
  · rfl
  · dsimp only
    split
    · split <;> rfl
    · rfl

end

/-! ## Granules move between tiers (R425, R426) -/

section
variable {s : State} {g : Nat} {tier : Tier} (h : moveOk s g tier = true)
include h

theorem granuleMoveComplete_moves : ∃ u, exec (.granuleMoveComplete g tier) s = .next u ∧ u.mem = s.mem ∧ u.teams = s.teams ∧
    (g ∈ u.t0 ↔ tier = .t0) ∧ (g ∈ u.t2 ↔ tier = .t2) ∧ ∀ x, x ≠ g → ((x ∈ u.t0 ↔ x ∈ s.t0) ∧ (x ∈ u.t2 ↔ x ∈ s.t2)) := by
  change ∃ u, execGranuleMoveComplete g tier s = .next u ∧ _
  simp only [execGranuleMoveComplete, h, Bool.not_true, Bool.false_eq_true, if_false]
  cases tier with
  | t0 => exact ⟨_, rfl, rfl, rfl, by simp, by simp, fun x hx => by simp [hx]⟩
  | t1 => exact ⟨_, rfl, rfl, rfl, by simp, by simp, fun x hx => by simp [hx]⟩
  | t2 => exact ⟨_, rfl, rfl, rfl, by simp, by simp, fun x hx => by simp [hx]⟩

end

/-! ## The clauses together -/

/-- What the drain bound leaves of a team's system atomics and SYNCH writes: replay entries, and no wait. -/
theorem drainBoundExpiry_teams {s : State} {gk : Nat} {g : Gang} (hg : s.gang? gk = some g) (hb : boundPassed s g = true) :
    ∃ u, exec (.drainBoundExpiry gk) s = .next u ∧ u.mem = s.mem ∧ ∀ k ∈ g.teams, ∀ t, s.team? k = some t → ∃ t1, u.team? k = some t1 ∧
      (∀ r ∈ (boundTeam t).replays, r ∈ t1.replays) ∧ BoundClear t1 :=
  ⟨_, drainBoundExpiry_effect hg hb, teamsBound_mem g.teams s, fun _ hk _ ht => teamsBound_team hk ht⟩

/-- Settles O48, clause by clause in the order of the statement. -/
theorem preemptionEvents : Obligations.PreemptionEvents := by
  refine ⟨fun s k tid th hth hto => ⟨preemptStopTimeout_native hth hto, fun x => preemptStopTimeout_expansion hth hto⟩, fun s gk g hg hs ha hf => ?_,
    fun s gk g hg hb => ?_,
    fun s gk g hg => ⟨contextSaveComplete_saves hg, gangRestore_ends hg, fun block cores => gangRestore_restores hg⟩,
    fun s k t ht => ⟨fun hr => ?_, fun r hr => ?_, saveTeam_saves ht⟩, fun s gk g a hg => writeImage_writes hg, fun th => ⟨rfl, rfl, rfl, rfl⟩,
    fun s alloc run tid th => restoreThread_noRecord,
    fun s alloc th l => ⟨fun j => applyLive_v s th, fun j => applyLive_p s th, applyLive_lc0 s th, applyLive_lc1 s th, rfl, rfl⟩,
    fun s k tid t th ht hth => ⟨fun ac rest => systemReplyArrival_performs ht hth, fun hout r w hr hk htid hacked ha hw => ?_⟩,
    fun s g tier => granuleMoveComplete_moves⟩
  case refine_1 =>
    obtain ⟨hhalts, hgang, hmem⟩ := requestStop_frame hg hs ha hf
    exact ⟨hhalts, hgang, hmem, fun k tid th u => requestStop_stops hg hs ha hf⟩
  case refine_2 =>
    obtain ⟨u, hu, hmem, hteams⟩ := drainBoundExpiry_teams hg hb
    refine ⟨u, hu, hmem, fun k hk t ht => ?_⟩
    obtain ⟨t1, ht1, hreplays, hout, hwait⟩ := hteams k hk t ht
    exact ⟨t1, ht1,
      fun p hp ac hac hport hret hw => ⟨_, hreplays _ (mem_boundTeam_replays hp (boundReplays_access hac hport hret hw)), rfl, rfl, rfl, rfl⟩,
      fun p hp len hdrain w hw => ⟨_, hreplays _ (mem_boundTeam_replays hp (boundReplays_write hdrain hw)), rfl, rfl, rfl, rfl⟩, hout, hwait⟩
  case refine_3 => rw [replayTeam_eq ht, hr, Option.elim_none]
  case refine_4 => rw [replayTeam_eq ht, hr, Option.elim_some]
  case refine_5 =>
    obtain ⟨t1, ht1, hreplays⟩ := ackWrite_acks (s := s) ⟨t, ht, by rw [hr, ← hw], hacked⟩
    refine ⟨_, t1, systemReplyArrival_acks ht hth hout hr hk htid hacked ha hw, ?_, hreplays⟩
    rw [← ht1, State.team?, State.team?, refreshImage_teams]

end Sys2Proof.Machine
end
